-- ==== Sys2Proof/Word.lean ====
section
/-! DEFINITION. The word types of the KV64 and the shape of a sparse table. -/

namespace Sys2Proof

/-- A byte. -/
abbrev Byte := BitVec 8
/-- A 16-bit word. -/
abbrev W16 := BitVec 16
/-- A 32-bit word: a BAR0 register, an FP32 value. -/
abbrev W32 := BitVec 32
/-- A 64-bit word: a scalar register, a counter of the package. -/
abbrev W64 := BitVec 64
/-- A string of bytes, lowest address first (R10: little-endian). -/
abbrev Bytes := List Byte

/-- A sparse table: keys strictly rising, no entry equal to the table's default.
`Machine/Ops.lean` reads and writes it. -/
abbrev Tab (α : Type) := List (Nat × α)

end Sys2Proof
end

