-- ==== Sys2Proof/Syntax.lean ====
section
/-! DEFINITION. The commands of the block: one constructor of `Instr` per row of the table of operations
and events. Operands carry what the outside answers: the data of a DMA read, the value of an MMIO write, a
measured quantity (notes/assumptions/1.md). -/

namespace Sys2Proof

/-- What the host answers to a DMA read of the package: the bytes, or a refusal of its IOMMU at an address. -/
inductive HostAns where
  | data (b : Bytes)
  | refused (addr : W64)
deriving DecidableEq, Repr

/-- The host's answers to one descriptor fetch: the 64-byte descriptor, the argument block (R55) or the header
of a LOAD_SET's image (R192), and what step 7 reads (the image, the records of a STATE_IMPORT). -/
structure FetchAns where
  desc : HostAns
  arg : HostAns
  src : HostAns
deriving DecidableEq, Repr

/-- Errors of a line read, as (symbol position, bits flipped) over the 36 symbols of R281. -/
abbrev ErrPat := List (Nat × W16)

/-- A Floine flit of 64 bytes in one of the three classes (0 FL0, 1 FL1, 2 FL2; R340), with the package it is
for (PAIR and PACKAGE, 16 bits). -/
structure Flit where
  cls : Nat
  dst : Nat
  data : Bytes
deriving DecidableEq, Repr

/-- A frame of 1,536 bytes (R338) as it is received. `fec` gives for each of its codewords the symbols that arrived wrong,
as position and difference (R337); `dsts` the package that each flit of an occupied slot is for, in slot order, as the
spec gives no format of a flit. -/
structure FrameIn where
  image : List Byte
  fec : List (List (Nat × BitVec 10))
  dsts : List Nat
deriving DecidableEq, Repr

/-- Control messages between Crowns (R343), by what they carry. `via` of the messages of a join is 0, or 1 and the port by
which the member that relays them reaches the package that joins (R347); `delay` of a mark is that of the hops behind it
(R353); `tree` names the ports of a member towards its children in the spanning tree. -/
inductive Ctl where
  | joinRequest (want : Nat) (demand : Bool) (pair : Bool) (domId : W64) (proof : W64) (nonce : W64) (via : Nat)
  | joinGrant (number : Nat) (count : W64) (period : W16) (keeper via : Nat)
  | joinRefuse (via : Nat)
  | challenge (nonce : W64) (via : Nat)
  | neighbour (pkg : Nat)
  | tree (ports : List Nat)
  | link (port peerPkg peerPort : Nat) (up : Bool)
  | roster (l : List Nat)
  | route (dst : Nat) (port : Option Nat)
  | beadMark (count : W64) (period : W16) (delay : Nat)
  | timeMark (t delay : Nat)
  | subscribe (slot : Nat) (seq : Nat) (once : Bool) (cmd : Nat)
  | report (cmd : Nat) (answer : Nat)
  | withdraw (cmd : Nat)
  | digest (first count pos : Nat) (d : W64)
  | cancelRead (core : Nat) (gen : W32)
  | refusal (gen : W32)
  | departure (pkg : Nat)
  | claim (number : Nat)
  | probe
  | bootFetch
  | reset (proof : W64)
deriving DecidableEq, Repr

/-- What port training found (R339, R365). -/
structure TrainAns where
  locked : Bool
  rttNs : Nat
  peerPort : Nat
  peerPair : Bool
  peerPkg : Nat
deriving DecidableEq, Repr

/-- The flip of a base die's slots (R65): the dispatch generation and, where the publication is still to be made, the first
host address whose write the IOMMU refuses. -/
structure FlipAns where
  gen : W32
  refused : Option W64 := none
deriving DecidableEq, Repr

/-- An invalidation at one TLB (R306); with `move` firmware begins with it the move of the page at an address of a partition
into a pile. -/
structure InvalAns where
  tlb : Nat
  move : Option (Nat × Nat × Nat) := none
deriving DecidableEq, Repr

/-- What a message for an inbox carries (R359): the sender's dispatch generation and the data. -/
structure InboxMsg where
  gen : W32
  data : Bytes
deriving DecidableEq, Repr

/-- The straps as the board ties them (R420). -/
structure Straps where
  bootsel : BitVec 3
  clksel : BitVec 2
  stmand : Bool
deriving DecidableEq, Repr

/-- What a step of the release sequence finds: the outcome of logic self-test (R425, R426), whether the reference
and every PLL came up in time (R421), and whether the fuses pass (R398); `lanes` lists by core the vector lanes that the
march test adds to the repair map (R426). -/
structure SelfTest where
  pllOk : Bool
  fusesOk : Bool
  refOk : Bool
  supplyOk : Bool
  crownOk : Bool
  nightcapOk : Bool
  ringsOk : Bool
  cmpFail : List Nat
  pileFail : List Nat
  linkFail : List Nat
  lanes : List (Nat × Nat)
  ms : Nat
deriving DecidableEq, Repr

/-- What the serial flash port meets (R400): nothing, or a device with its SFDP tables and its contents from address 0;
`fails` says that a read of the contents fails. -/
inductive ImgAns where
  | absent
  | device (sfdp : Bytes) (fails : Bool) (mem : Bytes)
deriving DecidableEq, Repr

/-- A command of the block. -/
inductive Instr where
  -- the BAR0 registers and the bead (01, 14)
  | registerWrite (off width : Nat) (v : W64)
  | beadCountLoRead
  | beadCtrlWrite (v : W32)
  | beadBoundary (lost : Bool)
  | runHeld (id : Nat)
  | beadRefFallback
  -- doorbells, fetch, placement (02, 12)
  | sqTailWrite (c ring : Nat) (v : W32)
  | cqHeadWrite (c ring : Nat) (v : W32)
  | cancelWrite (c ring : Nat) (v : W32)
  | dbCtrlStop (c : Nat) (v : W32)
  | dbCtrlResume (c : Nat) (v : W32)
  | doorbellUnmappedWrite (c off width : Nat) (v : W64)
  | descriptorFetch (a : FetchAns)
  | ringFault (c ring : Nat) (addr : W64)
  | placeCommand (part : Nat)
  -- the commands of a descriptor (02)
  | run (id : Nat)
  | loadSet (id : Nat) (img : HostAns)
  | evictSet (id : Nat)
  | stateInit (id : Nat)
  | stateExport (id : Nat)
  | stateImport (id : Nat) (recs : HostAns)
  | streamOpen (id : Nat)
  | streamClose (id : Nat)
  | copy (id : Nat) (src : HostAns)
  | fence (id : Nat)
  | waitRemote (id : Nat)
  | audioBind (id : Nat)
  | remoteTokenTimeout (id : Nat)
  -- kill, commit, slots (02, 11)
  | killDeliver (core : Nat)
  | killQuiescent (id : Nat)
  | commitStep (id : Nat) (refused : Option W64)
  | slotFlip (pile : Nat) (gen : FlipAns)
  | slotDiscard (pile : Nat) (gen : W32)
  -- messages on the mesh (01, 10)
  | remoteSendArrive (src seq dst : Nat) (gen : W32) (data : Bytes)
  | sendRefused (gen : W32)
  | mc0BroadcastArrive (core part : Nat) (gen : W32)
  | messageArrive (dst src : Nat)
  | creditRequestArrive (dst src : Nat)
  | grantArrive (core src : Nat)
  | haloReleaseArrive (core src : Nat)
  | tokenDone (core engine : Nat)
  -- the instruction set of the cores (06): each names the core whose sequencer issues it
  | opNop (core : Nat)
  | opEnd (core : Nat)
  | opWait (core : Nat)
  | opReckon (core : Nat)
  | gangBarrierRelease (id : Nat)
  | opJal (core : Nat)
  | opJr (core : Nat)
  | opBeq (core : Nat)
  | opBne (core : Nat)
  | opBlt (core : Nat)
  | opBge (core : Nat)
  | opBltu (core : Nat)
  | opBgeu (core : Nat)
  | opLoop (core : Nat)
  | opAdd (core : Nat)
  | opSub (core : Nat)
  | opMul (core : Nat)
  | opAnd (core : Nat)
  | opOr (core : Nat)
  | opXor (core : Nat)
  | opShl (core : Nat)
  | opShr (core : Nat)
  | opSar (core : Nat)
  | opSlt (core : Nat)
  | opSltu (core : Nat)
  | opMin (core : Nat)
  | opMax (core : Nat)
  | opLih (core : Nat)
  | opDivu (core : Nat)
  | opRemu (core : Nat)
  | opAadd (core : Nat)
  | opAmov (core : Nat)
  | opArd (core : Nat)
  | opLd64 (core : Nat)
  | opSt64 (core : Nat)
  | opLd32 (core : Nat)
  | opSt32 (core : Nat)
  | opSrd (core : Nat)
  | opSwc (core : Nat)
  | opCbld (core : Nat)
  | opTlb (core : Nat)
  | opTld (core : Nat)
  | opTswp (core : Nat)
  | opMrow (core : Nat)
  | opVop (core : Nat)
  | opVfn (core : Nat)
  | opVred (core : Nat)
  | opVcvt (core : Nat)
  | opVrnd (core : Nat)
  | opVcor (core : Nat)
  | opVdw (core : Nat)
  | opCarry (core : Nat)
  | opSample (core : Nat)
  | opSqgo (core : Nat)
  | queueSetup (core q : Nat)
  | transferIssue (core : Nat)
  | transferComplete (core xid : Nat) (data : Bytes)
  | regulatorRefill (core q : Nat)
  | ageLimitExceeded (core q : Nat)
  | opThim (core : Nat)
  | thimbleIssue (core : Nat)
  | gatherIndexStream (core arming : Nat)
  | gatherGrant (core arming : Nat)
  | opSend (core : Nat)
  | opHaloSend (core : Nat)
  | opRemoteReadRequest (core : Nat)
  | opRecv (core : Nat)
  | opHaloRecv (core : Nat)
  | opReplyRecv (core : Nat)
  | opRkey (core : Nat)
  | opSiteput (core : Nat)
  | runLimitExpiry (id : Nat)
  | creditDeadlock (id : Nat)
  | transferFault (core xid : Nat) (refused : Option W64)
  -- core health (05, 12)
  | coreScrub (core mem word kind : Nat)
  | coreFault (core kind : Nat) (addr : W64)
  | coreRestore (core : Nat) (pass : Bool)
  | rankRelocate (part : Nat) (handle : W32) (rank : Nat)
  | setLost (part : Nat) (handle : W32)
  -- piles, swap, translation (11)
  | pileRead (core xid : Nat) (e1 e2 : ErrPat)
  | pileWrite (core xid : Nat) (e1 e2 : ErrPat)
  | patrolScrub (pile : Nat) (upset e1 e2 : ErrPat)
  | pileRefresh (pile channel : Nat)
  | directoryEccError (pile : Nat) (streams : List Nat) (copyBad : Bool)
  | swapOut (stream : Nat) (refused : Bool)
  | swapIn (stream : Nat) (img : HostAns)
  | stateMove (stream pile : Nat)
  | homeTableUpdate (core : Nat)
  | tlbWalk (tlb part : Nat) (dva : W64)
  | tlbInvalidate (tlb : InvalAns)
  | faultResolve (id : Nat)
  | cxlmemRead (off : Nat)
  | cxlmemWrite (off : Nat) (data : Bytes)
  | memwinCtrlWrite (v : W32)
  | memwinBaseWrite (hi : Bool) (v : W32)
  -- partitions and slices (12)
  | partDiesWrite (n : Nat) (hi : Bool) (v : W32)
  | partCtrlWrite (n : Nat) (v : W32)
  | partQuotaWrite (n : Nat) (v : W32)
  | clientSchedWrite (c : Nat) (v : W32)
  | sliceEnd (part : Nat)
  | sliceOverrunCharge (part : Nat)
  -- Floine links and domains (13)
  | frameSend (p : Nat)
  | frameReceive (p : Nat) (f : FrameIn)
  | frameReplay (p : Nat)
  | portCtrlWrite (p : Nat) (v : W32)
  | portTraining (p : Nat) (a : TrainAns)
  | portDown (p cause : Nat)
  | eqAdapt (p : Nat) (req : List W16)
  | marginMeasure (p mv : Nat)
  | linkDelayMeasure (p : Nat)
  | controlMessageArrive (src seq : Nat) (ack : Bool) (m : Ctl)
  | controlResend (seq : Nat)
  | ackTimeout (seq : Nat)
  | routeUpdate
  | joinRequest (src : Nat)
  | joinComplete
  | domainFound
  | memberGone
  | packageNumberFree (pkg : Nat)
  | keeperClaim (heard : Option Nat)
  | keeperElect
  | domainSplit (port otherKeeper : Nat)
  | timeMark
  | beadMark
  | beadAlignLost
  | remoteReadServe (src gen index offset bytes : Nat)
  | remoteReadReply (core : Nat) (gen : W32) (data : Bytes)
  | remoteReadRetry (core : Nat)
  | remoteReadTimeout (core : Nat)
  | inboxMessage (src seq dst : Nat) (data : InboxMsg)
  | subscription
  | subscriptionReply
  | subscriptionRetry (id : Nat)
  | announceWrite (slot : Nat) (v : W32)
  | mirrorWrite (w : Nat) (v : W32)
  | digestCompute (id : Nat)
  | twinDigestArrive
  | twinWaitTimeout (id : Nat)
  -- host attachment and mailboxes (14)
  | hostLinkTrain (m01 m23 : Bool)
  | mailboxDataWrite (m w : Nat) (v : W32)
  | mailboxSend (m : Nat) (v : W32)
  | mailboxTake (m : Nat)
  | mailboxReply (m : Nat)
  | mailboxClear (m : Nat) (v : W32)
  | clientRegister (m : Nat)
  | clientUnregister (m : Nat)
  | ringSet (m : Nat)
  | stop (m : Nat)
  | resume (m : Nat)
  | map (m : Nat)
  | unmap (m : Nat)
  | back (m : Nat)
  | swapArea (m : Nat)
  | exportSet (m : Nat)
  | streamRead (m : Nat)
  | streamPlace (m : Nat)
  | domainSet (m : Nat)
  | domainJoin (m : Nat)
  | domainLeave (m : Nat)
  -- boot, identity, debug (16, 20)
  | attest (m : Nat)
  | reportSign (refused : Bool)
  | identityRead (m : Nat) (refused : Bool)
  | rollbackAdvance (m : Nat)
  | ownerProvision (m : Nat) (blk : HostAns)
  | bootChunk (m : Nat)
  | bootGo (m : Nat)
  | flashRead (a : ImgAns)
  | bootFetch
  | bootMediumSwitch
  | bootPeerTimeout
  | lmsTreeReady
  | firmwareReady
  | mctpAttest (nonce : Bytes)
  | mctpIdentity
  | mctpTelemetryRead (off len : Nat)
  | mctpMonitorRead
  | setdasa (addr : BitVec 7)
  | idcode
  | samplePreload (bsr : Bytes)
  | extest
  | resetPkg
  | forceRel (block : Byte)
  | eotasDebugAccess (code : Byte)
  | bypass (code : Byte)
  | tapReset
  -- reset (17)
  | por (vaonGood pwrok : Bool) (straps : Straps)
  | pinReset
  | hostReset (linkLoss : Bool)
  | fwRestart
  | wdogExpiry
  | thermReset
  | supplyReset
  | linkReset
  | resetReleaseStep (t : SelfTest)
  | refRecoveryTimeout
  | clockGoodChange (block : Byte) (good : Bool)
  | seqBreach (bits : BitVec 6)
  -- power, clocks, monitor (18)
  | s1Entry
  | s2Entry
  | s1Exit
  | s2Wake
  | linkPairOff (pair : Nat)
  | refLost
  | avsReadback (g mv amps : Nat)
  | avsFault (g kind : Nat)
  | avsFaultClear (g : Nat) (v : W32)
  | droopTrip (die : Nat)
  | droopRecover (die : Nat)
  | governorTick (need : List Nat) (tempHot tempCool : List Bool) (capCurrent capPower capAvs : List Nat)
  | monitorTick (samples : List (Nat × W32))
  | ruleActivate (r : Nat)
  | ruleDeactivate (r : Nat)
  -- health and the fault tally (19)
  | ageDay
  | wearMeasure (d : List (Nat × List (Nat × Nat)))
  | tallyReport (reporter : W32) (subject : W32) (cls : Nat) (d0 d1 : W64)
  | tallyRecordClose (slot : Nat)
  | tallyIrqGapEnd
  | tallyAck (v : W32)
  | telemetryCopy
  -- audio (15)
  | audPortStart (p : Nat) (v : W32) (mclkMhz : Nat)
  | audPortStop (p : Nat) (v : W32)
  | audMaskWrite (p : Nat) (v : W32) (width : Nat)
  | audFrame (p : Nat) (din : List W32)
  | audResync (p : Nat) (mid : Bool) (din : List W32)
  | audRateUpdate (p : Nat) (up : Bool)
  | audClockLost (p : Nat)
  | wordClockReturn
  | flowPulse (f : Nat)
  | imageWindowWrite (off : Nat) (data : Bytes)
  | accountingLoRead (c k : Nat)
  | peerImageArrive (b : Bytes)
  | twinDigestDiscard
deriving DecidableEq, Repr

end Sys2Proof
end

