-- ==== Sys2Proof/Config.lean ====
section
/-! DEFINITION. What an implementation fixes and what the spec leaves open: constants and functions without a
body, so that nothing proved of the model can rest on their values (notes/assumptions/7.md to 13.md). -/

namespace Sys2Proof

/-- A byte the spec leaves undefined, by the model's counter `State.free` (or a scratch tag) and an offset. -/
opaque Config.freeByte : Nat → Nat → Byte
/-- A 32-bit value the spec leaves undefined, by the counter. -/
opaque Config.freeW32 : Nat → W32
/-- A natural number an implementation chooses, by the counter: a page firmware picks, an entry it replaces. -/
opaque Config.freeNat : Nat → Nat

/-- The page of a dispatch's stream view in device virtual space (R167), by its generation. -/
opaque Config.viewPage : Nat → Nat
/-- The per-boot key of the package (R299, R362), by the number of boots. -/
opaque Config.bootKey : Nat → BitVec 128

/-- What the security engine makes of its secrets where R408 and R409 leave it to keys nobody can read or to a
random choice: public keys, signatures and identifiers, by their kind and what they depend on. -/
opaque Config.secret : Nat → List Byte → List Byte

/-- The element-wise functions 3 to 13 of R181 where the spec bounds the result without fixing it (the model
takes this value where it is within the bound), by function number and argument. -/
opaque Config.elemFn : Nat → W32 → W32

/-- Where a line lies in a pile's DRAM, which R287 leaves inside the base die, by channel and channel line (R280): bank,
row and column group. -/
opaque Config.dramBank : Nat → Nat → Nat
opaque Config.dramRow : Nat → Nat → Nat
opaque Config.dramCol : Nat → Nat → Nat
/-- The set of a TLB of 4,096 entries that holds a page, by partition and address (R305). -/
opaque Config.tlbSet : Nat → Nat → Nat

/-- Values fused at manufacture, by health entry (R461): the measurement uncertainty u in ppm, the voltage need V36 of a
compute die in mV, and D_EOL in ppm of any other die. -/
opaque Config.fuseU : Nat → Nat
opaque Config.fuseV36 : Nat → Nat
opaque Config.fuseEol : Nat → Nat

end Sys2Proof
end

