-- ==== Sys2Proof/Machine/State.lean ====
section
/-! DEFINITION. The state of the KV64 as plain data, the reasons a step can stop, and the state after
power-on reset. INVENTORY.md names the rule and the reset value of every field. -/

namespace Sys2Proof.Machine

open Sys2Proof

/-- Why the machine stops with a fault. Every fault here is safe: the machine stops where the spec says
the addressed thing does not exist. -/
inductive Fault where
  /-- A base die is asked for a pile address that R279 says is unpopulated or of a fenced pile. Raised by
  `execPileRead` and `execPileWrite`; safe. -/
  | noSuchLine (pa : Nat)
deriving DecidableEq, Repr

/-- Why the machine refuses a command. Safe: nothing is claimed of what would follow. -/
inductive Refusal where
  /-- The command has no meaning yet; the dispatch names it. Safe. -/
  | notModelled (mnemonic : String)
deriving DecidableEq, Repr

/-! ## What the outside observes -/

/-- One DMA write of the package: the PASID (none for a host physical address), the address and the bytes.
`open_` marks a host output buffer that R66 or R291 leaves partly written. -/
structure DmaWrite where
  pasid : Option Nat := none
  addr : Nat := 0
  data : Bytes := []
  open_ : Bool := false
deriving DecidableEq, Repr

/-- One DMA read the package asks of the host (R45, R369): the PASID (none for a host physical address), the address
and the number of bytes. -/
structure DmaRead where
  pasid : Option Nat := none
  addr : Nat := 0
  bytes : Nat := 0
deriving DecidableEq, Repr

/-- What leaves the package on a wire other than the host link. What the package says to another one is listed by what it
says as it enters Floine, and its flits as they leave in a frame; `via` is the link die that a core's flit enters (R346).
`flash` is a read of the flash from address 0: 1-4-4 or 1-1-4, with 4 address bytes or 3 (R400).
`audio` is one slot as it leaves a port: for each bit clock the level of AUD_FSp, where the port drives it, and of AUD_DOp;
`audioLow` says that AUD_DOp is driven 0 and, of a master, AUD_BCLKp and AUD_FSp too (R392). -/
inductive Wire where
  | frame (port : Nat) (image : Bytes)
  | ctl (dst seq : Nat) (m : Ctl)
  | ctlAck (dst seq : Nat)
  | message (dst seq : Nat) (data : Bytes)
  | readRequest (dst : Nat) (core via : Nat) (gen : W32) (request : Bytes)
  | readReply (dst core : Nat) (gen : W32) (data : Bytes)
  | mctp (status : Option Byte) (data : Bytes)
  | tdo (bits : W32)
  | audio (port slot : Nat) (bits : List (Option Bool × Bool))
  | audioLow (port : Nat) (clocks : Bool)
  | image (dst : Nat) (data : Bytes)
  | flash (quadAddr addr4 : Bool) (bytes : Nat)
deriving DecidableEq, Repr

/-- An error message of the PCIe function to the host (R375). -/
inductive ErrMsg where
  | cor | fatal
deriving DecidableEq, Repr

/-- What the package has shown to the outside, and the PCIe function's error reporting (R375): `rdata` is what the last MMIO
read gave, `line` what the last CXL.mem read gave; `aerFatal` is the severity of Completer Abort, `corEn` the enable of
correctable error reporting, `aerLog` the BAR0 offset in the logged header, `errs` the error messages sent. -/
structure Io where
  rdata : W64 := 0
  line : Bytes := []
  dma : List DmaWrite := []
  reads : List DmaRead := []
  msix : List Nat := []
  wire : List Wire := []
  aerAbort : Bool := false
  aerAdvisory : Bool := false
  aerFatal : Bool := false
  corEn : Bool := false
  aerLog : Option Nat := none
  errs : List ErrMsg := []
  msixTable : Tab W32 := []
deriving DecidableEq, Repr

/-! ## The bead (01) -/

/-- The bead generator (R37 to R42). `edge` is the time of the last boundary, `samples` the sample periods of a clocked
reference counted in this bead, `from3` the time in thirds of a nanosecond from which the internal reference or the
domain bead times the samples that remain. -/
structure Bead where
  en : Bool := false
  refsel : BitVec 3 := 0
  period : W16 := 480
  curPeriod : W16 := 480
  activeRef : BitVec 3 := 0
  pendingWr : Bool := false
  fallback : Bool := false
  badWrite : Bool := false
  count : W64 := 0
  hiLatch : W32 := 0
  edge : Nat := 0
  samples : Nat := 0
  from3 : Nat := 0
deriving DecidableEq, Repr

/-! ## Clients and rings (02, 12, 14) -/

/-- A ring pair SQn, CQn. `cover` holds ranges of sequence numbers that a cancel or stop has covered
(R78, R79), as first number and length; `done` those from `fetched` on that a stopped client's cancel has already
completed. -/
structure Ring where
  en : Bool := false
  log2 : Nat := 0
  sqBase : W64 := 0
  cqBase : W64 := 0
  pasid : BitVec 20 := 0
  vector : Nat := 0
  tail : W32 := 0
  head : W32 := 0
  fetched : W32 := 0
  written : W32 := 0
  fault : Bool := false
  cover : List (W32 × Nat) := []
  done : List W32 := []
deriving DecidableEq, Repr

/-- The accounting block of a client (R333). -/
structure Acct where
  queueNs : W64 := 0
  preemptions : W64 := 0
  retired : W64 := 0
  reruns : W64 := 0
  overruns : W64 := 0
  slipBeads : W64 := 0
  chargedNs : W64 := 0
  debtNs : W64 := 0
  latch : W32 := 0
deriving DecidableEq, Repr

/-- A client and its doorbell page. `weight` is its WEIGHT as its last slice took it (R316). -/
structure Client where
  reg : Bool := false
  stopped : Bool := false
  stopping : Bool := false
  part : Nat := 0
  badTail : BitVec 4 := 0
  badHead : BitVec 4 := 0
  faultSt : BitVec 4 := 0
  ringPos : Nat := 0
  weight : Nat := 1
  rings : Tab Ring := []
  acct : Acct := {}
deriving DecidableEq, Repr

/-- CRN_CLIENT_SCHEDc (R316). -/
structure Sched where
  weight : Nat := 1
  slice : Nat := 100
  part : Nat := 0
deriving DecidableEq, Repr

/-! ## Weight sets (04, 06, 07) -/

/-- A program entry (R191). -/
structure Prog where
  entry : Nat := 0
  layout : Nat := 0xFFFF
  scrSpan : Nat := 0
  outPerStep : Nat := 0
  argBytes : Nat := 0
  maxStreams : Nat := 0
  runLimit : Nat := 0
deriving DecidableEq, Repr

/-- A site table entry (R114). -/
structure Site where
  esc : Bool := false
  asym : Bool := false
  w : Nat := 1
  headroom : Nat := 0
  s2 : W32 := 0
  satThr : Nat := 0
deriving DecidableEq, Repr

/-- A state layout entry (R194). -/
structure Layout where
  ring : Bool := false
  fmt : Nat := 0
  ndim : Nat := 1
  dims : List Nat := []
  entries : Nat := 1
  initConst : Bool := false
  init : W32 := 0
  last : Bool := false
deriving DecidableEq, Repr

/-- A segment entry (R191). -/
structure Seg where
  type : Nat := 0
  first : Nat := 0
  last : Nat := 0
  dest : Nat := 0
  src : Nat := 0
  length : Nat := 0
deriving DecidableEq, Repr

/-- A loaded set: for each rank its core and the bases of its resident and code windows (R193, R322).
`lost` lists the ranks whose core is out of service, with the time of the fault (R328). -/
structure WSet where
  part : Nat := 0
  handle : W32 := 0
  cores : List Nat := []
  resBase : List Nat := []
  codeBase : List Nat := []
  resSpan : Nat := 0
  codeSpan : Nat := 0
  progs : List Prog := []
  sites : List Site := []
  layouts : List Layout := []
  segs : List Seg := []
  image : Bytes := []
  lost : List (Nat × Nat) := []
deriving DecidableEq, Repr

/-! ## Commands (02) -/

/-- The descriptor of 64 bytes. -/
structure Desc where
  opcode : Byte := 0
  flags : W16 := 0
  tag : Byte := 0
  first : W16 := 0
  count : W16 := 0
  bead : W64 := 0
  set : W32 := 0
  prog : W16 := 0
  rsv : W16 := 0
  arg : W64 := 0
  out : W64 := 0
  lenA : W32 := 0
  lenB : W16 := 0
  lenC : W16 := 0
  token : W64 := 0
  cookie : W64 := 0
deriving DecidableEq, Repr

/-- The stages of a fetched command (table *Stages of a command*); a placed command is dispatched in the
same step. `waiting` holds a mirrored command past its commit point until its twin's digest decides (R363). -/
inductive Stage where
  | queued | running | killing | waiting | committing
deriving DecidableEq, Repr

/-- How a killed command goes on (table *Causes of a kill*). -/
inductive KillKind where
  /-- back to the queue, uncounted -/
  | rerun
  /-- back to the queue, counted towards the limit of R71 -/
  | counted
  /-- back to the queue, uncounted, until the stop that the firmware was asked for takes effect (R81, R378) -/
  | stop
  /-- ends with a status and an address -/
  | ends (status : Nat) (addr : Nat)
deriving DecidableEq, Repr

/-- A kill in progress: how it ends, the cores it has not reached, and the time it was issued. -/
structure Kill where
  kind : KillKind
  cores : List Nat := []
  piles : List Nat := []
  at_ : Nat := 0
  slice : Bool := false
deriving DecidableEq, Repr

/-- A remote dependency (R52, R360); `own` says that it names this package. -/
structure Dep where
  pkg : Nat
  own : Bool := false
  slot : Nat
  seq : Nat
  timeout : Nat
  met : Bool := false
  busyAt : Option Nat := none
deriving DecidableEq, Repr

/-- A staging page (R62, R307): the target page's device address, its size and its own physical address. -/
structure StagePage where
  dva : Nat
  size : Nat
  pa : Nat
deriving DecidableEq, Repr

/-- A message held until commit (R62): where it goes and what it carries. -/
structure Held where
  dst : Nat
  data : Bytes
deriving DecidableEq, Repr

/-- A site report (R190) as delivered by a rank for a stream of the group and a site. -/
structure SiteReport where
  idx : Nat
  site : Nat
  rank : Nat
  maxAbs : W32
  max : W32
  min : W32
  sat : Nat
deriving DecidableEq, Repr

/-- One write since the last flip of an entry's non-current slot, under the writer's generation (R295). -/
structure EntryWrite where
  entry : Nat
  gen : W32
deriving DecidableEq, Repr

/-- A state object: its shape (R194) and its place in the home pile (R292, R295). `cur` lists the entries
whose current slot is 1. -/
structure Obj where
  ring : Bool := false
  fmt : Nat := 0
  ndim : Nat := 1
  dims : List Nat := []
  entries : Nat := 1
  base : Nat := 0
  espan : Nat := 0
  bytes : Nat := 0
  cur : List Nat := []
  wr : List EntryWrite := []
deriving DecidableEq, Repr

/-- New state objects of one stream, reserved at validation (R297). -/
structure NewState where
  stream : Nat
  pile : Nat
  objs : List Obj
  position : Nat := 0
  rstep : W64 := 0
  seed : Option (BitVec 256) := none
deriving DecidableEq, Repr

/-- One entry of the binding table (R385). -/
structure BindReq where
  en : Bool
  port : Nat
  slot : Nat
  chans : Nat
  fmt : Nat
  aoff : Nat
  frames : Nat
  prefill : Nat
deriving DecidableEq, Repr

/-- A fetched, unretired command. `pages` are its staging pages (for host output one piece whose `dva` is the
host address), `copied` those a write has reached (of host output the 4 KiB pieces), `wrote` the ranges of
host output that the run has written (first address, bytes). Once the commit engine has accepted the command, `pub`
holds what its publication came to; `sent` says that steps 2 and 3 of its commit are done (R65). `counted` says
whether the next dispatch is a counted re-run, `heldAt` the RUN's place among the held ones (R325), `sliced` that a slice end
killed it (R331), `lost` whether its completion entry is lost (R50). -/
structure Cmd where
  id : Nat := 0
  client : Nat := 0
  ring : Nat := 0
  seq : W32 := 0
  pasid : BitVec 20 := 0
  part : Nat := 0
  desc : Desc := {}
  arg : Bytes := []
  stage : Stage := .queued
  gen : W32 := 0
  gang : List Nat := []
  started : Bool := false
  reruns : Nat := 0
  dispatches : Nat := 0
  firstBead : W64 := 0
  dispBead : W64 := 0
  effBead : W64 := 0
  late : Bool := false
  valBead : W64 := 0
  waitFrom : Nat := 0
  queueNs : Nat := 0
  waitBeads : Nat := 0
  allowed : Bool := false
  heldAt : Option Nat := none
  sliced : Bool := false
  kill : Option Kill := none
  dep : Option Dep := none
  counted : Bool := false
  lost : Bool := false
  pages : List StagePage := []
  copied : List Nat := []
  wrote : List (Nat × Nat) := []
  held : List Held := []
  reports : List SiteReport := []
  news : List NewState := []
  newSet : Option WSet := none
  binds : List BindReq := []
  lastUe : Option (Nat × Nat) := none
  faultAt : Option Nat := none
  digest : Option W64 := none
  digestDone : Bool := false
  digestUe : Option Nat := none
  diverged : Bool := false
  pub : Option (Option (Nat × Nat)) := none
  sent : Bool := false
  sendRefused : Bool := false
  twinFrom : Option Nat := none
deriving DecidableEq, Repr

/-! ## Streams (12) -/

/-- One history entry (R115). -/
structure HistEnt where
  maxAbs : W32
  max : W32
  min : W32
deriving DecidableEq, Repr

/-- A stream context (R320). `home` uses the codes of HOME: 0 to 15, 0x1E swapped, 0x1F no objects.
`move` is a swap-out (none) or a move (some pile) requested by firmware (R298), `swapAt` the host address of the
swap image, `lastSet` the set of the last RUN (R324); `was` is the home pile and the objects before a move whose broadcast
is under way (R301). -/
structure Stream where
  isOpen : Bool := false
  client : Nat := 0
  part : Nat := 0
  defaultSet : W32 := 0
  seed : BitVec 256 := 0
  rstep : W64 := 0
  position : Nat := 0
  lastBead : W64 := 0
  slip : Nat := 0
  slipCount : Nat := 0
  home : Nat := 0x1F
  damaged : Bool := false
  objs : List Obj := []
  hist : Tab (List HistEnt) := []
  satcount : Tab Nat := []
  move : Option (Option Nat) := none
  was : Option (Nat × List Obj) := none
  swapAt : Nat := 0
  lastSet : W32 := 0
deriving DecidableEq, Repr

/-! ## Cores (05, 06, 08, 10, 13) -/

/-- A message in a receive buffer: the sender's rank (none for an inbox message, R359), its core, and its
bytes; a halo message has its SIDE and tag (R232), a reply is a remote-read reply (R357). -/
structure Msg where
  rank : Option Nat := none
  halo : Option (Bool × Nat) := none
  reply : Bool := false
  fromInbox : Bool := false
  data : Bytes := []
deriving DecidableEq, Repr

/-- A SEND waiting in the message unit's send queue (R250, R271): the local core number or, for a remote read,
the global address it is for, with the bytes asked and the request (R356). -/
structure SendEnt where
  token : Nat
  dst : Nat
  addr : Nat
  flits : Nat
  halo : Option (Bool × Nat) := none
  asked : Bool := false
  granted : Bool := false
  read : Option (Nat × Bytes) := none
deriving DecidableEq, Repr

/-- A RECV waiting in the receive queue: what it matches and where it copies to (R188, R233). -/
structure RecvEnt where
  token : Nat
  addr : Nat
  flits : Nat
  rank : Option Nat := none
  halo : Option Bool := none
  reply : Bool := false
deriving DecidableEq, Repr

/-- A remote read in flight (R356, R358): bytes asked, request, time, whether it has been retried. -/
structure RemoteRead where
  bytes : Nat
  request : Bytes
  dst : Nat
  at_ : Nat
  retried : Bool := false
deriving DecidableEq, Repr

/-- An arming of a stream descriptor (R250 to R260), with its own copy of the descriptor; a KIND 1 arming
sets the queue up. `row` and `off` are the next transfer to issue; `gather` marks an offloaded arming whose
index stream has been sent (R302). -/
structure Arming where
  aid : Nat
  addr : Nat
  token : Nat
  setup : Option (Nat × Nat × Nat × Nat) := none
  mesh : W64 := 0
  loc : Nat := 0
  lstride : Nat := 0
  rowBytes : Nat := 0
  count : Nat := 0
  mstride : W64 := 0
  index : Nat := 0
  offload : Bool := false
  idx : Bool := false
  write : Bool := false
  xfer : Nat := 64
  row : Nat := 0
  off : Nat := 0
  gather : Bool := false
deriving DecidableEq, Repr

/-- A stream queue q0 to q7 (R250, R259 to R261). `out` lists armings that have issued every transfer and
are still in flight; `eligAt` is the time since which the next transfer has been eligible (R266). -/
structure Queue where
  arms : List Arming := []
  out : List Arming := []
  ceiling : Nat := 64
  rate : Nat := 0
  burst : Nat := 1048576
  age : Nat := 0
  bucket : Int := 1048576
  half : Bool := false
  eligAt : Option Nat := none
deriving DecidableEq, Repr

/-- How a transfer stands. -/
inductive XStat where
  /-- a tag granted to a base die's gather engine and not yet used (R303) -/
  | granted
  /-- line pieces still to be served by the base dies: address and bytes -/
  | lines (left : List (Nat × Nat))
  /-- served, or acknowledged -/
  | served
  /-- waits for the host -/
  | host
  /-- met a translation fault at a device address -/
  | badPage (addr : Nat)
  /-- its address leaves the range its encoding allows (R253) -/
  | badAddr (addr : Nat)
  /-- met an uncorrectable line -/
  | badLine (pa : Nat)
deriving DecidableEq, Repr

/-- A transfer that holds a tag (R255, R262, R267): its queue (8 is the thimble path), its arming and token, the
mesh address, the local address and the bytes. `data` is what a write carries or a read has gathered; `entry` is
the stream, object and entry of a state reference, with SLOT. -/
structure Xfer where
  xid : Nat
  queue : Nat
  aid : Nat
  token : Nat
  write : Bool
  mesh : W64
  loc : Nat
  bytes : Nat
  data : Bytes := []
  stat : XStat := .host
  entry : Option (Nat × Nat × Nat × Bool) := none
deriving DecidableEq, Repr

/-- A thimble launch waiting for a tag (R250, R267). -/
structure Thimble where
  token : Nat
  mesh : W64
  loc : Nat
  write : Bool
  bytes : Nat
deriving DecidableEq, Repr

/-- Where a core stands in the gang barrier (R172 to R174). -/
inductive Arrived where
  | no | reckon | final
deriving DecidableEq, Repr

/-- A weight tile (R142): 32 × 32 PF13 values, k-major, an unlisted one +0; the rows of its group that are no padding (R94)
and the channel columns of its block (R109). -/
structure Tile where
  w : Tab (BitVec 13) := []
  rows : Nat := 32
  cols : Nat := 32
deriving DecidableEq, Repr

/-- The dispatch a core runs: everything that belongs to it alone (R162, R166). -/
structure Disp where
  cmd : Nat := 0
  gen : W32 := 0
  part : Nat := 0
  handle : W32 := 0
  prog : Nat := 0
  rank : Nat := 0
  gang : List Nat := []
  first : Nat := 0
  count : Nat := 0
  lenC : Nat := 0
  resBase : Nat := 0
  codeBase : Nat := 0
  resSpan : Nat := 0
  scrSpan : Nat := 0
  scrBase : Nat := 0
  codeSpan : Nat := 0
  started : Bool := false
  pc : Nat := 0
  s : Tab W64 := []
  a : Tab W32 := []
  tokens : W32 := 0
  arrived : Arrived := .no
  stallOn : Option Nat := none
  blockedAt : Option Nat := none
  keys : Tab (BitVec 256) := []
  flags : BitVec 4 := 0
  acc : Tab W32 := []
  active : Tile := {}
  shadow : Tile := {}
  cb0 : Tab (BitVec 13) := []
  cb1 : Tab (BitVec 13) := []
  launches : Tab (List (Nat × BitVec 4)) := []
  mixers : Tab (BitVec 128) := []
  scr : List (Nat × Byte) := []
  scrTag : Nat := 0
  view : Bytes := []
  queues : Tab Queue := []
  thims : List Thimble := []
  xfers : List Xfer := []
  nextX : Nat := 0
  prio : Bool := false
  rx : List Msg := []
  inboxN : Nat := 0
  granted : Nat := 0
  requests : List (Nat × Nat) := []
  sendQ : List SendEnt := []
  recvQ : List RecvEnt := []
  hsent : Tab Nat := []
  hrecv : Tab Nat := []
  released : Tab Nat := []
  haloSend : Tab Nat := []
  haloRecv : Tab Nat := []
  reads : List RemoteRead := []
  readHold : Nat := 0
deriving DecidableEq, Repr

/-- A TLB entry (R305): partition, device page, page size, physical page, W. -/
structure TlbEnt where
  part : Nat
  dva : Nat
  size : Nat
  pa : Nat
  w : Bool
deriving DecidableEq, Repr

/-- A core (R16, R20). `spares` counts the lanes that the firmware has substituted since the core's reset (R161). -/
structure Core where
  ls : Tab Byte := []
  imem : List (Nat × W64) := []
  oos : Bool := false
  spares : Nat := 0
  ceCount : Nat := 0
  fault : Option (Nat × W64) := none
  stall : Tab W64 := []
  runCycles : W64 := 0
  tlb : List TlbEnt := []
  disp : Option Disp := none
deriving DecidableEq, Repr

/-! ## Partitions (11, 12, 13) -/

/-- A partition (R313). `root` is the physical address of its level [47:39] table, once it has one (R304). `drain` lists clients whose slice
ended, the time of that boundary, and their commands, by generation, that were being killed or past their commit point
(R332). -/
structure Part where
  en : Bool := false
  mode : Bool := false
  hold : Nat := 2
  diesLo : W32 := 0
  diesHi : BitVec 8 := 0
  quota : Nat := 0
  reject : Bool := false
  sliceValid : Bool := false
  sliceClient : Nat := 0
  sliceLeft : Nat := 0
  drain : List (Nat × Nat × List (Nat × W32)) := []
  plClient : Nat := 0
  plLeft : Nat := 0
  root : Option Nat := none
  swap : Option (Nat × Nat × Nat) := none
  inbox : List (Nat × Nat × Bytes) := []
deriving DecidableEq, Repr

/-! ## Mesh (01) -/

/-- A message in flight on the mesh (R30), oldest first in the list that holds it (R35). -/
inductive Packet where
  | kill (dst : Nat) (gen : W32)
  | home (left : List Nat) (stream old : Nat)
  | request (src dst : Nat) (gen : W32) (flits : Nat)
  | grant (src dst : Nat) (gen : W32) (flits : Nat)
  | message (src dst : Nat) (gen : W32) (m : Msg)
  | release (src dst : Nat) (gen : W32) (side : Bool)
  | gather (core : Nat) (gen : W32) (aid pile : Nat)
deriving DecidableEq, Repr

/-! ## The Crown (01, 10, 14) -/

/-- Registers and counters of the Crown. `commitPart` and `workPart` are the partitions whose commit step and command it took
last (R313). `mc0` is what each of its mesh ports may still inject into MC0 (4 unless
listed), `mc0Wait` the flits that wait for it, oldest first (R32); `fl0` and `fl0Wait` are the same for FL0 on Floine, with
destinations (R341). -/
structure Crown where
  ready : Bool := false
  restarts : Nat := 0
  bootCode : Byte := 0
  fwVersion : W32 := 0
  linkUp : Bool := false
  degraded : Bool := false
  modules : BitVec 4 := 0
  fenceLo : W32 := 0
  fenceHi : BitVec 8 := 0
  fenceLnk : BitVec 6 := 0
  fencePlb : W16 := 0
  dlLimit : Nat := 1000
  capW : Nat := 4600
  nextGen : W32 := 0
  nextId : Nat := 0
  fetchClient : Nat := 4095
  fetchLeft : Nat := 0
  commitPart : Nat := 15
  workPart : Nat := 15
  mc0 : Tab Nat := []
  mc0Frac : Nat := 0
  mc0Wait : List Packet := []
  fl0 : Nat := 4
  fl0Frac : Nat := 0
  fl0Wait : List (Nat × Wire) := []
deriving DecidableEq, Repr

/-! ## Piles (11) -/

/-- An index stream a base die runs (R302, R303). -/
structure Gather where
  core : Nat
  aid : Nat
  gen : W32
deriving DecidableEq, Repr

/-- The registers and counts of a pile (R283 to R288). `erased` lists erased symbols as channel and symbol,
`symSeen` corrected symbols of the scrub pass as channel, symbol and line, `rowSeen` rows with corrected
errors in this pass and in the last, as bank and row, `colSeen` the same by bank, column group and row. -/
structure Pile where
  scrubEn : Bool := true
  scrubHours : Nat := 24
  ceCount : Nat := 0
  ueCount : Nat := 0
  erased : List (Nat × Nat) := []
  rowsUsed : Tab Nat := []
  colsUsed : Tab Nat := []
  symSeen : List (Nat × Nat × Nat) := []
  rowSeen : List (Nat × Nat) := []
  rowPrev : List (Nat × Nat) := []
  colSeen : List (Nat × Nat × Nat) := []
  passCe : Nat := 0
  lastPassCe : Nat := 0
  scrubPos : Nat := 0
  hot : Bool := false
  selfRefresh : Bool := false
  refreshed : Tab Nat := []
  gathers : List Gather := []
deriving DecidableEq, Repr

/-- What holds an extent of pile memory. -/
inductive Owner where
  /-- a page mapped in a partition -/
  | page (part : Nat)
  /-- a page table of a partition, which QUOTA does not count (R304, R315) -/
  | table (part : Nat)
  /-- a region of a stream's objects -/
  | state (part stream : Nat)
  /-- a staging page or reserved objects of a command -/
  | cmd (part id : Nat)
deriving DecidableEq, Repr

/-- An allocated extent of pile memory. -/
structure Extent where
  base : Nat
  size : Nat
  owner : Owner
deriving DecidableEq, Repr

/-- Pile memory: bytes by 40-bit address, errors held by lines, allocated extents. -/
structure PileMem where
  mem : List Host.Cell := []
  errs : Tab ErrPat := []
  alloc : List Extent := []
deriving DecidableEq, Repr

/-- The CXL.mem window (R310 to R312, R370). -/
structure Memwin where
  en : Bool := false
  part : BitVec 4 := 0
  size2m : W16 := 0
  baseLo : BitVec 11 := 0
  baseHi : W16 := 0
  status : BitVec 4 := 0
  fault : Nat := 0
  hdm : Bool := false
  hdmBase : W64 := 0
  hdmSize : W64 := 0
deriving DecidableEq, Repr

/-- An invalidation in flight (R306): the range, the TLBs that have not acknowledged, the extents freed
when all have, the mailbox channel of the request that waits for it, and the entries it removed by their keys. Of a
page that is being moved it holds the new place (R306). -/
structure Inval where
  part : Nat
  dva : Nat
  size : Nat
  tlbs : List Nat
  free : List Extent
  chan : Option Nat := none
  old : List (Nat × W64) := []
  moveTo : Option Nat := none
deriving DecidableEq, Repr

/-! ## Floine links and domains (13) -/

/-- A frame that a port has sent and the peer has not acknowledged (R339). -/
structure OutFrame where
  seq : W16
  cr : List Nat
  replay : Bool
  eq : List W16
  slots : List Flit
deriving DecidableEq, Repr

/-- A Floine port (R335 to R341, R364, R365). `tx0` to `tx2` are the flits that wait to be sent, `rx` those in its input
buffers. `gapAt` is how far ahead the last discarded frame was, `replayRuns` the replays in a row that began with the frame
`replayHead`, `badAt` the times of the last uncorrectable codewords; `eqOut` the requests for the next frame by lane,
`eqAt` the time of each lane's last, `eqIn` the peer's last requests. -/
structure Port where
  en : Bool := false
  adapt : Bool := true
  medium : BitVec 2 := 0
  state : BitVec 2 := 0
  wentDown : Bool := false
  uncorr : Bool := false
  peerPort : Nat := 0x7F
  peerPair : Bool := false
  peerPkg : Nat := 0
  replays : Nat := 0
  margin : Nat := 0
  txSeq : W16 := 0
  rxSeq : W16 := 0xFFFF
  lastAck : W16 := 0xFFFF
  tx0 : List Flit := []
  tx1 : List Flit := []
  tx2 : List Flit := []
  credit0 : Nat := 32
  credit1 : Nat := 1024
  credit2 : Nat := 1024
  ret0 : Nat := 0
  ret1 : Nat := 0
  ret2 : Nat := 0
  rx : List Flit := []
  replay : List OutFrame := []
  resend : List OutFrame := []
  wantReplay : Bool := false
  peerReplay : Bool := false
  discarding : Bool := false
  gapAt : Nat := 0
  replayHead : W16 := 0
  replayRuns : Nat := 0
  badAt : List Nat := []
  eqOut : Tab W16 := []
  eqAt : Tab Nat := []
  eqIn : Tab W16 := []
  peerTx : Option (W64 × Nat) := none
  rttNs : Nat := 0
  delayNs : Nat := 0
  echo : Option (W64 × Nat) := none
  trainAt : Nat := 0
  routed : Bool := false
deriving DecidableEq, Repr

/-- A control message sent and not acknowledged (R343). -/
structure CtlOut where
  seq : Nat
  dst : Nat
  m : Ctl
  firstAt : Nat
  sentAt : Nat
deriving DecidableEq, Repr

/-- A held message sent to another package and not acknowledged (R359), with its command and commit bead. -/
structure Unacked where
  seq : Nat
  dst : Nat
  data : Bytes
  firstAt : Nat
  sentAt : Nat
  cmd : Nat
  bead : W64
deriving DecidableEq, Repr

/-- A join this package has asked for (R347); `asked` is the neighbour whose challenge it answered. -/
structure Join where
  chan : Nat
  want : Nat
  demand : Bool
  found : Bool
  at_ : Nat
  asked : Option Nat := none
deriving DecidableEq, Repr

/-- An exported range (R356). -/
structure Export where
  part : Nat
  dva : Nat
  bytes : Nat
deriving DecidableEq, Repr

/-- A subscription held for a package, 65,536 for this one (R361). -/
structure Sub where
  src : Nat
  cmd : Nat
  slot : Nat
  seq : Nat
deriving DecidableEq, Repr

/-- CRN_ANNOUNCEs (R360). -/
structure Announce where
  en : Bool := false
  client : Nat := 0
  ring : Nat := 0
deriving DecidableEq, Repr

/-- A twin digest that has arrived (R363). -/
structure TwinDigest where
  first : Nat
  count : Nat
  pos : Nat
  d : W64
  at_ : Nat
deriving DecidableEq, Repr

/-- A link between two members as the keeper knows it (R345): package, port, package, port. -/
structure Edge where
  a : Nat
  pa : Nat
  b : Nat
  pb : Nat
deriving DecidableEq, Repr

/-- The domain (R343 to R363). `nonces` are the keeper's challenges by where the request came from, `children` the ports
towards the children in the spanning tree, `probeNext` the member that is probed next, `leaving` the mailbox channel of a
leave under way, `phase` this package's clock less the keeper's as the last time mark showed it. `got` holds control messages taken and not yet acted on, oldest first. -/
structure Dom where
  inDomain : Bool := false
  keeper : Bool := false
  aligned : Bool := false
  pair : Bool := false
  pkg : Nat := 0
  keeperPkg : Nat := 0
  members : Nat := 0
  domId : W64 := 0
  key : BitVec 128 := 0
  cfgPair : Bool := false
  routes : Tab (Option Nat) := []
  roster : List Nat := []
  edges : List Edge := []
  freeing : Tab Nat := []
  join : Option Join := none
  claim : Option (Nat × Nat) := none
  nonces : List (Nat × Nat × W64) := []
  children : List Nat := []
  probeNext : Nat := 0
  leaving : Option (Option Nat) := none
  lastMark : Nat := 0
  phase : Option Int := none
  ctlSeq : Nat := 0
  ctl : List CtlOut := []
  seen : List (Nat × Nat) := []
  got : List (Nat × Ctl) := []
  exports : Tab (Option Export) := []
  subs : List Sub := []
  announce : Tab Announce := []
  mirror : Tab W32 := []
  badMirror : Bool := false
  waitUs : Nat := 1000
  digests : List TwinDigest := []
  resend : List Unacked := []
  inSeen : List (Nat × Nat) := []
deriving DecidableEq, Repr

/-! ## Mailboxes (14) -/

/-- A host-to-firmware mailbox (R375). -/
structure H2F where
  data : Tab W32 := []
  full : Bool := false
  len : Nat := 0
  reject : Bool := false
  msg : Bytes := []
deriving DecidableEq, Repr

/-- A firmware-to-host mailbox (R377). -/
structure F2H where
  data : Bytes := []
  full : Bool := false
deriving DecidableEq, Repr

/-- A request the firmware has taken (R377): its bytes and the time of acceptance. -/
structure Req where
  msg : Bytes
  at_ : Nat
deriving DecidableEq, Repr

/-- The mailboxes and the firmware's queues per channel. A request the firmware has accepted and waits to
answer (a join, a leave, an unmapping, a stop) keeps its place in `slow`. `replies` are those that wait for their mailbox;
`inner` are the mailboxes between the firmware and the Nightcap (R377). -/
structure Mail where
  h2f : Tab H2F := []
  f2h : Tab F2H := []
  reqs : Tab (List Req) := []
  replies : Tab (List Bytes) := []
  slow : List (Nat × Req) := []
  inner : Tab H2F := []
deriving DecidableEq, Repr

/-! ## Audio (15) -/

/-- An audio port (R382 to R396); port 4 of the table is AUD_WCLK, which uses the clock fields only. `frames` counts the frame
edges since the port started, `marks` holds the times of the last five whose count is a multiple of 1,024, newest first, and
`rateDue` says that RATE_MHZ is to be updated (R393). `slotAt` is the next slot of the frame in progress, `slotTime` the time
of the last slot's first bit clock, `startAt` that of the start, `wordBase` the word-clock edges before it, `din` the words
that AUD_DIp brought in each slot of the last frame. -/
structure APort where
  en : Bool := false
  thru : Bool := false
  master : Bool := false
  tdmDelay : Bool := false
  format : BitVec 2 := 0
  width : BitVec 2 := 0
  slotsM1 : Nat := 1
  clksrc : BitVec 2 := 0
  mdivM1 : Nat := 0
  nominal : Nat := 48000000
  tol : Nat := 1000
  mask : W32 := 0xFFFFFFFF
  maskNext : List (Nat × W32) := []
  rate : Nat := 0
  resyncs : Nat := 0
  state : BitVec 2 := 0
  badConfig : Bool := false
  slip : Bool := false
  rateChange : Bool := false
  clockLost : Bool := false
  mclk : Nat := 0
  frames : Nat := 0
  lastEdge : Nat := 0
  marks : List Nat := []
  rateDue : Bool := false
  startAt : Nat := 0
  wordBase : Nat := 0
  slotAt : Option Nat := none
  slotTime : Nat := 0
  din : Tab (Option W32) := []
deriving DecidableEq, Repr

/-- A binding and its buffer of sample words, oldest first (R385 to R390). -/
structure Bind where
  port : Nat
  slot : Nat
  chans : Nat
  fmt : Nat
  aoff : Nat
  frames : Nat
  prefill : Nat
  buf : List W32 := []
  started : Bool := false
deriving DecidableEq, Repr

/-! ## Boot, identity, debug (16, 20) -/

/-- Where the boot ROM stands (R398, R399). -/
inductive Rom where
  | idle
  /-- trying a source: 0 flash, 1 host push, 2 peer; whether it is the second source -/
  | trying (src : Nat) (second : Bool)
  /-- every source failed, waiting for a further push -/
  | push
  | stopped
  | booted
deriving DecidableEq, Repr

/-- A report request held (R412): the DMA target, or MCTP (R413), and the nonce. -/
structure HeldReport where
  dma : Option (Nat × Nat)
  nonce : Bytes
deriving DecidableEq, Repr

/-- Boot ROM, fuses, OTP and security engine; `lanes` holds the vector lanes by core that the fuses repair (R151). `dayAt` is
the time from which the next powered day counts (R460), `engineOn` says that the engine's identity work has started (R398). -/
structure Sec where
  uds : BitVec 256 := 0
  serial : W64 := 0
  vendorDigest : Bytes := []
  vendorLms : Bytes := []
  topTree : Bytes := []
  ownerSet : Bool := false
  ownerDigest : Bytes := []
  ownerLms : Bytes := []
  rollback : Nat := 0
  nextLeaf : Nat := 0
  age : Nat := 0
  dayAt : Nat := 0
  overstress : Nat := 0
  lanes : Tab Nat := []
  bootsel : BitVec 3 := 0
  source : BitVec 3 := 7
  fellBack : Bool := false
  firstCode : Byte := 0
  rom : Rom := .idle
  romAt : Nat := 0
  medium : BitVec 2 := 0
  mediumAt : Nat := 0
  image : Tab Byte := []
  win : Tab Byte := []
  booted : Bytes := []
  measure : Bytes := []
  svn : Nat := 0
  engineOn : Bool := false
  lmsReady : Bool := false
  treeBuilt : Bool := false
  lmsSpent : Bool := false
  dmaFault : Bool := false
  sigsLeft : Nat := 0
  boots : Nat := 0
  leaf : Nat := 0
  repSeq : Nat := 0
  held : List HeldReport := []
deriving DecidableEq, Repr

/-- The debug port and the board-management port (R414, R478, R479). -/
structure Dbg where
  attached : Bool := false
  isOpen : Bool := false
  sessions : Nat := 0
  ir : Byte := 1
  bsr : Bytes := []
  extest : Bool := false
  dynAddr : Option (BitVec 7) := none
deriving DecidableEq, Repr

/-! ## Reset (17) -/

/-- The scope of a reset whose release is in progress (R415). -/
inductive Scope where
  | alwaysOn | package
deriving DecidableEq, Repr

/-- The reset controller and self-test. `hold` is the FAULT_N code that holds the package, if any;
`faults` the faults present in the order they occurred (R424), `testLanes` the vector lanes by core that the last
self-test repaired (R426). -/
structure Rst where
  cause : BitVec 10 := 1
  stWarm : Bool := false
  resetting : Option Scope := some .alwaysOn
  runTest : Bool := true
  step : Nat := 0
  hold : Option Nat := none
  holdPor : Bool := false
  faults : List Nat := []
  thermTrip : Bool := false
  ran : Bool := false
  notRun : Bool := false
  refOut : Bool := false
  supplyOut : Bool := false
  stMs : Nat := 0
  clkEarly : Bool := false
  clkBlock : Byte := 0
  forced : List Byte := []
  testLanes : Tab Nat := []
  clkBad : List Byte := []
  clksel : BitVec 2 := 0
  stmand : Bool := true
  relAt : Nat := 0
  kickAt : Nat := 0
deriving DecidableEq, Repr

/-! ## Power and monitor (18) -/

/-- A compute rail (R442, R443). -/
structure Vddc where
  avsFault : Bool := false
  targetMv : Nat := 800
  measMv : Nat := 0
  amps : Nat := 0
  eclk : Nat := 0
  cycAcc : Nat := 0
deriving DecidableEq, Repr

/-- Supplies, states, clocks and the governor. `coresOff` and `fabricOff` list compute column groups,
`domOff` other domains that are off, `shut` domains shut by active rules. `stepAt` is the time of the last step of an entry
or exit, `s2Steps` the steps of an entry into S2 that are done, `tablesIn` the pile that holds the Crown's tables, and
`abort` an access or a wake that arrived during an entry (R436, R437). -/
structure Pwr where
  cur : BitVec 2 := 0
  target : BitVec 2 := 0
  idleMs : Nat := 100
  idleFrom : Nat := 0
  coresOff : List Nat := []
  fabricOff : List Nat := []
  stepAt : Nat := 0
  s2Steps : Nat := 0
  tablesIn : Option Nat := none
  abort : Bool := false
  domOff : List Nat := [15, 16, 17, 19]
  shut : List Nat := []
  seq : BitVec 6 := 0
  refLost : Bool := false
  onOsc : Bool := false
  vddc : Tab Vddc := []
  throttle : Nat := 0
  limTemp : Bool := false
  limCurrent : Bool := false
  limPower : Bool := false
  limRule : Bool := false
  limAvs : Bool := false
  pkgW : Nat := 0
  droop : List Nat := []
  droops : Nat := 0
  pairOffAt : Tab Nat := []
deriving DecidableEq, Repr

/-- A monitor channel (R448, R449): `y` has 16 fraction bits. -/
structure Chan where
  en : Bool := false
  sel : Nat := 0
  k : Nat := 4
  period : Nat := 100
  y : Int := 0
  raw : W32 := 0
  primed : Bool := false
  last : Nat := 0
deriving DecidableEq, Repr

/-- A monitor rule (R450, R451). -/
structure Rule where
  en : Bool := false
  below : Bool := false
  channel : Nat := 0
  persist : Nat := 1
  thresh : W32 := 0
  hyst : W32 := 0
  irq : Bool := false
  fault : Bool := false
  trip : Bool := false
  reset : Bool := false
  wake : Bool := false
  shut : Bool := false
  domain : Nat := 0
  throttle : Nat := 0
  count : Nat := 0
  active : Bool := false
deriving DecidableEq, Repr

/-- The Nightcap monitor. -/
structure Mon where
  ch : Tab Chan := []
  rules : Tab Rule := []
  fired : W32 := 0
  tick : Nat := 0
  tickAt : Nat := 0
  flowLast : Tab Nat := []
  flowGap : Tab Nat := []
deriving DecidableEq, Repr

/-! ## Fault tally and health (19) -/

/-- A record of the fault tally (R454 to R456). -/
structure Rec where
  subject : W32
  cls : Nat
  isOpen : Bool
  count : Nat
  reporter : W32
  firstNs : Nat
  lastNs : Nat
  firstBead : W64
  d0 : W64
  d1 : W64
  seq : W32
  window : Nat
deriving DecidableEq, Repr

/-- A report to the tally. -/
structure Report where
  reporter : W32
  subject : W32
  cls : Nat
  d0 : W64
  d1 : W64
deriving DecidableEq, Repr

/-- The fault tally: its clock, its 256 slots, its registers (R455 to R458). -/
structure Tally where
  clock : Nat := 0
  slots : Tab (Option Rec) := []
  nextSeq : W32 := 1
  lost : Nat := 0
  overflow : Nat := 0
  windowMs : Nat := 1000
  gapUs : Nat := 1000
  pendingIrq : Bool := false
  lastIrq : Option Nat := none
  en0 : W32 := 0xFFFFFFFF
  en1 : W32 := 0xFFFFFFFF
  held : List Report := []
  heldDrop : Nat := 0
deriving DecidableEq, Repr

/-- A health entry (R465). -/
structure HealthEnt where
  days : Nat := 0xFFFF
  daysLow : Nat := 0xFFFF
  daysHigh : Nat := 0xFFFF
  limit : Nat := 0xFF
  low : Bool := false
  dPpm : Nat := 0
  dEol : Nat := 0
  guardMv : Nat := 0
  limitDie : Nat := 0
  age : Nat := 0
  updates : Nat := 0
  cePass : Nat := 0
deriving DecidableEq, Repr

/-- Wear and remaining life (R460 to R465). `rowFix` and `colFix` hold the AGE of each repair with its bank;
`margins` the daily minima of MARGIN per port, newest first. -/
structure Health where
  warnDays : Nat := 365
  entries : Tab HealthEnt := []
  warned : List Nat := []
  rowFix : List (Nat × Nat × Nat) := []
  colFix : List (Nat × Nat × Nat) := []
  margins : Tab (List Nat) := []
  dayMin : Tab Nat := []
  chanCopy : Tab (W32 × W32) := []
deriving DecidableEq, Repr

end Sys2Proof.Machine

namespace Sys2Proof.Machine

open Sys2Proof

/-- The state of the package. -/
structure State where
  time : Nat := 0
  free : Nat := 0
  pending : List Instr := []
  io : Io := {}
  bead : Bead := {}
  crown : Crown := {}
  clients : Tab Client := []
  sched : Tab Sched := []
  cmds : List Cmd := []
  parts : Tab Part := []
  streams : Tab Stream := []
  sets : List WSet := []
  cores : Tab Core := []
  dieTlb : Tab (List TlbEnt) := []
  net : List Packet := []
  pile : PileMem := {}
  piles : Tab Pile := []
  memwin : Memwin := {}
  inval : List Inval := []
  ports : Tab Port := []
  dom : Dom := {}
  mail : Mail := {}
  ap : Tab APort := []
  binds : Tab (Option Bind) := []
  sec : Sec := {}
  dbg : Dbg := {}
  rst : Rst := {}
  pwr : Pwr := {}
  mon : Mon := {}
  tally : Tally := {}
  health : Health := {}
deriving DecidableEq, Repr

/-- The machine right after power-on reset: every field at the value its declaration gives. -/
def State.reset : State := {}

end Sys2Proof.Machine
end

