-- ==== Sys2Proof/WellFormed.lean ====
section
/-! DEFINITION. Which commands are well formed: every index is of a thing the package has (R15, R21, R44, R279,
R313, R335, R375 and the register tables), and every field fits its width. A command with an index outside
them names nothing, and its meaning leaves the state alone. -/

namespace Sys2Proof

/-- A core of the package (R20). -/
def coreOk (n : Nat) : Bool := decide (n < 2560)
/-- A client: a doorbell page of BAR2 (R44). -/
def clientOk (n : Nat) : Bool := decide (n < 4096)
/-- A ring pair of a client (R44). -/
def ringOk (n : Nat) : Bool := decide (n < 4)
/-- A partition (R313). -/
def partOk (n : Nat) : Bool := decide (n < 16)
/-- A pile (R279). -/
def pileOk (n : Nat) : Bool := decide (n < 16)
/-- A Floine port (R335). -/
def portOk (n : Nat) : Bool := decide (n < 72)
/-- A mailbox channel (R375). -/
def mailOk (n : Nat) : Bool := decide (n < 8)
/-- A compute column group (R25). -/
def groupOk (n : Nat) : Bool := decide (n < 8)
/-- An audio port (R382). -/
def apOk (n : Nat) : Bool := decide (n < 4)
/-- A TLB of R305: the 2,560 core TLBs, then the 40 compute dies, the 16 piles and the Crown. -/
def tlbOk (n : Nat) : Bool := decide (n < 2560 + 57)
/-- An error pattern over the 36 symbols of a line (R281), each symbol at most once. -/
def errOk (e : ErrPat) : Bool :=
  e.all (fun x => decide (x.1 < 36) && x.2 != 0) && decide ((e.map Prod.fst).Nodup)
/-- A frame as it arrives: an image of 1,536 bytes (R338), the symbols the link damaged at places of their codewords
(R337), and at most 23 destinations of its flits. -/
def frameOk (f : FrameIn) : Bool :=
  f.image.length == 1536 && f.fec.all (fun c => c.all (fun e => decide (e.1 < 544))) &&
    decide (f.dsts.length ≤ 23) && f.dsts.all (fun d => decide (d < 65536))

/-- Every operand of the command is in the range the package gives it. -/
def Instr.wf : Instr → Bool
  | .registerWrite off width v => off < 0x100000 && (width == 1 || width == 2 || width == 4 || width == 8) &&
    off % width == 0 && decide (v.toNat < 256 ^ width)
  | .beadCountLoRead => true
  | .beadCtrlWrite _ => true
  | .beadBoundary _ => true
  | .runHeld _ => true
  | .beadRefFallback => true
  | .sqTailWrite c ring _ => clientOk c && ringOk ring
  | .cqHeadWrite c ring _ => clientOk c && ringOk ring
  | .cancelWrite c ring _ => clientOk c && ringOk ring
  | .dbCtrlStop c _ => clientOk c
  | .dbCtrlResume c _ => clientOk c
  | .doorbellUnmappedWrite c off width _ => clientOk c && off < 4096 && (width == 1 || width == 2 || width == 4 || width == 8)
  | .descriptorFetch _ => true
  | .ringFault c ring _ => clientOk c && ringOk ring
  | .placeCommand part => partOk part
  | .run _ => true
  | .loadSet _ _ => true
  | .evictSet _ => true
  | .stateInit _ => true
  | .stateExport _ => true
  | .stateImport _ _ => true
  | .streamOpen _ => true
  | .streamClose _ => true
  | .copy _ _ => true
  | .fence _ => true
  | .waitRemote _ => true
  | .audioBind _ => true
  | .remoteTokenTimeout _ => true
  | .killDeliver core => coreOk core
  | .killQuiescent _ => true
  | .commitStep _ _ => true
  | .slotFlip pile _ => pileOk pile
  | .slotDiscard pile _ => pileOk pile
  | .remoteSendArrive src _ dst _ data => src < 65536 && dst < 2 ^ 28 && data.length % 64 == 0
  | .sendRefused _ => true
  | .mc0BroadcastArrive core part _ => coreOk core && partOk part
  | .messageArrive dst src => coreOk dst && coreOk src
  | .creditRequestArrive dst src => coreOk dst && coreOk src
  | .grantArrive core src => coreOk core && coreOk src
  | .haloReleaseArrive core src => coreOk core && coreOk src
  | .tokenDone core engine => coreOk core && engine < 6
  | .opNop core => coreOk core
  | .opEnd core => coreOk core
  | .opWait core => coreOk core
  | .opReckon core => coreOk core
  | .gangBarrierRelease _ => true
  | .opJal core => coreOk core
  | .opJr core => coreOk core
  | .opBeq core => coreOk core
  | .opBne core => coreOk core
  | .opBlt core => coreOk core
  | .opBge core => coreOk core
  | .opBltu core => coreOk core
  | .opBgeu core => coreOk core
  | .opLoop core => coreOk core
  | .opAdd core => coreOk core
  | .opSub core => coreOk core
  | .opMul core => coreOk core
  | .opAnd core => coreOk core
  | .opOr core => coreOk core
  | .opXor core => coreOk core
  | .opShl core => coreOk core
  | .opShr core => coreOk core
  | .opSar core => coreOk core
  | .opSlt core => coreOk core
  | .opSltu core => coreOk core
  | .opMin core => coreOk core
  | .opMax core => coreOk core
  | .opLih core => coreOk core
  | .opDivu core => coreOk core
  | .opRemu core => coreOk core
  | .opAadd core => coreOk core
  | .opAmov core => coreOk core
  | .opArd core => coreOk core
  | .opLd64 core => coreOk core
  | .opSt64 core => coreOk core
  | .opLd32 core => coreOk core
  | .opSt32 core => coreOk core
  | .opSrd core => coreOk core
  | .opSwc core => coreOk core
  | .opCbld core => coreOk core
  | .opTlb core => coreOk core
  | .opTld core => coreOk core
  | .opTswp core => coreOk core
  | .opMrow core => coreOk core
  | .opVop core => coreOk core
  | .opVfn core => coreOk core
  | .opVred core => coreOk core
  | .opVcvt core => coreOk core
  | .opVrnd core => coreOk core
  | .opVcor core => coreOk core
  | .opVdw core => coreOk core
  | .opCarry core => coreOk core
  | .opSample core => coreOk core
  | .opSqgo core => coreOk core
  | .queueSetup core q => coreOk core && q < 8
  | .transferIssue core => coreOk core
  | .transferComplete core _ _ => coreOk core
  | .regulatorRefill core q => coreOk core && q < 8
  | .ageLimitExceeded core q => coreOk core && q < 8
  | .opThim core => coreOk core
  | .thimbleIssue core => coreOk core
  | .gatherIndexStream core _ => coreOk core
  | .gatherGrant core _ => coreOk core
  | .opSend core => coreOk core
  | .opHaloSend core => coreOk core
  | .opRemoteReadRequest core => coreOk core
  | .opRecv core => coreOk core
  | .opHaloRecv core => coreOk core
  | .opReplyRecv core => coreOk core
  | .opRkey core => coreOk core
  | .opSiteput core => coreOk core
  | .runLimitExpiry _ => true
  | .creditDeadlock _ => true
  | .transferFault core _ _ => coreOk core
  | .coreScrub core mem _ kind => coreOk core && mem < 4 && kind < 3
  | .coreFault core kind _ => coreOk core && kind < 16
  | .coreRestore core _ => coreOk core
  | .rankRelocate part _ rank => partOk part && rank < 2560
  | .setLost part _ => partOk part
  | .pileRead core _ e1 e2 => coreOk core && errOk e1 && errOk e2
  | .pileWrite core _ e1 e2 => coreOk core && errOk e1 && errOk e2
  | .patrolScrub pile upset e1 e2 => pileOk pile && errOk upset && errOk e1 && errOk e2
  | .pileRefresh pile channel => pileOk pile && channel < 32
  | .directoryEccError pile _ _ => pileOk pile
  | .swapOut _ _ => true
  | .swapIn _ _ => true
  | .stateMove _ pile => pileOk pile
  | .homeTableUpdate core => coreOk core
  | .tlbWalk tlb part _ => tlbOk tlb && partOk part
  | .tlbInvalidate a => tlbOk a.tlb &&
    (match a.move with | some (p, dva, pile) => partOk p && decide (dva < 2 ^ 48) && pileOk pile | none => true)
  | .faultResolve _ => true
  | .cxlmemRead off => off % 64 == 0
  | .cxlmemWrite off data => off % 64 == 0 && data.length == 64
  | .memwinCtrlWrite _ => true
  | .memwinBaseWrite _ _ => true
  | .partDiesWrite n _ _ => partOk n
  | .partCtrlWrite n _ => partOk n
  | .partQuotaWrite n _ => partOk n
  | .clientSchedWrite c _ => clientOk c
  | .sliceEnd part => partOk part
  | .sliceOverrunCharge part => partOk part
  | .frameSend p => portOk p
  | .frameReceive p f => portOk p && frameOk f
  | .frameReplay p => portOk p
  | .portCtrlWrite p _ => portOk p
  | .portTraining p a => portOk p && portOk a.peerPort && a.peerPkg < 32768
  | .portDown p cause => portOk p && cause < 8
  | .eqAdapt p _ => portOk p
  | .marginMeasure p _ => portOk p
  | .linkDelayMeasure p => portOk p
  | .controlMessageArrive src _ _ _ => src < 65536
  | .controlResend _ => true
  | .ackTimeout _ => true
  | .routeUpdate => true
  | .joinRequest src => src < 65536 + 72
  | .joinComplete => true
  | .domainFound => true
  | .memberGone => true
  | .packageNumberFree pkg => pkg < 65536
  | .keeperClaim _ => true
  | .keeperElect => true
  | .domainSplit port otherKeeper => portOk port && otherKeeper < 65536
  | .timeMark => true
  | .beadMark => true
  | .beadAlignLost => true
  | .remoteReadServe src _ index _ bytes => src < 268435456 && index < 64 && bytes % 64 == 0
  | .remoteReadReply core _ _ => coreOk core
  | .remoteReadRetry core => coreOk core
  | .remoteReadTimeout core => coreOk core
  | .inboxMessage src _ dst m => src < 65536 && dst < 2 ^ 28 && m.data.length % 64 == 0
  | .subscription => true
  | .subscriptionReply => true
  | .subscriptionRetry _ => true
  | .announceWrite s _ => s < 256
  | .mirrorWrite w _ => w < 512
  | .digestCompute _ => true
  | .twinDigestArrive => true
  | .twinWaitTimeout _ => true
  | .hostLinkTrain _ _ => true
  | .mailboxDataWrite m w _ => mailOk m && w < 16
  | .mailboxSend m _ => mailOk m
  | .mailboxTake m => mailOk m
  | .mailboxReply m => mailOk m
  | .mailboxClear m _ => mailOk m
  | .clientRegister m => mailOk m
  | .clientUnregister m => mailOk m
  | .ringSet m => mailOk m
  | .stop m => mailOk m
  | .resume m => mailOk m
  | .map m => mailOk m
  | .unmap m => mailOk m
  | .back m => mailOk m
  | .swapArea m => mailOk m
  | .exportSet m => mailOk m
  | .streamRead m => mailOk m
  | .streamPlace m => mailOk m
  | .domainSet m => mailOk m
  | .domainJoin m => mailOk m
  | .domainLeave m => mailOk m
  | .attest m => mailOk m
  | .reportSign _ => true
  | .identityRead m _ => mailOk m
  | .rollbackAdvance m => mailOk m
  | .ownerProvision m _ => mailOk m
  | .bootChunk m => mailOk m
  | .bootGo m => mailOk m
  | .flashRead _ => true
  | .bootFetch => true
  | .bootMediumSwitch => true
  | .bootPeerTimeout => true
  | .lmsTreeReady => true
  | .firmwareReady => true
  | .mctpAttest _ => true
  | .mctpIdentity => true
  | .mctpTelemetryRead _ _ => true
  | .mctpMonitorRead => true
  | .setdasa _ => true
  | .idcode => true
  | .samplePreload _ => true
  | .extest => true
  | .resetPkg => true
  | .forceRel _ => true
  | .eotasDebugAccess _ => true
  | .bypass _ => true
  | .tapReset => true
  | .por _ _ _ => true
  | .pinReset => true
  | .hostReset _ => true
  | .fwRestart => true
  | .wdogExpiry => true
  | .thermReset => true
  | .supplyReset => true
  | .linkReset => true
  | .resetReleaseStep _ => true
  | .refRecoveryTimeout => true
  | .clockGoodChange _ _ => true
  | .seqBreach _ => true
  | .s1Entry => true
  | .s2Entry => true
  | .s1Exit => true
  | .s2Wake => true
  | .linkPairOff pair => pair < 3
  | .refLost => true
  | .avsReadback g _ _ => groupOk g
  | .avsFault g _ => groupOk g
  | .avsFaultClear g _ => groupOk g
  | .droopTrip die => die < 40
  | .droopRecover die => die < 40
  | .governorTick need tempHot tempCool capC capP capA =>
    need.length == 8 && tempHot.length == 8 && tempCool.length == 8 && capC.length == 8 && capP.length == 8 && capA.length == 8
  | .monitorTick samples => samples.all fun x => decide (x.1 < 64)
  | .ruleActivate r => r < 32
  | .ruleDeactivate r => r < 32
  | .ageDay => true
  | .wearMeasure d => d.all fun x => decide (x.1 < 64)
  | .tallyReport _ _ cls _ _ => cls < 64
  | .tallyRecordClose slot => slot < 256
  | .tallyIrqGapEnd => true
  | .tallyAck _ => true
  | .telemetryCopy => true
  | .audPortStart p _ _ => apOk p
  | .audPortStop p _ => apOk p
  | .audMaskWrite p _ width => apOk p && (width == 1 || width == 2 || width == 4)
  | .audFrame p _ => p < 5
  | .audResync p _ _ => apOk p
  | .audRateUpdate p _ => p < 5
  | .audClockLost p => p < 5
  | .wordClockReturn => true
  | .flowPulse f => f < 2
  | .imageWindowWrite off data => off + data.length ≤ 0x100000
  | .accountingLoRead c k => clientOk c && k < 8
  | .peerImageArrive _ => true
  | .twinDigestDiscard => true

end Sys2Proof
end

