-- ==== Sys2Proof/Machine/Ops.lean ====
section
/-! DEFINITION. The named operations over the state: sparse tables, bytes, the parts of the state by number, what
the package shows to the outside, and the fault tally. -/

namespace Sys2Proof.Machine

open Sys2Proof

/-! ## Sparse tables -/

/-- The entry of key `k`, or the default `d`. -/
def tget {α : Type} (d : α) : Tab α → Nat → α
  | [], _ => d
  | (j, v) :: t, k => if j = k then v else tget d t k

/-- Writes `v` at `k`, keeping the keys rising and listing no entry equal to the default. -/
def tput {α : Type} [DecidableEq α] (d : α) : Tab α → Nat → α → Tab α
  | [], k, v => if v = d then [] else [(k, v)]
  | (j, w) :: t, k, v =>
    if v = d then (if j = k then tput d t k v else (j, w) :: tput d t k v)
    else if k < j then (k, v) :: (j, w) :: t
    else if k = j then (k, v) :: t
    else (j, w) :: tput d t k v

/-- Keys rise strictly from `lo` and no entry equals the default. -/
def tabWf {α : Type} [DecidableEq α] (d : α) : Nat → Tab α → Bool
  | _, [] => true
  | lo, (j, v) :: t => decide (lo ≤ j) && decide (v ≠ d) && tabWf d (j + 1) t

/-- The canonical form of pile memory (and of any byte table): addresses rise, no listed byte is 0. -/
def Memory.wf (m : List Host.Cell) : Bool := tabWf (0 : Byte) 0 m

/-! ## Bytes -/

/-- The `n` low bytes of `v`, least significant first (R10). -/
def leN : Nat → Nat → Bytes
  | 0, _ => []
  | n + 1, v => BitVec.ofNat 8 v :: leN n (v / 256)

/-- The number whose little-endian bytes are `b`. -/
def ofLE : Bytes → Nat
  | [] => 0
  | b :: t => b.toNat + 256 * ofLE t

/-- `n` bytes of `b` from offset `o`; bytes past the end read 0. -/
def slice (b : Bytes) (o n : Nat) : Bytes :=
  (List.range n).map fun i => (b[o + i]?).getD 0

/-- The little-endian field of `n` bytes at offset `o`. -/
def fieldLE (b : Bytes) (o n : Nat) : Nat := ofLE (slice b o n)

/-- Bits `[hi:lo]` of `v`. -/
def bits (v hi lo : Nat) : Nat := v / 2 ^ lo % 2 ^ (hi + 1 - lo)

/-- Bit `i` of `v`. -/
def bitOf (v i : Nat) : Bool := v / 2 ^ i % 2 == 1

/-- 1 for true. -/
def b2n (b : Bool) : Nat := if b then 1 else 0

/-- Rounds up to a multiple of `m`. -/
def alignUp (v m : Nat) : Nat := if m = 0 then v else (v + (m - 1)) / m * m

/-- The sum of a list. -/
def sumN (l : List Nat) : Nat := l.foldl (· + ·) 0

/-- Writes the bytes `b` at `a` of a byte table. -/
def memPut (m : Tab Byte) (a : Nat) : Bytes → Tab Byte
  | [] => m
  | x :: t => memPut (tput 0 m a x) (a + 1) t

/-- Reads `n` bytes at `a` of a byte table. -/
def memGet (m : Tab Byte) (a n : Nat) : Bytes :=
  (List.range n).map fun i => tget 0 m (a + i)

/-- Whether the half-open ranges `[a, a+n)` and `[b, b+m)` share a number. -/
def overlap (a n b m : Nat) : Bool := decide (a < b + m) && decide (b < a + n) && decide (0 < n) && decide (0 < m)

/-! ## The parts of the state by number -/

def getCore (s : State) (n : Nat) : Core := tget {} s.cores n
def setCore (s : State) (n : Nat) (c : Core) : State := { s with cores := tput {} s.cores n c }
def getClient (s : State) (n : Nat) : Client := tget {} s.clients n
def setClient (s : State) (n : Nat) (c : Client) : State := { s with clients := tput {} s.clients n c }
def getSched (s : State) (n : Nat) : Sched := tget {} s.sched n
def setSched (s : State) (n : Nat) (c : Sched) : State := { s with sched := tput {} s.sched n c }
def getPart (s : State) (n : Nat) : Part := tget {} s.parts n
def setPart (s : State) (n : Nat) (p : Part) : State := { s with parts := tput {} s.parts n p }
def getStream (s : State) (n : Nat) : Stream := tget {} s.streams n
def setStream (s : State) (n : Nat) (x : Stream) : State := { s with streams := tput {} s.streams n x }
def getPile (s : State) (n : Nat) : Pile := tget {} s.piles n
def setPile (s : State) (n : Nat) (p : Pile) : State := { s with piles := tput {} s.piles n p }
def getPort (s : State) (n : Nat) : Port := tget {} s.ports n
def setPort (s : State) (n : Nat) (p : Port) : State := { s with ports := tput {} s.ports n p }
def getAp (s : State) (n : Nat) : APort := tget {} s.ap n
def setAp (s : State) (n : Nat) (p : APort) : State := { s with ap := tput {} s.ap n p }
def getVddc (s : State) (n : Nat) : Vddc := tget {} s.pwr.vddc n
def setVddc (s : State) (n : Nat) (v : Vddc) : State :=
  { s with pwr := { s.pwr with vddc := tput {} s.pwr.vddc n v } }
def getRing (s : State) (c n : Nat) : Ring := tget {} (getClient s c).rings n
def setRing (s : State) (c n : Nat) (r : Ring) : State :=
  setClient s c { getClient s c with rings := tput {} (getClient s c).rings n r }
def getBind (s : State) (n : Nat) : Option Bind := tget none s.binds n
def setBind (s : State) (n : Nat) (b : Option Bind) : State := { s with binds := tput none s.binds n b }

/-- The fetched, unretired command of that number. -/
def getCmd (s : State) (id : Nat) : Option Cmd := s.cmds.find? fun c => c.id == id
/-- Changes the command of that number. -/
def modCmd (s : State) (id : Nat) (f : Cmd → Cmd) : State :=
  { s with cmds := s.cmds.map fun c => if c.id == id then f c else c }

/-- The dispatch a core runs. -/
def getDisp (s : State) (core : Nat) : Option Disp := (getCore s core).disp
/-- Replaces the dispatch of a core. -/
def setDisp (s : State) (core : Nat) (d : Disp) : State :=
  setCore s core { getCore s core with disp := some d }

/-- The model's counter of free values is advanced by one. -/
def nextFree (s : State) : State := { s with free := s.free + 1 }

/-- A dispatch is current while its command runs under its generation (R69). -/
def genCurrent (s : State) (g : W32) : Bool :=
  s.cmds.any fun c => c.stage == .running && c.gen == g && !c.gang.isEmpty

/-! ## Where things are (R15, R20, R21, R25) -/

def coreX (n : Nat) : Nat := n % 64
def coreY (n : Nat) : Nat := n / 64
/-- The compute die of a core (R20). -/
def dieOf (n : Nat) : Nat := coreY n / 8 * 8 + coreX n / 8
/-- The compute column group of a core (R20). -/
def groupOf (n : Nat) : Nat := coreX n / 8
/-- Whether compute die `n` is fenced (R28). -/
def dieFenced (s : State) (n : Nat) : Bool :=
  if n < 32 then s.crown.fenceLo.getLsbD n else s.crown.fenceHi.getLsbD (n - 32)
/-- Whether pile `n` is fenced (R28). -/
def pileFenced (s : State) (n : Nat) : Bool := s.crown.fencePlb.getLsbD n
/-- Whether link die `n` is fenced (R28). -/
def linkFenced (s : State) (n : Nat) : Bool := s.crown.fenceLnk.getLsbD n
/-- Whether compute die `d` is named by partition `p` (R313). -/
def partHasDie (s : State) (p d : Nat) : Bool :=
  let q := getPart s p
  if d < 32 then q.diesLo.getLsbD d else q.diesHi.getLsbD (d - 32)
/-- The partition of a core's die, if any. -/
def partOfCore (s : State) (n : Nat) : Option Nat :=
  (List.range 16).find? fun p => partHasDie s p (dieOf n)
/-- The global endpoint address of a local endpoint of this package (R21, R22). -/
def selfAddr (s : State) (loc : Nat) : Nat :=
  (if s.dom.inDomain then b2n s.dom.pair * 2 ^ 27 + s.dom.pkg * 2 ^ 12 else 0) + loc
/-- This package as PAIR and PACKAGE, 16 bits. -/
def selfPkg (s : State) : Nat := selfAddr s 0 / 4096
def crownLoc : Nat := 3872
def nightcapLoc : Nat := 3873
def pileLoc (p : Nat) : Nat := 3840 + p

/-! ## What the outside sees -/

/-- One DMA write of the package. -/
def dmaWrite (s : State) (pasid : Option Nat) (addr : Nat) (b : Bytes) : State :=
  { s with io := { s.io with dma := s.io.dma ++ [{ pasid := pasid, addr := addr, data := b }] } }
/-- One DMA read of the package; what the host answers is an operand of the command that makes it
(notes/assumptions/1.md). -/
def dmaRead (s : State) (pasid : Option Nat) (addr n : Nat) : State :=
  { s with io := { s.io with reads := s.io.reads ++ [{ pasid := pasid, addr := addr, bytes := n }] } }
/-- Raises an MSI-X vector (R372). -/
def msix (s : State) (v : Nat) : State := { s with io := { s.io with msix := s.io.msix ++ [v] } }
/-- Puts something on a wire. -/
def wire (s : State) (w : Wire) : State := { s with io := { s.io with wire := s.io.wire ++ [w] } }
/-- Data of a host read. -/
def rdata (s : State) (v : W64) : State := { s with io := { s.io with rdata := v } }

/-! ## Reset and power predicates -/

/-- The Crown is out of reset: release step 4 is complete (R421). -/
def crownUp (s : State) : Bool := decide (4 ≤ s.rst.step)
/-- The clock of compute die `n` is not good, so the die is in reset (R422). -/
def dieClockBad (s : State) (n : Nat) : Bool := s.rst.clkBad.contains (BitVec.ofNat 8 n)
/-- Compute column group `g` has been released: step 7 of R421 takes the groups in ascending order. -/
def groupUp (s : State) (g : Nat) : Bool := decide (7 + g ≤ s.rst.step)
/-- Vector lanes of a core that repair substitutes: by the fuses, by the last self-test, by the firmware (R151, R159). -/
def sparesUsed (s : State) (core : Nat) : Nat :=
  min 4 (tget 0 s.sec.lanes core + tget 0 s.rst.testLanes core + (getCore s core).spares)
/-- Domain D1, the Crown's, is off: state S2 (R436). -/
def d1Off (s : State) : Bool := s.pwr.cur == 2

/-! ## The fault tally (R454 to R459) -/

/-- Subjects. -/
def subjEndpoint (a : Nat) : W32 := BitVec.ofNat 32 a
def subjStream (stream : Nat) (site : Nat) : W32 := BitVec.ofNat 32 (0x10000000 + site * 2 ^ 20 + stream)
def subjKind (k v : Nat) : W32 := BitVec.ofNat 32 (k * 2 ^ 28 + v)

/-- The record is open: its window has not passed and it has not been closed (R455). -/
def recOpen (clock : Nat) (r : Rec) : Bool := r.isOpen && decide (clock < r.firstNs + r.window)

/-- The slots of the tally that hold a record, with their numbers. -/
def tallyRecs (t : Tally) : List (Nat × Rec) :=
  t.slots.filterMap fun x => x.2.map fun r => (x.1, r)

/-- The lowest free slot of the 256. -/
def tallyFree (t : Tally) : Option Nat :=
  (List.range 256).find? fun i => (tget none t.slots i).isNone

/-- The closed record of lowest sequence number. -/
def tallyOldest (t : Tally) : Option Nat :=
  let closed := (tallyRecs t).filter fun x => !recOpen t.clock x.2
  (closed.foldl (fun (best : Option (Nat × Rec)) x =>
    match best with
    | none => some x
    | some y => if x.2.seq < y.2.seq then some x else best) none).map Prod.fst

/-- The class has its interrupt enabled (R457). -/
def irqEnabled (t : Tally) (cls : Nat) : Bool :=
  if cls < 32 then t.en0.getLsbD cls else t.en1.getLsbD (cls - 32)

/-- A record of an enabled class has opened (R457, TALLY_IRQ). -/
def tallyIrq (s : State) (cls : Nat) : State :=
  if irqEnabled s.tally cls then
    match s.tally.lastIrq with
    | some t =>
      if s.time < t + s.tally.gapUs * 1000 then { s with tally := { s.tally with pendingIrq := true } }
      else msix { s with tally := { s.tally with pendingIrq := false, lastIrq := some s.time } } 8
    | none => msix { s with tally := { s.tally with lastIrq := some s.time } } 8
  else s

/-- The new record of a report. -/
def newRec (s : State) (r : Report) : Rec :=
  { subject := r.subject, cls := r.cls, isOpen := true, count := 1, reporter := r.reporter,
    firstNs := s.tally.clock, lastNs := s.tally.clock, firstBead := s.bead.count, d0 := r.d0, d1 := r.d1,
    seq := s.tally.nextSeq, window := s.tally.windowMs * 1000000 }

/-- Opens the record of a report in a slot (R455). -/
def tallyOpen (s : State) (slot : Nat) (r : Report) : State :=
  tallyIrq { s with tally := { s.tally with
    slots := tput none s.tally.slots slot (some (newRec s r))
    nextSeq := if s.tally.nextSeq = 0xFFFFFFFF then 1 else s.tally.nextSeq + 1 } } r.cls

/-- A report reaches the tally (R455). -/
def tallyAdd (s : State) (r : Report) : State :=
  match (tallyRecs s.tally).find? fun x => recOpen s.tally.clock x.2 && x.2.subject == r.subject && x.2.cls == r.cls with
  | some (i, q) =>
    let q' := { q with count := min (q.count + 1) 0xFFFFFFFF, lastNs := s.tally.clock }
    { s with tally := { s.tally with slots := tput none s.tally.slots i (some q') } }
  | none =>
    match tallyFree s.tally with
    | some i => tallyOpen s i r
    | none =>
      match tallyOldest s.tally with
      | some i => tallyOpen { s with tally := { s.tally with lost := min (s.tally.lost + 1) 0xFFFF } } i r
      | none => { s with tally := { s.tally with overflow := min (s.tally.overflow + 1) 0xFFFF } }

/-- A unit reports an event. While D1 is off the Nightcap holds it (R458); while the Crown is in reset there is
no tally. -/
def report (s : State) (r : Report) : State :=
  if d1Off s then
    if s.tally.held.length < 16 then { s with tally := { s.tally with held := s.tally.held ++ [r] } }
    else { s with tally := { s.tally with heldDrop := s.tally.heldDrop + 1 } }
  else if crownUp s then tallyAdd s r
  else s

/-- An event of this package, reported by a local endpoint. -/
def event (s : State) (loc cls : Nat) (subject : W32) (d0 d1 : Nat) : State :=
  report s { reporter := BitVec.ofNat 32 (selfAddr s loc), subject := subject, cls := cls,
             d0 := BitVec.ofNat 64 d0, d1 := BitVec.ofNat 64 d1 }

/-! ## Other packages (R343, R344) -/

/-- A route to another package exists (R344); this package needs none. -/
def reachable (s : State) (pkg : Nat) : Bool := s.dom.inDomain && (tget none s.dom.routes pkg).isSome

/-- The neighbour on a port as a destination or a source: joins and what is flooded go from port to port. -/
def nearby (p : Nat) : Nat := 65536 + p

/-- The port by which flits for a destination leave (R344). -/
def outPort (s : State) (dst : Nat) : Option Nat := if 65536 ≤ dst then some (dst - 65536) else tget none s.dom.routes dst

/-- A flit joins the queue of its class at a port (R340). -/
def pushFlit (x : Port) (f : Flit) : Port :=
  if f.cls = 0 then { x with tx0 := x.tx0 ++ [f] }
  else if f.cls = 1 then { x with tx1 := x.tx1 ++ [f] }
  else { x with tx2 := x.tx2 ++ [f] }

/-- `n` flits of this package join the queue of a class at the port that serves their destination. No format of theirs is
given, so their bytes are free (notes/assumptions/47.md). -/
def queueFlits (s : State) (cls dst n : Nat) : State :=
  match outPort s dst with
  | none => s
  | some p =>
    nextFree (setPort s p ((List.range n).foldl (fun x i =>
      pushFlit x { cls := cls, dst := dst, data := (List.range 64).map fun j => Config.freeByte s.free (64 * i + j) })
      (getPort s p)))

/-- What the Crown sends in FL0 enters Floine, in order, while its allowance lasts (R341). -/
def injectFl0 : List (Nat × Wire) → State → State
  | [], s => { s with crown := { s.crown with fl0Wait := [] } }
  | (dst, w) :: t, s =>
    if 0 < s.crown.fl0 then
      injectFl0 t (queueFlits (wire { s with crown := { s.crown with fl0 := s.crown.fl0 - 1 } } w) 0 dst 1)
    else { s with crown := { s.crown with fl0Wait := (dst, w) :: t } }

/-- The Crown sends one flit of FL0. -/
def sendFl0 (s : State) (dst : Nat) (w : Wire) : State := injectFl0 (s.crown.fl0Wait ++ [(dst, w)]) s

/-- `n` nanoseconds: the Crown may send one flit more per 256 ns, up to 4 back to back (R341). -/
def refillFl0 (n : Nat) (s : State) : State :=
  let k := (s.crown.fl0Frac + n) / 256
  let s1 := injectFl0 s.crown.fl0Wait { s with crown := { s.crown with
    fl0 := s.crown.fl0 + k, fl0Frac := (s.crown.fl0Frac + n) % 256 } }
  { s1 with crown := { s1.crown with fl0 := min 4 s1.crown.fl0 } }

/-- Sends a control message under a new number and keeps it until it is acknowledged (R343). -/
def sendCtl (s : State) (dst : Nat) (m : Ctl) : State :=
  let n := s.dom.ctlSeq
  sendFl0 { s with dom := { s.dom with
    ctlSeq := n + 1
    ctl := s.dom.ctl ++ [{ seq := n, dst := dst, m := m, firstAt := s.time, sentAt := s.time }] } } dst (.ctl dst n m)

/-- Acknowledges a control message or a message of another package (R343). -/
def sendAck (s : State) (dst seq : Nat) : State := sendFl0 s dst (.ctlAck dst seq)

/-- Flits of 64 bytes. -/
def flitsOf (b : Bytes) : Nat := (b.length + 63) / 64

/-- A message to a core of another package leaves, a request of class FL2 (R340, R359). -/
def sendMessage (s : State) (dst seq : Nat) (data : Bytes) : State :=
  queueFlits (wire s (.message dst seq data)) 2 (dst / 4096) (flitsOf data)

/-- The link die by which an off-package flit of a core enters Floine, on the core's side of the package (R346). -/
def entryDie (core : Nat) : Nat :=
  if coreX core < 32 then (if coreY core < 16 then 0 else if coreY core < 28 then 1 else 2)
  else if coreY core < 13 then 3 else if coreY core < 26 then 4 else 5

/-- A remote read request of a core leaves (R346, R356). -/
def sendRead (s : State) (dst core : Nat) (gen : W32) (req : Bytes) : State :=
  queueFlits (wire s (.readRequest dst core (entryDie core) gen req)) 2 (dst / 4096) 1

/-- The reply to a remote read leaves, a response of class FL1 (R340, R357). -/
def sendReply (s : State) (dst core : Nat) (gen : W32) (data : Bytes) : State :=
  queueFlits (wire s (.readReply dst core gen data)) 1 dst (flitsOf data)

/-! ## Mailbox replies (R377, R378) -/

/-- The bytes of a reply: type, tag, status, and with OK the results from byte 4 on. -/
def replyBytes (req : Bytes) (status : Nat) (results : Bytes) : Bytes :=
  slice req 0 2 ++ leN 2 status ++ (if status = 0 then results else [])

/-- A reply waits for its firmware-to-host mailbox. -/
def putReply (s : State) (m : Nat) (b : Bytes) : State :=
  { s with mail := { s.mail with replies := tput [] s.mail.replies m (tget [] s.mail.replies m ++ [b]) } }

def getF2h (s : State) (m : Nat) : F2H := tget {} s.mail.f2h m
def setF2h (s : State) (m : Nat) (x : F2H) : State := { s with mail := { s.mail with f2h := tput {} s.mail.f2h m x } }
def getReplies (s : State) (m : Nat) : List Bytes := tget [] s.mail.replies m

/-- The firmware-to-host mailbox of a channel takes a reply: it is empty, and no earlier reply waits for it. -/
def mailFree (s : State) (m : Nat) : Bool := !(getF2h s m).full && (getReplies s m).isEmpty

/-- A reply is written into its mailbox, with FULL, LEN and vector m, or waits for it (R377). -/
def giveReply (s : State) (m : Nat) (b : Bytes) : State :=
  if mailFree s m then msix (setF2h s m { data := b, full := true }) m else putReply s m b

/-- Answers a request that has taken its time (R378). -/
def endSlow (s : State) (m : Nat) (status : Nat) (results : Bytes) : State :=
  match s.mail.slow.find? fun x => x.1 == m with
  | none => s
  | some (_, r) =>
    giveReply { s with mail := { s.mail with slow := s.mail.slow.filter fun x => x.1 != m } } m
      (replyBytes r.msg status results)

/-- The next state of a command that changes the state by `f` where `ok` holds and otherwise leaves it
(notes/assumptions/3.md). -/
def onlyIf (ok : Bool) (s t : State) : Host.Outcome State Fault Refusal := .next (if ok then t else s)

end Sys2Proof.Machine
end

