-- ==== Sys2Proof/Machine/Digest.lean ====
section
/-! DEFINITION. SipHash-2-4 (R299, R362, R415), the two CRC-32 (R191, R338) and the commit digest's shape. -/

namespace Sys2Proof.Machine

open Sys2Proof

/-- The four words of SipHash's state. -/
structure Sip where
  a : W64
  b : W64
  c : W64
  d : W64
deriving DecidableEq, Repr

/-- One SipRound. -/
def sipRound (v : Sip) : Sip :=
  let a := v.a + v.b
  let b := v.b.rotateLeft 13 ^^^ a
  let a := a.rotateLeft 32
  let c := v.c + v.d
  let d := v.d.rotateLeft 16 ^^^ c
  let a := a + d
  let d := d.rotateLeft 21 ^^^ a
  let c := c + b
  let b := b.rotateLeft 17 ^^^ c
  let c := c.rotateLeft 32
  { a := a, b := b, c := c, d := d }

/-- One message word, two rounds. -/
def sipWord (v : Sip) (m : W64) : Sip :=
  let v := sipRound (sipRound { v with d := v.d ^^^ m })
  { v with a := v.a ^^^ m }

/-- The list cut in pieces of `n`. -/
def chunks {α : Type} (n : Nat) : Nat → List α → List (List α)
  | 0, _ => []
  | fuel + 1, l => if l.isEmpty then [] else l.take n :: chunks n fuel (l.drop n)

/-- SipHash-2-4 of a message under a 128-bit key. -/
def siphash (key : BitVec 128) (m : Bytes) : W64 :=
  let k0 : W64 := key.setWidth 64
  let k1 : W64 := (key >>> 64).setWidth 64
  let v : Sip :=
    { a := k0 ^^^ 0x736f6d6570736575, b := k1 ^^^ 0x646f72616e646f6d,
      c := k0 ^^^ 0x6c7967656e657261, d := k1 ^^^ 0x7465646279746573 }
  let whole := m.length / 8 * 8
  let v := (chunks 8 m.length (m.take whole)).foldl (fun v w => sipWord v (BitVec.ofNat 64 (ofLE w))) v
  let tail := BitVec.ofNat 64 (ofLE (m.drop whole) + m.length % 256 * 2 ^ 56)
  let v := sipWord v tail
  let v := sipRound (sipRound (sipRound (sipRound { v with c := v.c ^^^ 0xff })))
  v.a ^^^ v.b ^^^ v.c ^^^ v.d

/-- One bit of a reflected CRC-32. -/
def crcBit (poly c : W32) : W32 := if c.getLsbD 0 then (c >>> 1) ^^^ poly else c >>> 1

/-- One byte of a reflected CRC-32. -/
def crcByte (poly c : W32) (x : Byte) : W32 :=
  (List.range 8).foldl (fun c _ => crcBit poly c) (c ^^^ x.setWidth 32)

/-- A reflected CRC-32 with initial value and final XOR 0xFFFF_FFFF. -/
def crc32With (poly : W32) (m : Bytes) : W32 := (m.foldl (crcByte poly) 0xFFFFFFFF) ^^^ 0xFFFFFFFF

/-- CRC-32 of IEEE 802.3 (R191, R211). -/
def crc32 (m : Bytes) : W32 := crc32With 0xEDB88320 m

/-- CRC-32C (R338). -/
def crc32c (m : Bytes) : W32 := crc32With 0x82F63B78 m

end Sys2Proof.Machine
end

