-- ==== Sys2Proof/Machine/Rs.lean ====
section
/-! DEFINITION. The check code of a line, RS(36,32) over GF(2^16) (R281, R282, R283). -/

namespace Sys2Proof.Machine

open Sys2Proof

/-! ## The field: polynomials over GF(2) modulo x^16 + x^12 + x^3 + x + 1 (R281) -/

/-- Times x. -/
def gfX (a : W16) : W16 := (a <<< 1) ^^^ (if a.getLsbD 15 then 0x100B else 0)

/-- The product: the sum of `a * x^i` over the set bits `i` of `b`. -/
def gfMulGo (b : W16) : Nat → Nat → W16 → W16
  | 0, _, _ => 0
  | n + 1, i, a => (if b.getLsbD i then a else 0) ^^^ gfMulGo b n (i + 1) (gfX a)
def gfMul (a b : W16) : W16 := gfMulGo b 16 0 a

def gfPow (a : W16) : Nat → W16
  | 0 => 1
  | n + 1 => gfMul a (gfPow a n)

/-- The inverse, `a` to the power 2^16 - 2 = 2 + 4 + ... + 2^15. -/
def gfInvGo : Nat → W16 → W16
  | 0, _ => 1
  | n + 1, a => let b := gfMul a a; gfMul b (gfInvGo n b)
def gfInv (a : W16) : W16 := gfInvGo 15 a

/-! ## The code -/

/-- A power of α, which is x. -/
def alphaPow : Nat → W16
  | 0 => 1
  | n + 1 => gfX (alphaPow n)

/-- The locator of symbol `i`, α^(35 - i): symbol 0 is the highest coefficient (notes/assumptions/14.md). -/
def locator (i : Nat) : W16 := alphaPow (35 - i)

/-- The value at α^j of a word given by its symbols other than 0, for the roots α^0 to α^3 of the generator. -/
def syndrome (e : ErrPat) (j : Nat) : W16 :=
  e.foldl (fun a x => a ^^^ gfMul x.2 (gfPow (locator x.1) j)) 0
def syndromes (e : ErrPat) : List W16 := (List.range 4).map (syndrome e)

/-- Differences that no longer hold a locator: S_(j+1) + X * S_j. -/
def without (x : W16) : List W16 → List W16
  | a :: b :: t => (b ^^^ gfMul x a) :: without x (b :: t)
  | _ => []

/-- The values at given locators that have the syndromes, if there are any: each locator in turn is eliminated. -/
def solveAt : List W16 → List W16 → Option (List W16)
  | [], syn => if syn.all (· == 0) then some [] else none
  | x :: t, syn =>
    match solveAt t (without x syn) with
    | none => none
    | some ys =>
      let y := (t.zip ys).map fun z => gfMul z.2 (gfInv (z.1 ^^^ x))
      some ((y.foldl (· ^^^ ·) (syn.headD 0)) :: y)

/-- The lists of at most `n` positions of `l`, in order. -/
def choices : Nat → List Nat → List (List Nat)
  | 0, _ => [[]]
  | _, [] => [[]]
  | n + 1, i :: t => choices (n + 1) t ++ (choices n t).map fun c => i :: c

/-- The errors that a decoder with erased symbols `er` finds: the one word within its power, twice the errors plus
the erasures at most 4, with the syndromes of what it read; none if there is none (R282, R283). -/
def findErrs (er : List Nat) (syn : List W16) : Option ErrPat :=
  (choices ((4 - er.length) / 2) ((List.range 36).filter fun i => !er.contains i)).findSome? fun p =>
    (solveAt ((er ++ p).map locator) syn).map fun ys => ((er ++ p).zip ys).filter fun x => x.2 != 0

/-! ## Symbols and pins -/

/-- Data symbol `i` of a line: bytes 2i and 2i + 1, the even one low. -/
def dataSym (b : Bytes) (i : Nat) : W16 := BitVec.ofNat 16 (fieldLE b (2 * i) 2)

/-- The four check symbols of a line's 64 data bytes: with them every syndrome is 0. -/
def checkSyms (b : Bytes) : List W16 :=
  (solveAt (([32, 33, 34, 35] : List Nat).map locator) (syndromes ((List.range 32).map fun i => (i, dataSym b i)))).getD []

/-- What pin `p` of the 72 (DQ0 to DQ63, CB0 to CB7) carries in beat `b` of a burst of 36 symbols. -/
def pinBit (syms : List W16) (p b : Nat) : Bool := ((syms[p / 2]?).getD 0).getLsbD (2 * b + p % 2)

end Sys2Proof.Machine
end

