-- ==== Sys2Proof/Machine/Alloc.lean ====
section
/-! DEFINITION. Pile memory (R279, R284), its allocation (R292, R307, R315), page tables and TLBs (R304 to
R306), and state objects in the piles (R194, R292 to R297). -/

namespace Sys2Proof.Machine

open Sys2Proof

/-! ## Pile memory -/

/-- Populated bytes of a pile (R279). -/
def pileBytes : Nat := 48 * 2 ^ 30

/-- The address is populated and its pile not fenced (R279). -/
def paOk (s : State) (pa : Nat) : Bool :=
  decide (pa < 2 ^ 40) && decide (pa % 2 ^ 36 < pileBytes) && !pileFenced s (pa / 2 ^ 36)

/-- The lines of 64 bytes that `n` bytes at `pa` touch. -/
def linesOf (pa n : Nat) : List Nat :=
  if n = 0 then [] else (List.range ((pa % 64 + n + 63) / 64)).map fun i => pa / 64 * 64 + 64 * i

/-- Whether the line lies wholly in `n` bytes at `pa`. -/
def lineWhole (pa n line : Nat) : Bool := decide (pa ≤ line) && decide (line + 64 ≤ pa + n)

/-- The channel of an address and the line within it (R280). -/
def channelOf (pa : Nat) : Nat := Nat.xor (bits pa 12 8) (bits pa 17 13)
def channelLine (pa : Nat) : Nat := bits pa 35 13 * 4 + bits pa 7 6

/-- Bank, row and column group of a line in its pile. -/
def dramBank (pa : Nat) : Nat := Config.dramBank (channelOf pa) (channelLine pa)
def dramRow (pa : Nat) : Nat := Config.dramRow (channelOf pa) (channelLine pa)
def dramCol (pa : Nat) : Nat := Config.dramCol (channelOf pa) (channelLine pa)

/-- Symbols of the channel that the line's decoder treats as erased (R283). -/
def erasedSyms (s : State) (pa : Nat) : List Nat :=
  ((getPile s (pa / 2 ^ 36)).erased.filter fun x => x.1 == channelOf pa).map Prod.snd

/-- The line's decoder corrects the pattern: twice the errors plus the erasures is at most 4 (R282, R283). -/
def correctable (s : State) (pa : Nat) (e : ErrPat) : Bool :=
  let er := erasedSyms s pa
  let n := (e.filter fun x => !er.contains x.1).length
  decide (2 * n + er.length ≤ 4)

/-- Combines two patterns: flips of one symbol are added. -/
def errXor (a b : ErrPat) : ErrPat :=
  (a.filter fun x => !(b.any fun y => y.1 == x.1)) ++
    b.filterMap fun y =>
      match a.find? fun x => x.1 == y.1 with
      | some x => if x.2 ^^^ y.2 = 0 then none else some (y.1, x.2 ^^^ y.2)
      | none => some y

/-- The errors a line holds. -/
def lineErrs (s : State) (line : Nat) : ErrPat := tget [] s.pile.errs line

/-- What the decoder of a line makes of a pattern: the flips it leaves and the symbols it corrects, none if it reports
the line uncorrectable. A pattern within its power is what it finds, as two codewords differ in 5 symbols; beyond it the
line may lie within its power of another codeword, which nobody can detect (R282). -/
def decodeLine (s : State) (line : Nat) (e : ErrPat) : Option (ErrPat × List Nat) :=
  if correctable s line e then some ([], e.map Prod.fst)
  else (findErrs (erasedSyms s line) (syndromes e)).map fun f => (errXor e f, f.map Prod.fst)

/-- The flips in byte `i` of a line. -/
def flipByte (e : ErrPat) (i : Nat) : Byte :=
  match e.find? fun x => x.1 == i / 2 with
  | some x => if i % 2 = 0 then x.2.setWidth 8 else (x.2 >>> 8).setWidth 8
  | none => 0

/-- The flips that reading a line as it is stored leaves in its data. -/
def lineFlips (s : State) (line : Nat) : ErrPat :=
  match lineErrs s line with
  | [] => []
  | e => match decodeLine s line e with | some r => r.1 | none => []

/-- Reads bytes of pile memory. -/
def pmRead (s : State) (pa n : Nat) : Bytes :=
  (List.range n).map fun i =>
    tget 0 s.pile.mem (pa + i) ^^^ flipByte (lineFlips s ((pa + i) / 64 * 64)) ((pa + i) % 64)

/-- The line cannot be corrected as it is stored. -/
def lineBad (s : State) (line : Nat) : Bool := (decodeLine s line (lineErrs s line)).isNone

/-- Lines that a write of `n` bytes at `pa` reads, merges and writes back corrected (R284). -/
def mergedLines (s : State) (pa n : Nat) : List Nat :=
  (linesOf pa n).filter fun l => !lineWhole pa n l && lineErrs s l != [] && !lineBad s l

/-- Lines that such a write cannot read, so that it does not take place in them (R284). -/
def badMerge (s : State) (pa n : Nat) : List Nat :=
  (linesOf pa n).filter fun l => !lineWhole pa n l && lineErrs s l != [] && lineBad s l

/-- The bytes of a line as its data symbols are stored. -/
def rawLine (s : State) (line : Nat) : Bytes := (List.range 64).map fun i => tget 0 s.pile.mem (line + i)

/-- The 36 symbols of a line as they are stored, the errors it holds on top of its codeword (R281). -/
def lineSyms (s : State) (line : Nat) : List W16 :=
  (((List.range 32).map (dataSym (rawLine s line)) ++ checkSyms (rawLine s line)).zip (List.range 36)).map fun x =>
    x.1 ^^^ (match (lineErrs s line).find? fun y => y.1 == x.2 with | some y => y.2 | none => 0)

/-- Writes bytes to pile memory; a line written whole, or merged, loses the errors it held, and one that cannot be read
to be merged stays as it is (R284, R289). -/
def pmWrite (s : State) (pa : Nat) (b : Bytes) : State :=
  let fix := mergedLines s pa b.length
  let m := memPut (fix.foldl (fun m l => memPut m l (pmRead s l 64)) s.pile.mem) pa b
  { s with pile := { s.pile with
      mem := (badMerge s pa b.length).foldl (fun m l => memPut m l (rawLine s l)) m
      errs := s.pile.errs.filter fun x => !lineWhole pa b.length x.1 && !fix.contains x.1 } }

/-- `n` zero bytes. -/
def zeroBytes (n : Nat) : Bytes := List.replicate n 0

/-- Free bytes from the model's counter (notes/assumptions/7.md). -/
def freeBytes (tag n : Nat) : Bytes := (List.range n).map fun i => Config.freeByte tag i

/-- The `n` bytes at `pa` become bytes the spec leaves undefined; nothing is written, so the lines keep their errors. -/
def pmFree (s : State) (pa n : Nat) : State :=
  nextFree { s with pile := { s.pile with mem := memPut s.pile.mem pa (freeBytes s.free n) } }

/-- The first uncorrectable line of `n` bytes at `pa`. -/
def firstBad (s : State) (pa n : Nat) : Option Nat := (linesOf pa n).find? (lineBad s)

/-- The base die has corrected lines of a pile. -/
def bumpCe (s : State) (pile n : Nat) : State :=
  if n = 0 then s else setPile s pile { getPile s pile with ceCount := min ((getPile s pile).ceCount + n) 0xFFFF }

/-- A read of `n` bytes at `pa` counts the lines it corrects (R288). -/
def noteRead (s : State) (pa n : Nat) : State :=
  bumpCe s (pa / 2 ^ 36) ((linesOf pa n).filter fun l => lineErrs s l != [] && !lineBad s l).length

/-- A read that stays uncorrectable is counted and reported (R288); `kind` is 0 for a read, 1 for the scrub. -/
def ueReport (s : State) (line kind : Nat) : State :=
  let p := line / 2 ^ 36
  let s1 := setPile s p { getPile s p with ueCount := min ((getPile s p).ueCount + 1) 0xFF }
  event s1 (pileLoc p) 0x13 (subjEndpoint (selfAddr s (pileLoc p))) line kind

/-! ## Allocation -/

/-- The extent counts against QUOTA of the partition (R315). -/
def ownerPart : Owner → Option Nat
  | .page p => some p
  | .table _ => none
  | .state p _ => some p
  | .cmd p _ => some p

/-- Pile memory the partition holds (R315). -/
def heldBytes (s : State) (p : Nat) : Nat :=
  sumN ((s.pile.alloc.filter fun e => ownerPart e.owner == some p).map Extent.size)

/-- The partition may hold `n` bytes more (R315). -/
def quotaOk (s : State) (p n : Nat) : Bool :=
  (getPart s p).quota == 0 || decide (heldBytes s p + n ≤ (getPart s p).quota * 2 ^ 30)

/-- Bytes free in a pile. -/
def pileRoom (s : State) (pile : Nat) : Nat :=
  pileBytes - sumN ((s.pile.alloc.filter fun e => e.base / 2 ^ 36 == pile).map Extent.size)

/-- The extent `[base, base + size)` lies in the pile and overlaps nothing allocated. -/
def extentFree (s : State) (pile base size : Nat) : Bool :=
  decide (pile * 2 ^ 36 ≤ base) && decide (base + size ≤ pile * 2 ^ 36 + pileBytes) &&
    s.pile.alloc.all fun e => !overlap base size e.base e.size

/-- A base for `size` bytes in the pile: the one firmware prefers, a free value, where it fits, else the first
free place at or above the end of something allocated (notes/assumptions/12.md). -/
def physFind (s : State) (pile size align : Nat) : Option Nat :=
  let pref := pile * 2 ^ 36 + alignUp (Config.freeNat s.free % pileBytes) align
  let ends := (s.pile.alloc.filter fun e => e.base / 2 ^ 36 == pile).map fun e => alignUp (e.base + e.size) align
  (pref :: (pile * 2 ^ 36) :: ends).find? fun b => extentFree s pile b size

/-- The 4 KiB pages of a range that hold an uncorrectable line. -/
def badPages (s : State) (base size : Nat) : List Nat :=
  ((s.pile.errs.filter fun x => decide (base ≤ x.1) && decide (x.1 < base + size) && lineBad s x.1).map fun x =>
    x.1 / 4096 * 4096).eraseDups

/-- Firmware overwrites every line of a page before it hands it out; with what is not stated (R289,
notes/assumptions/7.md). -/
def overwritePage (s : State) (pg : Nat) : State := nextFree (pmWrite s pg (freeBytes s.free 4096))

/-- Records an allocated extent. -/
def addExtent (s : State) (base size : Nat) (o : Owner) : State :=
  let s := (badPages s base size).foldl overwritePage s
  nextFree { s with pile := { s.pile with alloc := s.pile.alloc ++ [{ base := base, size := size, owner := o }] } }

/-- Frees every extent that `f` picks. -/
def freeExtents (s : State) (f : Extent → Bool) : State :=
  { s with pile := { s.pile with alloc := s.pile.alloc.filter fun e => !f e } }

/-- Allocates in one pile, within QUOTA where the owner counts. -/
def physAlloc (s : State) (pile size align : Nat) (o : Owner) : Option (Nat × State) :=
  if pileFenced s pile then none
  else if (match ownerPart o with | some p => !quotaOk s p size | none => false) then none
  else (physFind s pile size align).map fun b => (b, addExtent s b size o)

/-- Allocates in the first of the piles that has room. -/
def physAllocAny (s : State) (size align : Nat) (o : Owner) : List Nat → Option (Nat × State)
  | [] => none
  | p :: t =>
    match physAlloc s p size align o with
    | some r => some r
    | none => physAllocAny s size align o t

/-- The unfenced piles. -/
def pilesUp (s : State) : List Nat := (List.range 16).filter fun p => !pileFenced s p

/-! ## Page tables (R304) -/

def pteP (e : W64) : Bool := e.getLsbD 0
def pteW (e : W64) : Bool := e.getLsbD 1
def pteC (e : W64) : Bool := e.getLsbD 3
def pteSw (e : W64) : Nat := bits e.toNat 11 8
def ptePa (e : W64) : Nat := bits e.toNat 39 12 * 4096

def pteL (e : W64) : Bool := e.getLsbD 2
/-- The entry names a table of the next level. -/
def pteTable (e : W64) : Bool := pteP e && !pteL e
/-- An entry that names a table: present, and its address (notes/assumptions/45.md). -/
def mkTable (pa : Nat) : W64 := BitVec.ofNat 64 (pa + 1)

/-- The address of the entry of a table that serves `dva`: `up` is 0 for a table of level [20:12], 3 for one of level
[47:39]. -/
def pteAddr (tbl dva up : Nat) : Nat := tbl + 8 * (dva / 2 ^ (12 + 9 * up) % 512)
def readPte (s : State) (pa : Nat) : W64 := BitVec.ofNat 64 (ofLE (pmRead s pa 8))
def writePte (s : State) (pa : Nat) (e : W64) : State := pmWrite s pa (leN 8 e.toNat)

/-- The key of a page's entry: twice the 4 KiB page number, plus one for an entry of level [29:21], which maps a 2 MiB
page. -/
def pteKey (dva : Nat) (big : Bool) : Nat :=
  if big then dva / 2 ^ 21 * 2 ^ 9 * 2 + 1 else dva / 4096 * 2
/-- The address a key's page begins at, and the level its entry is at. -/
def keyDva (key : Nat) : Nat := key / 2 * 4096
def keyUp (key : Nat) : Nat := key % 2

/-- The table of a level that serves the address, from the root down; none where a level above names none. -/
def tableAt (s : State) (p dva : Nat) : Nat → Option Nat
  | 0 => (getPart s p).root
  | n + 1 =>
    match tableAt s p dva n with
    | none => none
    | some t =>
      let e := readPte s (pteAddr t dva (3 - n))
      if pteTable e then some (ptePa e) else none

/-- The entry of a key: 0 where there is no table for it, or where it names a table. -/
def pteOf (s : State) (p key : Nat) : W64 :=
  match tableAt s p (keyDva key) (3 - keyUp key) with
  | none => 0
  | some t =>
    let e := readPte s (pteAddr t (keyDva key) (keyUp key))
    if keyUp key = 1 ∧ !pteL e then 0 else e

/-- The entry that maps the address, its page size and its key; an entry of 0 is unmapped. -/
def pteAt (s : State) (p dva : Nat) : W64 × Nat × Nat :=
  let e2 := pteOf s p (pteKey dva true)
  if e2 ≠ 0 then (e2, 2 ^ 21, pteKey dva true)
  else
    let e := pteOf s p (pteKey dva false)
    (e, if pteC e then 65536 else 4096, pteKey dva false)

/-- A new table: 4 KiB of pile memory with every entry 0. -/
def newTable (s : State) (p : Nat) : Option (Nat × State) :=
  (physAllocAny s 4096 4096 (.table p) (pilesUp s)).map fun x => (x.1, pmWrite x.2 x.1 (zeroBytes 4096))

/-- The table of a level that serves the address, made with those above it where it is missing; none if no memory is left
for one. -/
def growTable (s : State) (p dva : Nat) : Nat → Option (Nat × State)
  | 0 =>
    match (getPart s p).root with
    | some t => some (t, s)
    | none => (newTable s p).map fun x => (x.1, setPart x.2 p { getPart x.2 p with root := some x.1 })
  | n + 1 =>
    match growTable s p dva n with
    | none => none
    | some (t, s1) =>
      let a := pteAddr t dva (3 - n)
      let e := readPte s1 a
      if pteTable e then some (ptePa e, s1)
      else (newTable s1 p).map fun x => (x.1, writePte x.2 a (mkTable x.1))

/-- The table that an entry names is free again. -/
def dropTable (s : State) (p : Nat) (e : W64) : State :=
  if pteTable e then freeExtents s fun x => x.base == ptePa e && x.owner == Owner.table p else s

/-- Writes the entry of a key; none if no memory is left for a table it needs. An entry of 0 needs none. -/
def putPte (s : State) (p key : Nat) (e : W64) : Option State :=
  let dva := keyDva key
  let up := keyUp key
  if e = 0 then
    match tableAt s p dva (3 - up) with
    | none => some s
    | some t =>
      let a := pteAddr t dva up
      some (if pteTable (readPte s a) then s else writePte s a 0)
  else
    match growTable s p dva (3 - up) with
    | none => none
    | some (t, s1) =>
      let a := pteAddr t dva up
      some (writePte (dropTable s1 p (readPte s1 a)) a e)

/-- Writes the entries of a list of keys. -/
def putPtes (s : State) (p : Nat) : List (Nat × W64) → Option State
  | [] => some s
  | (k, e) :: t =>
    match putPte s p k e with
    | some s1 => putPtes s1 p t
    | none => none

/-- Writes an entry whose tables are there. -/
def setPte (s : State) (p key : Nat) (e : W64) : State := (putPte s p key e).getD s

/-- A present leaf: PA, W, C. -/
def mkPte (pa : Nat) (w c : Bool) : W64 := BitVec.ofNat 64 (pa + b2n c * 8 + 4 + b2n w * 2 + 1)
/-- A lazy leaf; it keeps W, which validation checks (R308). -/
def mkLazy (w c : Bool) : W64 := BitVec.ofNat 64 (0x200 + b2n c * 8 + 4 + b2n w * 2)

/-- The entries of a page, by key: present at `pa` or lazy. -/
def leaves (dva size : Nat) (w : Bool) (pa : Option Nat) : List (Nat × W64) :=
  let leaf := fun (c : Bool) (o : Nat) => match pa with | some a => mkPte (a + o) w c | none => mkLazy w c
  if size = 2 ^ 21 then [(pteKey dva true, leaf false 0)]
  else (List.range (size / 4096)).map fun i => (pteKey (dva + 4096 * i) false, leaf (size == 65536) (4096 * i))

/-- The keys of a page's entries. -/
def leafKeys (dva size : Nat) : List Nat := (leaves dva size false none).map Prod.fst

/-- Where a page's memory is, while it is being moved too. -/
def pageHome (s : State) (p dva : Nat) : Option Nat :=
  let e := (pteAt s p dva).1
  if pteP e || pteSw e == 1 then some (ptePa e) else none

/-- Present, moving or lazy (R308). -/
def pteMapped (e : W64) : Bool := pteP e || pteSw e == 1 || pteSw e == 2

/-- The start of every mapped or unmapped page that a range touches, by the pages' own sizes. -/
def pagesFrom (s : State) (p fin : Nat) : Nat → Nat → List Nat
  | 0, _ => []
  | fuel + 1, a =>
    if a < fin then
      let sz := (pteAt s p a).2.1
      a / sz * sz :: pagesFrom s p fin fuel (a / sz * sz + sz)
    else []
def pagesOf (s : State) (p dva n : Nat) : List Nat :=
  if n = 0 then [] else pagesFrom s p (dva + n) (n / 4096 + 2) dva

/-- What translating a device address finds. -/
inductive Trans where
  | page (pa size : Nat) (w : Bool)
  | moving (dva : Nat)
  | lazy_ (dva : Nat)
  | none_ (dva : Nat)
  /-- a line of a page table cannot be corrected -/
  | bad (line : Nat)
deriving DecidableEq, Repr

/-- The first line of the tables that a walk reads and cannot correct. -/
def walkBad (s : State) (p dva : Nat) : Option Nat :=
  ([0, 1, 2, 3] : List Nat).findSome? fun n =>
    match tableAt s p dva n with
    | some t => firstBad s (pteAddr t dva (3 - n)) 8
    | none => none

/-- A walk of the page tables (R304, R308): the physical address of the byte. -/
def walk (s : State) (p dva : Nat) : Trans :=
  if dva ≥ 2 ^ 48 then .none_ dva
  else
    match walkBad s p dva with
    | some l => .bad l
    | none =>
      let (e, sz, _) := pteAt s p dva
      if pteP e then
        let off := if sz = 2 ^ 21 then dva % 2 ^ 21 else dva % 4096
        .page (ptePa e + off) sz (pteW e)
      else if pteSw e = 1 then .moving dva
      else if pteSw e = 2 then .lazy_ dva
      else .none_ dva

/-- The entry of a TLB that translates the address. -/
def tlbHit (l : List TlbEnt) (p dva : Nat) : Option TlbEnt :=
  l.find? fun e => e.part == p && decide (e.dva ≤ dva) && decide (dva < e.dva + e.size)

/-- The translation a core's transfer uses: its own TLB, its die's TLB, else a walk (R305). A stale entry is
used until an invalidation removes it (R306). -/
def translate (s : State) (core p dva : Nat) : Trans :=
  match tlbHit (getCore s core).tlb p dva with
  | some e => .page (e.pa + (dva - e.dva)) e.size e.w
  | none =>
    match tlbHit (tget [] s.dieTlb (dieOf core)) p dva with
    | some e => .page (e.pa + (dva - e.dva)) e.size e.w
    | none => walk s p dva

/-- Every TLB forgets the partition's translations that touch the range, as after the last acknowledgement of
R306. -/
def dropTlb (p dva n : Nat) (l : List TlbEnt) : List TlbEnt :=
  l.filter fun e => !(e.part == p && overlap dva n e.dva e.size)
def tlbDropAll (s : State) (p dva n : Nat) : State :=
  { s with
    cores := (s.cores.map fun x => (x.1, { x.2 with tlb := dropTlb p dva n x.2.tlb })).filter fun x => x.2 != {}
    dieTlb := (s.dieTlb.map fun x => (x.1, dropTlb p dva n x.2)).filter fun x => !x.2.isEmpty }

/-! ## Moving a page (R306, R308) -/

/-- An entry of a page that is being moved. -/
def mkMoving (e : W64) : W64 := BitVec.ofNat 64 (ptePa e + 0x100 + e.toNat % 16 / 2 * 2)

/-- The move under way of the page of an address. -/
def moveOf (s : State) (p dva : Nat) : Option Inval :=
  s.inval.find? fun v => v.part == p && v.moveTo.isSome && decide (v.dva ≤ dva) && decide (dva < v.dva + v.size)

/-- A page is present at a place. -/
def presentAt (s : State) (p dva size pa : Nat) (w : Bool) : State := (putPtes s p (leaves dva size w (some pa))).getD s

/-- Firmware frees a page of a partition. -/
def freePage (s : State) (p base : Nat) : State :=
  freeExtents s fun x => x.base == base && x.owner == Owner.page p

/-- The page of a move is copied to its new place and present there, and the old one is free. A page with an uncorrectable
line stays where it is (notes/assumptions/46.md). -/
def copyPage (s : State) (v : Inval) (new : Nat) : State :=
  let e := (pteAt s v.part v.dva).1
  match firstBad s (ptePa e) v.size with
  | some l => freePage (presentAt (ueReport s l 0) v.part v.dva v.size (ptePa e) (pteW e)) v.part new
  | none =>
    freePage (presentAt (pmWrite (noteRead s (ptePa e) v.size) new (pmRead s (ptePa e) v.size)) v.part v.dva v.size new (pteW e))
      v.part (ptePa e)

/-- Firmware completes the move of a page without waiting (R308). -/
def finishMove (s : State) (p dva : Nat) : State :=
  match moveOf s p dva with
  | none => s
  | some v => copyPage (tlbDropAll { s with inval := s.inval.erase v } p v.dva v.size) v (v.moveTo.getD 0)

/-- Reads device memory through the page tables for the Crown; the first fault or uncorrectable line stops it. -/
inductive DevRead where
  | data (b : Bytes)
  | fault (dva : Nat)
  | moving (dva : Nat)
  | lazy_ (dva : Nat)
  | bad (pa : Nat)
deriving DecidableEq, Repr

/-- The parts of a device range in each of its pages: address and bytes. -/
def devPieces (s : State) (p dva n : Nat) : List (Nat × Nat) :=
  (pagesOf s p dva n).map fun pg =>
    let sz := (pteAt s p pg).2.1
    let lo := max pg dva
    (lo, min (pg + sz) (dva + n) - lo)

/-- A read of a device range counts the lines it corrects. -/
def noteDev (s : State) (p dva n : Nat) : State :=
  (devPieces s p dva n).foldl (fun t x =>
    match walk s p x.1 with
    | .page pa _ _ => noteRead t pa x.2
    | _ => t) s

def devRead (s : State) (p dva n : Nat) : DevRead :=
  let go := (devPieces s p dva n).foldl (fun (acc : DevRead) x =>
    match acc with
    | .data b =>
      match walk s p x.1 with
      | .page pa _ _ =>
        match firstBad s pa x.2 with
        | some l => .bad l
        | none => .data (b ++ pmRead s pa x.2)
      | .moving d => .moving d
      | .lazy_ d => .lazy_ d
      | .none_ d => .fault d
      | .bad l => .bad l
    | r => r) (.data [])
  go

/-! ## State objects -/

/-- Bytes of an element of a state format, codes 0 to 5 (R179, R194). -/
def elemBytes (fmt : Nat) : Nat := if fmt = 0 then 4 else if fmt = 3 ∨ fmt = 4 then 1 else 2

/-- The bytes of one entry (R194). -/
def entryBytes (fmt : Nat) (dims : List Nat) : Nat := dims.foldl (· * ·) 1 * elemBytes fmt

/-- A fresh object of a layout entry, without a place. -/
def objOfLayout (l : Layout) : Obj :=
  let n := entryBytes l.fmt l.dims
  { ring := l.ring, fmt := l.fmt, ndim := l.ndim, dims := l.dims, entries := l.entries,
    espan := alignUp n 64, bytes := n }

/-- The region of an object: whole 64 KiB units for both slots of every entry (R292). -/
def regionBytes (o : Obj) : Nat := alignUp (2 * o.espan * o.entries) 65536

/-- The place of slot `k` of entry `e` (R292). -/
def slotPa (o : Obj) (e k : Nat) : Nat := o.base + (2 * e + k) * o.espan

/-- The current slot of an entry. -/
def curSlot (o : Obj) (e : Nat) : Nat := if o.cur.contains e then 1 else 0

/-- Same shape (R196). -/
def sameShape (a b : Obj) : Bool :=
  a.ring == b.ring && a.fmt == b.fmt && a.ndim == b.ndim && a.dims == b.dims && a.entries == b.entries

/-- Descriptors and entry bits a pile's version directory holds, at most 131,072 and 8,388,608 (R295). -/
def dirRoom (s : State) (pile : Nat) : Nat × Nat :=
  let objs := (s.streams.filter fun x => x.2.home == pile).flatMap (fun x => x.2.objs) ++
    s.cmds.flatMap fun c => (c.news.filter fun n => n.pile == pile).flatMap NewState.objs
  (131072 - objs.length, 8388608 - sumN (objs.map Obj.entries))

/-- Places each object of a list in a pile. -/
def placeObjs (s : State) (pile part stream : Nat) : List Obj → Option (List Obj × State)
  | [] => some ([], s)
  | o :: t =>
    match physAlloc s pile (regionBytes o) 65536 (.state part stream) with
    | none => none
    | some (b, s1) =>
      match placeObjs s1 pile part stream t with
      | none => none
      | some (r, s2) => some ({ o with base := b } :: r, s2)

/-- The objects fit one pile, directory and QUOTA included (R297). -/
def objsFit (s : State) (pile part stream : Nat) (objs : List Obj) : Bool :=
  decide (objs.length ≤ (dirRoom s pile).1) && decide (sumN (objs.map Obj.entries) ≤ (dirRoom s pile).2) &&
    (placeObjs s pile part stream objs).isSome

/-- The state bytes homed in a pile (R323). -/
def homedBytes (s : State) (pile : Nat) : Nat :=
  sumN ((s.pile.alloc.filter fun e => e.base / 2 ^ 36 == pile &&
    (match e.owner with | .state _ _ => true | _ => false)).map Extent.size)

/-- cost(p) of R323 over the rank cores of a set. -/
def pileCost (cores : List Nat) (p : Nat) : Nat :=
  sumN (cores.map fun c =>
    let dc := coreX c / 8
    let dr := coreY c / 8
    let pc := p % 8
    let e := if p < 8 then decide (dr = 3 ∨ dr = 4) else decide (dr ≤ 2)
    (if dc ≤ pc then pc - dc else dc - pc) + b2n e)

/-- The least of a list by a lexicographic key, the first on a tie. -/
def leastBy (key : Nat → Nat × Nat) : List Nat → Option Nat
  | [] => none
  | p :: t =>
    match leastBy key t with
    | none => some p
    | some q =>
      let a := key p
      let b := key q
      if b.1 < a.1 ∨ (b.1 = a.1 ∧ b.2 < a.2) then some q else some p

/-- The loaded set of a handle in a partition. -/
def findSet (s : State) (part : Nat) (h : W32) : Option WSet :=
  s.sets.find? fun x => x.part == part && x.handle == h

/-- The home pile the placer chooses for new objects (R323): by the set's ranks, or, with no set, by free room
among the piles that serve the partition's die columns. -/
def chooseHome (s : State) (part stream : Nat) (h : W32) (objs : List Obj) : Option Nat :=
  let ok := (pilesUp s).filter fun p => objsFit s p part stream objs
  match findSet s part h with
  | some w => leastBy (fun p => (pileCost w.cores p, homedBytes s p)) ok
  | none =>
    let serve := ok.filter fun p => (List.range 40).any fun d => partHasDie s part d && d % 8 == p % 8
    leastBy (fun p => (pileBytes - pileRoom s p, homedBytes s p)) serve

/-- The stream and object whose region holds a physical address, with the entry and the slot. -/
def stateOwner (s : State) (pa : Nat) : Option (Nat × Nat × Nat) :=
  s.streams.findSome? fun x =>
    x.2.objs.findSome? fun o =>
      if x.2.home = pa / 2 ^ 36 ∧ o.espan ≠ 0 ∧ o.base ≤ pa ∧ pa < o.base + 2 * o.espan * o.entries then
        let q := (pa - o.base) / o.espan
        some (x.1, q % 2, if curSlot o (q / 2) = q % 2 then 1 else 0)
      else none

/-- A line of a stream's current slot is uncorrectable: the stream is damaged (R72, R290). -/
def markDamaged (s : State) (pa : Nat) : State :=
  match stateOwner s pa with
  | some (st, _, cur) => if cur = 1 then setStream s st { getStream s st with damaged := true } else s
  | none => s

end Sys2Proof.Machine
end

