-- ==== Sys2Proof/Machine/Mesh.lean ====
section
/-! DEFINITION. The Uavas mesh (R26, R29 to R35): the way of a flit, the classes, what orders flits, and the Crown's
injection into MC0. How long a flit takes, and so the buffers of a router and the turns at its outputs, is timing
(notes/assumptions/23.md). -/

namespace Sys2Proof.Machine

open Sys2Proof

/-! ## The way of a flit (R29) -/

/-- The numbers from `a` to `b`, both included, in the direction from `a`. -/
def span (a b : Nat) : List Nat :=
  if a ≤ b then (List.range (b - a + 1)).map fun i => a + i else (List.range (a - b + 1)).map fun i => a - i

/-- Routers of the core plane from `p` to `q`, first along x and then along y. -/
def xyWay (p q : Nat × Nat) : List (Nat × Nat) :=
  (span p.1 q.1).map (fun x => (x, p.2)) ++ ((span p.2 q.2).drop 1).map fun y => (q.1, y)

/-- Routers of the core plane from `p` to `q`, first along y and then along x. -/
def yxWay (p q : Nat × Nat) : List (Nat × Nat) :=
  (span p.2 q.2).map (fun y => (p.1, y)) ++ ((span p.1 q.1).drop 1).map fun x => (x, q.2)

/-- The lane of its die column that carries a channel of a pile: the bottom pile's are 0 to 31, the top pile's 32
to 63. -/
def laneOf (pile channel : Nat) : Nat := if pile < 8 then channel else 32 + channel

/-- Where a lane of a pile's die column joins the core plane in a die row. -/
def joinAt (pile lane row : Nat) : Nat × Nat := (pile % 8 * 8 + lane / 4 % 8, row * 8 + 3 + lane / 4 / 8)

/-- Where an endpoint sits at the edge of the core plane for a flit to or from core `core`. A flit of the Crown uses
port `core % 8` of its eight, which are the rows 0 to 3 of column 0 and the columns 0 to 3 of row 0
(notes/assumptions/24.md). -/
def crownAt (core : Nat) : Nat × Nat := if core % 8 < 4 then (0, core % 8) else (core % 8 - 4, 0)

/-- The router of a core. -/
def routerOf (core : Nat) : Nat × Nat := (coreX core, coreY core)

/-- The way of a flit from a core to a channel of a pile: it joins its lane in the die row it starts in. -/
def wayToPile (core pile channel : Nat) : List (Nat × Nat) :=
  xyWay (routerOf core) (joinAt pile (laneOf pile channel) (coreY core / 8))

/-- The way of a flit from a channel of a pile to a core: its lane carries it to the core's die row. -/
def wayFromPile (pile channel core : Nat) : List (Nat × Nat) :=
  yxWay (joinAt pile (laneOf pile channel) (coreY core / 8)) (routerOf core)

/-! ## Messages on the mesh (R30, R35) -/

/-- The class of a message: 0 MC0, 1 MC1, 2 MC2. -/
def pktClass : Packet → Nat
  | .kill _ _ => 0
  | .home _ _ _ => 0
  | .grant _ _ _ _ => 1
  | .release _ _ _ _ => 1
  | .request _ _ _ _ => 2
  | .message _ _ _ _ => 2
  | .gather _ _ _ _ => 2

/-- Flits of a class that an input port of a router buffers, in buffers that are the class's own (R30). -/
def classBuffers (cls : Nat) : Nat := if cls = 0 then 2 else 16

/-- The class that an output port of a router serves in a cycle: the first of MC0, MC1, MC2 with a flit ready and credit
available (R31). Which cycles those are is timing, so no step asks. -/
def outputServes (ready credit : Nat → Bool) : Option Nat := [0, 1, 2].find? fun c => ready c && credit c

/-- The source of a message, as a local endpoint. -/
def pktSrc : Packet → Nat
  | .kill _ _ => crownLoc
  | .home _ _ _ => crownLoc
  | .grant a _ _ _ => a
  | .release a _ _ _ => a
  | .request a _ _ _ => a
  | .message a _ _ _ => a
  | .gather a _ _ _ => a

/-- Whether a message is for a local endpoint. -/
def pktFor (p : Packet) (e : Nat) : Bool :=
  match p with
  | .kill b _ => b == e
  | .home l _ _ => l.contains e
  | .grant _ b _ _ => b == e
  | .release _ b _ _ => b == e
  | .request _ b _ _ => b == e
  | .message _ b _ _ => b == e
  | .gather _ _ _ p => pileLoc p == e

/-- The routers a message passes. An index stream uses channel 0 of its base die, a broadcast takes the way of a
flit to each core it has not reached (notes/assumptions/24.md). -/
def pktWay : Packet → List (Nat × Nat)
  | .kill b _ => xyWay (crownAt b) (routerOf b)
  | .home l _ _ => l.flatMap fun b => xyWay (crownAt b) (routerOf b)
  | .grant a b _ _ => xyWay (routerOf a) (routerOf b)
  | .release a b _ _ => xyWay (routerOf a) (routerOf b)
  | .request a b _ _ => xyWay (routerOf a) (routerOf b)
  | .message a b _ _ => xyWay (routerOf a) (routerOf b)
  | .gather a _ _ p => wayToPile a p 0

/-- The mesh carries traffic: the fabric switch of every column group is on (R26). -/
def meshOn (s : State) : Bool := s.pwr.fabricOff.isEmpty

/-- The message at the head of one class from one source to one endpoint: flits of a class between the same two
endpoints arrive in order (R35), and classes overtake each other. -/
def headOf (s : State) (cls src dst : Nat) : Option Packet :=
  s.net.find? fun p => pktClass p == cls && pktSrc p == src && pktFor p dst

/-- Removes the first element that satisfies a predicate. -/
def removeFirst {α : Type} (p : α → Bool) : List α → List α
  | [] => []
  | x :: t => if p x then t else x :: removeFirst p t

/-- Takes the oldest message of a class between two endpoints off the mesh. -/
def takeNet (s : State) (cls src dst : Nat) : Option (Packet × State) :=
  if meshOn s then
    (headOf s cls src dst).map fun x =>
      (x, { s with net := removeFirst (fun p => pktClass p == cls && pktSrc p == src && pktFor p dst) s.net })
  else none

/-! ## Injection (R32) -/

/-- The port of the Crown a message of MC0 leaves by. -/
def crownPort : Packet → Nat
  | .kill b _ => b % 8
  | _ => 0

/-- Flits a port of the Crown may still inject into MC0. -/
def mc0Left (s : State) (port : Nat) : Nat := tget 4 s.crown.mc0 port

/-- Waiting flits of MC0 enter the mesh while their port's allowance lasts, in order. -/
def injectMc0 : List Packet → State → State
  | [], s => s
  | p :: t, s =>
    let k := crownPort p
    if 0 < mc0Left s k then
      injectMc0 t { s with net := s.net ++ [p], crown := { s.crown with mc0 := tput 4 s.crown.mc0 k (mc0Left s k - 1) } }
    else injectMc0 t { s with crown := { s.crown with mc0Wait := s.crown.mc0Wait ++ [p] } }

/-- Puts a message on the mesh. One of MC0 beyond the Crown's allowance waits at its source (R32). -/
def sendNet (s : State) (p : Packet) : State :=
  if pktClass p = 0 then injectMc0 (s.crown.mc0Wait ++ [p]) { s with crown := { s.crown with mc0Wait := [] } }
  else { s with net := s.net ++ [p] }

/-- `n` nanoseconds of FCLK at 1.8 GHz: each of the Crown's ports regains one flit per 4 cycles, up to 4, and waiting
flits enter. `mc0Frac` counts fifths of a cycle. -/
def refillMc0 (n : Nat) (s : State) : State :=
  let k := (s.crown.mc0Frac + 9 * n) / 20
  let s1 := injectMc0 s.crown.mc0Wait { s with crown := { s.crown with
    mc0Wait := [], mc0Frac := (s.crown.mc0Frac + 9 * n) % 20
    mc0 := (List.range 8).foldl (fun t i => tput 4 t i (tget 4 t i + k)) s.crown.mc0 } }
  { s1 with crown := { s1.crown with
    mc0 := (List.range 8).foldl (fun t i => tput 4 t i (min 4 (tget 4 t i))) s1.crown.mc0 } }

/-- Nanoseconds until a kill that waits at the Crown for its port's allowance enters the mesh. -/
def mc0Delay (s : State) (core : Nat) (gen : W32) : Nat :=
  let mine := s.crown.mc0Wait.filter fun p => crownPort p == core % 8
  if mine.contains (.kill core gen) then
    (20 * (1 + (mine.takeWhile fun p => p != .kill core gen).length) - s.crown.mc0Frac + 8) / 9
  else 0

end Sys2Proof.Machine
end

