-- ==== Sys2Proof/Machine/Life.lean ====
section
/-! DEFINITION. The end of a command: its completion entry (R46, R47), the cancellation of a failed stream's
commands (R61), kills (R69 to R73) and cancels (R78 to R80). -/

namespace Sys2Proof.Machine

open Sys2Proof

/-! ## Opcodes and status codes -/

def opRUN : Nat := 0x01
def opLOAD : Nat := 0x02
def opEVICT : Nat := 0x03
def opINIT : Nat := 0x04
def opEXPORT : Nat := 0x05
def opIMPORT : Nat := 0x06
def opOPEN : Nat := 0x07
def opCLOSE : Nat := 0x08
def opCOPY : Nat := 0x09
def opFENCE : Nat := 0x0A
def opWAITR : Nat := 0x0B
def opBIND : Nat := 0x0D

def stOK : Nat := 0x0000
def stBadOpcode : Nat := 0x0001
def stBadLength : Nat := 0x0002
def stOutOfBounds : Nat := 0x0003
def stBadStream : Nat := 0x0004
def stPositionLimit : Nat := 0x0005
def stBadShape : Nat := 0x0006
def stRetryExhausted : Nat := 0x0010
def stMemUncorrectable : Nat := 0x0011
def stPageFault : Nat := 0x0012
def stCreditDeadlock : Nat := 0x0013
def stRemoteUnreachable : Nat := 0x0014
def stStateDamaged : Nat := 0x0015
def stCancelled : Nat := 0x0016
def stDiverged : Nat := 0x0017

/-- Opcodes whose descriptor names a group of streams. -/
def hasGroup (op : Nat) : Bool :=
  op == opRUN || op == opINIT || op == opEXPORT || op == opIMPORT || op == opOPEN || op == opCLOSE || op == opBIND

/-- The opcode of a command. -/
def cop (c : Cmd) : Nat := c.desc.opcode.toNat
/-- First stream and number of streams the command names. -/
def groupFirst (c : Cmd) : Nat := c.desc.first.toNat
def groupCount (c : Cmd) : Nat := if hasGroup (cop c) then c.desc.count.toNat else 0
/-- The streams of a command's group. -/
def groupStreams (c : Cmd) : List Nat := (List.range (groupCount c)).map (groupFirst c + ·)
/-- Two commands name a common stream. -/
def shareStream (a b : Cmd) : Bool := overlap (groupFirst a) (groupCount a) (groupFirst b) (groupCount b)
/-- The command names the stream. -/
def namesStream (c : Cmd) (st : Nat) : Bool :=
  decide (groupFirst c ≤ st) && decide (st < groupFirst c + groupCount c)

/-! ## The completion entry -/

/-- Bytes of the completion entry (table *Completion entry*). -/
def entryOf (s : State) (r : Ring) (c : Cmd) (status addr : Nat) (overrun : Bool) : Bytes :=
  let phase := (r.written.toNat / 2 ^ r.log2) % 2 == 0
  let flags := b2n overrun * 128 + b2n c.late * 32 + min c.reruns 8 * 2 + b2n phase
  let used := if c.dispatches = 0 then 0 else s.bead.count.toNat + 2 ^ 64 - c.firstBead.toNat + 1
  leN 8 c.desc.cookie.toNat ++ leN 2 status ++ leN 1 flags ++ leN 1 0 ++ leN 4 used ++
    leN 8 s.bead.count.toNat ++ leN 8 addr

/-- Adds to a counter of the client's accounting block (R333). -/
def modAcct (s : State) (c : Nat) (f : Acct → Acct) : State :=
  setClient s c { getClient s c with acct := f (getClient s c).acct }

/-- A cancelled command withdraws the subscription it waits on (R361). -/
def withdraw (s : State) (c : Cmd) : State :=
  match c.dep with
  | some d => if !d.met && !d.own then sendCtl s d.pkg (.withdraw c.id) else s
  | none => s

/-- Writes the completion entry of a command (R46, R47): nothing where the pair is faulted or the completion is
lost (R50). -/
def writeEntry (s : State) (c : Cmd) (status addr : Nat) (overrun : Bool) : State :=
  let s := if status = stCancelled then withdraw s c else s
  let r := getRing s c.client c.ring
  if r.fault || c.lost then s
  else
    let s1 := dmaWrite s none (r.cqBase.toNat + 32 * (r.written.toNat % 2 ^ r.log2)) (entryOf s r c status addr overrun)
    let s2 := setRing s1 c.client c.ring { r with written := r.written + 1 }
    let s3 := modAcct s2 c.client fun a => { a with retired := a.retired + 1 }
    if c.desc.flags.getLsbD 0 then msix s3 r.vector else s3

/-- Staging pages and other extents of a command are freed; the reservation of new objects too, unless the
completion turns them into the streams' objects (R297, R327). -/
def releaseCmd (s : State) (c : Cmd) (keepNews : Bool) : State :=
  let bases := c.news.flatMap fun n => n.objs.map Obj.base
  freeExtents s fun e =>
    (match e.owner with | .cmd _ id => id == c.id | _ => false) || (!keepNews && bases.contains e.base)

/-- The command leaves the list of unretired commands, with its queue wait added (R334), and a subscription it holds at this
package (R361). -/
def dropCmd (s : State) (c : Cmd) : State :=
  let wait := c.queueNs + (if c.dispatches = 0 then s.time - c.waitFrom else 0)
  let s1 := modAcct s c.client fun a => { a with queueNs := a.queueNs + BitVec.ofNat 64 wait }
  { s1 with
    cmds := s1.cmds.filter fun x => x.id != c.id
    dom := { s1.dom with subs := s1.dom.subs.filter fun x => !(x.src == 65536 && x.cmd == c.id) } }

/-- The queued commands of the same client that R61 reaches from a command that failed: those that share a
stream with it, and those that share one with them, and so on. -/
def cancelClosure (l : List Cmd) : Nat → List Cmd → List Cmd
  | 0, acc => acc
  | n + 1, acc =>
    cancelClosure l n (acc ++ l.filter fun x =>
      x.stage == .queued && acc.any (fun y => y.client == x.client && shareStream y x) && !(acc.any fun y => y.id == x.id))

/-- A command retires: its completion entry is written, and where the status is not OK the queued commands of
its streams complete with CANCELLED (R61). -/
def retire (s : State) (c : Cmd) (status addr : Nat) (overrun keepNews : Bool) : State :=
  let s1 := dropCmd (writeEntry (releaseCmd s c keepNews) c status addr overrun) c
  if status = stOK then s1
  else
    let hit := (cancelClosure s1.cmds s1.cmds.length [c]).filter fun x => x.id != c.id
    let order := s1.cmds.filter fun x => hit.any fun y => y.id == x.id
    order.foldl (fun t x => dropCmd (writeEntry (releaseCmd t x false) x stCancelled 0 false) x) s1

/-- Ends a command that has not committed. A MEM_UNCORRECTABLE line of a current slot damages its stream
(R72). -/
def complete (s : State) (c : Cmd) (status addr : Nat) : State :=
  let s1 := retire s c status addr false false
  if status = stMemUncorrectable then markDamaged s1 addr else s1

/-! ## Kill -/

/-- The piles that hold the command's staging pages or its streams' non-current slots (R70). -/
def killPiles (s : State) (c : Cmd) : List Nat :=
  let homes := (groupStreams c).filterMap fun st =>
    let h := (getStream s st).home
    if h < 16 then some h else none
  (homes ++ c.pages.map fun (p : StagePage) => p.pa / 2 ^ 36).eraseDups

/-- The outstanding remote reads of a gang are cancelled in FL0 (R358). -/
def cancelReads (s : State) (gang : List Nat) (gen : W32) : State :=
  gang.foldl (fun t core =>
    match getDisp t core with
    | some d => d.reads.foldl (fun u r => sendCtl u (r.dst / 4096) (.cancelRead core gen)) t
    | none => t) s

/-- A kill is issued to a running command (R70); to a command in any other stage nothing happens, but a cancel
wins over a kill in progress (R73). Any other kill that comes while one is in progress has no effect: of the cases R73 does
not name, the first kill stands (notes/assumptions/32.md). -/
def startKill (s : State) (id : Nat) (k : KillKind) (slice : Bool) : State :=
  match getCmd s id with
  | none => s
  | some c =>
    match c.stage with
    | .running =>
      let kl : Kill := { kind := k, cores := c.gang, piles := killPiles s c, at_ := s.time, slice := slice }
      let s1 := modCmd s id fun c => { c with stage := .killing, kill := some kl }
      let s2 := cancelReads s1 c.gang c.gen
      c.gang.foldl (fun t core => sendNet t (.kill core c.gen)) s2
    | .killing =>
      match k, c.kill with
      | .ends st _, some kl =>
        if st = stCancelled then modCmd s id fun c => { c with kill := some { kl with kind := k } } else s
      | .stop, some kl =>
        if kl.kind = .ends stCancelled 0 then s
        else modCmd s id fun c => { c with kill := some { kl with kind := .stop } }
      | _, _ => s
    | _ => s

/-- The written bits of a generation are cleared in a list of objects (R296). -/
def discardWr (g : W32) (o : Obj) : Obj := { o with wr := o.wr.filter fun w => w.gen != g }

/-- A command goes back to the queue after a kill: what the run staged is discarded, the reservation of new
objects is kept (R70, R297). -/
def requeue (s : State) (c : Cmd) (counted : Bool) : State :=
  let s1 := freeExtents s fun e => match e.owner with | .cmd _ id => id == c.id | _ => false
  modCmd s1 c.id fun c => { c with
    stage := .queued, gang := [], started := false, kill := none, pages := [], copied := [], wrote := [],
    held := [], reports := [], binds := [], newSet := none, waitFrom := s.time, waitBeads := 0, heldAt := none,
    counted := counted, reruns := c.reruns + b2n counted, faultAt := none }

/-- Every core and pile has taken the kill (R70): the command goes the way of its cause (R71, R73). -/
def killOutcome (s : State) (c : Cmd) (k : KillKind) : State :=
  match k with
  | .rerun => requeue s c false
  | .stop => requeue s c false
  | .counted => if 8 ≤ c.reruns then complete s c stRetryExhausted 0 else requeue s c true
  | .ends st a => complete s c st a

/-! ## Cancel and stop -/

/-- An earlier command of the ring is being cancelled and has not retired (R80: entries in ring order). -/
def earlierCancel (s : State) (c : Cmd) : Bool :=
  let base := (getRing s c.client c.ring).fetched
  s.cmds.any fun x => x.client == c.client && x.ring == c.ring && x.id != c.id &&
    decide ((base - c.seq).toNat < (base - x.seq).toNat) &&
    (match x.kill with | some kl => x.stage == .killing && kl.kind == .ends stCancelled 0 | none => false)

/-- Cancels one fetched command by its stage (table *Stages of a command*). -/
def cancelCmd (s : State) (id : Nat) : State :=
  match getCmd s id with
  | none => s
  | some c =>
    match c.stage with
    | .queued =>
      if earlierCancel s c then
        modCmd s id fun c => { c with stage := .killing, kill := some { kind := .ends stCancelled 0, at_ := s.time } }
      else complete s c stCancelled 0
    | .running => startKill s id (.ends stCancelled 0) false
    | .killing => startKill s id (.ends stCancelled 0) false
    | _ => s

/-- Cancels the commands of a ring from sequence number `from_` up to TAIL - 1 (R78): fetched ones by stage,
the others when they are fetched. -/
def cancelRange (s : State) (c ring : Nat) (from_ : W32) : State :=
  let r := getRing s c ring
  let n := (r.tail - from_).toNat
  let hit := (s.cmds.filter fun x => x.client == c && x.ring == ring && decide ((x.seq - from_).toNat < n)).map Cmd.id
  let s1 := hit.foldl cancelCmd s
  let r1 := getRing s1 c ring
  let unf := (r1.tail - r1.fetched).toNat
  if n = 0 ∨ unf = 0 then s1
  else
    let lo := if unf < n then r1.fetched else from_
    setRing s1 c ring { r1 with cover := r1.cover ++ [(lo, min unf n)] }

/-- STOP of R79 for one client. -/
def stopClient (s : State) (c : Nat) : State :=
  if (getClient s c).stopped then s
  else
    let s1 := (List.range 4).foldl (fun t ring =>
      let r := getRing t c ring
      let live := t.cmds.filter fun x => x.client == c && x.ring == ring
      let n := max (r.tail - r.fetched).toNat (live.foldl (fun m x => max m (r.tail - x.seq).toNat) 0)
      if r.en then cancelRange t c ring (r.tail - BitVec.ofNat 32 n) else t) s
    setClient s1 c { getClient s1 c with stopped := true }

/-- The stop of a client that the firmware was asked for begins: nothing of it is validated or placed any more, and its running
commands are killed. -/
def beginStop (s : State) (c : Nat) : State :=
  if (getClient s c).stopped then s
  else
    let ids := (s.cmds.filter fun x => x.client == c && (x.stage == .running || x.stage == .killing)).map Cmd.id
    let s1 := ids.foldl (fun t id => startKill t id .stop false) s
    setClient s1 c { getClient s1 c with stopping := true }

/-- It takes effect, as R79 has it, when the commands are quiescent (R80, R81). -/
def endStop (s : State) (c : Nat) : State :=
  if (getClient s c).stopping then
    let s1 := stopClient s c
    setClient s1 c { getClient s1 c with stopping := false }
  else s

/-- RESUME of R79 for one client. -/
def resumeClient (s : State) (c : Nat) : State :=
  setClient s c { getClient s c with stopped := false }

end Sys2Proof.Machine
end

