-- ==== Sys2Proof/Machine/Operands.lean ====
section
/-! DEFINITION. Operand forms of the cores: instruction words (R170, R171), registers (R163), window addresses
(R164, R165), tokens (R135) and the issue of an instruction. -/

namespace Sys2Proof.Machine

open Sys2Proof

/-! ## Instruction words (R170) -/

def fOp (w : Nat) : Nat := bits w 63 56
def fD (w : Nat) : Nat := bits w 55 51
def fA (w : Nat) : Nat := bits w 50 46
def fB (w : Nat) : Nat := bits w 45 41
def fI (w : Nat) : Bool := bitOf w 40
def fImm (w : Nat) : Nat := bits w 31 0
def fTarget (w : Nat) : Nat := bits w 12 0
def fT (w : Nat) : Nat := bits w 55 51
def fP (w : Nat) : Nat := bits w 50 47
def fS (w : Nat) : Nat := bits w 45 41
/-- IMM sign-extended to 64 bits. -/
def fSext (w : Nat) : W64 := (BitVec.ofNat 32 w).signExtend 64

def isR (op : Nat) : Bool :=
  op ≤ 0x03 || op == 0x05 || (0x10 ≤ op && op ≤ 0x22) || (0x28 ≤ op && op ≤ 0x2B) || op == 0x30 || op == 0x31
def isJ (op : Nat) : Bool := op == 0x04 || (0x06 ≤ op && op ≤ 0x0C)
def isL (op : Nat) : Bool :=
  (0x40 ≤ op && op ≤ 0x44) || (0x50 ≤ op && op ≤ 0x56) || op == 0x60 || op == 0x61 || op == 0x70 || op == 0x71 ||
    op == 0x78 || op == 0x79 || op == 0x7C || op == 0x7D

/-- The status offsets SRD may name (R177). -/
def statusOffset (v : Nat) : Bool :=
  v == 0x000 || v == 0x008 || v == 0x0E0 || v == 0x0F8 || (0x100 ≤ v && v ≤ 0x148 && v % 8 == 0)

/-- The largest IMM a format L word may hold, apart from SEND and RECV (R179, R187). -/
def immMax (op : Nat) : Nat :=
  if op = 0x40 then 1 else if op = 0x41 then 0xFFF else if op = 0x70 then 7 else if op = 0x7C then 0xF
  else if op = 0x7D then 0x3F else if op = 0x78 ∨ op = 0x79 then 0xFFFFFFFF else 0

/-- The word is one a code segment may hold (R171): a defined opcode, reserved bits 0, no reserved register, a
branch target in the code window, an immediate the instruction allows. -/
def wordOk (codeSpan w : Nat) : Bool :=
  let op := fOp w
  if isR op then
    bits w 39 32 == 0 &&
    !((op == 0x20 || op == 0x21) && 16 ≤ fD w) &&
    !((op == 0x20 || op == 0x22 || (0x28 ≤ op && op ≤ 0x2B)) && 16 ≤ fA w) &&
    !(op == 0x30 && !statusOffset (fImm w)) &&
    !(op == 0x31 && fImm w != 0)
  else if isJ op then
    bits w 55 51 == 0 && bits w 40 32 == 0 && bits w 31 13 == 0 && decide (fTarget w < codeSpan)
  else if isL op then
    !bitOf w 46 && bits w 40 32 == 0 && decide (fImm w ≤ immMax op) &&
    !((op == 0x7C || op == 0x7D) && fT w != 0)
  else false

/-! ## Registers (R163) -/

/-- s0 reads 0. -/
def sreg (d : Disp) (i : Nat) : W64 := if i = 0 then 0 else tget 0 d.s i
/-- s0 ignores writes. -/
def setSreg (d : Disp) (i : Nat) (v : W64) : Disp := if i = 0 then d else { d with s := tput 0 d.s i v }
def areg (d : Disp) (i : Nat) : W32 := tget 0 d.a i
def setAreg (d : Disp) (i : Nat) (v : W32) : Disp := { d with a := tput 0 d.a i v }
/-- The second operand X of format R. -/
def opX (d : Disp) (w : Nat) : W64 := if fI w then fSext w else sreg d (fB w)

/-! ## Tokens (R135) -/

def tokPending (d : Disp) (t : Nat) : Bool := d.tokens.getLsbD t
def tokSet (d : Disp) (t : Nat) : Disp := { d with tokens := d.tokens ||| BitVec.ofNat 32 (2 ^ t) }
def tokDone (d : Disp) (t : Nat) : Disp := { d with tokens := d.tokens &&& ~~~(BitVec.ofNat 32 (2 ^ t)) }

/-! ## The local store through windows (R164, R165) -/

/-- The window of an address: true for scratch. -/
def winScratch (wa : Nat) : Bool := bitOf wa 31
def winOff (wa : Nat) : Nat := bits wa 21 0
/-- `n` bytes at a window address lie in the window and set no reserved bit. -/
def winOk (d : Disp) (wa n : Nat) : Bool :=
  decide (wa < 2 ^ 32) && bits wa 30 22 == 0 &&
    decide (winOff wa + n ≤ min 4194304 (if winScratch wa then d.scrSpan else d.resSpan))
/-- A range that may be written: the scratch window only. -/
def winWritable (d : Disp) (wa n : Nat) : Bool := winOk d wa n && winScratch wa

/-- Looks up a byte of a list keyed by offset. -/
def scrGet (l : List (Nat × Byte)) (o : Nat) : Option Byte := (l.find? fun x => x.1 == o).map Prod.snd
/-- Writes a byte of a list keyed by offset, keys rising. -/
def scrPut : List (Nat × Byte) → Nat → Byte → List (Nat × Byte)
  | [], k, v => [(k, v)]
  | (j, w) :: t, k, v =>
    if k < j then (k, v) :: (j, w) :: t else if k = j then (k, v) :: t else (j, w) :: scrPut t k v
def scrPutAll (l : List (Nat × Byte)) (o : Nat) : Bytes → List (Nat × Byte)
  | [] => l
  | x :: t => scrPutAll (scrPut l o x) (o + 1) t

/-- A byte of the local store as the program sees it; a scratch byte never written in the dispatch is a free
value (R138, R165). -/
def winByte (ls : Tab Byte) (d : Disp) (wa : Nat) : Byte :=
  if winScratch wa then
    match scrGet d.scr (winOff wa) with
    | some v => v
    | none => Config.freeByte d.scrTag (winOff wa)
  else tget 0 ls (d.resBase + winOff wa)

/-- Reads `n` bytes at a window address. -/
def winRead (ls : Tab Byte) (d : Disp) (wa n : Nat) : Bytes := (List.range n).map fun i => winByte ls d (wa + i)
/-- Writes bytes at a scratch window address. -/
def winWrite (d : Disp) (wa : Nat) (b : Bytes) : Disp := { d with scr := scrPutAll d.scr (winOff wa) b }

/-- A 32-bit word of the local store. -/
def winW32 (ls : Tab Byte) (d : Disp) (wa : Nat) : W32 := BitVec.ofNat 32 (ofLE (winRead ls d wa 4))

/-! ## Issue -/

/-- The word of a core's instruction memory at an index of the dispatch's code window. -/
def codeWord (c : Core) (d : Disp) (pc : Nat) : Option Nat :=
  if pc < d.codeSpan then (c.imem.find? fun x => x.1 == d.codeBase + pc).map fun x => x.2.toNat else none

/-- The program of this core is running and not at a barrier. -/
def running (s : State) (d : Disp) : Bool := d.started && d.arrived == .no && genCurrent s d.gen

/-- The command of a dispatch ends with OUT_OF_BOUNDS, not re-run. -/
def failOob (s : State) (d : Disp) : State := startKill s d.cmd (.ends stOutOfBounds 0) false

/-- The core goes on at code index `pc`; reaching an invalid-code mark ends the command (R171). -/
def goTo (s : State) (core : Nat) (d : Disp) (pc : Nat) : State :=
  let d1 := { d with pc := pc, stallOn := none, blockedAt := none }
  let s1 := setDisp s core d1
  if (codeWord (getCore s core) d pc).isSome then s1 else failOob s1 d1

/-- The core goes on at the next instruction. -/
def advance (s : State) (core : Nat) (d : Disp) : State := goTo s core d (d.pc + 1)

/-- The sequencer waits for a cause of R158. -/
def stall (s : State) (core : Nat) (d : Disp) (cause : Nat) : State := setDisp s core { d with stallOn := some cause }

/-- Issues the instruction at a core's code index where its word satisfies `is`: `f` of the dispatch and the
word. Otherwise nothing happens (notes/assumptions/3.md). -/
def issueIf (s : State) (core : Nat) (is : Nat → Bool) (f : Disp → Nat → State) : State :=
  match getDisp s core with
  | none => s
  | some d =>
    if running s d then
      match codeWord (getCore s core) d d.pc with
      | some w => if is w then f d w else s
      | none => s
    else s

/-- Issues an instruction by its opcode. -/
def issue (s : State) (core op : Nat) (f : Disp → Nat → State) : State := issueIf s core (fun w => fOp w == op) f

/-- Launches an operation of an engine (0 matrix, 1 vector, 2 carry, 3 sampling) with a queue of 4 entries
(R134, R135, R137): a pending token or a full queue stalls, a failed check ends the command. The operation takes
its effect on the dispatch as it is issued (notes/assumptions/4.md), but for its flags, which the engine sets as it ends: a
program's clear before then does not win over them (R106). -/
def launch (s : State) (core op eng : Nat) (f : Tab Byte → Disp → Nat → Option Disp) : State :=
  issue s core op fun d w =>
    if tokPending d (fT w) then stall s core d 0
    else if 4 ≤ (tget [] d.launches eng).length then stall s core d 0
    else
      match f (getCore s core).ls { d with flags := 0 } w with
      | none => failOob s d
      | some d1 =>
        let q := tget [] d1.launches eng ++ [(fT w, d1.flags)]
        advance s core (tokSet { d1 with launches := tput [] d1.launches eng q, flags := d.flags } (fT w))

/-- The parameter block of `n` bytes at a[P] (R179): a multiple of 64, in a window. -/
def blockAt (ls : Tab Byte) (d : Disp) (w n : Nat) : Option Bytes :=
  let a := (areg d (fP w)).toNat
  if a % 64 = 0 ∧ winOk d a n then some (winRead ls d a n) else none

/-- A 32-bit field of a block. -/
def f32At (b : Bytes) (o : Nat) : W32 := BitVec.ofNat 32 (fieldLE b o 4)

end Sys2Proof.Machine
end

