-- ==== Sys2Proof/Machine/Image.lean ====
section
/-! DEFINITION. Weight-set images (R191, R192, R195), weight blocks (R108 to R112) and state records (R211 to
R214): reading and checking. -/

namespace Sys2Proof.Machine

open Sys2Proof

/-- Every byte of the range is 0. -/
def zeros (b : Bytes) (o n : Nat) : Bool := (slice b o n).all fun x => x == 0

/-- FP32 is finite: the exponent is not all ones. -/
def fin32 (v : W32) : Bool := v.toNat / 2 ^ 23 % 256 != 255
/-- PF13 container holds a finite value (R82, R83). -/
def finPf13 (v : Nat) : Bool := bits v 11 7 != 31

/-! ## Weight blocks -/

/-- The header of a weight block (R108). -/
structure WBlock where
  depth : Nat
  rem : Nat
  esc : Bool
  wide : Bool
  channels : Nat
  entries : Nat
deriving DecidableEq, Repr

def wbHead (b : Bytes) : WBlock :=
  { depth := fieldLE b 0 4, rem := fieldLE b 4 2, esc := bitOf (fieldLE b 6 1) 1, wide := bitOf (fieldLE b 6 1) 0,
    channels := fieldLE b 7 1, entries := fieldLE b 8 2 }

/-- Reserved fields 0 and every field in its range (R108, R111). -/
def wbHeadOk (b : Bytes) : Bool :=
  let h := wbHead b
  decide (1 ≤ h.depth) && decide (h.depth ≤ 65536) && decide (h.rem ≤ 1024) && bits (fieldLE b 6 1) 7 2 == 0 &&
    decide (1 ≤ h.channels) && decide (h.channels ≤ 32) && decide (1 ≤ h.entries) &&
    decide (h.entries ≤ if h.wide then 256 else 16) && zeros b 10 6

/-- Bytes of the codebook. -/
def wbCbBytes (h : WBlock) : Nat := if h.wide then 512 else 32
/-- Offset of the index array and of the remainder list; length of the block. -/
def wbIdxOff (h : WBlock) : Nat := 16 + wbCbBytes h
def wbRemOff (h : WBlock) : Nat := wbIdxOff h + (if h.wide then 32 * h.depth else 16 * h.depth)
def wbLen (h : WBlock) : Nat := wbRemOff h + 8 * h.rem

/-- The index of reduction index `k`, channel `j` (R89, R109), in an index array read by `rd`. -/
def wbIndex (h : WBlock) (rd : Nat → Nat) (k j : Nat) : Nat :=
  let i := 32 * k + j
  if h.wide then rd i else if i % 2 = 0 then rd (i / 2) % 16 else rd (i / 2) / 16

/-- The escape index (R112). -/
def wbEscIdx (h : WBlock) : Nat := if h.wide then 255 else 15

/-- A remainder entry: VALUE, k, j (R110). -/
structure WRem where
  value : W32
  k : Nat
  j : Nat
deriving DecidableEq, Repr

def wbRems (h : WBlock) (b : Bytes) : List WRem :=
  (List.range h.rem).map fun i =>
    let o := wbRemOff h + 8 * i
    { value := f32At b o, k := fieldLE b (o + 4) 2, j := fieldLE b (o + 6) 1 }

/-- The whole block obeys R111; a padding index other than 0, which R109 forbids, makes it bad too
(notes/assumptions/39.md). -/
def wbOk (b : Bytes) : Bool :=
  wbHeadOk b &&
  (let h := wbHead b
   decide (wbLen h ≤ b.length) &&
   (let rd := fun i => fieldLE b (wbIdxOff h + i) 1
    let pos := (List.range (32 * h.depth)).map fun i => (i / 32, i % 32)
    let escapes := pos.filter fun x => h.esc && decide (x.2 < h.channels) && wbIndex h rd x.1 x.2 == wbEscIdx h
    let rems := wbRems h b
    (pos.all fun x =>
      let v := wbIndex h rd x.1 x.2
      if h.channels ≤ x.2 then v == 0 else (h.esc && v == wbEscIdx h) || decide (v < h.entries)) &&
    ((List.range h.entries).all fun i => finPf13 (fieldLE b (16 + 2 * i) 2)) &&
    rems.map (fun r => (r.k, r.j)) == escapes &&
    (rems.all fun r => fin32 r.value) &&
    ((List.range h.rem).all fun i => fieldLE b (wbRemOff h + 8 * i + 7) 1 == 0)))

/-- The bytes are whole weight blocks back to back. -/
def wbRun : Nat → Bytes → Bool
  | 0, b => b.isEmpty
  | n + 1, b => b.isEmpty || (wbOk b && wbRun n (b.drop (wbLen (wbHead b))))

/-! ## Images -/

def imgRanks (b : Bytes) : Nat := fieldLE b 6 2
def imgResSpan (b : Bytes) : Nat := fieldLE b 40 4
def imgCodeSpan (b : Bytes) : Nat := fieldLE b 44 2

/-- The header is well formed as R192 judges it at step 6. -/
def imgHeadOk (b : Bytes) (lenA : Nat) : Bool :=
  fieldLE b 0 4 == 0x5357564B && fieldLE b 4 2 == 1 && fieldLE b 8 4 == lenA &&
    decide (1 ≤ imgRanks b) && decide (imgRanks b ≤ 2560) &&
    decide (1 ≤ imgCodeSpan b) && decide (imgCodeSpan b ≤ 8192) &&
    decide (512 ≤ imgResSpan b) && decide (imgResSpan b ≤ 3145728) && imgResSpan b % 512 == 0 && zeros b 46 18

def progAt (b : Bytes) (o : Nat) : Prog :=
  { entry := fieldLE b o 2, layout := fieldLE b (o + 2) 2, scrSpan := fieldLE b (o + 4) 4,
    outPerStep := fieldLE b (o + 8) 4, argBytes := fieldLE b (o + 12) 2, maxStreams := fieldLE b (o + 14) 2,
    runLimit := fieldLE b (o + 16) 2 }
def siteAt (b : Bytes) (o : Nat) : Site :=
  let x := fieldLE b o 1
  { esc := bitOf x 2, asym := bitOf x 0, w := fieldLE b (o + 1) 1 % 16, headroom := fieldLE b (o + 2) 1,
    s2 := f32At b (o + 4), satThr := fieldLE b (o + 8) 4 }
def layoutAt (b : Bytes) (o : Nat) : Layout :=
  let n := fieldLE b (o + 2) 1
  { ring := fieldLE b o 1 == 1, fmt := fieldLE b (o + 1) 1, ndim := n,
    dims := (List.range (min n 4)).map fun i => fieldLE b (o + 4 + 4 * i) 4,
    entries := fieldLE b (o + 20) 4, initConst := bitOf (fieldLE b (o + 3) 1) 1, init := f32At b (o + 24),
    last := bitOf (fieldLE b (o + 3) 1) 0 }
def segAt (b : Bytes) (o : Nat) : Seg :=
  { type := fieldLE b o 1, first := fieldLE b (o + 2) 2, last := fieldLE b (o + 4) 2, dest := fieldLE b (o + 8) 4,
    src := fieldLE b (o + 12) 4, length := fieldLE b (o + 16) 4 }

def table {α : Type} (f : Bytes → Nat → α) (b : Bytes) (off cnt size : Nat) : List α :=
  (List.range cnt).map fun i => f b (off + size * i)

def imgProgs (b : Bytes) : List Prog := table progAt b (fieldLE b 24 4) (fieldLE b 16 2) 32
def imgSites (b : Bytes) : List Site := table siteAt b (fieldLE b 28 4) (fieldLE b 18 2) 16
def imgSegs (b : Bytes) : List Seg := table segAt b (fieldLE b 32 4) (fieldLE b 20 2) 32
def imgLayouts (b : Bytes) : List Layout := table layoutAt b (fieldLE b 36 4) (fieldLE b 22 2) 64

/-- A table lies in the image at an aligned offset. -/
def tableOk (b : Bytes) (off cnt size : Nat) : Bool := off % 64 == 0 && decide (off + cnt * size ≤ fieldLE b 8 4)

/-- A site entry obeys R114. -/
def siteOk (b : Bytes) (o : Nat) : Bool :=
  let e := siteAt b o
  bits (fieldLE b o 1) 7 3 == 0 && !bitOf (fieldLE b o 1) 1 && bits (fieldLE b (o + 1) 1) 7 4 == 0 &&
    decide (1 ≤ e.w) && decide (e.w ≤ 8) && decide (e.headroom ≤ 4) && zeros b (o + 3) 1 && zeros b (o + 12) 4 &&
    !e.s2.getLsbD 31 && decide (1 ≤ e.s2.toNat / 2 ^ 23) && decide (e.s2.toNat / 2 ^ 23 < 255)

/-- The shape fields of a layout entry or record descriptor obey R194 and R195. -/
def shapeOk (kind fmt ndim : Nat) (dims : List Nat) (entries : Nat) : Bool :=
  decide (kind ≤ 1) && decide (fmt ≤ 5) && decide (1 ≤ ndim) && decide (ndim ≤ 4) &&
    (((List.range 4).zip dims).all fun x =>
      if x.1 < ndim then decide (1 ≤ x.2) && decide (x.2 ≤ 65536) else x.2 == 0) &&
    (if kind = 0 then entries == 1 && decide (entryBytes fmt (dims.take ndim) ≤ 16777216)
     else decide (1 ≤ entries) && decide (entries ≤ 8192) && decide (entryBytes fmt (dims.take ndim) ≤ 65536))

/-- D0 to D3 at an offset. -/
def dims4 (b : Bytes) (o : Nat) : List Nat := (List.range 4).map fun i => fieldLE b (o + 4 * i) 4

/-- A layout entry obeys R194 and R195. -/
def layoutOk (b : Bytes) (o : Nat) : Bool :=
  shapeOk (fieldLE b o 1) (fieldLE b (o + 1) 1) (fieldLE b (o + 2) 1) (dims4 b (o + 4)) (fieldLE b (o + 20) 4) &&
    bits (fieldLE b (o + 3) 1) 7 2 == 0 && zeros b (o + 28) 36 &&
    (if bitOf (fieldLE b (o + 3) 1) 1 then fin32 (f32At b (o + 24)) else f32At b (o + 24) == 0)

/-- The layout that starts at an index: entries up to the first with LAST, within 256 (R194, R195). -/
def layoutRun : Nat → List Layout → Option (List Layout)
  | 0, _ => none
  | _, [] => none
  | n + 1, l :: t => if l.last then some [l] else (layoutRun n t).map (l :: ·)
def layoutOf (ls : List Layout) (i : Nat) : Option (List Layout) := layoutRun 256 (ls.drop i)

/-- The bytes of a layout in one slot. -/
def layoutBytes (l : List Layout) : Nat := sumN (l.map fun x => x.entries * (objOfLayout x).espan)

/-- A program entry obeys R191 and R195. -/
def progOk (b : Bytes) (o : Nat) : Bool :=
  let p := progAt b o
  zeros b (o + 18) 14 && p.scrSpan % 512 == 0 && decide (64 + p.argBytes ≤ p.scrSpan) &&
    decide (p.scrSpan + imgResSpan b ≤ 3145728) && decide (p.argBytes ≤ 16384) &&
    decide (1 ≤ p.maxStreams) && decide (p.maxStreams ≤ 16384) && decide (1 ≤ p.runLimit) &&
    (p.layout == 0xFFFF ||
      (match layoutOf (imgLayouts b) p.layout with
       | some l => decide (layoutBytes l ≤ 64 * 2 ^ 20)
       | none => false))

/-- The extent a segment takes in its window: instructions for code, bytes otherwise. -/
def segSize (g : Seg) : Nat := if g.type = 0 then g.length / 8 else g.length

/-- A segment entry obeys R191 and R192, its contents R111 and R171. -/
def segOk (b : Bytes) (o : Nat) : Bool :=
  let g := segAt b o
  decide (g.type ≤ 2) && zeros b (o + 1) 1 && zeros b (o + 6) 2 && zeros b (o + 20) 12 &&
    decide (g.first ≤ g.last) && decide (g.last < imgRanks b) && decide (g.src + g.length ≤ fieldLE b 8 4) &&
    (if g.type = 0 then
      g.length % 8 == 0 && decide (g.dest + g.length / 8 ≤ imgCodeSpan b) &&
        ((List.range (g.length / 8)).all fun i => wordOk (imgCodeSpan b) (fieldLE b (g.src + 8 * i) 8))
     else
      g.dest % 64 == 0 && decide (g.dest + g.length ≤ imgResSpan b) &&
        (g.type == 1 || wbRun g.length (slice b g.src g.length)))

/-- Two segments of one type overlap on a rank. -/
def segClash (x y : Seg) : Bool :=
  x.type == y.type && decide (x.first ≤ y.last) && decide (y.first ≤ x.last) &&
    overlap x.dest (segSize x) y.dest (segSize y)
def segsApart : List Seg → Bool
  | [] => true
  | x :: t => (t.all fun y => !segClash x y) && segsApart t

/-- Every rank has code at an index. -/
def codeAt (segs : List Seg) (ranks i : Nat) : Bool :=
  (List.range ranks).all fun r => segs.any fun g =>
    g.type == 0 && decide (g.first ≤ r) && decide (r ≤ g.last) && decide (g.dest ≤ i) && decide (i < g.dest + g.length / 8)

/-- The image passes every check of R192. -/
def imgOk (b : Bytes) (lenA : Nat) : Bool :=
  let pc := fieldLE b 16 2
  let sc := fieldLE b 18 2
  let gc := fieldLE b 20 2
  let lc := fieldLE b 22 2
  imgHeadOk b lenA && b.length == lenA &&
    crc32 (b.take 12 ++ [0, 0, 0, 0] ++ b.drop 16) == f32At b 12 &&
    decide (1 ≤ pc) && decide (pc ≤ 1024) && decide (sc ≤ 64) && decide (1 ≤ gc) && decide (lc ≤ 1024) &&
    tableOk b (fieldLE b 24 4) pc 32 && tableOk b (fieldLE b 28 4) sc 16 &&
    tableOk b (fieldLE b 32 4) gc 32 && tableOk b (fieldLE b 36 4) lc 64 &&
    ((List.range sc).all fun i => siteOk b (fieldLE b 28 4 + 16 * i)) &&
    ((List.range lc).all fun i => layoutOk b (fieldLE b 36 4 + 64 * i)) &&
    ((List.range pc).all fun i => progOk b (fieldLE b 24 4 + 32 * i)) &&
    ((List.range gc).all fun i => segOk b (fieldLE b 32 4 + 32 * i)) &&
    segsApart (imgSegs b) && ((imgProgs b).all fun p => codeAt (imgSegs b) (imgRanks b) p.entry)

/-! ## State records -/

/-- The offset of the first payload (R211). -/
def recBase (n : Nat) : Nat := alignUp (128 + 32 * n) 64

/-- The payload bytes of an object: ENTRIES × entry bytes. -/
def payBytes (o : Obj) : Nat := o.entries * o.bytes

/-- Payload offsets of a list of objects from a first offset: each at a multiple of 64. -/
def payOffs : Nat → List Obj → List Nat
  | _, [] => []
  | a, o :: t => a :: payOffs (alignUp (a + payBytes o) 64) t

/-- The bytes of a record of these objects (R211). -/
def recTotal (objs : List Obj) : Nat :=
  objs.foldl (fun a o => alignUp (a + payBytes o) 64) (recBase objs.length)

/-- The object of a record's descriptor. -/
def recObj (b : Bytes) (o : Nat) : Obj :=
  let l : Layout :=
    { ring := fieldLE b o 1 == 1, fmt := fieldLE b (o + 1) 1, ndim := fieldLE b (o + 2) 1,
      dims := (dims4 b (o + 4)).take (fieldLE b (o + 2) 1), entries := fieldLE b (o + 20) 4 }
  objOfLayout l

def recObjs (b : Bytes) : List Obj := (List.range (fieldLE b 6 2)).map fun i => recObj b (128 + 32 * i)

/-- A descriptor of a record is in range (R214). -/
def recDescOk (b : Bytes) (o off : Nat) : Bool :=
  shapeOk (fieldLE b o 1) (fieldLE b (o + 1) 1) (fieldLE b (o + 2) 1) (dims4 b (o + 4)) (fieldLE b (o + 20) 4) &&
    zeros b (o + 3) 1 && fieldLE b (o + 24) 4 == off && fieldLE b (o + 28) 4 == payBytes (recObj b o)

/-- A record at the front of the bytes passes the checks of R214. -/
def recOk (b : Bytes) : Bool :=
  let n := fieldLE b 6 2
  let total := fieldLE b 8 4
  let objs := recObjs b
  decide (128 ≤ b.length) && fieldLE b 0 4 == 0x5453564B && fieldLE b 4 2 == 1 && decide (n ≤ 256) &&
    total % 64 == 0 && decide (total ≤ b.length) && decide (128 + 32 * n ≤ b.length) &&
    decide (fieldLE b 20 4 ≤ 2 ^ 24) && recTotal objs == total &&
    (((List.range n).zip (payOffs (recBase n) objs)).all fun x => recDescOk b (128 + 32 * x.1) x.2) &&
    crc32 (b.take 12 ++ [0, 0, 0, 0] ++ (b.take total).drop 16) == f32At b 12

/-- Cuts `n` records from the bytes; all must be good and use every byte. -/
def recSplit : Nat → Bytes → Option (List Bytes)
  | 0, b => if b.isEmpty then some [] else none
  | n + 1, b =>
    if recOk b then
      let t := fieldLE b 8 4
      (recSplit n (b.drop t)).map (b.take t :: ·)
    else none

end Sys2Proof.Machine
end

