-- ==== Sys2Proof/Machine/Validate.lean ====
section
/-! DEFINITION. Reading a descriptor and validating it in the eight steps of R56. -/

namespace Sys2Proof.Machine

open Sys2Proof

/-- The descriptor of 64 bytes (table *Command descriptor*). -/
def parseDesc (b : Bytes) : Desc :=
  { opcode := BitVec.ofNat 8 (fieldLE b 0 1), flags := BitVec.ofNat 16 (fieldLE b 1 2),
    tag := BitVec.ofNat 8 (fieldLE b 3 1), first := BitVec.ofNat 16 (fieldLE b 4 2),
    count := BitVec.ofNat 16 (fieldLE b 6 2), bead := BitVec.ofNat 64 (fieldLE b 8 8),
    set := BitVec.ofNat 32 (fieldLE b 16 4), prog := BitVec.ofNat 16 (fieldLE b 20 2),
    rsv := BitVec.ofNat 16 (fieldLE b 22 2), arg := BitVec.ofNat 64 (fieldLE b 24 8),
    out := BitVec.ofNat 64 (fieldLE b 32 8), lenA := BitVec.ofNat 32 (fieldLE b 40 4),
    lenB := BitVec.ofNat 16 (fieldLE b 44 2), lenC := BitVec.ofNat 16 (fieldLE b 46 2),
    token := BitVec.ofNat 64 (fieldLE b 48 8), cookie := BitVec.ofNat 64 (fieldLE b 56 8) }

/-! ## Which fields an opcode uses (table *Opcodes and the fields they use*) -/

def opDefined (op : Nat) : Bool := (1 ≤ op && op ≤ 0xB) || op == opBIND
def usesSet (op : Nat) : Bool := op == opRUN || op == opLOAD || op == opEVICT || op == opINIT || op == opOPEN
def usesProg (op : Nat) : Bool := op == opRUN || op == opINIT
def usesArg (op : Nat) : Bool :=
  op == opRUN || op == opLOAD || op == opIMPORT || op == opOPEN || op == opCOPY || op == opBIND
def usesOut (op : Nat) : Bool := op == opRUN || op == opEXPORT || op == opCOPY
def usesLenA (op : Nat) : Bool := usesArg op || usesOut op
/-- The length of the range at ARG_ADDR. -/
def argLen (d : Desc) : Nat := if d.opcode.toNat = opRUN then d.lenB.toNat else d.lenA.toNat
/-- The length of the range at OUT_ADDR. -/
def outLen (d : Desc) : Nat := d.lenA.toNat

/-- The address is a device virtual address (R51). -/
def isDev (a : W64) : Bool := bits a.toNat 63 62 == 1
/-- The address without its encoding bits. -/
def devAddr (a : W64) : Nat := bits a.toNat 47 0
/-- An encoding R51 defines. -/
def addrDefined (a : W64) : Bool := bits a.toNat 63 57 == 0 || (bits a.toNat 63 62 == 1 && bits a.toNat 61 48 == 0)

/-! ## REMOTE_TOKEN (R52) -/

def tokPkg (t : W64) : Nat := bits t.toNat 15 0
def tokSlot (t : W64) : Nat := bits t.toNat 47 40
def tokSeq (t : W64) : Nat := bits t.toNat 39 16
def tokTimeout (t : W64) : Nat := bits t.toNat 63 48

/-- The retirement frontier of a ring: the lowest sequence number not yet retired (R360). -/
def frontier (s : State) (c ring : Nat) : W32 :=
  let r := getRing s c ring
  let live := s.cmds.filter fun x => x.client == c && x.ring == ring && !x.lost
  r.fetched - BitVec.ofNat 32 (live.foldl (fun m x => max m (r.fetched - x.seq).toNat) 0)

/-- How a dependency on this package stands: the slot names a ring of a registered client, and the named command
has retired (R360, R361). -/
inductive DepAns where
  | met | unmet | unreachable
deriving DecidableEq, Repr

def localDep (s : State) (slot seq : Nat) : DepAns :=
  let a := tget {} s.dom.announce slot
  if !a.en || !(getClient s a.client).reg then .unreachable
  else
    let f := (frontier s a.client a.ring).toNat % 2 ^ 24
    if (seq + 2 ^ 24 - f) % 2 ^ 24 ≥ 2 ^ 23 then .met else .unmet

/-! ## Projections (R57, R58, R192) -/

/-- The stream's owner by the commands validated and not retired: some client while open. -/
def projOwner (s : State) (st : Nat) : Option Nat :=
  let x := getStream s st
  s.cmds.foldl (fun acc c =>
    if namesStream c st then
      if cop c = opOPEN then some c.client else if cop c = opCLOSE then none else acc
    else acc) (if x.isOpen then some x.client else none)

/-- The projected position. -/
def projPos (s : State) (st : Nat) : Nat :=
  (getStream s st).position +
    sumN ((s.cmds.filter fun c => cop c == opRUN && namesStream c st).map fun c => c.desc.lenC.toNat)

/-- A loaded set that no EVICT_SET has been validated for (R58). -/
def usableSet (s : State) (part : Nat) (h : W32) : Option WSet :=
  if s.cmds.any fun c => c.part == part && cop c == opEVICT && c.desc.set == h then none else findSet s part h

/-- A handle LOAD_SET may take (R192). -/
def handleFree (s : State) (part : Nat) (h : W32) : Bool :=
  h != 0 && h != 0xFFFFFFFF && (findSet s part h).isNone &&
    !(s.cmds.any fun c => c.part == part && cop c == opLOAD && c.desc.set == h)

/-! ## Room on the cores (R322) -/

/-- The partition's in-service cores in the order of R322. -/
def coresInOrder (s : State) (part : Nat) : List Nat :=
  (List.range 8).flatMap fun dc =>
    (List.range 5).flatMap fun dr =>
      if partHasDie s part (dr * 8 + dc) && !dieFenced s (dr * 8 + dc) && !dieClockBad s (dr * 8 + dc) then
        ((List.range 64).map fun i => (dr * 8 + i / 8) * 64 + dc * 8 + i % 8).filter fun n => !(getCore s n).oos
      else []

/-- The ranks of a set on a core, as pairs of window bases. -/
def setOn (w : WSet) (core : Nat) : List (Nat × Nat) :=
  ((w.cores.zip (w.resBase.zip w.codeBase)).filter fun x => x.1 == core).map Prod.snd

/-- Every set that holds windows: loaded ones and those being loaded. -/
def allSets (s : State) : List WSet := s.sets ++ s.cmds.filterMap Cmd.newSet

/-- Local-store ranges in use on a core: resident windows and the scratch window of its dispatch. -/
def lsUsed (s : State) (core : Nat) : List (Nat × Nat) :=
  ((allSets s).flatMap fun w => (setOn w core).map fun x => (x.1, w.resSpan)) ++
    (match getDisp s core with | some d => [(d.scrBase, d.scrSpan)] | none => [])
/-- Instruction words in use on a core. -/
def codeUsed (s : State) (core : Nat) : List (Nat × Nat) :=
  (allSets s).flatMap fun w => (setOn w core).map fun x => (x.2, w.codeSpan)

/-- The lowest aligned base at which `size` fits below `limit` beside the used ranges. -/
def firstGap (used : List (Nat × Nat)) (limit size align : Nat) : Option Nat :=
  let cand := 0 :: used.map fun x => alignUp (x.1 + x.2) align
  let ok := cand.filter fun b => decide (b + size ≤ limit) && used.all fun x => !overlap b size x.1 x.2
  ok.foldl (fun m b => match m with | none => some b | some a => some (min a b)) none

/-- Scratch room on a core that held RUNs of a partition need (R325): the size of the largest window. -/
def heldScratch (s : State) (part core : Nat) : Nat :=
  s.cmds.foldl (fun m h =>
    if h.part == part && h.stage == .queued && h.heldAt.isSome && cop h == opRUN then
      match findSet s part h.desc.set with
      | some w => if w.cores.contains core then max m ((w.progs[h.desc.prog.toNat]?).elim 0 Prog.scrSpan) else m
      | none => m
    else m) 0

/-- A resident window on a core leaves held RUNs of the partition the scratch room they need. -/
def leavesScratch (s : State) (part core base res : Nat) : Bool :=
  let need := heldScratch s part core
  let windows := (allSets s).flatMap fun w => (setOn w core).map fun x => (x.1, w.resSpan)
  need == 0 || (firstGap ((base, res) :: windows) 3145728 need 512).isSome

/-- The first `n` cores with room, with their window bases (R322). -/
def pickCores (s : State) (part res code : Nat) : Nat → List Nat → List (Nat × Nat × Nat)
  | 0, _ => []
  | _, [] => []
  | n + 1, c :: t =>
    match firstGap (lsUsed s c) 3145728 res 512, firstGap (codeUsed s c) 8192 code 1 with
    | some r, some k =>
      if leavesScratch s part c r res then (c, r, k) :: pickCores s part res code n t else pickCores s part res code (n + 1) t
    | _, _ => pickCores s part res code (n + 1) t

/-- The cores of a new set, if there are N with room. -/
def setRoom (s : State) (part ranks res code : Nat) : Option (List (Nat × Nat × Nat)) :=
  let l := pickCores s part res code ranks (coresInOrder s part)
  if l.length = ranks then some l else none

/-! ## Data that validation reads -/

/-- What a read of the Crown answers: the bytes, or a status and an address (R55). -/
inductive Got where
  | data (b : Bytes)
  | fail (status addr : Nat)
deriving DecidableEq, Repr

/-- Backs every lazy page of the 2 MiB-aligned range around an address with zeroed 4 KiB pages (R308). -/
def backPage (s : State) (p dva : Nat) : Option State :=
  match physAllocAny s 4096 4096 (.page p) (pilesUp s) with
  | none => none
  | some (pa, s1) =>
    let w := pteW (pteAt s1 p dva).1
    putPte (pmWrite s1 pa (zeroBytes 4096)) p (pteKey dva false) (mkPte pa w false)

/-- The 4 KiB pages of a lazy 2 MiB entry become lazy entries of their own, in a table of their own. -/
def splitLazy (s : State) (p dva : Nat) : Option State :=
  let e := pteOf s p (pteKey dva true)
  if e ≠ 0 ∧ !pteP e ∧ pteSw e = 2 then
    putPtes s p ((List.range 512).map fun i => (pteKey (dva / 2 ^ 21 * 2 ^ 21 + 4096 * i) false, mkLazy (pteW e) false))
  else some s

/-- Backs the lazy 4 KiB pages of a list; none if memory runs out. -/
def backList (s : State) (p : Nat) : List Nat → Option State
  | [] => some s
  | a :: t =>
    let e := (pteAt s p a).1
    if !pteP e && pteSw e == 2 then
      match backPage s p a with
      | some s1 => backList s1 p t
      | none => none
    else backList s p t

/-- Backs the lazy entries of the 2 MiB-aligned range of an address, all or none (R308). -/
@[irreducible] def backRange (s : State) (p dva : Nat) : Option State :=
  (splitLazy s p dva).bind fun t => backList t p ((List.range 512).map fun i => dva / 2 ^ 21 * 2 ^ 21 + 4096 * i)

/-- A read of the Crown at an address of R51 for a client of partition `p` and PASID `ps`, with what the host answers for a
host address (R55). -/
def crownRead (s : State) (p ps : Nat) (a : W64) (n : Nat) (h : HostAns) : Nat → State × Got
  | 0 => (s, .fail stPageFault (devAddr a))
  | fuel + 1 =>
    if n = 0 then (s, .data [])
    else if isDev a then
      match devRead s p (devAddr a) n with
      | .data b => (noteDev s p (devAddr a) n, .data b)
      | .bad pa => (ueReport s pa 0, .fail stMemUncorrectable pa)
      | .fault d => (s, .fail stPageFault d)
      | .moving d => crownRead (finishMove s p d) p ps a n h fuel
      | .lazy_ d =>
        match backRange s p d with
        | some s1 => crownRead s1 p ps a n h fuel
        | none => (s, .fail stPageFault d)
    else
      let s1 := dmaRead s (some ps) a.toNat n
      match h with
      | .data b => (s1, .data (slice b 0 n))
      | .refused v => (s1, .fail stPageFault v.toNat)

/-- The fuel of `crownRead`: one try for each page a range can touch, and one more. -/
def readFuel (n : Nat) : Nat := n / 4096 + 3

/-! ## The steps of R56 -/

/-- Step 1: BAD_OPCODE. -/
def step1 (r : Ring) (ring : Nat) (seq : W32) (d : Desc) : Bool :=
  let op := d.opcode.toNat
  opDefined op &&
    bits d.tag.toNat 7 3 == 0 && bitOf d.tag.toNat 2 == bitOf seq.toNat r.log2 && bits d.tag.toNat 1 0 == ring &&
    bits d.first.toNat 15 14 == 0 && !bitOf d.count.toNat 15 && d.rsv == 0 && bits d.flags.toNat 15 3 == 0 &&
    (op == opRUN || !bitOf d.flags.toNat 1) &&
    (hasGroup op || (d.first == 0 && d.count == 0)) && (usesSet op || d.set == 0) && (usesProg op || d.prog == 0) &&
    (if usesArg op then addrDefined d.arg else d.arg == 0) && (if usesOut op then addrDefined d.out else d.out == 0) &&
    (usesLenA op || d.lenA == 0) && (op == opRUN || (d.lenB == 0 && d.lenC == 0)) &&
    (op != opWAITR || d.token != 0)

/-- Step 2: BAD_LENGTH. -/
def step2 (d : Desc) : Bool :=
  let op := d.opcode.toNat
  (!hasGroup op || (d.count.toNat != 0x7FFF && d.count.toNat ≤ 16384)) &&
    (!usesLenA op || d.lenA != 0xFFFFFFFF) &&
    (op != opRUN || (d.lenB.toNat ≤ 16384 && d.lenC.toNat ≤ 4096)) &&
    (d.token == 0 || tokTimeout d.token != 0xFFFF) &&
    (!usesOut op || isDev d.out || d.lenA.toNat ≤ 8388608) &&
    (op != opOPEN || d.lenA.toNat == 32 * d.count.toNat) && (op != opBIND || d.lenA.toNat == 16 * d.count.toNat)

/-- Step 3: the command is empty (R12, R53). -/
def isEmpty (d : Desc) : Bool :=
  let op := d.opcode.toNat
  (hasGroup op && d.count == 0) || (op == opRUN && d.lenC == 0) || ((op == opLOAD || op == opCOPY) && d.lenA == 0)

/-- Whether a stream is mirrored (R363). -/
def mirrored (s : State) (st : Nat) : Bool := (tget (0 : W32) s.dom.mirror (st / 32)).getLsbD (st % 32)

/-- Step 4: BAD_STREAM. -/
def step4 (s : State) (c : Cmd) : Bool :=
  let op := cop c
  let g := groupStreams c
  decide (groupFirst c + groupCount c ≤ 16384) &&
    (g.all fun st => if op = opOPEN then (projOwner s st).isNone else projOwner s st == some c.client) &&
    (!(op == opRUN || op == opINIT || op == opIMPORT) || g.all (mirrored s) || g.all fun st => !mirrored s st)

/-- Step 5: STATE_DAMAGED. -/
def step5 (s : State) (c : Cmd) : Bool :=
  let op := cop c
  op == opINIT || op == opIMPORT || op == opCLOSE || (groupStreams c).all fun st => !(getStream s st).damaged

/-- A range at an address of R51 is aligned and inside its space (R54, R308). -/
def rangeOk (s : State) (p : Nat) (a : W64) (n : Nat) (write : Bool) : Bool :=
  n == 0 ||
    (a.toNat % 64 == 0 &&
      (if isDev a then
        decide (devAddr a + n ≤ 2 ^ 48) &&
          (pagesOf s p (devAddr a) n).all fun pg => pteMapped (pteAt s p pg).1 && (!write || pteW (pteAt s p pg).1)
       else decide (a.toNat + n ≤ 2 ^ 57)))

/-- Step 6 without what it reads: OUT_OF_BOUNDS. -/
def step6 (s : State) (c : Cmd) : Bool :=
  let d := c.desc
  let op := cop c
  (if op = opRUN ∨ op = opINIT then
    (match usableSet s c.part d.set with | some w => decide (d.prog.toNat < w.progs.length) | none => false)
   else if op = opEVICT then (usableSet s c.part d.set).isSome
   else if op = opOPEN then d.set == 0 || (usableSet s c.part d.set).isSome
   else if op = opLOAD then handleFree s c.part d.set
   else true) &&
    (!usesArg op || rangeOk s c.part d.arg (argLen d) false) && (!usesOut op || rangeOk s c.part d.out (outLen d) true) &&
    (d.bead == 0 || decide (d.bead.toNat ≤ s.bead.count.toNat + 65536))

/-- The program of a command whose set is loaded. -/
def progOf (s : State) (c : Cmd) : Option Prog :=
  match findSet s c.part c.desc.set with
  | some w => w.progs[c.desc.prog.toNat]?
  | none => none
/-- The layout of a program, if it names one. -/
def progLayout (s : State) (c : Cmd) (p : Prog) : Option (List Layout) :=
  if p.layout = 0xFFFF then none
  else match findSet s c.part c.desc.set with
    | some w => layoutOf w.layouts p.layout
    | none => none

/-- The objects match the layout in number and shape (R196). -/
def objsMatch (objs : List Obj) (l : List Layout) : Bool :=
  objs.length == l.length && (objs.zip l).all fun x => sameShape x.1 (objOfLayout x.2)

/-- Bytes of an audio sample (R388). -/
def sampleBytes (fmt : Nat) : Nat := if fmt = 8 then 2 else if fmt = 9 then 3 else 4

/-- An entry of the binding table (R385). -/
def bindAt (b : Bytes) (o : Nat) : BindReq :=
  { en := bitOf (fieldLE b o 1) 7, port := bits (fieldLE b o 1) 1 0, slot := fieldLE b (o + 1) 1,
    chans := fieldLE b (o + 2) 1, fmt := fieldLE b (o + 3) 1, aoff := fieldLE b (o + 4) 4,
    frames := fieldLE b (o + 8) 2, prefill := fieldLE b (o + 10) 2 }
def bindsOf (c : Cmd) : List (Nat × BindReq) :=
  (List.range (groupCount c)).map fun i => (groupFirst c + i, bindAt c.arg (16 * i))

/-- The fields of a binding entry are in range (R385, R386), those of a removal too. -/
def bindOk (b : Bytes) (o : Nat) : Bool :=
  let e := bindAt b o
  bits (fieldLE b o 1) 6 2 == 0 && zeros b (o + 12) 4 &&
    decide (e.slot ≤ 31) && decide (1 ≤ e.chans) && decide (e.slot + e.chans ≤ 32) &&
    (e.fmt == 0 || e.fmt == 8 || e.fmt == 9) && decide (1 ≤ e.frames) && decide (1 ≤ e.prefill) &&
    decide (e.prefill ≤ 8192)

/-- Slots two entries share. -/
def bindClash (a b : BindReq) : Bool := a.en && b.en && a.port == b.port && overlap a.slot a.chans b.slot b.chans

def bindReqOf (b : Bind) : BindReq :=
  { en := true, port := b.port, slot := b.slot, chans := b.chans, fmt := b.fmt, aoff := b.aoff, frames := b.frames,
    prefill := b.prefill }

/-- The slots of the table are free (R386): among its own entries, against committed bindings of other streams
and against the AUDIO_BINDs validated and not retired. -/
def bindFree (s : State) (c : Cmd) : Bool :=
  let mine := bindsOf c
  let others := (s.binds.filterMap fun x => x.2.map fun b => (x.1, bindReqOf b)) ++
    (s.cmds.filter fun x => cop x == opBIND && x.id != c.id).flatMap bindsOf
  mine.all fun x =>
    (mine.all fun y => x.1 == y.1 || !bindClash x.2 y.2) && (others.all fun y => x.1 == y.1 || !bindClash x.2 y.2)

/-- Step 7 for commands that read nothing more: BAD_SHAPE. -/
def step7 (s : State) (c : Cmd) : Bool :=
  let d := c.desc
  let op := cop c
  if op = opRUN then
    match progOf s c with
    | none => false
    | some p =>
      d.lenB.toNat == p.argBytes && decide (groupCount c ≤ p.maxStreams) &&
        decide (groupCount c * d.lenC.toNat * p.outPerStep ≤ d.lenA.toNat) &&
        (match progLayout s c p with
         | none => p.layout == 0xFFFF
         | some l => (groupStreams c).all fun st =>
             let o := (getStream s st).objs
             !o.isEmpty && objsMatch o l) &&
        (groupStreams c).all fun st =>
          match getBind s st with
          | some b => decide (b.aoff + b.frames * b.chans * sampleBytes b.fmt ≤ p.outPerStep)
          | none => true
  else if op = opINIT then
    match progOf s c with
    | none => false
    | some p => (progLayout s c p).isSome
  else if op = opEXPORT then
    decide (sumN ((groupStreams c).map fun st => recTotal (getStream s st).objs) ≤ d.lenA.toNat)
  else if op = opBIND then
    ((List.range (groupCount c)).all fun i => bindOk c.arg (16 * i)) && bindFree s c
  else true

/-- Step 8: POSITION_LIMIT. -/
def step8 (s : State) (c : Cmd) : Bool :=
  cop c != opRUN || (groupStreams c).all fun st => projPos s st + c.desc.lenC.toNat ≤ 2 ^ 24

/-- Reserves the objects of one stream in one pile (R297, R323). -/
def reserveOne (s : State) (c : Cmd) (st : Nat) (h : W32) (objs : List Obj) (mk : Nat → List Obj → NewState) :
    Option (State × Cmd) :=
  if objs.isEmpty then some (s, { c with news := c.news ++ [mk 0x1F []] })
  else
    match chooseHome s c.part st h objs with
    | none => none
    | some p =>
      match placeObjs s p c.part st objs with
      | none => none
      | some (o, s1) => some (s1, { c with news := c.news ++ [mk p o] })

/-- The objects, position, counter and seed a record gives its stream (R214). -/
def newOfRec (st : Nat) (b : Bytes) (pile : Nat) (objs : List Obj) : NewState :=
  { stream := st, pile := pile, objs := objs, position := fieldLE b 20 4, rstep := BitVec.ofNat 64 (fieldLE b 32 8),
    seed := some (BitVec.ofNat 256 (fieldLE b 40 32)) }

/-- The reservations of STATE_INIT and STATE_IMPORT, stream by stream; none where one fails (R297). -/
def reserveAll (s : State) (c : Cmd) : List (Nat × W32 × List Obj × Option Bytes) → Option (State × Cmd)
  | [] => some (s, c)
  | (st, h, objs, r) :: t =>
    -- the directory room sees what the command has reserved so far
    match reserveOne { s with cmds := s.cmds ++ [c] } c st h objs (match r with
        | some b => newOfRec st b
        | none => fun p o => { stream := st, pile := p, objs := o }) with
    | some (s1, c1) => reserveAll { s1 with cmds := s.cmds } c1 t
    | none => none

/-- What validation finds. -/
inductive Verdict where
  | reject (status addr : Nat)
  | empty
  | pass (s : State) (c : Cmd)
deriving DecidableEq, Repr

/-- Steps 7 and 8 and the reservation of R297, given the data step 7 reads. -/
def validateLate (s : State) (c : Cmd) (src : HostAns) : Verdict :=
  let d := c.desc
  let op := cop c
  let n := d.lenA.toNat
  if op = opLOAD then
    match crownRead s c.part c.pasid.toNat d.arg n src (readFuel n) with
    | (_, .fail st a) => .reject st a
    | (s1, .data b) => if imgOk b n then .pass s1 c else .reject stBadShape 0
  else if op = opIMPORT then
    match crownRead s c.part c.pasid.toNat d.arg n src (readFuel n) with
    | (_, .fail st a) => .reject st a
    | (s1, .data b) =>
      match recSplit (groupCount c) b with
      | none => .reject stBadShape 0
      | some recs =>
        let plan := ((groupStreams c).zip recs).map fun x => (x.1, (getStream s1 x.1).defaultSet, recObjs x.2, some x.2)
        match reserveAll s1 c plan with
        | some (s2, c2) => .pass s2 c2
        | none => .reject stOutOfBounds 0
  else if !step7 s c then .reject stBadShape 0
  else if op = opINIT then
    match (progOf s c).bind (progLayout s c) with
    | none => .reject stBadShape 0
    | some l =>
      match reserveAll s c ((groupStreams c).map fun st => (st, d.set, l.map objOfLayout, none)) with
      | some (s2, c2) => .pass s2 c2
      | none => .reject stOutOfBounds 0
  else if !step8 s c then .reject stPositionLimit 0
  else .pass s c

/-- Validation of a descriptor (R56). `arg` is what reading the argument block gave, `hdr` the host's
answer for an image header: a malformed header is judged without the rest (R192). -/
def validate (s : State) (c : Cmd) (r : Ring) (arg : Got) (hdr src : HostAns) : Verdict :=
  let d := c.desc
  let op := cop c
  if !step1 r c.ring c.seq d then .reject stBadOpcode 0
  else if !step2 d then .reject stBadLength 0
  else if isEmpty d then .empty
  else if !step4 s c then .reject stBadStream 0
  else if !step5 s c then .reject stStateDamaged 0
  else if !step6 s c then .reject stOutOfBounds 0
  else if op = opLOAD then
    match crownRead s c.part c.pasid.toNat d.arg (min 64 d.lenA.toNat) hdr 4 with
    | (_, .fail st a) => .reject st a
    | (s1, .data h) =>
      if !imgHeadOk h d.lenA.toNat then .reject stBadShape 0
      else if (setRoom s1 c.part (imgRanks h) (imgResSpan h) (imgCodeSpan h)).isNone then
        .reject stOutOfBounds 0
      else validateLate s1 c src
  else
    match arg with
    | .fail st a => .reject st a
    | .data b => validateLate s { c with arg := b } src

end Sys2Proof.Machine
end

