-- ==== Sys2Proof/Machine/Wake.lean ====
section
/-! DEFINITION. Host accesses and the wake from S2 (R374, R438). -/

namespace Sys2Proof.Machine

open Sys2Proof

/-- Reports the Nightcap held while D1 was off reach the tally, and dropped ones count (R458). -/
def deliverHeld (s : State) : State :=
  let l := s.tally.held
  let s1 := { s with tally := { s.tally with
    held := [], heldDrop := 0, overflow := min (s.tally.overflow + s.tally.heldDrop) 0xFFFF } }
  l.foldl tallyAdd s1

/-- A port of link pair `k`, dies Lk and L(k + 3) (R25), has EN 1 (R432). -/
def pairEn (s : State) (k : Nat) : Bool :=
  (List.range 12).any fun i => (getPort s (12 * k + i)).en || (getPort s (12 * (k + 3) + i)).en

/-- The domains that S2 switches off beside the compute columns: D1 and D11 to D18 (R434). -/
def s2Domains : List Nat := [1, 11, 12, 13, 14, 15, 16, 17, 18]

/-- Domains come on after an entry into S2, as far as it went: the fabrics and D11 to D18, apart from what an active rule
shuts; the piles leave self-refresh; the audio registers take their reset values (R433). -/
def domainsOn (s : State) : State :=
  { s with
    pwr := { s.pwr with
      fabricOff := []
      domOff := s.pwr.domOff.filter fun d =>
        !s2Domains.contains d || s.pwr.shut.contains d || (decide (15 ≤ d) && decide (d ≤ 17) && !pairEn s (d - 15)) }
    piles := (s.piles.map fun x => (x.1, { x.2 with selfRefresh := false })).filter fun x => x.2 != {}
    ap := [] }

/-- The package leaves S2 and reaches S1 (R438): every domain but the cores is on, the Crown's tables are back, and the
lower LMS tree is to be rebuilt. -/
def s2Leave (s : State) : State :=
  let s1 := domainsOn s
  deliverHeld { s1 with
    pwr := { s1.pwr with cur := 1, s2Steps := 0, tablesIn := none, abort := false, idleFrom := s.time }
    sec := { s1.sec with lmsReady := false, romAt := s.time } }

/-- A host access that reaches the package: the link is down while the Crown is in reset; in S2 the access wakes
the package first and completes afterwards. -/
def hostAccess (s : State) (f : State → State) : State :=
  if crownUp s then f (if s.pwr.cur = 2 then s2Leave s else s) else s

/-- An entry into S1 or S2 is in progress (R436). -/
def entering (s : State) : Bool :=
  (s.pwr.cur == 0 && !s.pwr.coresOff.isEmpty) || (s.pwr.cur == 1 && s.pwr.s2Steps != 0)

/-- A doorbell write, a mailbox SEND or a rule wake: an entry in progress is to be aborted at its next step (R436). -/
def wakeCall (s : State) : State := if entering s then { s with pwr := { s.pwr with abort := true } } else s

/-- A write of a doorbell page. -/
def pageAccess (s : State) (f : State → State) : State := hostAccess s fun s => f (wakeCall s)

end Sys2Proof.Machine
end

