-- ==== Sys2Proof/Machine/Rings.lean ====
section
/-! DEFINITION. Doorbell pages (R48 to R50, R78 to R80, R483), fetch (R317, R318) and the queueing of a command. -/

namespace Sys2Proof.Machine

open Sys2Proof

/-! ## Doorbells -/

def setBadTail (s : State) (c ring : Nat) : State :=
  let x := getClient s c
  setClient s c { x with badTail := x.badTail ||| BitVec.ofNat 4 (2 ^ ring) }
def setBadHead (s : State) (c ring : Nat) : State :=
  let x := getClient s c
  setClient s c { x with badHead := x.badHead ||| BitVec.ofNat 4 (2 ^ ring) }

/-- A TAIL write fits the ring and the completion ring (R48). -/
def tailFits (r : Ring) (v : W32) : Bool :=
  decide ((v - r.tail).toNat ≤ 2 ^ r.log2) && decide ((v - r.head).toNat ≤ 2 ^ r.log2)

/-- A write to SQ_TAILn of a registered client (R48, R483). -/
def tailWrite (s : State) (c ring : Nat) (v : W32) : State :=
  let r := getRing s c ring
  if r.en && tailFits r v then setRing s c ring { r with tail := v }
  else event (setBadTail s c ring) crownLoc 0x01 (subjKind 2 c) ring v.toNat

/-- A write to CQ_HEADn of a registered client (R49, R483). -/
def headWrite (s : State) (c ring : Nat) (v : W32) : State :=
  let r := getRing s c ring
  if r.en && decide ((v - r.head).toNat ≤ (r.written - r.head).toNat) then setRing s c ring { r with head := v }
  else setBadHead s c ring

/-- A write to CANCELn of a registered client (R78, R483). -/
def cancelWriteAt (s : State) (c ring : Nat) (v : W32) : State :=
  let r := getRing s c ring
  if r.en && decide ((r.tail - v).toNat ≤ 2 ^ r.log2) then cancelRange s c ring v else setBadTail s c ring

/-- A write to DB_CTRL: STOP or RESUME; with both bits set it is dropped (R79). -/
def dbCtrl (s : State) (c : Nat) (v : W32) : State :=
  if v.getLsbD 0 && !v.getLsbD 1 then stopClient s c
  else if v.getLsbD 1 && !v.getLsbD 0 then resumeClient s c
  else s

/-- A write to DB_STATUS: each 1 clears its bit. -/
def dbStatusW1c (s : State) (c : Nat) (v : W32) : State :=
  let x := getClient s c
  setClient s c { x with
    badTail := x.badTail &&& ~~~(v.setWidth 4), badHead := x.badHead &&& ~~~((v >>> 4).setWidth 4),
    faultSt := x.faultSt &&& ~~~((v >>> 12).setWidth 4) }

/-- A write to a doorbell page by offset and width (R483). -/
def pageWrite (s : State) (c off width : Nat) (v : W64) : State :=
  if width ≠ 4 ∨ !(getClient s c).reg then s
  else
    let w : W32 := v.setWidth 32
    if off % 8 = 0 ∧ off < 0x20 then tailWrite s c (off / 8) w
    else if off % 8 = 0 ∧ 0x40 ≤ off ∧ off < 0x60 then headWrite s c ((off - 0x40) / 8) w
    else if off % 8 = 0 ∧ 0x100 ≤ off ∧ off < 0x120 then cancelWriteAt s c ((off - 0x100) / 8) w
    else if off = 0x180 then dbCtrl s c w
    else if off = 0x188 then dbStatusW1c s c w
    else s

/-- SQ_TAIL_WRITE. -/
def execSqTailWrite (c ring : Nat) (v : W32) (s : State) : Host.Outcome State Fault Refusal :=
  .next (pageAccess s fun s => if clientOk c && ringOk ring && (getClient s c).reg then tailWrite s c ring v else s)
/-- CQ_HEAD_WRITE. -/
def execCqHeadWrite (c ring : Nat) (v : W32) (s : State) : Host.Outcome State Fault Refusal :=
  .next (pageAccess s fun s => if clientOk c && ringOk ring && (getClient s c).reg then headWrite s c ring v else s)
/-- CANCEL_WRITE. -/
def execCancelWrite (c ring : Nat) (v : W32) (s : State) : Host.Outcome State Fault Refusal :=
  .next (pageAccess s fun s => if clientOk c && ringOk ring && (getClient s c).reg then cancelWriteAt s c ring v else s)
/-- DB_CTRL_STOP: a write to DB_CTRL with STOP set (R79). -/
def execDbCtrlStop (c : Nat) (v : W32) (s : State) : Host.Outcome State Fault Refusal :=
  .next (pageAccess s fun s =>
    if clientOk c && (getClient s c).reg && v.getLsbD 0 && !v.getLsbD 1 then stopClient s c else s)
/-- DB_CTRL_RESUME: a write to DB_CTRL with RESUME set (R79). -/
def execDbCtrlResume (c : Nat) (v : W32) (s : State) : Host.Outcome State Fault Refusal :=
  .next (pageAccess s fun s =>
    if clientOk c && (getClient s c).reg && v.getLsbD 1 && !v.getLsbD 0 then resumeClient s c else s)
/-- DOORBELL_UNMAPPED_WRITE: any write to a doorbell page, dropped or taken as R483 says. -/
def execDoorbellUnmappedWrite (c off width : Nat) (v : W64) (s : State) : Host.Outcome State Fault Refusal :=
  .next (pageAccess s fun s => if clientOk c then pageWrite s c off width v else s)

/-! ## A ring DMA failure (R50) -/

/-- The pair stops; the completions of its fetched commands are lost. -/
def ringFail (s : State) (c ring addr : Nat) : State :=
  let r := getRing s c ring
  let s1 := setRing s c ring { r with fault := true }
  let x := getClient s1 c
  let s2 := setClient s1 c { x with faultSt := x.faultSt ||| BitVec.ofNat 4 (2 ^ ring) }
  let s3 := { s2 with cmds := s2.cmds.map fun q => if q.client == c && q.ring == ring then { q with lost := true } else q }
  event s3 crownLoc 0x02 (subjKind 2 c) ring addr

/-- RING_FAULT. -/
def execRingFault (c ring : Nat) (addr : W64) (s : State) : Host.Outcome State Fault Refusal :=
  let r := getRing s c ring
  onlyIf (clientOk c && ringOk ring && r.en && !r.fault) s (ringFail s c ring addr.toNat)

/-! ## Fetch (R317, R318) -/

/-- A cancel or stop has covered the sequence number (R78, R79). -/
def covered (r : Ring) (q : W32) : Bool := r.cover.any fun x => decide ((q - x.1).toNat < x.2)

/-- A command of the ring is being cancelled and has not retired: the entries of later ones wait (R80). -/
def cancelling (s : State) (c ring : Nat) : Bool :=
  s.cmds.any fun x => x.client == c && x.ring == ring &&
    (match x.kill with | some k => x.stage == .killing && k.kind == .ends stCancelled 0 | none => false)

/-- The sequence numbers of a ring that have not been fetched, in order. -/
def unfetched (r : Ring) : List W32 :=
  ((List.range (r.tail - r.fetched).toNat).map fun i => r.fetched + BitVec.ofNat 32 i).filter fun q => !r.done.contains q

/-- The sequence number that a ring fetches next: the first, or the first covered one of a stopped client (R79). -/
def fetchAt (s : State) (c ring : Nat) : Option W32 :=
  let r := getRing s c ring
  let next := if (getClient s c).stopped || (getClient s c).stopping then (unfetched r).find? (covered r) else (unfetched r).head?
  next.filter fun q => !(covered r q && cancelling s c ring)

/-- The ring has something to fetch for its client. -/
def ringReady (s : State) (c ring : Nat) : Bool :=
  let r := getRing s c ring
  r.en && !r.fault && (fetchAt s c ring).isSome

/-- Commands a client holds fetched and not retired. -/
def heldCount (s : State) (c : Nat) : Nat := (s.cmds.filter fun x => x.client == c).length

/-- The client is fetched: registered, below 1,024 unretired commands, with a ring that has something (R317,
R318). -/
def clientReady (s : State) (c : Nat) : Bool :=
  (getClient s c).reg && decide (heldCount s c < 1024) && (List.range 4).any fun n => ringReady s c n

/-- The client's WEIGHT: in ROTATE mode as its last slice took it, in SHARE mode as a turn takes it (R316). -/
def weightOf (s : State) (c : Nat) : Nat :=
  if (getPart s (getClient s c).part).mode then (getClient s c).weight else (getSched s c).weight

/-- The client of the next fetch, and the descriptors left in its turn after it. -/
def nextClient (s : State) : Option (Nat × Nat) :=
  if 131072 ≤ s.cmds.length then none
  else if 0 < s.crown.fetchLeft ∧ clientReady s s.crown.fetchClient then
    some (s.crown.fetchClient, s.crown.fetchLeft - 1)
  else
    let ready := (s.clients.map Prod.fst).filter (clientReady s)
    let later := ready.filter fun c => s.crown.fetchClient < c
    match later ++ ready with
    | c :: _ => some (c, weightOf s c - 1)
    | [] => none

/-- The ring of the next fetch of a client: the first with something from its position on. -/
def nextRing (s : State) (c : Nat) : Option Nat :=
  ((List.range 4).map fun i => ((getClient s c).ringPos + i) % 4).find? fun n => ringReady s c n

/-- A command's dependency on this package takes one of the 8,192 subscriptions, or is refused as busy (R361). -/
def subscribeOwn (s : State) (id : Nat) (d : Dep) : State :=
  if 8192 ≤ s.dom.subs.length then modCmd s id fun c => { c with dep := some { d with busyAt := some s.time } }
  else
    modCmd { s with dom := { s.dom with subs := s.dom.subs ++ [{ src := 65536, cmd := id, slot := d.slot, seq := d.seq }] } }
      id fun c => { c with dep := some { d with busyAt := none } }

/-- The command is queued (R56): its validation order, its dependency (R52, R361). -/
def enqueue (s : State) (c : Cmd) : State :=
  let c := { c with stage := .queued, valBead := s.bead.count, waitFrom := s.time }
  let s1 := { s with pwr := { s.pwr with idleFrom := s.time } }
  let put (d : Option Dep) : State := { s1 with cmds := s1.cmds ++ [{ c with dep := d }] }
  let t := c.desc.token
  if t = 0 then put none
  else
    let own := tokPkg t == selfPkg s
    let dep : Dep := { pkg := tokPkg t, own := own, slot := tokSlot t, seq := tokSeq t, timeout := tokTimeout t }
    if own then
      match localDep s1 dep.slot dep.seq with
      | .met => put none
      | .unreachable => complete (put none) c stRemoteUnreachable 0
      | .unmet => if dep.timeout = 0 then complete (put none) c stRemoteUnreachable 0 else subscribeOwn (put (some dep)) c.id dep
    else if reachable s (tokPkg t) then
      sendCtl (put (some dep)) dep.pkg (.subscribe dep.slot dep.seq (dep.timeout == 0) c.id)
    else complete (put none) c stRemoteUnreachable 0

/-- The command that the 64 bytes of descriptor `q` of a ring make. -/
def fetchedCmd (s : State) (c ring : Nat) (q : W32) (b : Bytes) : Cmd :=
  { id := s.crown.nextId, client := c, ring := ring, seq := q, pasid := (getRing s c ring).pasid,
    part := (getClient s c).part, desc := parseDesc b, valBead := s.bead.count, waitFrom := s.time }

/-- The first sequence number from `q` on that is not in the list. -/
def skipDone (l : List W32) : Nat → W32 → W32
  | 0, q => q
  | n + 1, q => if l.contains q then skipDone l n (q + 1) else q

/-- The descriptor counts as fetched; a covered range ends with its last number. -/
def noteFetch (s : State) (c ring : Nat) (q : W32) : State :=
  let r := getRing s c ring
  let d := q :: r.done
  let f := skipDone d d.length r.fetched
  let ahead := fun (x : W32) => decide ((x - f).toNat < (r.tail - f).toNat)
  let s1 := setRing s c ring { r with
    fetched := f, done := d.filter ahead, cover := r.cover.filter fun x => ahead (x.1 + BitVec.ofNat 32 x.2 - 1) }
  { s1 with crown := { s1.crown with nextId := s1.crown.nextId + 1 } }

/-- The fetch reads the argument block of the command (R55). -/
def wantsArg (d : Desc) : Bool :=
  let op := d.opcode.toNat
  (op == opRUN || op == opOPEN || op == opBIND) && addrDefined d.arg && (d.count != 0) && step2 d

/-- The argument block, with what the host answers for a host address. -/
def argRead (s : State) (c : Cmd) (h : HostAns) : State × Got :=
  if wantsArg c.desc then crownRead s c.part c.pasid.toNat c.desc.arg (argLen c.desc) h (readFuel (argLen c.desc)) else (s, .data [])

/-- The command is completed by validation or queued (R56). A rejected command is one that completes with a status other
than OK, so R61 cancels the queued commands of its streams, earlier ones included (notes/assumptions/31.md). -/
def settle (s : State) (c : Cmd) (r : Ring) (got : Got) (hdr src : HostAns) : State :=
  match validate s c r got hdr src with
  | .reject st ad =>
    retire (if st = stMemUncorrectable ∧ wantsArg c.desc = false then ueReport s ad 0 else s) c st ad false false
  | .empty => retire s c stOK 0 false false
  | .pass s4 c4 => enqueue s4 c4

/-- Descriptor `q` has been read: the command is cancelled (R78), completed by validation or queued. -/
def fetched (s : State) (c ring : Nat) (q : W32) (b : Bytes) (a : FetchAns) : State :=
  let cmd := fetchedCmd s c ring q b
  let s2 := noteFetch s c ring q
  if covered (getRing s c ring) q then dropCmd (writeEntry s2 cmd stCancelled 0 false) cmd
  else
    let x := argRead s2 cmd a.arg
    settle x.1 cmd (getRing s c ring) x.2 a.arg a.src

/-- DESCRIPTOR_FETCH: the descriptor of sequence number q lies in slot q mod 2^n (R45). -/
def execDescriptorFetch (a : FetchAns) (s : State) : Host.Outcome State Fault Refusal :=
  if !crownUp s || d1Off s then .next s
  else
    match nextClient s with
    | none => .next s
    | some (c, left) =>
      match (nextRing s c).bind fun n => (fetchAt s c n).map fun q => (n, q) with
      | none => .next s
      | some (ring, q) =>
        let s1 := { s with crown := { s.crown with fetchClient := c, fetchLeft := left } }
        let r := getRing s c ring
        let s2 := dmaRead (setClient s1 c { getClient s1 c with ringPos := (ring + 1) % 4 })
          none (r.sqBase.toNat + 64 * (q.toNat % 2 ^ r.log2)) 64
        match a.desc with
        | .refused ad => .next (ringFail s2 c ring ad.toNat)
        | .data b => .next (fetched s2 c ring q b a)

end Sys2Proof.Machine
end

