-- ==== Sys2Proof/Machine/Rng.lean ====
section
/-! DEFINITION. Counter-mode words (R235, R236) and the lane mixers (R240, R241). -/

namespace Sys2Proof.Machine

open Sys2Proof

/-- The quarter round of RFC 8439 on words `a b c d` of a 16-word state held as a list. -/
def chachaQ (x : List W32) (a b c d : Nat) : List W32 :=
  let g := fun (l : List W32) (i : Nat) => (l[i]?).getD 0
  let x := x.set a (g x a + g x b)
  let x := x.set d ((g x d ^^^ g x a).rotateLeft 16)
  let x := x.set c (g x c + g x d)
  let x := x.set b ((g x b ^^^ g x c).rotateLeft 12)
  let x := x.set a (g x a + g x b)
  let x := x.set d ((g x d ^^^ g x a).rotateLeft 8)
  let x := x.set c (g x c + g x d)
  x.set b ((g x b ^^^ g x c).rotateLeft 7)

/-- A column round, then a diagonal round. -/
def chachaDouble (x : List W32) : List W32 :=
  let x := chachaQ (chachaQ (chachaQ (chachaQ x 0 4 8 12) 1 5 9 13) 2 6 10 14) 3 7 11 15
  chachaQ (chachaQ (chachaQ (chachaQ x 0 5 10 15) 1 6 11 12) 2 7 8 13) 3 4 9 14

/-- The input state of a block (R235). -/
def cmState (key : BitVec 256) (cls site step blk : Nat) : List W32 :=
  ([0x61707865, 0x3320646E, 0x79622D32, 0x6B206574] : List W32) ++
    ((List.range 8).map fun i => (key >>> (32 * i)).setWidth 32) ++
    [BitVec.ofNat 32 (cls * 2 ^ 28 + blk), BitVec.ofNat 32 step, BitVec.ofNat 32 site, 0]

/-- The 16 words of a block. -/
def cmBlock (key : BitVec 256) (cls site step blk : Nat) : List W32 :=
  let st := cmState key cls site step blk
  let x := chachaDouble (chachaDouble (chachaDouble (chachaDouble st)))
  (x.zip st).map fun p => p.1 + p.2

/-- The counter-mode word of a logical index (R235). -/
def cmWord (key : BitVec 256) (cls site step idx : Nat) : W32 :=
  ((cmBlock key cls site step (idx / 16))[idx % 16]?).getD 0

/-- The seed of the lane mixer of lane `l` on rank `r` (R240). -/
def mixerSeed (key : BitVec 256) (r step l : Nat) : BitVec 128 :=
  let b := cmBlock key 3 r step l
  let g := fun (i : Nat) => ((b[i]?).getD 0 : W32).setWidth 128
  let v : BitVec 128 := g 0 ||| (g 1 <<< 32) ||| (g 2 <<< 64) ||| (g 3 <<< 96)
  if v = 0 then 1 else v

/-- The 64 lane mixers of a rank at dispatch (R240). -/
def mixersOf (key : BitVec 256) (r step : Nat) : Tab (BitVec 128) :=
  (List.range 64).map fun l => (l, mixerSeed key r step l)

/-- One generation of the cyclic automaton (R241). -/
def mixerGen (c : BitVec 128) : BitVec 128 := c.rotateLeft 1 ^^^ (c ||| c.rotateRight 1)
/-- Eight generations. -/
def mixerNext (c : BitVec 128) : BitVec 128 := (List.range 8).foldl (fun c _ => mixerGen c) c
/-- The word a mixer shows: every fourth cell (R241). -/
def mixerWord (c : BitVec 128) : W32 :=
  BitVec.ofNat 32 (sumN ((List.range 32).map fun j => b2n (c.getLsbD (4 * j)) * 2 ^ j))

end Sys2Proof.Machine
end

