-- ==== Sys2Proof/Machine/Place.lean ====
section
/-! DEFINITION. Placement and dispatch (R59, R74 to R77, R166 to R168, R277, R325, R326) and time slices (R329 to
R332). -/

namespace Sys2Proof.Machine

open Sys2Proof

/-! ## When a queued command may be placed -/

/-- The largest slip of the streams a command names; with RESYNC it counts as cleared, which the stream table shows from
the commit on (R62, R74, R77). -/
def slipOf (s : State) (c : Cmd) : Nat :=
  if c.desc.flags.getLsbD 1 then 0
  else (groupStreams c).foldl (fun m st => max m (getStream s st).slip) 0

/-- The effective bead of a RUN with a target; the target of another opcode (R74). -/
def effBeadOf (s : State) (c : Cmd) : Nat :=
  if cop c = opRUN ∧ c.desc.bead ≠ 0 then c.desc.bead.toNat + slipOf s c else c.desc.bead.toNat

/-- The dependency is satisfied (R59, R360). -/
def depMet (s : State) (c : Cmd) : Bool :=
  match c.dep with
  | none => true
  | some d => d.met || (d.own && d.busyAt.isNone && localDep s d.slot d.seq == .met)

/-- The state of the command's streams is resident, and no swap or move of one is requested (R59, R298, R300). -/
def resident (s : State) (c : Cmd) : Bool :=
  (groupStreams c).all fun st =>
    let x := getStream s st
    x.move.isNone && (x.home != 0x1E || cop c == opINIT || cop c == opIMPORT || cop c == opCLOSE)

/-- Every condition of R59 and R58 but the slice and residency: the command is next in line. -/
def inLine (s : State) (c : Cmd) : Bool :=
  c.stage == .queued && !(getClient s c.client).stopping && depMet s c && decide (effBeadOf s c ≤ s.bead.count.toNat) &&
    (s.cmds.all fun x => !decide (x.id < c.id) ||
      (!shareStream x c &&
        !(cop x == opFENCE && x.client == c.client && x.ring == c.ring) &&
        !(cop c == opEVICT && x.part == c.part && usesSet (cop x) && x.desc.set == c.desc.set)))

/-- Every condition of R59 and R58 but the slice. -/
def allowed (s : State) (c : Cmd) : Bool := inLine s c && resident s c

/-- In ROTATE mode the client's slice is running (R329). -/
def sliceOk (s : State) (c : Cmd) : Bool :=
  let p := getPart s c.part
  !p.mode || (p.sliceValid && p.sliceClient == c.client)

/-- The placer works: firmware is ready (R418) and the package is in S0 (R437). -/
def placerUp (s : State) : Bool := s.crown.ready && s.pwr.cur == 0 && s.pwr.coresOff.isEmpty

/-! ## Reservation (R277, R326) -/

/-- The rectangle of routers a gang spans. -/
def gangBox (g : List Nat) : Nat × Nat × Nat × Nat :=
  (g.foldl (fun m c => min m (coreX c)) 63, g.foldl (fun m c => max m (coreX c)) 0,
   g.foldl (fun m c => min m (coreY c)) 39, g.foldl (fun m c => max m (coreY c)) 0)
def boxHas (b : Nat × Nat × Nat × Nat) (r : Nat) : Bool :=
  decide (b.1 ≤ coreX r) && decide (coreX r ≤ b.2.1) && decide (b.2.2.1 ≤ coreY r) && decide (coreY r ≤ b.2.2.2)

/-- No router of the gang's rectangle already carries 16 trees (R326). -/
def treesOk (s : State) (g : List Nat) : Bool :=
  let live := ((s.cmds.filter fun c => !c.gang.isEmpty && (c.stage == .running || c.stage == .killing)).map Cmd.gang).map gangBox
  (List.range 2560).all fun r => !boxHas (gangBox g) r || decide ((live.filter fun b => boxHas b r).length < 16)

/-- Every core of the gang is free, in service, and has room for the scratch window; with the windows' bases. -/
def gangRoom (s : State) (w : WSet) (p : Prog) : Option (List Nat) :=
  if w.cores.all fun c => !(getCore s c).oos && (getDisp s c).isNone then
    let l := w.cores.filterMap fun c => firstGap (lsUsed s c) 3145728 p.scrSpan 512
    if l.length = w.cores.length then some l else none
  else none

/-- One staging page for each target page that device output touches, in the pile of the target (R277, R307). -/
def stageDevPages (s : State) (c : Cmd) : List Nat → Option (List StagePage × State)
  | [] => some ([], s)
  | pg :: t =>
    let (e, sz, _) := pteAt s c.part pg
    let got := if pteP e || pteSw e == 1 then physAlloc s (ptePa e / 2 ^ 36) sz sz (.cmd c.part c.id)
      else physAllocAny s sz sz (.cmd c.part c.id) (pilesUp s)
    match got with
    | none => none
    | some (b, s1) =>
      match stageDevPages s1 c t with
      | none => none
      | some (r, s2) => some ({ dva := pg, size := sz, pa := b } :: r, s2)

/-- Staging room for the whole output (R277). Host output is staged in the pile nearest the Crown, the unfenced
pile of lowest number. -/
def stageRoom (s : State) (c : Cmd) : Option (List StagePage × State) :=
  let n := outLen c.desc
  if !usesOut (cop c) || n == 0 then some ([], s)
  else if isDev c.desc.out then stageDevPages s c (pagesOf s c.part (devAddr c.desc.out) n)
  else
    match pilesUp s with
    | [] => none
    | p :: _ =>
      (physAlloc s p (alignUp n 4096) 4096 (.cmd c.part c.id)).map fun x =>
        ([{ dva := c.desc.out.toNat, size := alignUp n 4096, pa := x.1 }], x.2)

/-- The cores a RUN needs. -/
def needCores (s : State) (c : Cmd) : List Nat :=
  if cop c = opRUN then (match findSet s c.part c.desc.set with | some w => w.cores | none => []) else []

/-- The command was held before the other became held, if it ever did. -/
def heldBefore (h c : Cmd) : Bool :=
  match h.heldAt, c.heldAt with
  | some a, some b => decide (a < b)
  | some _, none => true
  | none, _ => false

/-- Staging room taken from a state is room the held RUN needs: it no longer fits, or it does not fit already. -/
def stagingClash (taken : State) (pages : List StagePage) (h : Cmd) : Bool :=
  !pages.isEmpty && usesOut (cop h) && outLen h.desc != 0 && (stageRoom taken h).isNone

/-- A held RUN of the partition, held before this one, keeps what it needs from the command (R325): its cores, their
scratch room with them, and its staging room. -/
def heldBlocks (s : State) (c : Cmd) (taken : State) (pages : List StagePage) : Bool :=
  s.cmds.any fun h =>
    h.part == c.part && h.id != c.id && h.stage == .queued && heldBefore h c &&
      ((needCores s h).any (fun x => (needCores s c).contains x) || stagingClash taken pages h)

/-- The reservation of a command would succeed: what it would hold. -/
def reserve (s : State) (c : Cmd) : Option (List StagePage × List Nat × State) :=
  match stageRoom s c with
  | none => none
  | some (pages, s1) =>
    if heldBlocks s c s1 pages then none
    else if cop c = opRUN then
      match findSet s c.part c.desc.set, progOf s c with
      | some w, some p =>
        if treesOk s w.cores && w.lost.isEmpty then (gangRoom s w p).map fun bases => (pages, bases, s1) else none
      | _, _ => none
    else some (pages, [], s1)

/-! ## The order of R325 -/

/-- A command of the client validated earlier that a slice end killed comes first, subject to R59 (R331). -/
def slicedFirst (s : State) (c : Cmd) : Bool :=
  s.cmds.any fun k => k.client == c.client && k.sliced && decide (k.id < c.id) && (k.stage == .killing || allowed s k)

/-- A command the placer may take now. -/
def placeable (s : State) (part : Nat) (c : Cmd) : Bool :=
  c.part == part && cop c != opFENCE && cop c != opWAITR && allowed s c && sliceOk s c && !slicedFirst s c &&
    (reserve s c).isSome

/-- The bead a command counts as for the order: its effective bead, or the bead of its validation. -/
def orderBead (s : State) (c : Cmd) : Nat := if c.desc.bead = 0 then c.valBead.toNat else effBeadOf s c

/-- The least of a list by a natural-number key, the first on a tie. -/
def leastCmd (key : Cmd → Nat) : List Cmd → Option Cmd
  | [] => none
  | c :: t =>
    match leastCmd key t with
    | none => some c
    | some d => if key d < key c then some d else some c

/-- The command the placer of a partition takes next, with the client and what is left of its turn (R325). -/
def nextPlace (s : State) (part : Nat) : Option (Cmd × Nat × Nat) :=
  let l := s.cmds.filter (placeable s part)
  match leastCmd (orderBead s) l with
  | none => none
  | some f =>
    let l1 := l.filter fun c => orderBead s c == orderBead s f
    let p := getPart s part
    let client :=
      if 0 < p.plLeft ∧ l1.any (fun c => c.client == p.plClient) then (p.plClient, p.plLeft - 1)
      else
        let later := (l1.filter fun c => p.plClient < c.client).map Cmd.client
        let pick := (if later.isEmpty then l1.map Cmd.client else later).foldl min 4096
        (pick, weightOf s pick - 1)
    (leastCmd Cmd.id (l1.filter fun c => c.client == client.1)).map fun c => (c, client.1, client.2)

/-! ## Dispatch (R166 to R168, R240, R359) -/

/-- The first address of a dispatch's stream view, free (R167). -/
def viewBase (g : W32) : Nat := Config.viewPage g.toNat % 2 ^ 36 * 4096

/-- Bytes of a history record (table *History record*). -/
def histBytes (l : List HistEnt) : Bytes :=
  let ent := fun (i : Nat) => match l[i]? with
    | some e => leN 4 e.maxAbs.toNat ++ leN 4 e.max.toNat ++ leN 4 e.min.toNat
    | none => leN 12 0
  ((List.range 8).flatMap ent) ++ leN 1 l.length ++ leN 31 0

/-- The state reference of a stream with SLOT, OBJECT, ENTRY and OFFSET 0 (R293). -/
def stateHandle (st : Nat) : Nat := 2 ^ 63 + st * 2 ^ 45

/-- A record of the stream view (R168). -/
def viewRec (s : State) (sites st : Nat) : Bytes :=
  let x := getStream s st
  leN 4 x.position ++ leN 4 0 ++ leN 8 x.rstep.toNat ++ leN 32 x.seed.toNat ++ leN 8 (stateHandle st) ++ leN 8 0 ++
    (List.range sites).flatMap fun i => histBytes (tget [] x.hist i)

/-- The dispatch header (R167). -/
def dispHeader (c : Cmd) (eff : Nat) (g : W32) (sites : Nat) : Bytes :=
  let d := c.desc
  leN 8 eff ++ leN 8 (2 ^ 62 + viewBase g) ++ leN 4 (64 + 128 * sites) ++ leN 4 0 ++ leN 8 d.out.toNat ++
    leN 4 d.lenA.toNat ++ leN 2 d.lenB.toNat ++ leN 2 d.lenC.toNat ++ leN 2 d.first.toNat ++ leN 2 d.count.toNat ++
    leN 20 0

/-- The inbox messages of a core that fit its receive buffer, oldest first (R359). -/
def takeInbox : Nat → List Bytes → List Bytes
  | _, [] => []
  | room, b :: t => if b.length / 64 ≤ room then b :: takeInbox (room - b.length / 64) t else []

/-- The dispatch state of rank `r` (R166, R167, R240, R359). -/
def dispOf (s : State) (c : Cmd) (w : WSet) (p : Prog) (g : W32) (eff r scrBase : Nat) : Disp :=
  let d := c.desc
  let core := (w.cores[r]?).getD 0
  let key := (getStream s d.first.toNat).seed
  let step := (getStream s d.first.toNat).rstep.toNat % 2 ^ 32
  let box := takeInbox 256 (((getPart s c.part).inbox.filter fun m => m.1 == core).map fun m => m.2.2)
  let base : Disp :=
    { cmd := c.id, gen := g, part := c.part, handle := d.set, prog := d.prog.toNat, rank := r, gang := w.cores,
      first := d.first.toNat, count := d.count.toNat, lenC := d.lenC.toNat,
      resBase := (w.resBase[r]?).getD 0, codeBase := (w.codeBase[r]?).getD 0, resSpan := w.resSpan,
      scrSpan := p.scrSpan, scrBase := scrBase, codeSpan := w.codeSpan, pc := p.entry,
      mixers := mixersOf key r step, scrTag := s.free + r,
      scr := scrPutAll [] 0 (dispHeader c eff g w.sites.length ++ c.arg),
      view := (groupStreams c).flatMap (viewRec s w.sites.length),
      rx := box.map fun b => { fromInbox := true, data := b }, inboxN := box.length }
  let regs := [(1, r), (2, w.cores.length), (3, d.first.toNat), (4, d.count.toNat), (5, d.lenC.toNat), (6, eff)]
  regs.foldl (fun b x => setSreg b x.1 (BitVec.ofNat 64 x.2)) base

/-- The command leaves the queue: its wait, its dispatch count, LATE (R75, R76, R334). -/
def started (s : State) (c : Cmd) (eff : Nat) (g : W32) (gang : List Nat) (pages : List StagePage) : State :=
  let n := s.bead.count
  let lateNow := cop c == opRUN && c.desc.bead != 0 && !(eff == n.toNat && s.time == s.bead.edge)
  let s1 := modCmd s c.id fun c => { c with
    stage := .running, gen := g, gang := gang, pages := pages, effBead := BitVec.ofNat 64 eff
    dispatches := c.dispatches + 1, firstBead := if c.dispatches = 0 then n else c.firstBead
    dispBead := n, late := c.late || (lateNow && !c.counted), counted := false
    queueNs := c.queueNs + (s.time - c.waitFrom), waitBeads := 0, heldAt := none, sliced := false, allowed := false }
  if c.dispatches = 0 then s1 else modAcct s1 c.client fun a => { a with reruns := a.reruns + 1 }

/-- Places a command and dispatches it (R59, R166, R277). The Crown's own commands carry a generation too (R69). -/
def placeCmd (s : State) (c : Cmd) (pages : List StagePage) (bases : List Nat) : State :=
  let eff := effBeadOf s c
  let g := s.crown.nextGen
  let next := fun (t : State) (n : Nat) => { t with crown := { t.crown with nextGen := g + 1 }, free := t.free + n }
  if cop c = opRUN then
    match findSet s c.part c.desc.set, progOf s c with
    | some w, some p =>
      let s2 := started (next s w.cores.length) c eff g w.cores pages
      ((List.range w.cores.length).zip bases).foldl (fun t x =>
        setDisp t ((w.cores[x.1]?).getD 0) (dispOf s c w p g eff x.1 x.2)) s2
    | _, _ => s
  else started (next s 0) c eff g [] pages

/-- PLACE_COMMAND. -/
def execPlaceCommand (part : Nat) (s : State) : Host.Outcome State Fault Refusal :=
  if !placerUp s || !partOk part then .next s
  else
    match nextPlace s part with
    | none => .next s
    | some (c, cl, left) =>
      match reserve s c with
      | none => .next s
      | some (pages, bases, s1) =>
        let p := getPart s1 part
        .next (placeCmd (setPart s1 part { p with plClient := cl, plLeft := left }) c pages bases)

/-- RUN: the programs of the dispatched gang start. -/
def execRun (id : Nat) (s : State) : Host.Outcome State Fault Refusal :=
  match getCmd s id with
  | none => .next s
  | some c =>
    onlyIf (c.stage == .running && cop c == opRUN && !c.started) s
      (c.gang.foldl (fun t core =>
        match getDisp t core with
        | some d => if d.gen == c.gen then setDisp t core { d with started := true } else t
        | none => t) (modCmd s id fun c => { c with started := true }))

/-- RUN_HELD (R325). -/
def execRunHeld (id : Nat) (s : State) : Host.Outcome State Fault Refusal :=
  match getCmd s id with
  | none => .next s
  | some c =>
    let hold := (getPart s c.part).hold
    onlyIf (c.stage == .queued && cop c == opRUN && hold != 0 && decide (hold ≤ c.waitBeads) && c.heldAt.isNone) s
      (modCmd s id fun c => { c with heldAt := some (s.cmds.foldl (fun m x => max m (x.heldAt.elim 0 (· + 1))) 0) })

/-! ## Time slices (R329 to R332) -/

/-- The client holds a fetched, unretired command in the partition. -/
def clientBusy (s : State) (part c : Nat) : Bool := s.cmds.any fun x => x.part == part && x.client == c

/-- Sample rate of a reference in millihertz: the internal 48 kHz, AUD_WCLK, a port's frame clock as last
measured; the domain bead is taken at 48 kHz (notes/assumptions/16.md). -/
def refMhz (s : State) (r : BitVec 3) : Nat :=
  let p := if r = 1 then getAp s 4 else getAp s (r.toNat - 2)
  if 1 ≤ r.toNat ∧ r.toNat ≤ 5 ∧ p.rate ≠ 0 then p.rate else 48000000

/-- The bead period in nanoseconds. -/
def beadNs (s : State) : Nat := s.bead.curPeriod.toNat * 10 ^ 12 / refMhz s s.bead.activeRef

/-- The client that the next slice of a partition goes to: from a running slice the next busy one in ascending order with
wrap-around; from idle the one whose command was fetched first (R330). -/
def sliceNext (s : State) (part : Nat) : Option Nat :=
  let p := getPart s part
  if p.sliceValid then
    let ready := (s.clients.map Prod.fst).filter (clientBusy s part)
    ((ready.filter fun c => p.sliceClient < c) ++ ready).head?
  else (leastCmd Cmd.id (s.cmds.filter fun x => x.part == part)).map Cmd.client

/-- A bead that a queued RUN waits from here on counts for it (R325). -/
def allowFrom (s : State) (part : Nat) : State :=
  { s with cmds := s.cmds.map fun c =>
      if c.part == part then { c with allowed := cop c == opRUN && allowed s c && sliceOk s c } else c }

/-- The slice of the next client starts, shortened by debt (R330, R332); with no client the partition idles. -/
def sliceStart (s : State) (part : Nat) : State :=
  let p := getPart s part
  match if p.en && p.mode then sliceNext s part else none with
  | none => setPart s part { p with sliceValid := false, sliceLeft := 0 }
  | some c =>
    let len := (getSched s c).slice
    let per := beadNs s
    let d := min ((getClient s c).acct.debtNs.toNat / per) (len - 1)
    let s1 := modAcct s c fun a => { a with debtNs := a.debtNs - BitVec.ofNat 64 (d * per) }
    let s2 := setClient s1 c { getClient s1 c with weight := (getSched s c).weight }
    allowFrom (setPart s2 part { getPart s2 part with sliceValid := true, sliceClient := c, sliceLeft := len - d }) part

/-- The running commands of the outgoing client are killed, uncounted (R331). -/
def sliceKill (s : State) (part c : Nat) : State :=
  let ids := (s.cmds.filter fun x => x.part == part && x.client == c && x.stage == .running).map Cmd.id
  let s1 := ids.foldl (fun t id => startKill (modCmd t id fun x => { x with sliced := true }) id .rerun true) s
  modAcct s1 c fun a => { a with preemptions := a.preemptions + BitVec.ofNat 64 ids.length }

/-- A command is still being killed, or is past its commit point. -/
def unsettled (x : Cmd) : Bool := x.stage == .killing || x.stage == .waiting || x.stage == .committing

/-- What a slice end leaves to drain: the outgoing client's commands that are not settled (R332). -/
def toDrain (s : State) (part c : Nat) : Nat × Nat × List (Nat × W32) :=
  (c, s.time, (s.cmds.filter fun x => x.part == part && x.client == c && unsettled x).map fun x => (x.id, x.gen))

/-- SLICE_END: at a bead boundary, where the slice has elapsed, its client is idle, the partition no longer rotates, or
no slice runs. -/
def execSliceEnd (part : Nat) (s : State) : Host.Outcome State Fault Refusal :=
  let p := getPart s part
  if !(partOk part && ((p.en && p.mode) || p.sliceValid) && s.time == s.bead.edge) then .next s
  else if !p.sliceValid || !clientBusy s part p.sliceClient then .next (sliceStart s part)
  else if p.sliceLeft = 0 then
    let s1 := sliceKill s part p.sliceClient
    .next (sliceStart (setPart s1 part { getPart s1 part with drain := p.drain ++ [toDrain s1 part p.sliceClient] }) part)
  else .next s

/-- A command of the slice that ended is still being killed, or is past its commit point. -/
def draining (s : State) (l : List (Nat × W32)) : Bool := s.cmds.any fun x => unsettled x && l.contains (x.id, x.gen)

/-- SLICE_OVERRUN_CHARGE (R332): every drained client is charged from its boundary to now. -/
def execSliceOverrunCharge (part : Nat) (s : State) : Host.Outcome State Fault Refusal :=
  let p := getPart s part
  let done := p.drain.filter fun x => !draining s x.2.2
  let s1 := done.foldl (fun t x =>
    let n := BitVec.ofNat 64 (s.time - x.2.1)
    modAcct t x.1 fun a => { a with chargedNs := a.chargedNs + n, debtNs := a.debtNs + n }) s
  onlyIf (partOk part) s
    (setPart s1 part { getPart s1 part with drain := p.drain.filter fun x => draining s x.2.2 })

end Sys2Proof.Machine
end

