-- ==== Sys2Proof/Machine/Stream.lean ====
section
/-! DEFINITION. The stream unit: queues, transfers, the thimble path and gathers (R250 to R270, R275, R276, R293,
R294, R302, R303). -/

namespace Sys2Proof.Machine

open Sys2Proof

/-! ## Mesh-side addresses (R51, R252, R253, R293) -/

def meshKind (m : W64) : Nat := bits m.toNat 63 62
/-- The bits R51 and R293 require to be 0 are 0, and the encoding is not the reserved one. -/
def meshOk (m : W64) : Bool :=
  if meshKind m = 0 then bits m.toNat 61 57 == 0
  else if meshKind m = 1 then bits m.toNat 61 48 == 0
  else if meshKind m = 2 then bits m.toNat 60 59 == 0
  else false
/-- MESH + s[S] keeps the encoding (R257). -/
def meshSumOk (m add : W64) : Bool := meshKind m == meshKind (m + add) && meshOk (m + add)
/-- `n` bytes at an address stay in the range its encoding allows, and in the encoding of the descriptor. -/
def meshRange (kind : Nat) (m : W64) (n : Nat) : Bool :=
  meshKind m == kind && meshOk m && (kind == 2 ||
    decide (bits m.toNat 61 0 + n ≤ if kind = 0 then 2 ^ 57 else 2 ^ 48))

def refSlot (m : W64) : Bool := m.getLsbD 61
def refStream (m : W64) : Nat := bits m.toNat 58 45
def refObject (m : W64) : Nat := bits m.toNat 44 37
def refEntry (m : W64) : Nat := bits m.toNat 36 24
def refOffset (m : W64) : Nat := bits m.toNat 23 0

/-! ## Where a transfer goes -/

/-- The pieces of at most one line in `n` bytes at a physical address. -/
def pieces (pa n : Nat) : List (Nat × Nat) :=
  (linesOf pa n).map fun l => (max l pa, min (l + 64) (pa + n) - max l pa)

/-- Translates a device range piece by piece: the line pieces, or how the transfer stands after the first fault, a line of
a page table that cannot be corrected among them. -/
def transRange (tr : Nat → Trans) (needW : Bool) : Nat → Nat → Nat → Except XStat (List (Nat × Nat))
  | 0, _, _ => .ok []
  | fuel + 1, a, n =>
    if n = 0 then .ok []
    else
      match tr a with
      | .page pa sz w =>
        if needW && !w then .error (.badPage a)
        else
          let k := min n (sz - a % sz)
          match transRange tr needW fuel (a + k) (n - k) with
          | .ok l => .ok (pieces pa k ++ l)
          | .error e => .error e
      | .moving d => .error (.badPage d)
      | .lazy_ d => .error (.badPage d)
      | .none_ d => .error (.badPage d)
      | .bad l => .error (.badLine l)

/-- The staging place of a device output address (R62). -/
def stageAt (c : Cmd) (a : Nat) : Option (Nat × Nat) :=
  (c.pages.find? fun (p : StagePage) => decide (p.dva ≤ a) && decide (a < p.dva + p.size)).map fun p =>
    (p.pa + (a - p.dva), p.dva + p.size - a)
def stageRange (c : Cmd) : Nat → Nat → Nat → List (Nat × Nat)
  | 0, _, _ => []
  | fuel + 1, a, n =>
    if n = 0 then []
    else
      match stageAt c a with
      | some (pa, k) => pieces pa (min n k) ++ stageRange c fuel (a + min n k) (n - min n k)
      | none => []

/-- `n` bytes at an address lie in the command's output range (R63). -/
def inOut (c : Cmd) (dev : Bool) (a n : Nat) : Bool :=
  let base := if isDev c.desc.out then devAddr c.desc.out else c.desc.out.toNat
  usesOut (cop c) && isDev c.desc.out == dev && decide (base ≤ a) && decide (a + n ≤ base + outLen c.desc)

/-- A core's copy of the home-pile table (R294): the stream table's HOME, or the old code while the broadcast of a
move has not reached the core (R301). -/
def homeCopy (s : State) (core st : Nat) : Nat :=
  match (s.net ++ s.crown.mc0Wait).findSome? fun p =>
      match p with
      | .home left x old => if x == st && left.contains core then some old else none
      | _ => none with
  | some v => v
  | none => (getStream s st).home

/-- The object a state reference names, if the checks of R294 pass for `n` bytes; a program without a state layout
neither reads nor writes an object (R196), and its reads are refused as its writes are (notes/assumptions/44.md). -/
def refObj (s : State) (core : Nat) (c : Cmd) (write : Bool) (m : W64) (n : Nat) : Option Obj :=
  let x := getStream s (refStream m)
  if namesStream c (refStream m) && homeCopy s core (refStream m) == x.home && decide (refObject m < x.objs.length) &&
      (progOf s c).any fun p => p.layout != 0xFFFF then
    match x.objs[refObject m]? with
    | some o =>
      if decide (refEntry m < o.entries) && decide (refOffset m + n ≤ o.bytes) && (!write || refSlot m) then some o else none
    | none => none
  else none

/-- The slot a state reference reaches: the current one, or the other. -/
def refSlotNo (o : Obj) (m : W64) : Nat := if refSlot m then 1 - curSlot o (refEntry m) else curSlot o (refEntry m)

/-- What a gang's own read of a device page sees: the staging page once a write has reached it (R62, R274). -/
def ownPage (c : Cmd) (tr : Nat → Trans) (a : Nat) : Trans :=
  match tr a with
  | .page pa sz w =>
    match c.pages.find? fun (p : StagePage) => isDev c.desc.out && c.copied.contains p.dva && decide (p.dva ≤ a) &&
        decide (a < p.dva + p.size) with
    | some p => .page (p.pa + (a - p.dva)) sz w
    | none => .page pa sz w
  | t => t

/-- What a gang's own read of host memory sees: the bytes of the command's output that the run has written stand in
staging (R62, R274). -/
def ownOutput (s : State) (c : Cmd) (a : Nat) (b : Bytes) : Bytes :=
  match c.pages with
  | [] => b
  | p :: _ =>
    ((List.range b.length).zip b).map fun x =>
      if c.wrote.any fun w => decide (w.1 ≤ a + x.1) && decide (a + x.1 < w.1 + w.2) then
        (pmRead s (p.pa + (a + x.1 - p.dva)) 1).headD x.2
      else x.2

/-- How a transfer of `n` bytes stands once it has been translated by `tr`; none ends the command with
OUT_OF_BOUNDS. With it the data a stream-view read returns and the entry a state reference names. -/
def route (s : State) (core : Nat) (d : Disp) (c : Cmd) (tr : Nat → Trans) (kind : Nat) (write : Bool) (m : W64) (n : Nat) :
    Option (XStat × Bytes × Option (Nat × Nat × Nat × Bool)) :=
  let a := bits m.toNat 61 0
  let fuel := n / 4096 + 2
  if !meshRange kind m n then some (.badAddr m.toNat, [], none)
  else if kind = 2 then
    match refObj s core c write m n with
    | none => none
    | some o =>
      let pa := slotPa o (refEntry m) (refSlotNo o m) + refOffset m
      some (.lines (pieces pa n), [], some (refStream m, refObject m, refEntry m, refSlot m))
  else if kind = 1 then
    let v := viewBase d.gen
    if !write && decide (v ≤ a) && decide (a + n ≤ v + d.view.length) then some (.served, slice d.view (a - v) n, none)
    else if write && !inOut c true a n then none
    else
      match transRange (if write then tr else ownPage c tr) write fuel a n with
      | .error e => some (e, [], none)
      | .ok l => some (.lines (if write then stageRange c fuel a n else l), [], none)
  else if write then
    if inOut c false a n then
      match c.pages with
      | p :: _ => some (.lines (pieces (p.pa + (a - p.dva)) n), [], none)
      | [] => none
    else none
  else some (.host, [], none)

/-! ## Descriptors (R252, R257, R260) -/

/-- A transfer descriptor passes the checks of R257; `add` is s[S]. -/
def sdescOk (d : Disp) (b : Bytes) (add : W64) : Bool :=
  let mesh : W64 := BitVec.ofNat 64 (fieldLE b 0 8)
  let loc := fieldLE b 8 4
  let ls := fieldLE b 12 4
  let rb := fieldLE b 16 4
  let cnt := fieldLE b 20 4
  let fl := fieldLE b 41 1
  let half := fieldLE b 36 4
  let len := (cnt - 1) * ls + rb
  let nothing := rb == 0 || cnt == 0
  zeros b 42 22 && !bitOf fl 7 && bits fl 2 0 != 7 && decide (rb ≤ 3145728) && decide (cnt ≤ 1048576) &&
    meshSumOk mesh add && (mesh + add).toNat % 16 == 0 && loc % 16 == 0 && ls % 16 == 0 && rb % 16 == 0 &&
    fieldLE b 24 8 % 16 == 0 && half % 16 == 0 && fieldLE b 32 4 % 4 == 0 &&
    (bitOf fl 4 || fieldLE b 32 4 == 0) && (bitOf fl 5 || half == 0) &&
    (nothing || (winOk d loc len && (!bitOf fl 5 || winOk d (loc + half) len))) &&
    (nothing || !bitOf fl 4 || winOk d (fieldLE b 32 4) (4 * cnt)) &&
    (bitOf fl 3 || ((decide (cnt ≤ 1) || decide (rb ≤ ls)) && winScratch loc)) &&
    (nothing || !bitOf fl 5 || decide (len ≤ half)) &&
    (!bitOf fl 6 || (bitOf fl 4 && !bitOf fl 3 && meshKind mesh != 0))

/-- A set-up descriptor passes the checks of R260. -/
def setupOk (b : Bytes) : Bool :=
  zeros b 12 28 && zeros b 41 23 && decide (1 ≤ fieldLE b 0 2) && decide (fieldLE b 0 2 ≤ 64) &&
    decide (fieldLE b 2 2 ≤ 1024) && decide (64 ≤ fieldLE b 4 4) && decide (fieldLE b 4 4 ≤ 1048576) &&
    decide (fieldLE b 8 4 ≤ 1048575)

def getQ (d : Disp) (q : Nat) : Queue := tget {} d.queues q
def setQ (d : Disp) (q : Nat) (x : Queue) : Disp := { d with queues := tput {} d.queues q x }

/-- The arming of a descriptor; the half bit of the queue picks the half (R259). -/
def armOf (aid addr token : Nat) (h : Bool) (b : Bytes) (add : W64) : Arming :=
  let fl := fieldLE b 41 1
  if fieldLE b 40 1 = 1 then
    { aid := aid, addr := addr, token := token,
      setup := some (fieldLE b 0 2, fieldLE b 2 2, fieldLE b 4 4, fieldLE b 8 4) }
  else
    { aid := aid, addr := addr, token := token, mesh := BitVec.ofNat 64 (fieldLE b 0 8) + add,
      loc := fieldLE b 8 4 + (if bitOf fl 5 && h then fieldLE b 36 4 else 0), lstride := fieldLE b 12 4,
      rowBytes := fieldLE b 16 4, count := fieldLE b 20 4, mstride := BitVec.ofNat 64 (fieldLE b 24 8),
      index := fieldLE b 32 4, offload := bitOf fl 6, idx := bitOf fl 4, write := bitOf fl 3,
      xfer := 64 * 2 ^ bits fl 2 0 }

/-- Transfers of a core on the main path and on the thimble path that hold tags. -/
def mainTags (d : Disp) : Nat := (d.xfers.filter fun x => x.queue < 8).length
def thimTags (d : Disp) : Nat := (d.xfers.filter fun x => x.queue == 8).length

/-! ## The issue side of a queue -/

/-- Every transfer of the arming has issued. -/
def armDone (a : Arming) : Bool := a.setup.isNone && (a.rowBytes == 0 || decide (a.count ≤ a.row))
/-- Transfers of an arming that hold tags. -/
def armBusy (d : Disp) (aid : Nat) : Bool := d.xfers.any fun x => x.queue < 8 && x.aid == aid

/-- Armings at the head of a queue that have nothing left to issue leave it; those with nothing in flight are
done (R251). -/
def settleQ : Nat → Nat → Disp → Disp
  | 0, _, d => d
  | fuel + 1, q, d =>
    match (getQ d q).arms with
    | [] => d
    | a :: t =>
      if armDone a then
        let x := getQ d q
        let d1 :=
          if armBusy d a.aid then setQ d q { x with arms := t, out := x.out ++ [a], eligAt := none }
          else tokDone (setQ d q { x with arms := t, eligAt := none }) a.token
        settleQ fuel q d1
      else d

/-- Bytes of the next transfer of an arming. -/
def nextBytes (a : Arming) : Nat := min a.xfer (a.rowBytes - a.off)
/-- Tags a queue holds. -/
def queueTags (d : Disp) (q : Nat) : Nat := (d.xfers.filter fun x => x.queue == q).length

/-- The queue's next transfer meets every condition of R262 but a free tag and a free port. -/
def eligible (d : Disp) (q : Nat) : Bool :=
  let x := getQ d q
  match x.arms with
  | a :: _ =>
    a.setup.isNone && !armDone a && decide (queueTags d q < x.ceiling) &&
      (x.rate == 0 || decide ((min (nextBytes a) x.burst : Nat) ≤ x.bucket))
  | [] => false

/-- The time since which the queue's next transfer has been eligible is kept (R266). -/
def markElig (time : Nat) (d : Disp) (q : Nat) : Disp :=
  let x := getQ d q
  let e := if eligible d q then (match x.eligAt with | some t => some t | none => some time) else none
  setQ d q { x with eligAt := e }

/-- Every queue is settled. -/
def tidyD (time : Nat) (d : Disp) : Disp :=
  (List.range 8).foldl (fun d q => markElig time (settleQ 5 q d) q) d

/-- The base die that takes an index stream (R302): the home pile, or the pile of the die column on the nearer
edge. -/
def gatherPile (s : State) (core : Nat) (m : W64) : Nat :=
  if meshKind m = 2 then (getStream s (refStream m)).home
  else if coreY core / 8 ≤ 2 then coreX core / 8 else coreX core / 8 + 8

/-- The index streams of offloaded armings that have come to the head of their queue are sent; one that no base die
could take (R294) stays, and its transfers fail as they issue. -/
def sendGathers (s : State) (core : Nat) (d : Disp) : State :=
  (List.range 8).foldl (fun t q =>
    match getDisp t core with
    | none => t
    | some d =>
      let x := getQ d q
      match x.arms with
      | a :: r =>
        if a.offload && !a.gather && decide (gatherPile t core a.mesh < 16) then
          sendNet (setDisp t core (setQ d q { x with arms := { a with gather := true } :: r }))
            (.gather core d.gen a.aid (gatherPile t core a.mesh))
        else t
      | [] => t) (setDisp s core d)

/-- The arming has not ended. -/
def armAlive (d : Disp) (aid : Nat) : Bool :=
  d.queues.any fun (x : Nat × Queue) => (x.2.arms ++ x.2.out).any fun a => a.aid == aid

/-- The gather contexts of a dispatch's armings that have ended are freed (R303). -/
def dropGathers (s : State) (core : Nat) (d : Disp) : State :=
  { s with piles := (s.piles.map fun (x : Nat × Pile) =>
      (x.1, { x.2 with gathers := x.2.gathers.filter fun g => g.core != core || g.gen != d.gen || armAlive d g.aid })).filter fun x => x.2 != {} }

/-- The dispatch goes back to its core with its queues settled. -/
def putStream (s : State) (core : Nat) (d : Disp) : State :=
  let d1 := tidyD s.time d
  sendGathers (dropGathers s core d1) core d1

/-- The in-flight count of a descriptor is not zero (R252). -/
def inFlight (d : Disp) (addr : Nat) : Bool :=
  d.queues.any fun (x : Nat × Queue) => (x.2.arms ++ x.2.out).any fun a => a.addr == addr

/-- SQGO. -/
def execOpSqgo (core : Nat) (s : State) : Host.Outcome State Fault Refusal :=
  .next (issue s core 0x70 fun d w =>
    let q := fImm w % 8
    let a := (areg d (fP w)).toNat
    let add := sreg d (fS w)
    if tokPending d (fT w) then stall s core d 0
    else if 4 ≤ (getQ d q).arms.length then stall s core d 0
    else
      match blockAt (getCore s core).ls d w 64 with
      | none => failOob s d
      | some b =>
        if inFlight d a then stall s core d 6
        else if (fieldLE b 40 1 == 1 && setupOk b) || (fieldLE b 40 1 == 0 && sdescOk d b add) then
          let x := getQ d q
          let arm := armOf d.nextX a (fT w) x.half b add
          let h := if fieldLE b 40 1 == 0 && bitOf (fieldLE b 41 1) 5 then !x.half else x.half
          let d1 := setQ { d with nextX := d.nextX + 1 } q { x with arms := x.arms ++ [arm], half := h }
          let s1 := putStream s core (tokSet d1 (fT w))
          match getDisp s1 core with
          | some d2 => advance s1 core d2
          | none => s1
        else failOob s d)

/-- A unit event of a running dispatch: `f` of the dispatch and its command. -/
def onUnit (s : State) (core : Nat) (f : Disp → Cmd → State) : State :=
  match getDisp s core with
  | none => s
  | some d =>
    match getCmd s d.cmd with
    | some c => if d.started && genCurrent s d.gen && c.gen == d.gen then f d c else s
    | none => s

/-- QUEUE_SETUP (R260). -/
def execQueueSetup (core q : Nat) (s : State) : Host.Outcome State Fault Refusal :=
  .next (onUnit s core fun d _ =>
    let x := getQ d q
    match x.arms with
    | a :: t =>
      match a.setup with
      | some (ceil, rate, burst, age) =>
        putStream s core (tokDone (setQ d q { x with
          arms := t, ceiling := ceil, rate := rate, burst := burst, age := age, bucket := burst, eligAt := none }) a.token)
      | none => s
    | [] => s)

/-! ## Issuing transfers (R253 to R256, R262, R266) -/

/-- The index of a row (R253). -/
def rowIndex (ls : Tab Byte) (d : Disp) (a : Arming) (r : Nat) : Nat :=
  if a.idx then (winW32 ls d (a.index + 4 * r)).toNat else r

/-- Skipped rows at the front of an arming are passed over, a read zero-filling them (R254). -/
def skipRows (ls : Tab Byte) : Nat → Disp → Arming → Disp × Arming
  | 0, d, a => (d, a)
  | fuel + 1, d, a =>
    if a.idx && a.off == 0 && decide (a.row < a.count) && a.rowBytes != 0 && rowIndex ls d a a.row == 0xFFFFFFFF then
      let d1 := if a.write then d else winWrite d (a.loc + a.row * a.lstride) (List.replicate a.rowBytes 0)
      skipRows ls fuel d1 { a with row := a.row + 1 }
    else (d, a)

/-- Skips the rows at the head of every queue. -/
def skipAll (ls : Tab Byte) (d : Disp) : Disp :=
  (List.range 8).foldl (fun d q =>
    match (getQ d q).arms with
    | a :: t =>
      let r := skipRows ls (a.count - a.row) d a
      setQ r.1 q { getQ r.1 q with arms := r.2 :: t }
    | [] => d) d

/-- FCLK cycles of 1.8 GHz since a time. -/
def fclks (now t : Nat) : Nat := (now - t) * 9 / 5

/-- An eligible transfer of the queue is older than its AGE (R266). -/
def overAge (now : Nat) (d : Disp) (q : Nat) : Bool :=
  let x := getQ d q
  eligible d q && x.age != 0 &&
    (match x.eligAt with | some t => decide (x.age < fclks now t) | none => false)
def anyOver (now : Nat) (d : Disp) : Bool := (List.range 8).any (overAge now d)

/-- The queue that issues next (R266). -/
def pickQueue (now : Nat) (d : Disp) : Option Nat :=
  let l := (List.range 8).filter (eligible d)
  if anyOver now d then l.head?
  else leastBy (fun q => ((match (getQ d q).eligAt with | some t => t | none => now), q)) l

/-- The arming after its next transfer. -/
def stepArm (a : Arming) : Arming :=
  if a.off + nextBytes a < a.rowBytes then { a with off := a.off + nextBytes a } else { a with row := a.row + 1, off := 0 }

/-- The row of the arming's next transfer, and its mesh and local addresses (R256). -/
def xferRow (ls : Tab Byte) (d : Disp) (a : Arming) : W64 := a.mesh + BitVec.ofNat 64 (rowIndex ls d a a.row) * a.mstride
def xferLoc (a : Arming) : Nat := a.loc + a.row * a.lstride + a.off

/-- The transfer an arming issues next, with its outcome. -/
def nextXfer (ls : Tab Byte) (q : Nat) (d : Disp) (a : Arming) (st : XStat) (data : Bytes)
    (e : Option (Nat × Nat × Nat × Bool)) : Xfer :=
  { xid := d.nextX, queue := q, aid := a.aid, token := a.token, write := a.write,
    mesh := xferRow ls d a + BitVec.ofNat 64 a.off, loc := xferLoc a, bytes := nextBytes a,
    stat := st, data := data, entry := e }

/-- The queue steps past its head's next transfer, which takes a tag. -/
def takeTag (d : Disp) (q : Nat) (a : Arming) (rest : List Arming) (y : Xfer) : Disp :=
  let x := getQ d q
  setQ { d with nextX := d.nextX + 1, xfers := d.xfers ++ [y] } q { x with
    arms := stepArm a :: rest, bucket := if x.rate = 0 then x.bucket else x.bucket - (nextBytes a : Int), eligAt := none }

/-- A walk that meets an uncorrectable line of a page table reports it (R288). -/
def noteRoute (s : State) (st : XStat) : State := match st with | .badLine l => ueReport s l 0 | _ => s

/-- A transfer that waits for the host has asked it for its bytes (R369). -/
def hostRead (s : State) (c : Cmd) (st : XStat) (m : W64) (n : Nat) : State :=
  if st = .host then dmaRead s (some c.pasid.toNat) (bits m.toNat 61 0) n else s

/-- The next transfer of a queue issues. -/
def issueXfer (s : State) (core q : Nat) (d : Disp) (c : Cmd) (a : Arming) (rest : List Arming) : State :=
  let ls := (getCore s core).ls
  if !meshRange (meshKind a.mesh) (xferRow ls d a) 1 then
    putStream s core (takeTag d q a rest (nextXfer ls q d a (.badAddr (xferRow ls d a).toNat) [] none))
  else if a.offload && a.gather then putStream s core (takeTag d q a rest (nextXfer ls q d a .granted [] none))
  else
    match route s core d c (translate s core d.part) (meshKind a.mesh) a.write (xferRow ls d a + BitVec.ofNat 64 a.off)
        (nextBytes a) with
    | none => failOob s d
    | some (st, data, e) =>
      let s := hostRead (noteRoute s st) c st (xferRow ls d a + BitVec.ofNat 64 a.off) (nextBytes a)
      putStream s core (takeTag d q a rest (nextXfer ls q d a st
        (if a.write then winRead ls d (xferLoc a) (nextBytes a) else data) e))

/-- TRANSFER_ISSUE. -/
def execTransferIssue (core : Nat) (s : State) : Host.Outcome State Fault Refusal :=
  .next (onUnit s core fun d c =>
    let s1 := putStream s core (skipAll (getCore s core).ls d)
    match getDisp s1 core with
    | none => s1
    | some d1 =>
      let d1 := { d1 with prio := anyOver s.time d1 }
      if 64 ≤ mainTags d1 then setDisp s1 core d1
      else
        match pickQueue s.time d1 with
        | none => setDisp s1 core d1
        | some q =>
          match (getQ d1 q).arms with
          | a :: t => issueXfer s1 core q d1 c a t
          | [] => setDisp s1 core d1)

/-- AGE_LIMIT_EXCEEDED: the unit is in priority mode while a queue is over its limit. -/
def execAgeLimitExceeded (core q : Nat) (s : State) : Host.Outcome State Fault Refusal :=
  .next (onUnit s core fun d _ => if overAge s.time d q then setDisp s core { d with prio := true } else s)

/-- REGULATOR_REFILL: 16 FCLK have passed (R264). -/
def execRegulatorRefill (core q : Nat) (s : State) : Host.Outcome State Fault Refusal :=
  .next (onUnit s core fun d _ =>
    let x := getQ d q
    if q < 8 ∧ x.rate ≠ 0 then putStream s core (setQ d q { x with bucket := min (x.bucket + (x.rate : Int)) (x.burst : Int) })
    else s)

/-! ## Thimbles (R267, R268) -/

/-- The check of a thimble block. -/
def thimOk (d : Disp) (b : Bytes) (add : W64) : Bool :=
  let mesh : W64 := BitVec.ofNat 64 (fieldLE b 0 8)
  let loc := fieldLE b 8 4
  let n := bits (fieldLE b 12 1) 6 0
  zeros b 13 19 && decide (n ≤ 64) && meshSumOk mesh add && decide ((mesh + add).toNat % 64 + n ≤ 64) &&
    (n == 0 || winOk d loc n) && (bitOf (fieldLE b 12 1) 7 || n == 0 || winScratch loc)

/-- THIM. -/
def execOpThim (core : Nat) (s : State) : Host.Outcome State Fault Refusal :=
  .next (issue s core 0x71 fun d w =>
    let a := (areg d (fP w)).toNat
    let add := sreg d (fS w)
    if tokPending d (fT w) then stall s core d 0
    else if 4 ≤ d.thims.length then stall s core d 0
    else if !(a % 32 == 0 && winOk d a 32) then failOob s d
    else
      let b := winRead (getCore s core).ls d a 32
      if thimOk d b add then
        let t : Thimble :=
          { token := fT w, mesh := BitVec.ofNat 64 (fieldLE b 0 8) + add, loc := fieldLE b 8 4,
            write := bitOf (fieldLE b 12 1) 7, bytes := bits (fieldLE b 12 1) 6 0 }
        advance s core (tokSet { d with thims := d.thims ++ [t] } (fT w))
      else failOob s d)

/-- THIMBLE_ISSUE: the oldest thimble issues on a free tag of the 16; one of no bytes is done. -/
def execThimbleIssue (core : Nat) (s : State) : Host.Outcome State Fault Refusal :=
  .next (onUnit s core fun d c =>
    match d.thims with
    | [] => s
    | t :: r =>
      if t.bytes = 0 then setDisp s core (tokDone { d with thims := r } t.token)
      else if 16 ≤ thimTags d then s
      else
        match route s core d c (translate s core d.part) (meshKind t.mesh) t.write t.mesh t.bytes with
        | none => failOob s d
        | some (st, data, e) =>
          let s := hostRead (noteRoute s st) c st t.mesh t.bytes
          let x : Xfer :=
            { xid := d.nextX, queue := 8, aid := 0, token := t.token, write := t.write, mesh := t.mesh, loc := t.loc,
              bytes := t.bytes, data := if t.write then winRead (getCore s core).ls d t.loc t.bytes else data,
              stat := st, entry := e }
          setDisp s core { d with thims := r, nextX := d.nextX + 1, xfers := d.xfers ++ [x] })

/-! ## Gathers (R302, R303) -/

/-- The pile that runs a gather of a core's arming. -/
def gatherAt (s : State) (core : Nat) (gen : W32) (aid : Nat) : Option Nat :=
  (List.range 16).find? fun p => (getPile s p).gathers.contains { core := core, aid := aid, gen := gen }

/-- GATHER_INDEX_STREAM: the index stream takes one of the base die's 64 contexts, or waits for one. -/
def execGatherIndexStream (core arming : Nat) (s : State) : Host.Outcome State Fault Refusal :=
  let hit := fun (p : Packet) => match p with | .gather c _ a _ => c == core && a == arming | _ => false
  match s.net.find? hit with
  | some (.gather c g a p) =>
    if !meshOn s || headOf s 2 core (pileLoc p) != some (.gather c g a p) then .next s
    else if genCurrent s g && (getDisp s core).any fun d => d.gen == g && armAlive d a then
      let x := getPile s p
      if x.gathers.length < 64 then
        .next (setPile { s with net := s.net.erase (.gather c g a p) } p
          { x with gathers := x.gathers ++ [{ core := c, aid := a, gen := g }] })
      else .next s
    else .next { s with net := s.net.erase (.gather c g a p) }
  | _ => .next s

/-- Replaces the transfer of a number. -/
def setXfer (d : Disp) (y : Xfer) : Disp := { d with xfers := d.xfers.map fun x => if x.xid == y.xid then y else x }

/-- The translation a base die's gather uses: its own TLB, else a walk. -/
def translatePile (s : State) (pile p dva : Nat) : Trans :=
  match tlbHit (tget [] s.dieTlb (40 + pile)) p dva with
  | some e => .page (e.pa + (dva - e.dva)) e.size e.w
  | none => walk s p dva

/-- GATHER_GRANT: the base die issues the arming's next transfer that holds a grant. -/
def execGatherGrant (core arming : Nat) (s : State) : Host.Outcome State Fault Refusal :=
  .next (onUnit s core fun d c =>
    match gatherAt s core d.gen arming, d.xfers.find? fun x => x.queue < 8 && x.aid == arming && x.stat == .granted with
    | some p, some x =>
      match route s core d c (translatePile s p d.part) (meshKind x.mesh) false x.mesh x.bytes with
      | none => failOob s d
      | some (st, data, e) => setDisp (noteRoute s st) core (setXfer d { x with stat := st, data := data, entry := e })
    | _, _ => s)

/-! ## Completion and faults (R251, R275, R276) -/

/-- A transfer's tag is freed. -/
def freeTag (d : Disp) (x : Xfer) : Disp := { d with xfers := d.xfers.filter fun y => y.xid != x.xid }

/-- The arming of a transfer was the last of its queue's to wait for, and nothing of it is left. -/
def armEnds (d : Disp) (x : Xfer) : Bool := (getQ d x.queue).out.any (fun a => a.aid == x.aid) && !armBusy d x.aid

/-- The queue forgets an arming that has ended. -/
def dropArm (d : Disp) (x : Xfer) : Disp :=
  let q := getQ d x.queue
  setQ d x.queue { q with out := q.out.filter fun a => a.aid != x.aid }

/-- A transfer ends; its arming's token is done when nothing of it is left (R251). -/
def endXfer (s : State) (core : Nat) (d : Disp) (x : Xfer) : State :=
  if x.queue = 8 then setDisp s core (tokDone (freeTag d x) x.token)
  else if armEnds (freeTag d x) x then
    putStream s core (tokDone (dropArm (freeTag d x) x) x.token)
  else putStream s core (freeTag d x)

/-- TRANSFER_COMPLETE: read data lands in the local store, or a write is acknowledged. `data` is what the host
gave a host read. -/
def execTransferComplete (core xid : Nat) (data : Bytes) (s : State) : Host.Outcome State Fault Refusal :=
  .next (onUnit s core fun d c =>
    match d.xfers.find? fun x => x.xid == xid with
    | none => s
    | some x =>
      if x.stat = .served then
        endXfer s core (if x.write then d else winWrite d x.loc (slice x.data 0 x.bytes)) x
      else if x.stat = .host then endXfer s core (winWrite d x.loc (ownOutput s c (bits x.mesh.toNat 61 0) (slice data 0 x.bytes))) x
      else s)

/-- An uncorrectable read kills the command (table *Causes of a kill*): counted the first time at an address,
terminal at the same address on two consecutive runs. -/
def killUe (s : State) (c : Cmd) (pa : Nat) : State :=
  match c.lastUe with
  | some (a, n) =>
    if a = pa ∧ n + 1 = c.dispatches then startKill s c.id (.ends stMemUncorrectable pa) false
    else startKill (modCmd s c.id fun c => { c with lastUe := some (pa, c.dispatches) }) c.id .counted false
  | none => startKill (modCmd s c.id fun c => { c with lastUe := some (pa, c.dispatches) }) c.id .counted false

/-- A translation fault kills the command (R308): firmware resolves a moving or lazy page before the re-run; a page
resolved meanwhile only re-runs; anything else ends it. -/
def killPage (s : State) (c : Cmd) (write : Bool) (a : Nat) : State :=
  let again := startKill s c.id .counted false
  match walk s c.part a with
  | .moving _ => modCmd again c.id fun c => { c with faultAt := some a }
  | .lazy_ _ => modCmd again c.id fun c => { c with faultAt := some a }
  | .page _ _ w => if !write || w then again else startKill s c.id (.ends stPageFault a) false
  | .none_ _ => startKill s c.id (.ends stPageFault a) false
  | .bad l => killUe (ueReport s l 0) c l

/-- TRANSFER_FAULT: a fault report of the current generation kills the command with the outcome of its cause.
`refused` is the address at which the host's IOMMU refused a host read. -/
def execTransferFault (core xid : Nat) (refused : Option W64) (s : State) : Host.Outcome State Fault Refusal :=
  .next (onUnit s core fun d c =>
    match d.xfers.find? fun x => x.xid == xid with
    | none => s
    | some x =>
      match x.stat with
      | .badPage a => killPage s c x.write a
      | .badAddr a => startKill s c.id (.ends stPageFault a) false
      | .badLine pa => killUe s c pa
      | .host =>
        match refused with
        | some a => startKill s c.id (.ends stPageFault a.toNat) false
        | none => s
      | _ => s)

end Sys2Proof.Machine
end

