-- ==== Sys2Proof/Machine/Message.lean ====
section
/-! DEFINITION. The message unit: messages, credits, halo transfers, remote reads and inboxes (R22 to R24, R34,
R188, R231 to R234, R271, R272, R356 to R359), and engine tokens (R135). -/

namespace Sys2Proof.Machine

open Sys2Proof

/-! ## The receive buffer (R157, R271) -/

/-- Free flits of a core's receive buffer of 256. -/
def rxFree (d : Disp) : Nat := 256 - (sumN (d.rx.map fun m => flitsOf m.data) + d.granted + d.readHold)

/-- Requests are granted in arrival order while each has room; the fuel is their number. -/
def grantLoop (core : Nat) : Nat → State → Disp → State × Disp
  | 0, s, d => (s, d)
  | fuel + 1, s, d =>
    match d.requests with
    | [] => (s, d)
    | (src, n) :: t =>
      if n ≤ rxFree d then
        grantLoop core fuel (sendNet s (.grant core src d.gen n)) { d with requests := t, granted := d.granted + n }
      else (s, d)

/-- The receiver has released tag n - 2 (R232): of the 32-bit tags at most one after the releases is in flight. -/
def haloFree (d : Disp) (side : Bool) (tag : Nat) : Bool :=
  decide ((tag + 2 ^ 32 - tget 0 d.released (b2n side)) % 2 ^ 32 ≤ 1)

/-- The send queue moves as far as it can: the SEND at its head asks for space, transmits once granted and
released, or sends its remote read; the fuel is the queue's length and one. -/
def pumpSend (core : Nat) : Nat → State → Disp → State × Disp
  | 0, s, d => (s, d)
  | fuel + 1, s, d =>
    match d.sendQ with
    | [] => (s, d)
    | e :: t =>
      if e.flits = 0 then (s, d)
      else
        match e.read with
        | some (n, req) =>
          if n / 64 ≤ rxFree d then
            let d1 := tokDone { d with
              sendQ := t, readHold := d.readHold + n / 64
              reads := d.reads ++ [{ bytes := n, request := req, dst := e.dst, at_ := s.time }] } e.token
            pumpSend core fuel (sendRead s e.dst core d.gen req) d1
          else (s, { d with sendQ := { e with asked := true } :: t })
        | none =>
          if !e.asked then
            (sendNet s (.request core e.dst d.gen e.flits), { d with sendQ := { e with asked := true } :: t })
          else if e.granted && (match e.halo with | some (side, tag) => haloFree d side tag | none => true) then
            let m : Msg :=
              { rank := some d.rank, halo := e.halo, data := winRead (getCore s core).ls d e.addr (64 * e.flits) }
            pumpSend core fuel (sendNet s (.message core e.dst d.gen m)) (tokDone { d with sendQ := t } e.token)
          else (s, d)

/-- The message a RECV takes, if it is there (R188, R233). -/
def recvMatch (d : Disp) (r : RecvEnt) (m : Msg) : Bool :=
  match r.halo with
  | some side => m.halo == some (side, tget 0 d.hrecv (b2n side))
  | none =>
    m.halo.isNone && m.reply == r.reply &&
      (r.reply || (match r.rank with | some k => m.rank == some k && !m.fromInbox | none => true))

/-- The receive queue moves: the RECV at its head takes its message; one that is too long ends the command. -/
def pumpRecv (core : Nat) : Nat → State → Disp → State × Disp
  | 0, s, d => (s, d)
  | fuel + 1, s, d =>
    match d.recvQ with
    | [] => (s, d)
    | r :: t =>
      if r.flits = 0 then (s, d)
      else
        match d.rx.find? (recvMatch d r) with
        | none => (s, d)
        | some m =>
          if r.flits < flitsOf m.data then (failOob s d, d)
          else
            let d1 := tokDone (winWrite { d with recvQ := t, rx := removeFirst (recvMatch d r) d.rx } r.addr m.data) r.token
            match r.halo with
            | some side =>
              let d2 := { d1 with hrecv := tput 0 d1.hrecv (b2n side) ((tget 0 d1.hrecv (b2n side) + 1) % 2 ^ 32) }
              let s1 := match m.rank with
                | some k => sendNet s (.release core ((d.gang[k]?).getD 0) d.gen side)
                | none => s
              pumpRecv core fuel s1 d2
            | none => pumpRecv core fuel s d1

/-- The message unit moves: receives, then grants, then sends. -/
def putMsg (s : State) (core : Nat) (d : Disp) : State :=
  let a := pumpRecv core (d.recvQ.length + 1) s d
  let b := grantLoop core (a.2.requests.length + 1) a.1 a.2
  let c := pumpSend core (b.2.sendQ.length + 1) b.1 b.2
  setDisp c.1 core { c.2 with blockedAt := none }

/-- The instruction has issued: the unit moves and the sequencer goes on. -/
def putAdvance (s : State) (core : Nat) (d : Disp) : State :=
  let s1 := putMsg s core d
  match getDisp s1 core with
  | some d1 => advance s1 core d1
  | none => s1

/-! ## SEND (R22, R23, R63, R188, R231, R232, R356) -/

def imm31 (w : Nat) : Bool := bitOf w 31
def imm30 (w : Nat) : Bool := bitOf w 30
def imm29 (w : Nat) : Bool := bitOf w 29
def immFlits (w : Nat) : Nat := bits w 6 0

/-- A send that the message unit permits to a core of this package, by local core number (R23). -/
def localTargetOk (s : State) (part core : Nat) : Bool :=
  decide (core < 2560) && !dieFenced s (dieOf core) && partHasDie s part (dieOf core)

/-- A held message joins the commit buffer of 4,096 flits (R62, R63). -/
def holdMsg (s : State) (core : Nat) (d : Disp) (c : Cmd) (dst addr n : Nat) : State :=
  let data := winRead (getCore s core).ls d addr (64 * n)
  if sumN (c.held.map fun h => flitsOf h.data) + n ≤ 4096 then
    advance (modCmd s c.id fun c => { c with held := c.held ++ [{ dst := dst, data := data }] }) core d
  else failOob s d

/-- A SEND to a core of the gang joins the send queue. -/
def queueSend (s : State) (core : Nat) (d : Disp) (e : SendEnt) : State :=
  putAdvance s core (tokSet { d with sendQ := d.sendQ ++ [e] } e.token)

/-- A SEND to a global endpoint address (R22, R23, R344). One of length 0 passes the same checks and then does nothing
(R137). Outside a domain a send that names another package is unreachable whatever its LOCAL; in a domain a LOCAL that
is no core is refused before the route is looked up (notes/assumptions/28.md). -/
def sendGlobal (s : State) (core : Nat) (d : Disp) (c : Cmd) (token dst addr n : Nat) : State :=
  let loc := dst % 4096
  let pkg := dst / 4096
  let inside := pkg == selfPkg s
  if !inside && !s.dom.inDomain then startKill s d.cmd (.ends stRemoteUnreachable 0) false
  else if (inside && !localTargetOk s d.part loc) || 2560 ≤ loc then failOob s d
  else if !inside && !reachable s pkg then startKill s d.cmd (.ends stRemoteUnreachable 0) false
  else if n = 0 || (inside && d.gang.contains loc) then
    queueSend s core d { token := token, dst := loc, addr := addr, flits := n }
  else holdMsg s core d c dst addr n

/-- SEND with IMM[31:29] of an ordinary message. A global one of length 0 takes R137's launch checks as any other
(notes/assumptions/28.md). -/
def execOpSend (core : Nat) (s : State) : Host.Outcome State Fault Refusal :=
  .next (issueIf s core (fun w => fOp w == 0x78 && !imm29 w && !(imm31 w && imm30 w)) fun d w =>
    let n := immFlits w
    let a := (areg d (fP w)).toNat
    let t := sreg d (fS w)
    if tokPending d (fT w) then stall s core d 0
    else if 4 ≤ d.sendQ.length then stall s core d 0
    else if imm31 w || bits w 28 7 != 0 || decide (64 < n) || !(n == 0 || winOk d a (64 * n)) then failOob s d
    else if imm30 w then
      match getCmd s d.cmd with
      | some c => sendGlobal s core d c (fT w) (t.toNat % 2 ^ 28) a n
      | none => s
    else
      match d.gang[t.toNat]? with
      | none => failOob s d
      | some dst => queueSend s core d { token := fT w, dst := dst, addr := a, flits := n })

/-- A halo transfer of a SIDE names one rank throughout the dispatch (R231). -/
def haloRankOk (t : Tab Nat) (side : Bool) (rank : Nat) : Bool :=
  tget 0 t (b2n side) == 0 || tget 0 t (b2n side) == rank + 1

/-- HALO_SEND. -/
def execOpHaloSend (core : Nat) (s : State) : Host.Outcome State Fault Refusal :=
  .next (issueIf s core (fun w => fOp w == 0x78 && imm29 w) fun d w =>
    let n := immFlits w
    let a := (areg d (fP w)).toNat
    let rank := (sreg d (fS w)).toNat
    let side := bitOf w 28
    if tokPending d (fT w) then stall s core d 0
    else if 4 ≤ d.sendQ.length then stall s core d 0
    else if imm31 w || imm30 w || bits w 27 7 != 0 || decide (64 < n) || !(n == 0 || winOk d a (64 * n)) ||
        !haloRankOk d.haloSend side rank then failOob s d
    else
      match d.gang[rank]? with
      | none => failOob s d
      | some dst =>
        let d0 := { d with haloSend := tput 0 d.haloSend (b2n side) (rank + 1) }
        if n = 0 then queueSend s core d0 { token := fT w, dst := dst, addr := a, flits := 0 }
        else
          let tag := tget 0 d.hsent (b2n side)
          queueSend s core { d0 with hsent := tput 0 d.hsent (b2n side) ((tag + 1) % 2 ^ 32) }
            { token := fT w, dst := dst, addr := a, flits := n, halo := some (side, tag) })

/-- REMOTE_READ_REQUEST. A LOCAL other than 3,840 is answered before the package's reachability is looked at
(notes/assumptions/28.md). -/
def execOpRemoteReadRequest (core : Nat) (s : State) : Host.Outcome State Fault Refusal :=
  .next (issueIf s core (fun w => fOp w == 0x78 && !imm29 w && imm31 w && imm30 w) fun d w =>
    let a := (areg d (fP w)).toNat
    let dst := (sreg d (fS w)).toNat % 2 ^ 28
    if tokPending d (fT w) then stall s core d 0
    else if 4 ≤ d.sendQ.length then stall s core d 0
    else if bits w 28 7 != 0 || immFlits w != 1 || !winOk d a 64 then failOob s d
    else
      let b := winRead (getCore s core).ls d a 64
      let n := fieldLE b 12 4
      if !(decide (fieldLE b 0 2 ≤ 63) && decide (64 ≤ n) && decide (n ≤ 4096) && n % 64 == 0) ||
          dst % 4096 != pileLoc 0 || dst / 4096 == selfPkg s then failOob s d
      else if !reachable s (dst / 4096) then startKill s d.cmd (.ends stRemoteUnreachable 0) false
      else queueSend s core d { token := fT w, dst := dst, addr := a, flits := 1, read := some (n, b) })

/-! ## RECV (R188, R233, R357) -/

/-- A RECV joins the receive queue. -/
def queueRecv (s : State) (core : Nat) (d : Disp) (r : RecvEnt) : State :=
  putAdvance s core (tokSet { d with recvQ := d.recvQ ++ [r] } r.token)

/-- RECV of a message. -/
def execOpRecv (core : Nat) (s : State) : Host.Outcome State Fault Refusal :=
  .next (issueIf s core (fun w => fOp w == 0x79 && !imm29 w && !(imm31 w && imm30 w)) fun d w =>
    let n := immFlits w
    let a := (areg d (fP w)).toNat
    let rank := (sreg d (fS w)).toNat
    if tokPending d (fT w) then stall s core d 0
    else if 4 ≤ d.recvQ.length then stall s core d 0
    else if imm30 w || bits w 28 7 != 0 || !(n == 0 || winWritable d a (64 * n)) ||
        (!imm31 w && decide (d.gang.length ≤ rank)) then failOob s d
    else queueRecv s core d { token := fT w, addr := a, flits := n, rank := if imm31 w then none else some rank })

/-- HALO_RECV. -/
def execOpHaloRecv (core : Nat) (s : State) : Host.Outcome State Fault Refusal :=
  .next (issueIf s core (fun w => fOp w == 0x79 && imm29 w) fun d w =>
    let n := immFlits w
    let a := (areg d (fP w)).toNat
    let rank := (sreg d (fS w)).toNat
    let side := bitOf w 28
    if tokPending d (fT w) then stall s core d 0
    else if 4 ≤ d.recvQ.length then stall s core d 0
    else if imm31 w || imm30 w || bits w 27 7 != 0 || !(n == 0 || winWritable d a (64 * n)) ||
        decide (d.gang.length ≤ rank) || !haloRankOk d.haloRecv side rank then failOob s d
    else
      queueRecv s core { d with haloRecv := tput 0 d.haloRecv (b2n side) (rank + 1) }
        { token := fT w, addr := a, flits := n, rank := some rank, halo := some side })

/-- REPLY_RECV. -/
def execOpReplyRecv (core : Nat) (s : State) : Host.Outcome State Fault Refusal :=
  .next (issueIf s core (fun w => fOp w == 0x79 && !imm29 w && imm31 w && imm30 w) fun d w =>
    let n := immFlits w
    let a := (areg d (fP w)).toNat
    if tokPending d (fT w) then stall s core d 0
    else if 4 ≤ d.recvQ.length then stall s core d 0
    else if bits w 28 7 != 0 || !(n == 0 || winWritable d a (64 * n)) then failOob s d
    else queueRecv s core d { token := fT w, addr := a, flits := n, reply := true })

/-! ## Arrivals -/

/-- The dispatch of a core, where it is the one of a generation that is current (R69). -/
def dispOfGen (s : State) (core : Nat) (g : W32) : Option Disp :=
  match getDisp s core with
  | some d => if d.gen = g ∧ genCurrent s g then some d else none
  | none => none

/-- CREDIT_REQUEST_ARRIVE. -/
def execCreditRequestArrive (dst src : Nat) (s : State) : Host.Outcome State Fault Refusal :=
  match takeNet s 2 src dst with
  | some (.request _ _ g n, s1) =>
    match dispOfGen s1 dst g with
    | some d => .next (putMsg s1 dst { d with requests := d.requests ++ [(src, n)] })
    | none => .next s1
  | _ => .next s

/-- GRANT_ARRIVE. -/
def execGrantArrive (core src : Nat) (s : State) : Host.Outcome State Fault Refusal :=
  match takeNet s 1 src core with
  | some (.grant _ _ g _, s1) =>
    match dispOfGen s1 core g with
    | some d =>
      match d.sendQ with
      | e :: t =>
        if e.dst = src ∧ e.asked ∧ e.read.isNone then .next (putMsg s1 core { d with sendQ := { e with granted := true } :: t })
        else .next s1
      | [] => .next s1
    | none => .next s1
  | _ => .next s

/-- MESSAGE_ARRIVE. -/
def execMessageArrive (dst src : Nat) (s : State) : Host.Outcome State Fault Refusal :=
  match takeNet s 2 src dst with
  | some (.message _ _ g m, s1) =>
    match dispOfGen s1 dst g with
    | some d => .next (putMsg s1 dst { d with rx := d.rx ++ [m], granted := d.granted - flitsOf m.data })
    | none => .next s1
  | _ => .next s

/-- HALO_RELEASE_ARRIVE: the oldest response from `src` is a release. -/
def execHaloReleaseArrive (core src : Nat) (s : State) : Host.Outcome State Fault Refusal :=
  match takeNet s 1 src core with
  | some (.release _ _ g side, s1) =>
    match dispOfGen s1 core g with
    | some d =>
      .next (putMsg s1 core { d with
        released := tput 0 d.released (b2n side) ((tget 0 d.released (b2n side) + 1) % 2 ^ 32) })
    | none => .next s1
  | _ => .next s

/-- TOKEN_DONE: the operation at the head of an engine's queue has finished (0 matrix, 1 vector, 2 carry, 3
sampling); 4 and 5 are a SEND and a RECV of length 0 at the head of their queues (R137). -/
def execTokenDone (core engine : Nat) (s : State) : Host.Outcome State Fault Refusal :=
  .next (onUnit s core fun d _ =>
    if engine < 4 then
      match tget [] d.launches engine with
      | t :: r =>
        setDisp s core (tokDone { d with launches := tput [] d.launches engine r, flags := d.flags ||| t.2 } t.1)
      | [] => s
    else if engine = 4 then
      match d.sendQ with
      | e :: r => if e.flits = 0 then putMsg s core (tokDone { d with sendQ := r } e.token) else s
      | [] => s
    else if engine = 5 then
      match d.recvQ with
      | e :: r => if e.flits = 0 then putMsg s core (tokDone { d with recvQ := r } e.token) else s
      | [] => s
    else s)

/-! ## Refused sends (R24) and partition broadcasts (R34) -/

/-- SEND_REFUSED: the sending command ends with OUT_OF_BOUNDS. A running one, whose refused send is a remote read, is
killed; one whose held messages have left is past its commit point, and its completion entry says so. A refusal that
comes after the entry is written finds no command (notes/assumptions/34.md). -/
def execSendRefused (gen : W32) (s : State) : Host.Outcome State Fault Refusal :=
  match s.cmds.find? fun c => cop c == opRUN && c.gen == gen &&
      ((c.stage == .running && !c.gang.isEmpty) || (c.stage == .committing && c.sent)) with
  | some c =>
    .next (if c.stage = .running then startKill s c.id (.ends stOutOfBounds 0) false
      else modCmd s c.id fun c => { c with sendRefused := true })
  | none => .next s

/-! ## Inboxes (R24, R359) -/

/-- Flits in the inbox of a partition. -/
def inboxFlits (s : State) (p : Nat) : Nat := sumN ((getPart s p).inbox.map fun m => flitsOf m.2.2)

/-- The partition whose inbox takes a message for a core of this package, if the core may be named (R24). -/
def inboxPart (s : State) (core : Nat) : Option Nat :=
  if core < 2560 ∧ !dieFenced s (dieOf core) then partOfCore s core else none

/-- A message is stored in a partition's inbox of 65,536 flits, if it has room. -/
def inboxPut (s : State) (p core src : Nat) (b : Bytes) : Option State :=
  if inboxFlits s p + flitsOf b ≤ 65536 then
    let q := getPart s p
    some (setPart s p { q with inbox := q.inbox ++ [(core, src, b)] })
  else none

/-- A message from another package has been taken: it is acknowledged, and a later copy is a duplicate (R343). -/
def takeRemote (s : State) (src seq : Nat) : State :=
  sendAck { s with dom := { s.dom with inSeen := s.dom.inSeen ++ [(src, seq)] } } src seq

/-- A message from another package for a core of this one: stored and acknowledged, left with its sender while the inbox
is full, or refused (R24). -/
def inboxRemote (s : State) (src seq dst : Nat) (gen : W32) (data : Bytes) : State :=
  if s.dom.inSeen.contains (src, seq) then sendAck s src seq
  else
    match inboxPart s (dst % 4096) with
    | none => sendCtl (takeRemote s src seq) src (.refusal gen)
    | some p =>
      match inboxPut s p (dst % 4096) src data with
      | some s1 => takeRemote s1 src seq
      | none => s

/-- A send arrives for this package while the Crown is up. -/
def forUs (s : State) (dst : Nat) : Bool := crownUp s && !d1Off s && s.dom.inDomain && dst / 4096 == selfPkg s

/-- REMOTE_SEND_ARRIVE: checked against the target core's partition, then delivered or refused. -/
def execRemoteSendArrive (src seq dst : Nat) (gen : W32) (data : Bytes) (s : State) : Host.Outcome State Fault Refusal :=
  onlyIf (forUs s dst) s (inboxRemote s src seq dst gen data)

/-- INBOX_MESSAGE. -/
def execInboxMessage (src seq dst : Nat) (data : InboxMsg) (s : State) : Host.Outcome State Fault Refusal :=
  onlyIf (forUs s dst) s (inboxRemote s src seq dst data.gen data.data)

/-! ## Remote reads (R356 to R358) -/

/-- REMOTE_READ_REPLY: it takes the space its request reserved; one no request waits for, or of an old generation,
is dropped. -/
def execRemoteReadReply (core : Nat) (gen : W32) (data : Bytes) (s : State) : Host.Outcome State Fault Refusal :=
  match dispOfGen s core gen with
  | none => .next s
  | some d =>
    match d.reads.find? fun r => r.bytes == data.length with
    | none => .next s
    | some r =>
      .next (putMsg s core { d with
        reads := d.reads.erase r, readHold := d.readHold - r.bytes / 64, rx := d.rx ++ [{ reply := true, data := data }] })

/-- The first read equal to `r` has been asked for again. -/
def markRetried (r : RemoteRead) : List RemoteRead → List RemoteRead
  | [] => []
  | x :: t => if x = r then { x with retried := true } :: t else x :: markRetried r t

/-- REMOTE_READ_RETRY: after 1 ms, once. -/
def execRemoteReadRetry (core : Nat) (s : State) : Host.Outcome State Fault Refusal :=
  .next (onUnit s core fun d _ =>
    match d.reads.find? fun r => !r.retried && decide (r.at_ + 1000000 ≤ s.time) with
    | none => s
    | some r =>
      sendRead (setDisp s core { d with reads := markRetried r d.reads }) r.dst core d.gen r.request)

/-- REMOTE_READ_TIMEOUT: after 2 ms the command ends with REMOTE_UNREACHABLE. -/
def execRemoteReadTimeout (core : Nat) (s : State) : Host.Outcome State Fault Refusal :=
  .next (onUnit s core fun d c =>
    if d.reads.any fun r => decide (r.at_ + 2000000 ≤ s.time) then startKill s c.id (.ends stRemoteUnreachable 0) false else s)

/-- What a base die answers to a remote read. -/
inductive Served where
  | data (b : Bytes)
  /-- an uncorrectable line, which the base die reports (R288): no reply leaves -/
  | bad (line : Nat)
  | refused
  /-- the exported bytes cannot be read: no reply leaves, and the reader's own limit applies -/
  | silent
deriving DecidableEq, Repr

/-- A remote read is checked against the export entry and served (R357). -/
def serveRead (s : State) (index offset bytes : Nat) : Served :=
  match tget none s.dom.exports index with
  | none => .refused
  | some e =>
    if offset + bytes ≤ e.bytes then
      match devRead s e.part (e.dva + offset) bytes with
      | .data b => .data b
      | .bad l => .bad l
      | _ => .silent
    else .refused

/-- A read of an export that is served counts the lines it corrects. -/
def noteServed (s : State) (index offset bytes : Nat) : State :=
  match tget none s.dom.exports index with
  | none => s
  | some e => noteDev s e.part (e.dva + offset) bytes

/-- REMOTE_READ_SERVE. `src` is the asking core's global address. -/
def execRemoteReadServe (src gen index offset bytes : Nat) (s : State) : Host.Outcome State Fault Refusal :=
  onlyIf (crownUp s && !d1Off s && s.dom.inDomain) s
    (match serveRead s index offset bytes with
     | .data b => sendReply (noteServed s index offset bytes) (src / 4096) (src % 4096) (BitVec.ofNat 32 gen) b
     | .refused => sendCtl s (src / 4096) (.refusal (BitVec.ofNat 32 gen))
     | .bad l => ueReport s l 0
     | .silent => s)

end Sys2Proof.Machine
end

