-- ==== Sys2Proof/Machine/Idle.lean ====
section
/-! DEFINITION. The passing of time (notes/assumptions/2.md, 25.md): the clocks, the cycle and stall counters (R158,
R159, R270, R278, R455) and the Crown's injection allowance (R32). -/

namespace Sys2Proof.Machine

open Sys2Proof

/-! ## What the sequencer and the units wait for (R158, R270) -/

/-- The queue an instruction launches into is full (R134, R250). -/
def unitFull (d : Disp) (w : Nat) : Bool :=
  let op := fOp w
  let eng := fun k => decide (4 ≤ (tget [] d.launches k).length)
  if op < 0x50 then eng 0 else if op < 0x60 then eng 1 else if op = 0x60 then eng 2 else if op = 0x61 then eng 3
  else if op = 0x70 then decide (4 ≤ (getQ d (fImm w % 8)).arms.length)
  else if op = 0x71 then decide (4 ≤ d.thims.length)
  else if op = 0x78 then decide (4 ≤ d.sendQ.length)
  else if op = 0x79 then decide (4 ≤ d.recvQ.length)
  else false

/-- Tokens an instruction waits for: END for all of them, WAIT for those of IMM, a launch for its own. -/
def waitMask (d : Disp) (w : Nat) : W32 :=
  let op := fOp w
  if op = 0x01 then d.tokens
  else if op = 0x02 then d.tokens &&& BitVec.ofNat 32 (fImm w)
  else if isL op && op != 0x7C && op != 0x7D then d.tokens &&& BitVec.ofNat 32 (2 ^ fT w)
  else 0

/-- The cause for which the sequencer, which has stalled, still waits. -/
def seqWaits (c : Core) (d : Disp) : Option Nat :=
  match d.stallOn, codeWord c d d.pc with
  | some _, some w =>
    if waitMask d w != 0 || unitFull d w then some 0
    else if fOp w = 0x70 ∧ inFlight d (areg d (fP w)).toNat then some 6
    else none
  | _, _ => none

/-- The SEND at the head of the queue waits for its grant or for a halo release. -/
def sendWaits (d : Disp) : Bool :=
  match d.sendQ with
  | e :: _ =>
    e.flits != 0 && e.asked && e.read.isNone &&
      !(e.granted && (match e.halo with | some (side, tag) => haloFree d side tag | none => true))
  | [] => false

/-- The RECV at the head of the queue waits for a message. -/
def recvWaits (d : Disp) : Bool :=
  match d.recvQ with
  | r :: _ => r.flits != 0 && !r.reply && !(d.rx.any (recvMatch d r))
  | [] => false

/-- Queued RECVs whose message has not arrived: each takes, in order, its message among those in the buffer. -/
def unmet : List RecvEnt → Disp → List RecvEnt
  | [], _ => []
  | r :: t, d =>
    if r.flits = 0 then unmet t d
    else if d.rx.any (recvMatch d r) then
      let d1 := { d with rx := removeFirst (recvMatch d r) d.rx }
      unmet t (match r.halo with
        | some side => { d1 with hrecv := tput 0 d1.hrecv (b2n side) ((tget 0 d1.hrecv (b2n side) + 1) % 2 ^ 32) }
        | none => d1)
    else
      r :: unmet t (match r.halo with
        | some side => { d with hrecv := tput 0 d.hrecv (b2n side) ((tget 0 d.hrecv (b2n side) + 1) % 2 ^ 32) }
        | none => d)

/-- The queue's next transfer, where it has one. -/
def queueNext (x : Queue) : Option Arming := x.arms.head?.filter fun a => a.setup.isNone && !armDone a
/-- The bucket is short of the queue's next transfer (R262). -/
def bucketShort (x : Queue) (a : Arming) : Bool :=
  x.rate != 0 && decide (x.bucket < (min (nextBytes a) x.burst : Nat))

/-- A transfer waits for CEILING or a free main tag, or a thimble for a thimble tag. -/
def tagWaits (d : Disp) : Bool :=
  (d.queues.any fun x => (queueNext x.2).any fun a =>
    !bucketShort x.2 a && (decide (x.2.ceiling ≤ queueTags d x.1) || decide (64 ≤ mainTags d))) ||
    (decide (16 ≤ thimTags d) && d.thims.head?.any fun t => t.bytes != 0)

/-- Whether a unit of the core waits for the cause. -/
def stallsOn (c : Core) (d : Disp) (cause : Nat) : Bool :=
  if cause = 0 ∨ cause = 6 then seqWaits c d == some cause
  else if cause = 1 then (unmet d.recvQ d).any fun r => r.halo.isSome
  else if cause = 2 then
    sendWaits d || d.sendQ.head?.any fun e => e.asked && e.read.isSome
  else if cause = 3 then d.arrived != .no
  else if cause = 4 then (unmet d.recvQ d).any fun r => r.halo.isNone && !r.reply
  else if cause = 5 then !d.reads.isEmpty || (unmet d.recvQ d).any fun r => r.reply
  else if cause = 7 then tagWaits d
  else if cause = 8 then d.queues.any fun x => (queueNext x.2).any (bucketShort x.2)
  else false

/-- An engine or the stream unit is at work, so that it may lose a bank (R140, R146), wait under R145 or for a
counter-mode unit (R155) in some cycles. -/
def unitsBusy (d : Disp) : Bool := !d.launches.isEmpty || !d.xfers.isEmpty

/-- Cycles of a cause among `n`: all of them where a unit waits for it throughout; of those that only the timing within
the engines decides, a free number (notes/assumptions/26.md). -/
def stallCycles (c : Core) (d : Disp) (free n cause : Nat) : Nat :=
  if stallsOn c d cause then n
  else if unitsBusy d && (cause == 0 || cause == 9) then min n (Config.freeNat (free + cause))
  else 0

/-! ## Blocked cores (R278) -/

/-- The unit that holds a token waits for a grant, a halo release or a message. -/
def tokBlocked (d : Disp) (t : Nat) : Bool :=
  (sendWaits d && d.sendQ.any fun e => e.token == t) || (recvWaits d && d.recvQ.any fun r => r.token == t)

/-- The core is at a barrier, or its sequencer is stalled and every unit that could free it waits. -/
def blocked (c : Core) (d : Disp) : Bool :=
  d.arrived != .no ||
    (match d.stallOn, codeWord c d d.pc with
     | some _, some w =>
       if waitMask d w != 0 then (List.range 32).all fun t => !(waitMask d w).getLsbD t || tokBlocked d t
       else unitFull d w && ((fOp w == 0x78 && sendWaits d) || (fOp w == 0x79 && recvWaits d))
     | _, _ => false)

/-! ## Time -/

/-- A core counts `n` cycles (R158, R159), and keeps the time since which it has been blocked (R278). -/
def coreCycles (now free n : Nat) (c : Core) : Core :=
  match c.disp with
  | none => c
  | some d =>
    let since := if d.started && blocked c d then (match d.blockedAt with | some t => some t | none => some now) else none
    { c with
      disp := some { d with blockedAt := since }
      runCycles := c.runCycles + BitVec.ofNat 64 n
      stall := (List.range 10).foldl
        (fun t i => tput 0 t i (tget 0 t i + BitVec.ofNat 64 (stallCycles c d free n i))) c.stall }

/-- ECLK cycles of a column group in `n` nanoseconds: the clock is in MHz and the rest of a cycle is kept. -/
def groupCycles (s : State) (g n : Nat) : Nat := ((getVddc s g).cycAcc + n * (getVddc s g).eclk) / 1000

/-- Nothing is under way (R434, R435): no command is fetched and not retired, no swap, move or restoration, no window,
no domain, no request of a mailbox. -/
def quietS1 (s : State) : Bool :=
  s.cmds.isEmpty && (s.streams.all fun x => x.2.move.isNone) &&
    ((s.net ++ s.crown.mc0Wait).all fun p => match p with | .home _ _ _ => false | _ => true) &&
    (s.cores.all fun x => x.2.fault.isNone) && !s.memwin.en && !s.dom.inDomain

/-- No mailbox request waits for the firmware. -/
def quietMail (s : State) : Bool :=
  (s.mail.h2f.all fun x => !x.2.full) && s.mail.reqs.isEmpty && s.mail.slow.isEmpty

/-- `n` nanoseconds pass; the time since which the package has been idle is kept. -/
def pass (n : Nat) (s : State) : State :=
  let s1 := refillFl0 n <| refillMc0 n { s with
    time := s.time + n
    free := s.free + 32768
    tally := { s.tally with clock := if d1Off s || !crownUp s then s.tally.clock else s.tally.clock + n }
    cores := s.cores.map fun (x : Nat × Core) =>
      (x.1, coreCycles s.time (s.free + 10 * x.1) (groupCycles s (groupOf x.1) n) x.2) }
  { s1 with pwr := { s1.pwr with
      idleFrom := if quietS1 s && quietMail s then s1.pwr.idleFrom else s1.time
      vddc := s1.pwr.vddc.map fun (x : Nat × Vddc) => (x.1, { x.2 with cycAcc := (x.2.cycAcc + n * x.2.eclk) % 1000 }) } }

/-- One nanosecond, the step on an empty queue. -/
def idleTick (s : State) : State := pass 1 s

/-- The clock reads at least `t`: a command that stands for an event says that the event has happened, and so that the
time before which it cannot happen has passed (notes/assumptions/25.md). -/
def passTo (s : State) (t : Nat) : State := if t ≤ s.time then s else pass (t - s.time) s

end Sys2Proof.Machine
end

