-- ==== Sys2Proof/Machine/Crypto.lean ====
section
/-! DEFINITION. The hash functions and signature checks of boot and identity (R403, R404, R407, R408): SHA-384 and
SHA-256 of FIPS 180-4, HMAC, ECDSA over P-384 of FIPS 186-5, and LMS of RFC 8554, as those standards give them
(notes/assumptions/19.md). -/

namespace Sys2Proof.Machine

open Sys2Proof

/-! ## Big-endian numbers -/

/-- The `n` low bytes of `v`, most significant first. -/
def beN (n v : Nat) : Bytes := (leN n v).reverse
/-- The number whose big-endian bytes are `b`. -/
def ofBE (b : Bytes) : Nat := ofLE b.reverse

/-! ## SHA-2 -/

/-- The first 80 primes: FIPS 180-4 takes its constants from their roots. -/
def shaPrimes : List Nat :=
  (List.range 410).filter fun n => decide (1 < n) && (List.range 21).all fun d => decide (d < 2) || n ≤ d || n % d != 0

/-- The largest `r` with `r ^ k ≤ n`, its bits found from the highest down. -/
def rootBits (k n : Nat) : Nat → Nat → Nat
  | 0, r => r
  | b + 1, r => rootBits k n b (if (r + 2 ^ b) ^ k ≤ n then r + 2 ^ b else r)

/-- The first `w` bits of the fraction of the `k`-th root of a prime below 512. -/
def rootFrac (k w p : Nat) : Nat := rootBits k (p * 2 ^ (k * w)) (w + 5) 0 % 2 ^ w

/-- The round constants: the cube roots of the first `n` primes. -/
def shaConsts (w n : Nat) : List (BitVec w) := (shaPrimes.take n).map fun p => BitVec.ofNat w (rootFrac 3 w p)

/-- The initial value: the square roots of eight primes, after the first `n`. -/
def shaInit (w n : Nat) : List (BitVec w) := ((shaPrimes.drop n).take 8).map fun p => BitVec.ofNat w (rootFrac 2 w p)

/-- The rotations and shifts of one member of the family: Σ0, Σ1, σ0 and σ1. -/
structure ShaRot where
  big0 : Nat × Nat × Nat
  big1 : Nat × Nat × Nat
  small0 : Nat × Nat × Nat
  small1 : Nat × Nat × Nat

def rot384 : ShaRot := { big0 := (28, 34, 39), big1 := (14, 18, 41), small0 := (1, 8, 7), small1 := (19, 61, 6) }
def rot256 : ShaRot := { big0 := (2, 13, 22), big1 := (6, 11, 25), small0 := (7, 18, 3), small1 := (17, 19, 10) }

def shaBig {w : Nat} (r : Nat × Nat × Nat) (x : BitVec w) : BitVec w :=
  x.rotateRight r.1 ^^^ x.rotateRight r.2.1 ^^^ x.rotateRight r.2.2
def shaSmall {w : Nat} (r : Nat × Nat × Nat) (x : BitVec w) : BitVec w :=
  x.rotateRight r.1 ^^^ x.rotateRight r.2.1 ^^^ x >>> r.2.2

/-- Word `i` of a list, or 0. -/
def wd {w : Nat} (l : List (BitVec w)) (i : Nat) : BitVec w := (l[i]?).getD 0

/-- One round: the eight working variables and the next 16 words of the schedule. -/
def shaRound {w : Nat} (rt : ShaRot) (st : List (BitVec w) × List (BitVec w)) (k : BitVec w) : List (BitVec w) × List (BitVec w) :=
  let v := st.1
  let m := st.2
  let e := wd v 4
  let t1 := wd v 7 + shaBig rt.big1 e + ((e &&& wd v 5) ^^^ (~~~e &&& wd v 6)) + k + wd m 0
  let a := wd v 0
  let t2 := shaBig rt.big0 a + ((a &&& wd v 1) ^^^ (a &&& wd v 2) ^^^ (wd v 1 &&& wd v 2))
  ([t1 + t2, a, wd v 1, wd v 2, wd v 3 + t1, e, wd v 5, wd v 6],
   m.drop 1 ++ [shaSmall rt.small1 (wd m 14) + wd m 9 + shaSmall rt.small0 (wd m 1) + wd m 0])

/-- One block of 16 words. -/
def shaBlock {w : Nat} (rt : ShaRot) (ks : List (BitVec w)) (h : List (BitVec w)) (m : List (BitVec w)) : List (BitVec w) :=
  let r := (ks.foldl (shaRound rt) (h, m)).1
  (List.range 8).map fun i => wd h i + wd r i

/-- Padding to blocks of `blk` bytes, the length in its last `lenB` bytes. -/
def shaPad (blk lenB : Nat) (m : Bytes) : Bytes :=
  let z := alignUp (m.length + 1 + lenB) blk - (m.length + 1 + lenB)
  m ++ (0x80 : Byte) :: List.replicate z 0 ++ beN lenB (8 * m.length)

/-- The words of a padded message. -/
def shaWords (w : Nat) (b : Bytes) : List (BitVec w) := (chunks (w / 8) b.length b).map fun x => BitVec.ofNat w (ofBE x)

/-- The digest words of a padded message, from an initial value. -/
def shaRun {w : Nat} (rt : ShaRot) (ks h0 : List (BitVec w)) (m : Bytes) : List (BitVec w) :=
  let ws := shaWords w m
  (chunks 16 ws.length ws).foldl (shaBlock rt ks) h0

/-- SHA-384: it keeps six of the eight words. -/
def sha384 (m : Bytes) : Bytes :=
  ((shaRun rot384 (shaConsts 64 80) (shaInit 64 8) (shaPad 128 16 m)).take 6).flatMap fun x => beN 8 x.toNat

/-- SHA-256. -/
def sha256 (m : Bytes) : Bytes :=
  (shaRun rot256 (shaConsts 32 64) (shaInit 32 0) (shaPad 64 8 m)).flatMap fun x => beN 4 x.toNat

/-- HMAC-SHA-384 under a key of at most 128 bytes. -/
def hmac384 (key m : Bytes) : Bytes :=
  let k := slice key 0 128
  sha384 (k.map (fun x => x ^^^ 0x5C) ++ sha384 (k.map (fun x => x ^^^ 0x36) ++ m))

/-- The bytes of a label. -/
def label (t : String) : Bytes := t.toList.map fun c => BitVec.ofNat 8 c.toNat

/-! ## ECDSA over P-384 -/

def p384P : Nat := 2 ^ 384 - 2 ^ 128 - 2 ^ 96 + 2 ^ 32 - 1
def p384N : Nat := 0xffffffffffffffffffffffffffffffffffffffffffffffffc7634d81f4372ddf581a0db248b0a77aecec196accc52973
def p384B : Nat := 0xb3312fa7e23ee7e4988e056be3f82d19181d9c6efe8141120314088f5013875ac656398d8a2ed19d2a85c8edd3ec2aef
def p384Gx : Nat := 0xaa87ca22be8b05378eb1c71ef320ad746e1d3b628ba79b9859f741e082542a385502f25dbf55296c3a545e3872760ab7
def p384Gy : Nat := 0x3617de4a96262c6f5d9e98bf9292dc29f8f41dbd289a147ce9da3113b5f0b8c00a60b1ce1d7e819d7a431d7c90ea0e5f

/-- `b ^ e mod m` over the low `n` bits of `e`. -/
def powMod (m b : Nat) : Nat → Nat → Nat
  | 0, _ => 1 % m
  | n + 1, e =>
    let h := powMod m b n (e / 2)
    h * h % m * (if e % 2 = 1 then b % m else 1) % m

/-- The inverse modulo a prime of 384 bits. -/
def invMod (m a : Nat) : Nat := powMod m a 384 (m - 2)

/-- A point in Jacobian coordinates; Z 0 is the point at infinity. -/
structure Pt where
  x : Nat
  y : Nat
  z : Nat

def fMul (a b : Nat) : Nat := a * b % p384P
def fSub (a b : Nat) : Nat := (a + p384P - b % p384P) % p384P

/-- Twice a point. -/
def ptDbl (q : Pt) : Pt :=
  let d := fMul q.z q.z
  let g := fMul q.y q.y
  let b := fMul q.x g
  let a := 3 * fMul (fSub q.x d) (q.x + d) % p384P
  let x := fSub (fMul a a) (8 * b)
  { x := x, y := fSub (fMul a (fSub (4 * b) x)) (8 * fMul g g), z := fSub (fMul (q.y + q.z) (q.y + q.z)) (g + d) }

/-- The sum of two points. -/
def ptAdd (q r : Pt) : Pt :=
  if q.z = 0 then r
  else if r.z = 0 then q
  else
    let zq := fMul q.z q.z
    let zr := fMul r.z r.z
    let u := fMul q.x zr
    let t := fMul q.y (fMul r.z zr)
    let h := fSub (fMul r.x zq) u
    let w := fSub (fMul r.y (fMul q.z zq)) t
    if h = 0 then (if w = 0 then ptDbl q else { x := 1, y := 1, z := 0 })
    else
      let h2 := fMul h h
      let h3 := fMul h h2
      let v := fMul u h2
      let x := fSub (fMul w w) (h3 + 2 * v)
      { x := x, y := fSub (fMul w (fSub v x)) (fMul t h3), z := fMul h (fMul q.z r.z) }

/-- The low `n` bits of `k` times a point. -/
def ptMul (q : Pt) : Nat → Nat → Pt
  | 0, _ => { x := 1, y := 1, z := 0 }
  | n + 1, k =>
    let h := ptDbl (ptMul q n (k / 2))
    if k % 2 = 1 then ptAdd h q else h

/-- The signature, r then s, of a digest verifies under a public key, x then y, all big-endian (FIPS 186-5). -/
def ecdsaOk (pub sig digest : Bytes) : Bool :=
  let x := ofBE (slice pub 0 48)
  let y := ofBE (slice pub 48 48)
  let r := ofBE (slice sig 0 48)
  let s := ofBE (slice sig 48 48)
  let onCurve := decide (x < p384P) && decide (y < p384P) &&
    fMul y y == (fMul x (fMul x x) + (p384P - 3) * x + p384B) % p384P
  let inRange := decide (0 < r) && decide (r < p384N) && decide (0 < s) && decide (s < p384N)
  onCurve && inRange &&
    (let w := invMod p384N s
     let u1 := ofBE digest * w % p384N
     let u2 := r * w % p384N
     let q := ptAdd (ptMul { x := p384Gx, y := p384Gy, z := 1 } 384 u1) (ptMul { x := x, y := y, z := 1 } 384 u2)
     q.z != 0 && fMul q.x (invMod p384P (fMul q.z q.z)) % p384N == r)

/-! ## LMS -/

/-- The chain of one LM-OTS element from step `j` on, `fuel` steps. -/
def lmsChain (pre : Bytes) (i : Nat) : Nat → Nat → Bytes → Bytes
  | 0, _, t => t
  | fuel + 1, j, t => lmsChain pre i fuel (j + 1) (sha256 (pre ++ beN 2 i ++ beN 1 j ++ t))

/-- The path from a leaf up to the root. -/
def lmsPath (id : Bytes) : List Bytes → Nat → Bytes → Bytes
  | [], _, t => t
  | n :: rest, node, t =>
    let pair := if node % 2 = 1 then n ++ t else t ++ n
    lmsPath id rest (node / 2) (sha256 (id ++ beN 4 (node / 2) ++ beN 2 0x8383 ++ pair))

/-- The LMS signature of a message verifies under a public key of 56 bytes, for LMS_SHA256_M32_H20 with
LMOTS_SHA256_N32_W8 (RFC 8554, type codes 8 and 4). -/
def lmsOk (pub sig msg : Bytes) : Bool :=
  let id := slice pub 8 16
  let q := ofBE (slice sig 0 4)
  let pre := id ++ beN 4 q
  let dg := sha256 (pre ++ beN 2 0x8181 ++ slice sig 8 32 ++ msg)
  let coef := dg ++ beN 2 (sumN (dg.map fun b => 255 - b.toNat))
  let z := (List.range 34).flatMap fun i =>
    let a := ((coef[i]?).getD 0).toNat
    lmsChain pre i (255 - a) a (slice sig (40 + 32 * i) 32)
  let kc := sha256 (pre ++ beN 2 0x8080 ++ z)
  let leaf := sha256 (id ++ beN 4 (2 ^ 20 + q) ++ beN 2 0x8282 ++ kc)
  let path := (List.range 20).map fun i => slice sig (1132 + 32 * i) 32
  ofBE (slice pub 0 4) == 8 && ofBE (slice pub 4 4) == 4 && ofBE (slice sig 4 4) == 4 && ofBE (slice sig 1128 4) == 8 &&
    decide (q < 2 ^ 20) && lmsPath id path (2 ^ 20 + q) leaf == slice pub 24 32

end Sys2Proof.Machine
end

