-- ==== Sys2Proof/Machine/Bead.lean ====
section
/-! DEFINITION. The bead (R37 to R42, R325, R330, R396). -/

namespace Sys2Proof.Machine

open Sys2Proof

/-- The reference can run the bead: the internal one always, the word clock while present, a port while running,
the domain bead while the package is a member that is not the keeper (R39, R353, R396). -/
def refRuns (s : State) (r : BitVec 3) : Bool :=
  if r = 0 then true
  else if r = 1 then (getAp s 4).state == 1
  else if r.toNat ≤ 5 then (getAp s (r.toNat - 2)).state == 1
  else r == 6 && s.dom.inDomain && !s.dom.keeper

/-- The reference is a clock whose frames AUD_FRAME brings: AUD_WCLK or a port's (R396). -/
def refClocked (r : BitVec 3) : Bool := r != 0 && r != 6

/-- The bead falls back to the internal reference (R41), which goes on from the last counted sample; the domain's
alignment ends with it (R355). -/
def beadFallback (s : State) : State :=
  { s with
    bead := { s.bead with
      activeRef := 0, fallback := true, from3 := if refClocked s.bead.activeRef then 3 * s.time else s.bead.from3 }
    dom := { s.dom with aligned := false } }

/-- The fallback of a lost reference, where it is the active one (R41, R396). -/
def refLostNow (s : State) (r : BitVec 3) : State :=
  if r ≠ 0 ∧ s.bead.activeRef = r then beadFallback s else s

/-- The bead reference a port, or the word clock as port 4, gives. -/
def refOfPort (p : Nat) : BitVec 3 := if p = 4 then 1 else BitVec.ofNat 3 (p + 2)

/-- A write of CRN_BEAD_CTRL is rejected (R39). -/
def beadCtrlBad (s : State) (v : W32) : Bool :=
  let period : W16 := v.setWidth 16
  let ref := bits v.toNat 18 16
  decide (period.toNat < 16) || ref == 7 || (ref == 6 && !s.dom.inDomain) ||
    (s.bead.refsel == 6 && period != s.bead.period)

/-- A write of CRN_BEAD_CTRL (R39, R40, R41). -/
def beadCtrl (s : State) (v : W32) : State :=
  if beadCtrlBad s v then { s with bead := { s.bead with badWrite := true } }
  else { s with bead := { s.bead with
    refsel := BitVec.ofNat 3 (bits v.toNat 18 16), period := v.setWidth 16, pendingWr := true } }

/-- BEAD_CTRL_WRITE. -/
def execBeadCtrlWrite (v : W32) (s : State) : Host.Outcome State Fault Refusal :=
  .next (hostAccess s fun s => beadCtrl s v)

/-- BEAD_COUNT_LO_READ. -/
def execBeadCountLoRead (s : State) : Host.Outcome State Fault Refusal :=
  .next (hostAccess s fun s =>
    rdata { s with bead := { s.bead with hiLatch := (s.bead.count >>> 32).setWidth 32 } } ((s.bead.count.setWidth 32).setWidth 64))

/-- A write that selects the domain bead waits for the next boundary of the domain (R355). -/
def awaitsDomain (s : State) : Bool :=
  s.bead.pendingWr && s.bead.refsel == 6 && s.bead.activeRef != 6 && s.dom.inDomain && !s.dom.keeper

/-- The pending write is latched at the boundary. A reference that does not run falls back there (R40, R396): the write
has then applied, its PERIOD stands and PENDING is clear (notes/assumptions/29.md). -/
def beadLatch (s : State) : State :=
  if s.bead.pendingWr && !awaitsDomain s then
    let s1 := { s with bead := { s.bead with curPeriod := s.bead.period, pendingWr := false } }
    if refRuns s s.bead.refsel then
      { s1 with
        bead := { s1.bead with activeRef := s.bead.refsel }
        dom := { s1.dom with aligned := s.bead.refsel == 6 } }
    else beadFallback s1
  else s

/-- The client's slice runs on after this boundary, where its partition rotates (R325, R330). -/
def sliceRuns (s : State) (c : Cmd) : Bool := sliceOk s c && (!(getPart s c.part).mode || (getPart s c.part).sliceLeft != 0)

/-- A waiting bead is counted for a RUN that has been allowed since the previous boundary (R325). -/
def countBead (s : State) (c : Cmd) : Cmd :=
  if cop c = opRUN ∧ allowed s c ∧ sliceRuns s c then
    { c with waitBeads := if c.allowed then c.waitBeads + 1 else c.waitBeads, allowed := true }
  else { c with waitBeads := 0, allowed := false }

/-- A bead of the running slice has passed (R330). -/
def sliceBead (p : Part) : Part := if p.sliceValid then { p with sliceLeft := p.sliceLeft - 1 } else p

/-- The time in thirds of a nanosecond at which the internal 48 kHz reference or the domain bead ends the bead (R37;
notes/assumptions/16.md). -/
def beadEnd3 (b : Bead) : Nat := b.from3 + (b.curPeriod.toNat - b.samples) * 62500

/-- PERIOD sample periods of the active reference have been counted (R37, R396); the clock reads at least the time they
take. -/
def beadFull (s : State) : Bool := !refClocked s.bead.activeRef || decide (s.bead.curPeriod.toNat ≤ s.bead.samples)
def beadDue (s : State) : State := if refClocked s.bead.activeRef then s else passTo s ((beadEnd3 s.bead + 2) / 3)

/-- The bead count advances and the next bead starts (R42). -/
def nextBead (s : State) : State :=
  let t := if refClocked s.bead.activeRef || decide (beadEnd3 s.bead + 2 < 3 * s.time) then 3 * s.time else beadEnd3 s.bead
  { s with bead := { s.bead with count := s.bead.count + 1, edge := s.time, samples := 0, from3 := t } }

/-- The edge that ends a bead; `lost` says that the active reference falls back on this boundary (R41). -/
def beadEdge (s : State) (lost : Bool) : State :=
  let s1 := nextBead s
  let s2 := if lost && s.bead.activeRef != 0 then beadFallback s1 else beadLatch s1
  let s3 := { s2 with parts := s2.parts.map fun (x : Nat × Part) => (x.1, sliceBead x.2) }
  { s3 with cmds := s3.cmds.map (countBead s3) }

/-- BEAD_BOUNDARY: while the counter runs, once the bead's sample periods have been counted. -/
def execBeadBoundary (lost : Bool) (s : State) : Host.Outcome State Fault Refusal :=
  onlyIf (s.bead.en && beadFull s) s (beadEdge (beadDue s) lost)

/-- A boundary of the domain: a write that has waited for it applies, and the bead in progress ends there (R355). -/
def domainEdge (s : State) : State :=
  if awaitsDomain s then
    let s1 := beadEdge s false
    { s1 with
      bead := { s1.bead with activeRef := 6, pendingWr := false, curPeriod := s1.bead.period, from3 := 3 * s.time }
      dom := { s1.dom with aligned := true } }
  else s

/-- A frame edge of the active reference counts one sample period (R395, R396). -/
def countSample (s : State) (r : BitVec 3) : State :=
  if s.bead.en && s.bead.activeRef == r then { s with bead := { s.bead with samples := s.bead.samples + 1 } } else s

/-- BEAD_REF_FALLBACK: the active external reference is lost, or has drifted (R41). -/
def execBeadRefFallback (s : State) : Host.Outcome State Fault Refusal :=
  onlyIf (s.bead.en && s.bead.activeRef != 0) s (beadFallback s)

end Sys2Proof.Machine
end

