-- ==== Sys2Proof/Machine/Flags.lean ====
section
/-! DEFINITION. Number formats, conversions and arithmetic with the flags they set (R82 to R106), and the flag
computation of CMP_ARITH_FLAGS. -/

namespace Sys2Proof.Machine

open Sys2Proof

/-! ## Flags (R105) -/

/-- Flags a conversion or an operation sets: bits as in CMP_ARITH_FLAGS. -/
abbrev Fl := BitVec 4
def flInvalid : Fl := 1
def flOverflow : Fl := 2
def flSaturate : Fl := 4
def flUnderflow : Fl := 8

/-- SWC: each 1 clears its flag (R177). -/
def clearFlags (f : Fl) (v : W64) : Fl := f &&& ~~~(v.setWidth 4)

/-! ## Values -/

/-- A value of any format: a NaN with its sign and left-aligned FP32 fraction, an infinity, or
(-1)^s * m * 2^e. -/
inductive Fp where
  | nan (s : Bool) (frac : Nat)
  | inf (s : Bool)
  | fin (s : Bool) (m : Nat) (e : Int)
deriving DecidableEq, Repr

def Fp.isNan : Fp → Bool | .nan _ _ => true | _ => false
def Fp.isInf : Fp → Bool | .inf _ => true | _ => false
def Fp.isFin : Fp → Bool | .fin _ _ _ => true | _ => false
def Fp.sign : Fp → Bool | .nan s _ => s | .inf s => s | .fin s _ _ => s
def Fp.zero : Fp := .fin false 0 0
def Fp.isZero : Fp → Bool | .fin _ m _ => m == 0 | _ => false
def Fp.neg : Fp → Fp | .nan s f => .nan (!s) f | .inf s => .inf (!s) | .fin s m e => .fin (!s) m e
def Fp.abs : Fp → Fp | .nan _ f => .nan false f | .inf _ => .inf false | .fin _ m e => .fin false m e

/-! ## Formats (R82, R90) -/

/-- A binary format: exponent and fraction bits, bias, whether the top exponent holds infinities and NaNs. -/
structure Fmt where
  eb : Nat
  fb : Nat
  bias : Nat
  ieee : Bool := true
deriving DecidableEq, Repr

/-- The formats by element format code 0 to 5 (R179). -/
def fmtOf (code : Nat) : Fmt :=
  if code = 0 then { eb := 8, fb := 23, bias := 127 }
  else if code = 1 then { eb := 8, fb := 7, bias := 127 }
  else if code = 2 then { eb := 5, fb := 10, bias := 15 }
  else if code = 3 then { eb := 4, fb := 3, bias := 7, ieee := false }
  else if code = 4 then { eb := 5, fb := 2, bias := 15 }
  else { eb := 5, fb := 7, bias := 15 }

def fmt32 : Fmt := fmtOf 0
def fmtPf13 : Fmt := fmtOf 5

/-- Decodes the bits of a format. -/
def decFmt (f : Fmt) (v : Nat) : Fp :=
  let s := bitOf v (f.eb + f.fb)
  let ex := bits v (f.eb + f.fb - 1) f.fb
  let fr := bits v (f.fb - 1) 0
  let top := 2 ^ f.eb - 1
  if f.ieee && ex == top then (if fr = 0 then .inf s else .nan s (fr * 2 ^ (23 - f.fb)))
  else if !f.ieee && ex == top && fr == 2 ^ f.fb - 1 then .nan s (fr * 2 ^ (23 - f.fb))
  else if ex = 0 then .fin s fr (1 - (f.bias : Int) - f.fb)
  else .fin s (fr + 2 ^ f.fb) ((ex : Int) - f.bias - f.fb)

/-- An FP32 word. -/
def dec32 (w : W32) : Fp := decFmt fmt32 w.toNat

/-- The largest finite magnitude as fraction with the hidden bit and exponent field. -/
def maxField (f : Fmt) : Nat := if f.ieee then 2 ^ f.eb - 2 else 2 ^ f.eb - 1
def maxFrac (f : Fmt) : Nat := if f.ieee then 2 ^ f.fb - 1 else 2 ^ f.fb - 2
/-- Its encoding without sign. -/
def maxEnc (f : Fmt) : Nat := maxField f * 2 ^ f.fb + maxFrac f
/-- The sign bit at its place. -/
def signEnc (f : Fmt) (s : Bool) : Nat := if s then 2 ^ (f.eb + f.fb) else 0

/-! ## Rounding a magnitude to a multiple of a power of two -/

/-- m / 2^sh to nearest, ties to even. -/
def shrRne (m sh : Nat) : Nat :=
  let q := m / 2 ^ sh
  let r := m % 2 ^ sh
  if 2 ^ sh < 2 * r ∨ (2 * r = 2 ^ sh ∧ q % 2 = 1) then q + 1 else q

/-- m / 2^sh rounded stochastically with 16 random bits (R103). -/
def shrSr (m sh u : Nat) : Nat :=
  let q := m / 2 ^ sh
  let d := m * 65536 / 2 ^ sh % 65536
  if 65536 ≤ d + u then q + 1 else q

/-- m * 2^e as a multiple of 2^lsb; `u` selects stochastic rounding. -/
def toLsb (m : Nat) (e lsb : Int) (u : Option Nat) : Nat :=
  if lsb ≤ e then m * 2 ^ (e - lsb).toNat
  else
    let sh := (lsb - e).toNat
    match u with
    | none => shrRne m sh
    | some r => shrSr m sh r

/-- The exponent of a magnitude's least significant bit in the format, before rounding. -/
def lsbOf (f : Fmt) (m : Nat) (e : Int) : Int :=
  max ((Nat.log2 m : Int) + e) (1 - (f.bias : Int)) - f.fb

/-- Rounds a finite magnitude to the format: the encoding without sign, or none beyond the largest finite value. -/
def roundMag (f : Fmt) (m : Nat) (e : Int) (u : Option Nat) : Option Nat :=
  if m = 0 then some 0
  else
    let lsb := lsbOf f m e
    let q := toLsb m e lsb u
    -- a carry into the next binade keeps the value
    let field := (lsb + f.fb + f.bias).toNat
    let enc := if q < 2 ^ f.fb then q else (field - 1) * 2 ^ f.fb + q
    if enc ≤ maxEnc f then some enc else none

/-! ## Arithmetic results (R93, R95, R147) -/

def nan32 : W32 := 0x7FC00000

/-- An exact result rounded to FP32 by arithmetic: a NaN is canonical, overflow gives an infinity. -/
def fin32w (x : Fp × Fl) : W32 × Fl :=
  match x with
  | (.nan _ _, fl) => (nan32, fl)
  | (.inf s, fl) => (BitVec.ofNat 32 (signEnc fmt32 s + 0x7F800000), fl)
  | (.fin s m e, fl) =>
    match roundMag fmt32 m e none with
    | some v => (BitVec.ofNat 32 (signEnc fmt32 s + v), fl)
    | none => (BitVec.ofNat 32 (signEnc fmt32 s + 0x7F800000), fl ||| flOverflow)

/-- An exact result rounded once to a packed format, BF16 or FP16 (R93). -/
def packed (f : Fmt) (x : Fp × Fl) : Nat × Fl :=
  let infEnc := (2 ^ f.eb - 1) * 2 ^ f.fb
  match x with
  | (.nan _ _, fl) => (infEnc + 2 ^ (f.fb - 1), fl)
  | (.inf s, fl) => (signEnc f s + infEnc, fl)
  | (.fin s m e, fl) =>
    match roundMag f m e none with
    | some v => (signEnc f s + v, fl)
    | none => (signEnc f s + infEnc, fl ||| flOverflow)

/-- A canonical NaN made from operands; INVALID where none of them was a NaN (R105). -/
def mkNan (hadNan : Bool) : Fp × Fl := (.nan false 0x400000, if hadNan then 0 else flInvalid)

/-- The exact sum of two finite values; an exact zero is +0 unless both are −0. -/
def addFin (s1 : Bool) (m1 : Nat) (e1 : Int) (s2 : Bool) (m2 : Nat) (e2 : Int) : Fp :=
  let e := min e1 e2
  let a : Int := (m1 * 2 ^ (e1 - e).toNat : Nat)
  let b : Int := (m2 * 2 ^ (e2 - e).toNat : Nat)
  let t := (if s1 then -a else a) + (if s2 then -b else b)
  if t = 0 then .fin (s1 && s2 && m1 == 0 && m2 == 0) 0 0 else .fin (decide (t < 0)) t.natAbs e

/-- x * y exactly. -/
def mulX (x y : Fp) : Fp × Fl :=
  match x, y with
  | .nan _ _, _ => mkNan true
  | _, .nan _ _ => mkNan true
  | .inf s, .inf t => (.inf (s != t), 0)
  | .inf s, .fin t m _ => if m = 0 then mkNan false else (.inf (s != t), 0)
  | .fin t m _, .inf s => if m = 0 then mkNan false else (.inf (s != t), 0)
  | .fin s m e, .fin t n f => (.fin (s != t) (m * n) (e + f), 0)

/-- x + y exactly. -/
def addX (x y : Fp) : Fp × Fl :=
  match x, y with
  | .nan _ _, _ => mkNan true
  | _, .nan _ _ => mkNan true
  | .inf s, .inf t => if s = t then (.inf s, 0) else mkNan false
  | .inf s, .fin _ _ _ => (.inf s, 0)
  | .fin _ _ _, .inf s => (.inf s, 0)
  | .fin s m e, .fin t n f => (addFin s m e t n f, 0)

/-- x * y + z exactly; a NaN operand sets no flag. -/
def fmaX (x y z : Fp) : Fp × Fl :=
  if x.isNan || y.isNan || z.isNan then mkNan true
  else
    match mulX x y with
    | (.nan _ _, fl) => (.nan false 0x400000, fl)
    | (p, _) => addX p z

/-- x / y as a value with a sticky bit below the precision of any format. -/
def divX (x y : Fp) : Fp × Fl :=
  match x, y with
  | .nan _ _, _ => mkNan true
  | _, .nan _ _ => mkNan true
  | .inf _, .inf _ => mkNan false
  | .inf s, .fin t _ _ => (.inf (s != t), 0)
  | .fin s _ _, .inf t => (.fin (s != t) 0 0, 0)
  | .fin s m e, .fin t n f =>
    if n = 0 then (if m = 0 then mkNan false else (.inf (s != t), 0))
    else
      let k := 64 + Nat.log2 n
      let q := m * 2 ^ k / n
      let st := b2n (m * 2 ^ k % n != 0)
      (.fin (s != t) (2 * q + st) (e - f - k - 1), 0)

/-- The integer square root, bit by bit from bit `n`. -/
def isqrt (v : Nat) : Nat → Nat → Nat
  | 0, r => if (r + 1) * (r + 1) ≤ v then r + 1 else r
  | n + 1, r => isqrt v n (if (r + 2 ^ (n + 1)) * (r + 2 ^ (n + 1)) ≤ v then r + 2 ^ (n + 1) else r)

/-- The square root as a value with a sticky bit. -/
def sqrtX (x : Fp) : Fp × Fl :=
  match x with
  | .nan _ _ => mkNan true
  | .inf s => if s then mkNan false else (.inf false, 0)
  | .fin s m e =>
    if m = 0 then (.fin s 0 0, 0)
    else if s then mkNan false
    else
      let odd := b2n (e % 2 != 0)
      let v := m * 2 ^ (64 + odd)
      let r := isqrt v (Nat.log2 v / 2 + 1) 0
      (.fin false (2 * r + b2n (r * r != v)) ((e - 64 - odd) / 2 - 1), 0)

/-- FP32 operations, each rounded once to nearest, ties to even. -/
def fmul (a b : W32) : W32 × Fl := fin32w (mulX (dec32 a) (dec32 b))
def fadd (a b : W32) : W32 × Fl := fin32w (addX (dec32 a) (dec32 b))
def fsub (a b : W32) : W32 × Fl := fin32w (addX (dec32 a) (dec32 b).neg)
def fdiv (a b : W32) : W32 × Fl := fin32w (divX (dec32 a) (dec32 b))
def ffma (a b c : W32) : W32 × Fl := fin32w (fmaX (dec32 a) (dec32 b) (dec32 c))

/-! ## Comparisons (R99) -/

/-- A key that orders numbers exactly, with +0 above −0. -/
def ordKey (x : Fp) : Int :=
  match x with
  | .nan _ _ => 0
  | .inf s => if s then -(2 ^ 400) else 2 ^ 400
  | .fin s m e =>
    let v : Int := (m * 2 ^ (e + 149).toNat : Nat)
    if s then -v * 2 - 1 else v * 2
/-- a < b for FP32 numbers that are not NaNs, −0 below +0. -/
def fltLt (a b : W32) : Bool := decide (ordKey (dec32 a) < ordKey (dec32 b))
def isNan32 (a : W32) : Bool := (dec32 a).isNan
def isFin32 (a : W32) : Bool := (dec32 a).isFin
def isZero32 (a : W32) : Bool := (dec32 a).isZero
def absW (a : W32) : W32 := a &&& 0x7FFFFFFF
def negW (a : W32) : W32 := a ^^^ 0x80000000
/-- Element-wise MAX and MIN (R147). -/
def fmax (a b : W32) : W32 := if isNan32 a || isNan32 b then nan32 else if fltLt a b then b else a
def fmin (a b : W32) : W32 := if isNan32 a || isNan32 b then nan32 else if fltLt b a then b else a

/-! ## Conversions out of FP32 (R101 to R103) and into PF13 (R91, R92) -/

/-- Conversion to a floating-point format code 0 to 5 (R101); `u` selects stochastic rounding. An E4M3 NaN keeps the sign of
its source, and an FP32 NaN its sign and payload with the quiet bit set (notes/assumptions/38.md). -/
def convFp (code : Nat) (x : Fp) (u : Option Nat) : Nat × Fl :=
  let f := fmtOf code
  match x with
  | .nan s fr =>
    if code = 0 then (signEnc f s + 0x7FC00000 + fr % 0x400000, 0)
    else if code = 3 then (signEnc f s + 0x7F, 0)
    else ((2 ^ f.eb - 1) * 2 ^ f.fb + 2 ^ (f.fb - 1), 0)
  | .inf s =>
    if code = 3 then (signEnc f s + maxEnc f, flInvalid) else (signEnc f s + (2 ^ f.eb - 1) * 2 ^ f.fb, 0)
  | .fin s m e =>
    match roundMag f m e u with
    | some v => (signEnc f s + v, if m ≠ 0 ∧ v = 0 ∧ code ≠ 0 then flUnderflow else 0)
    | none => (signEnc f s + maxEnc f, flSaturate)

/-- Conversion of a sample to PCM of `n` bits (R102), as a two's-complement number. -/
def convPcm (n : Nat) (x : Fp) (u : Option Nat) : Nat × Fl :=
  match x with
  | .nan _ _ => (0, flInvalid)
  | .inf s => (if s then 2 ^ (n - 1) else 2 ^ (n - 1) - 1, flInvalid)
  | .fin s m e =>
    let q := toLsb m (e + n - 1) 0 u
    if s then (if 2 ^ (n - 1) < q then (2 ^ (n - 1), flSaturate) else ((2 ^ n - q) % 2 ^ n, 0))
    else if 2 ^ (n - 1) ≤ q then (2 ^ (n - 1) - 1, flSaturate) else (q, 0)

/-- Conversion to any output format code 0 to 5, 8, 9. -/
def convOut (code : Nat) (x : Fp) (u : Option Nat) : Nat × Fl :=
  if code = 8 then convPcm 16 x u else if code = 9 then convPcm 24 x u else convFp code x u

/-- A two's-complement number of `n` bits. -/
def sgn (n v : Nat) : Int := if 2 ^ (n - 1) ≤ v then (v : Int) - 2 ^ n else v

/-- The number as a value. -/
def ofInt (v : Int) (e : Int) : Fp := .fin (decide (v < 0)) v.natAbs e

/-- A source element of format code 0 to 5, 8 or 9, widened exactly (R83, R93, R181). -/
def widen (code v : Nat) : Fp :=
  if code = 8 then ofInt (sgn 16 v) (-15)
  else if code = 9 then ofInt (sgn 24 v) (-23)
  else if code = 5 then decFmt fmtPf13 (v % 8192)
  else decFmt (fmtOf code) v

/-- Bytes of an element of format code 0 to 10. -/
def fmtBytes (code : Nat) : Nat :=
  if code = 0 ∨ code = 10 then 4 else if code = 3 ∨ code = 4 ∨ code = 6 ∨ code = 7 then 1
  else if code = 9 then 3 else 2

/-- An operand of the multiplier array: a value rounded into PF13 (R91, R92). -/
def toPf13 (x : Fp) : Fp × Fl :=
  let r := convFp 5 x none
  (decFmt fmtPf13 r.1, r.2)

/-! ## Scale codes (R85 to R87) -/

/-- The value of a UE5M3 code. -/
def ueDec (c : Nat) : Fp :=
  let e := c / 8
  if e = 0 then .fin false (c % 8) (-17) else .fin false (c % 8 + 8) ((e : Int) - 18)

/-- The code of an FP32 value (R87); `pos` says that a +0 came of an underflow from a positive range. -/
def ueEnc (v : W32) (pos : Bool) : Nat × Fl :=
  match dec32 v with
  | .nan _ _ => (0xFF, flInvalid)
  | .inf _ => (0xFF, flInvalid)
  | .fin _ m e =>
    if m = 0 then (if pos then 1 else 0, 0)
    else
      let f : Fmt := { eb := 5, fb := 3, bias := 15, ieee := false }
      let lsb := lsbOf f m e
      let q := toLsb m e lsb none
      let field := (lsb + 18).toNat
      let enc := if q < 8 then q else (field - 1) * 8 + q
      if 0xFF < enc then (0xFF, flSaturate) else if enc = 0 then (1, 0) else (enc, 0)

/-! ## Rounding a quotient to an integer (R121) -/

/-- x / y to the nearest integer, ties to even, for finite x and positive finite y. -/
def rintQuot (x y : Fp) : Int :=
  match x, y with
  | .fin s m e, .fin _ n f =>
    if n = 0 then 0
    else
      let d := e - f
      let num := if 0 ≤ d then m * 2 ^ d.toNat else m
      let den := if 0 ≤ d then n else n * 2 ^ (-d).toNat
      let q := num / den
      let r := num % den
      let v : Nat := if den < 2 * r ∨ (2 * r = den ∧ q % 2 = 1) then q + 1 else q
      if s then -(v : Int) else v
  | _, _ => 0

/-! ## The exact group sum (R94, R95) -/

/-- A finite value at the fixed point 2^-149, which holds every PF13 product and every FP32 value. -/
def fixedPt (x : Fp) : Int :=
  match x with
  | .fin s m e => let v : Int := (m * 2 ^ (e + 149).toNat : Nat); if s then -v else v
  | _ => 0

/-- Some term is +∞, or −∞. -/
def hasInf (l : List Fp) (s : Bool) : Bool := l.any fun x => x == .inf s

/-- One group step: the incoming sum and up to 32 products of PF13 operands. A NaN sum is not a NaN operand: INVALID is
set unless a weight or an activation is NaN (R95 tells acc from the operands; notes/assumptions/35.md). -/
def groupStep (acc : Fp) (ops : List (Fp × Fp)) : Fp × Fl :=
  let prods := ops.map fun p => mulX p.1 p.2
  let terms := acc :: prods.map Prod.fst
  let opNan := ops.any fun p => p.1.isNan || p.2.isNan
  if opNan then mkNan true
  else if terms.any Fp.isNan then mkNan false
  else if hasInf terms false && hasInf terms true then mkNan false
  else if hasInf terms false then (.inf false, 0)
  else if hasInf terms true then (.inf true, 0)
  else
    let t := (terms.map fixedPt).foldl (· + ·) 0
    if t = 0 then (.fin (terms.all Fp.sign) 0 0, 0) else (ofInt t (-149), 0)

end Sys2Proof.Machine
end

