-- ==== Sys2Proof/Machine/Output.lean ====
section
/-! DEFINITION. Staged output and its publication (R62, R65, R66, R291, R307), and the inputs of the commands the
Crown carries out (R308, table *Causes of a kill*). -/

namespace Sys2Proof.Machine

open Sys2Proof

/-! ## Staging pages -/

def outDev (c : Cmd) : Bool := isDev c.desc.out
def outBase (c : Cmd) : Nat := if outDev c then devAddr c.desc.out else c.desc.out.toNat

/-- The staging pages of a command; host output in pieces of 4 KiB. -/
def stagePieces (c : Cmd) : List StagePage :=
  if outDev c then c.pages
  else c.pages.flatMap fun (p : StagePage) =>
    (List.range (p.size / 4096)).map fun i => { dva := p.dva + 4096 * i, size := 4096, pa := p.pa + 4096 * i }

/-- The part of a staging page that the output covers: first address and bytes. -/
def pageCover (c : Cmd) (p : StagePage) : Nat × Nat :=
  let lo := max p.dva (outBase c)
  (lo, min (p.dva + p.size) (outBase c + outLen c.desc) - lo)

/-- A device page that the output covers only in part (R62). -/
def partly (c : Cmd) (p : StagePage) : Bool := outDev c && (pageCover c p).2 != p.size

/-- The first write reaches a staging page: a partly covered target page is copied in; the bytes of any other page
are undefined until they are written (notes/assumptions/7.md), unless the write covers them all. -/
def touchPage (s : State) (c : Cmd) (p : StagePage) (whole : Bool) : State :=
  match getCmd s c.id with
  | none => s
  | some c1 =>
    if c1.copied.contains p.dva then s
    else
      let s1 := modCmd s c.id fun x => { x with copied := x.copied ++ [p.dva] }
      if partly c p then
        match pageHome s c.part p.dva with
        | some pa => pmWrite (noteRead s1 pa p.size) p.pa (pmRead s pa p.size)
        | none => pmFree s1 p.pa p.size
      else if whole then s1
      else pmFree s1 (p.pa + ((pageCover c p).1 - p.dva)) (pageCover c p).2

/-- Writes output bytes at an address of the output range to staging. -/
def stageWrite (s : State) (c : Cmd) (a : Nat) (b : Bytes) : State :=
  (stagePieces c).foldl (fun t p =>
    let lo := max a p.dva
    let hi := min (a + b.length) (p.dva + p.size)
    if lo < hi then
      pmWrite (touchPage t c p ((lo, hi - lo) == pageCover c p)) (p.pa + (lo - p.dva)) (slice b (lo - a) (hi - lo))
    else t) s

/-- Reads output bytes from staging; a page no write has reached holds undefined bytes, and a line that cannot be
corrected gives none that the spec states. -/
def stageRead (s : State) (c : Cmd) (a n : Nat) : Bytes :=
  (List.range n).map fun i =>
    match (stagePieces c).find? fun (p : StagePage) => decide (p.dva ≤ a + i) && decide (a + i < p.dva + p.size) with
    | some p =>
      let pa := p.pa + (a + i - p.dva)
      if c.copied.contains p.dva && !lineBad s (pa / 64 * 64) then (pmRead s pa 1).headD 0 else Config.freeByte s.free (a + i)
    | none => Config.freeByte s.free (a + i)

/-! ## What the Crown's commands read and write -/

/-- Kills a command that the Crown carries out for a translation fault on a device page (R308). -/
def killMoved (s : State) (c : Cmd) (dva : Nat) : State :=
  modCmd (startKill s c.id .counted false) c.id fun c => { c with faultAt := some dva }

/-- Reads `n` input bytes of a running command of the Crown; a read that fails kills it. -/
def withInput (s : State) (c : Cmd) (a : W64) (n : Nat) (h : HostAns) (f : State → Bytes → State) : State :=
  if n = 0 then f s []
  else if isDev a then
    match devRead s c.part (devAddr a) n with
    | .data b => f (noteDev s c.part (devAddr a) n) b
    | .bad pa => killUe (ueReport s pa 0) c pa
    | .fault d => startKill s c.id (.ends stPageFault d) false
    | .moving d => killMoved s c d
    | .lazy_ d => killMoved s c d
  else
    let s := dmaRead s (some c.pasid.toNat) a.toNat n
    match h with
    | .data b => f s (slice b 0 n)
    | .refused v => startKill s c.id (.ends stPageFault v.toNat) false

/-- Where the output bytes of a piece are staged. -/
def piecePa (c : Cmd) (p : StagePage) : Nat := p.pa + ((pageCover c p).1 - p.dva)

/-- A line of the staging page that the output fills in part and that cannot be read to be merged (R284). -/
def mergeStop (s : State) (c : Cmd) (p : StagePage) : Option Nat :=
  if partly c p && !c.copied.contains p.dva then none else (badMerge s (piecePa c p) (pageCover c p).2).head?

/-- What stops the output of a running command of the Crown: a page that faults, an uncorrectable line of a target page
that would be copied in, or one that would be merged. -/
inductive OutStop where
  | fault (dva : Nat)
  | again (dva : Nat)
  | bad (pa : Nat)
deriving DecidableEq, Repr

def outStop (s : State) (c : Cmd) : Option OutStop :=
  ((stagePieces c).findSome? fun p => (mergeStop s c p).map OutStop.bad).or <|
  if outDev c then
    c.pages.findSome? fun (p : StagePage) =>
      match walk s c.part p.dva with
      | .page pa _ w =>
        if !w then some (.fault p.dva)
        else if partly c p then (firstBad s pa p.size).map .bad
        else none
      | .moving d => some (.again d)
      | .lazy_ d => some (.again d)
      | .none_ d => some (.fault d)
      | .bad l => some (.bad l)
  else none

/-- Runs `f` where the output of the command can be staged. -/
def withOutput (s : State) (c : Cmd) (f : State) : State :=
  match outStop s c with
  | none => f
  | some (.fault d) => startKill s c.id (.ends stPageFault d) false
  | some (.again d) => killMoved s c d
  | some (.bad pa) => killUe (ueReport s pa 0) c pa

/-! ## Publication (R65, R66, R291, R307) -/

/-- Points the entries of a page of a size at a physical page. -/
def writePage (s : State) (p dva size pa : Nat) (w : Bool) : State :=
  (putPtes s p (leaves dva size w (some pa))).getD s

/-- A device page is swapped for its staging page, and the old page freed once no TLB holds it (R307). -/
def swapPage (s : State) (c : Cmd) (p : StagePage) : State :=
  let s := finishMove s c.part p.dva
  let (e, _, _) := pteAt s c.part p.dva
  let s1 := if pteP e then freePage s c.part (ptePa e) else s
  let s2 := { s1 with pile := { s1.pile with alloc := s1.pile.alloc.map fun (x : Extent) =>
      if x.base == p.pa && x.owner == Owner.cmd c.part c.id then { x with owner := Owner.page c.part } else x } }
  tlbDropAll (writePage s2 c.part p.dva p.size p.pa (pteW e)) c.part p.dva p.size

/-- The staging pages that a write has reached. -/
def touched (c : Cmd) : List StagePage := (stagePieces c).filter fun (p : StagePage) => c.copied.contains p.dva

/-- The host's IOMMU refuses a write of the piece. -/
def pieceHit (c : Cmd) (refused : Option W64) (p : StagePage) : Bool :=
  match refused with
  | some a => decide ((pageCover c p).1 ≤ a.toNat) && decide (a.toNat < (pageCover c p).1 + (pageCover c p).2)
  | none => false
/-- The first staged line of the piece that cannot be corrected. -/
def pieceBad (s : State) (c : Cmd) (p : StagePage) : Option Nat := firstBad s (piecePa c p) (pageCover c p).2

/-- The status and address of a publication to the host that fails (R66, R291). -/
def pubFail (s : State) (c : Cmd) (refused : Option W64) : Option (Nat × Nat) :=
  match (touched c).find? (pieceHit c refused) with
  | some _ => refused.map fun a => (stPageFault, a.toNat)
  | none => ((touched c).findSome? (pieceBad s c)).map fun l => (stMemUncorrectable, l)

/-- Writes one piece to the host, unless it is refused or cannot be read. -/
def putPiece (s : State) (c : Cmd) (refused : Option W64) (t : State) (p : StagePage) : State :=
  if pieceHit c refused p || (pieceBad s c p).isSome then t
  else { t with io := { t.io with dma := t.io.dma ++
    [{ pasid := some c.pasid.toNat, addr := (pageCover c p).1, data := pmRead s (piecePa c p) (pageCover c p).2
       open_ := (pubFail s c refused).isSome }] } }

/-- Counts what reading a piece corrects, or reports the line that cannot be corrected. -/
def notePiece (s : State) (c : Cmd) (t : State) (p : StagePage) : State :=
  match pieceBad s c p with
  | some l => ueReport t l 0
  | none => noteRead t (piecePa c p) (pageCover c p).2

/-- Publishes the output; with it the status and address of a publication that fails. `refused` is the first
address at which the host's IOMMU refused a write. -/
def publish (s : State) (c : Cmd) (refused : Option W64) : State × Option (Nat × Nat) :=
  if !usesOut (cop c) || outLen c.desc = 0 then (s, none)
  else if outDev c then ((touched c).foldl (fun t p => swapPage t c p) s, none)
  else ((touched c).foldl (notePiece s c) ((touched c).foldl (putPiece s c refused) s), pubFail s c refused)

end Sys2Proof.Machine
end

