-- ==== Sys2Proof/Machine/Cmds.lean ====
section
/-! DEFINITION. The commands that the Crown carries out (R60, R192, R200, R211 to R214, R320, R321, R386), up to their
commit point; FENCE and WAIT_REMOTE, which have no effects, complete at once. -/

namespace Sys2Proof.Machine

open Sys2Proof

/-! ## The commit point -/

/-- The package's key for digests: the domain key, or the per-boot key outside a domain (R362). -/
def digestKey (s : State) : BitVec 128 := if s.dom.inDomain then s.dom.key else Config.bootKey s.sec.boots

/-- A command on mirrored streams that exchanges digests with its twin (R363). -/
def exchanges (s : State) (c : Cmd) : Bool :=
  (cop c == opRUN || cop c == opINIT || cop c == opIMPORT) && (groupStreams c).any (mirrored s)

/-- The commit digest is computed (FLAGS, R363). -/
def wantsDigest (s : State) (c : Cmd) : Bool := c.desc.flags.getLsbD 2 || exchanges s c

/-- The command passes its commit point: it waits for its digest, or for the commit engine (R64, R362). -/
def atCommit (s : State) (c : Cmd) : State :=
  modCmd s c.id fun x => { x with stage := if wantsDigest s c then .waiting else .committing }

/-- The partition of a list that comes first after `last` in round robin (R313). -/
def nextInTurn (last : Nat) (parts : List Nat) : Option Nat :=
  ((List.range 16).map fun i => (last + 1 + i) % 16).find? fun p => parts.contains p

/-- It is the turn of the command's partition among those with a command for the Crown to carry out (R313). -/
def crownTurn (s : State) (c : Cmd) : Bool :=
  nextInTurn s.crown.workPart ((s.cmds.filter fun x => x.stage == .running && cop x != opRUN).map Cmd.part) == some c.part

/-- A running command of the Crown with an opcode, when its partition's turn has come: `f` of the command. -/
def crownCmd (s : State) (id op : Nat) (f : State → Cmd → State) : State :=
  match getCmd s id with
  | none => s
  | some c =>
    if c.stage = .running ∧ cop c = op ∧ crownTurn s c then f { s with crown := { s.crown with workPart := c.part } } c else s

/-! ## Weight sets (R192, R193, R322) -/

/-- The set of an image on chosen cores, with their window bases. -/
def setOf (c : Cmd) (b : Bytes) (l : List (Nat × Nat × Nat)) : WSet :=
  { part := c.part, handle := c.desc.set, cores := l.map fun x => x.1, resBase := l.map fun x => x.2.1,
    codeBase := l.map fun x => x.2.2, resSpan := imgResSpan b, codeSpan := imgCodeSpan b, progs := imgProgs b,
    sites := imgSites b, layouts := imgLayouts b, segs := imgSegs b, image := b }

/-- LOAD_SET. The image is read and checked again as it is loaded. -/
def execLoadSet (id : Nat) (img : HostAns) (s : State) : Host.Outcome State Fault Refusal :=
  .next (crownCmd s id opLOAD fun s c =>
    withInput s c c.desc.arg (argLen c.desc) img fun s b =>
      if !imgOk b (argLen c.desc) then complete s c stBadShape 0
      else
        match setRoom s c.part (imgRanks b) (imgResSpan b) (imgCodeSpan b) with
        | none => complete s c stOutOfBounds 0
        | some l => atCommit (modCmd s id fun x => { x with newSet := some (setOf c b l) }) c)

/-- EVICT_SET. -/
def execEvictSet (id : Nat) (s : State) : Host.Outcome State Fault Refusal :=
  .next (crownCmd s id opEVICT atCommit)

/-! ## State (R200, R211 to R214) -/

/-- Writes one slot of an entry in whole lines: no reference reaches the bytes between the entry's end and ESPAN (R294). -/
def putSlot (s : State) (o : Obj) (e k : Nat) (b : Bytes) : State :=
  pmWrite s (slotPa o e k) (b ++ zeroBytes (o.espan - b.length))

/-- The initial bytes of an entry: INIT converted to the element format (R200, R101). -/
def initBytes (l : Layout) : Bytes :=
  let v := leN (elemBytes l.fmt) (convFp l.fmt (dec32 (if l.initConst then l.init else 0)) none).1
  (List.range (entryBytes l.fmt l.dims / elemBytes l.fmt)).flatMap fun _ => v

/-- Every entry of an object is written, in the slot that becomes current. -/
def initObj (s : State) (o : Obj) (l : Layout) : State :=
  (List.range o.entries).foldl (fun t e => putSlot t o e 0 (initBytes l)) s

/-- STATE_INIT. -/
def execStateInit (id : Nat) (s : State) : Host.Outcome State Fault Refusal :=
  .next (crownCmd s id opINIT fun s c =>
    match (progOf s c).bind (progLayout s c) with
    | none => s
    | some ls =>
      atCommit (c.news.foldl (fun t n => (n.objs.zip ls).foldl (fun u x => initObj u x.1 x.2) t) s) c)

/-- The objects of a record are those reserved at validation. -/
def sameObjs (a b : List Obj) : Bool := a.length == b.length && (a.zip b).all fun x => sameShape x.1 x.2

/-- The payloads of a record are written to the objects reserved for it. -/
def putPayloads (s : State) (objs : List Obj) (r : Bytes) : State :=
  (objs.zip (payOffs (recBase objs.length) objs)).foldl (fun t x =>
    (List.range x.1.entries).foldl (fun u e => putSlot u x.1 e 0 (slice r (x.2 + e * x.1.bytes) x.1.bytes)) t) s

/-- STATE_IMPORT: the records are read again. -/
def execStateImport (id : Nat) (recs : HostAns) (s : State) : Host.Outcome State Fault Refusal :=
  .next (crownCmd s id opIMPORT fun s c =>
    withInput s c c.desc.arg (argLen c.desc) recs fun s b =>
      match recSplit (groupCount c) b with
      | none => complete s c stBadShape 0
      | some l =>
        if (c.news.zip l).all fun x => sameObjs x.1.objs (recObjs x.2) then
          let s1 := (c.news.zip l).foldl (fun t x => putPayloads t x.1.objs x.2) s
          atCommit (modCmd s1 id fun x => { x with
            news := (c.news.zip l).map fun y => newOfRec y.1.stream y.2 y.1.pile y.1.objs }) c
        else complete s c stBadShape 0)

/-- The bytes of the current slot of an entry, and of every entry of an object in order (R212). -/
def curBytes (s : State) (o : Obj) (e : Nat) : Bytes := pmRead s (slotPa o e (curSlot o e)) o.bytes
def objBytes (s : State) (o : Obj) : Bytes := (List.range o.entries).flatMap (curBytes s o)

/-- The first uncorrectable line of the current slots of an object. -/
def objBad (s : State) (o : Obj) : Option Nat :=
  (List.range o.entries).findSome? fun e => firstBad s (slotPa o e (curSlot o e)) o.bytes

/-- Reading every current slot of an object counts the lines it corrects. -/
def noteObj (s : State) (o : Obj) : State :=
  (List.range o.entries).foldl (fun t e => noteRead t (slotPa o e (curSlot o e)) o.bytes) s

/-- An object descriptor of a record (R211). -/
def descBytes (o : Obj) (off : Nat) : Bytes :=
  leN 1 (b2n o.ring) ++ leN 1 o.fmt ++ leN 1 o.ndim ++ leN 1 0 ++
    ((List.range 4).flatMap fun i => leN 4 ((o.dims[i]?).getD 0)) ++ leN 4 o.entries ++ leN 4 off ++ leN 4 (payBytes o)

/-- Pads to a multiple of 64. -/
def pad64 (b : Bytes) : Bytes := b ++ List.replicate (alignUp b.length 64 - b.length) 0

/-- The state record of a stream (R211 to R213). -/
def recordOf (s : State) (st : Nat) : Bytes :=
  let x := getStream s st
  let n := x.objs.length
  let offs := payOffs (recBase n) x.objs
  let head := leN 4 0x5453564B ++ leN 2 1 ++ leN 2 n ++ leN 4 (recTotal x.objs)
  let rest := leN 2 st ++ leN 2 0 ++ leN 4 x.position ++ leN 8 s.bead.count.toNat ++ leN 8 x.rstep.toNat ++
    leN 32 x.seed.toNat ++ leN 56 0
  let descs := (x.objs.zip offs).flatMap fun y => descBytes y.1 y.2
  let body := x.objs.foldl (fun b o => pad64 (b ++ objBytes s o)) (pad64 (head ++ leN 4 0 ++ rest ++ descs))
  head ++ leN 4 (crc32 body).toNat ++ body.drop 16

/-- STATE_EXPORT: an uncorrectable line of a current slot kills it; else the records are staged. -/
def execStateExport (id : Nat) (s : State) : Host.Outcome State Fault Refusal :=
  .next (crownCmd s id opEXPORT fun s c =>
    match (groupStreams c).findSome? fun st => (getStream s st).objs.findSome? (objBad s) with
    | some l => killUe (ueReport s l 0) c l
    | none =>
      let s1 := ((groupStreams c).flatMap fun st => (getStream s st).objs).foldl noteObj s
      withOutput s1 c (atCommit (stageWrite s1 c (outBase c) ((groupStreams c).flatMap (recordOf s))) c))

/-! ## Streams, COPY, bindings -/

/-- STREAM_OPEN. -/
def execStreamOpen (id : Nat) (s : State) : Host.Outcome State Fault Refusal :=
  .next (crownCmd s id opOPEN atCommit)
/-- STREAM_CLOSE. -/
def execStreamClose (id : Nat) (s : State) : Host.Outcome State Fault Refusal :=
  .next (crownCmd s id opCLOSE atCommit)
/-- AUDIO_BIND. -/
def execAudioBind (id : Nat) (s : State) : Host.Outcome State Fault Refusal :=
  .next (crownCmd s id opBIND atCommit)

/-- COPY. -/
def execCopy (id : Nat) (src : HostAns) (s : State) : Host.Outcome State Fault Refusal :=
  .next (crownCmd s id opCOPY fun s c =>
    withInput s c c.desc.arg (argLen c.desc) src fun s b =>
      withOutput s c (atCommit (stageWrite s c (outBase c) b) c))

/-! ## FENCE and WAIT_REMOTE (R52, R60) -/

/-- DIGEST_OR_ADDR of a command that commits nothing: the hash of the empty string where DIGEST is set (R362). -/
def emptyDigest (s : State) (c : Cmd) : Nat := if c.desc.flags.getLsbD 2 then (siphash (digestKey s) []).toNat else 0

/-- A command that the Crown carries out by completing it: it counts as dispatched now (R334). -/
def dispatchedNow (s : State) (c : Cmd) : Cmd :=
  { c with dispatches := 1, firstBead := s.bead.count, queueNs := c.queueNs + (s.time - c.waitFrom) }

/-- FENCE completes once every command its client validated before it has retired. -/
def execFence (id : Nat) (s : State) : Host.Outcome State Fault Refusal :=
  match getCmd s id with
  | none => .next s
  | some c =>
    onlyIf (cop c == opFENCE && allowed s c && s.cmds.all fun x => !(x.client == c.client && decide (x.id < id))) s
      (complete s (dispatchedNow s c) stOK (emptyDigest s c))

/-- WAIT_REMOTE completes once the named commit is reported. -/
def execWaitRemote (id : Nat) (s : State) : Host.Outcome State Fault Refusal :=
  match getCmd s id with
  | none => .next s
  | some c => onlyIf (cop c == opWAITR && allowed s c) s (complete s (dispatchedNow s c) stOK (emptyDigest s c))

/-- REMOTE_TOKEN_TIMEOUT. With TIMEOUT 0 the answer to the single check decides, and no time runs out (R52, R361). -/
def execRemoteTokenTimeout (id : Nat) (s : State) : Host.Outcome State Fault Refusal :=
  match getCmd s id with
  | none => .next s
  | some c =>
    match c.dep with
    | none => .next s
    | some d =>
      onlyIf (c.stage == .queued && !depMet s c && d.timeout != 0 && decide (c.valBead.toNat + d.timeout ≤ s.bead.count.toNat)) s
        (complete s c stRemoteUnreachable 0)

end Sys2Proof.Machine
end

