-- ==== Sys2Proof/Machine/Commit.lean ====
section
/-! DEFINITION. Barriers, the commit step (R62 to R66, R273, R327), kills as they are delivered (R70 to R73, R272,
R296), limits of a run (R175, R278), fault resolution (R308) and the digests of mirrored streams (R362, R363, R484). -/

namespace Sys2Proof.Machine

open Sys2Proof

/-! ## Slots (R296) -/

/-- An object after a flip of a generation. -/
def objAfter (g : W32) (o : Obj) : Obj :=
  let hit := (o.wr.filter fun w => w.gen == g).map EntryWrite.entry
  { o with
    cur := (o.cur.filter fun e => !hit.contains e) ++ hit.filter fun e => !o.cur.contains e
    wr := o.wr.filter fun w => w.gen != g }

/-- Changes the objects of every stream whose home is the pile. -/
def modHomed (s : State) (pile : Nat) (f : Obj → Obj) : State :=
  { s with streams := s.streams.map fun (x : Nat × Stream) =>
      if x.2.home == pile then (x.1, { x.2 with objs := x.2.objs.map f }) else x }

/-- The discard has reached the pile. -/
def killPile (s : State) (pile : Nat) (gen : W32) : State :=
  { s with cmds := s.cmds.map fun c =>
      if c.stage == .killing && c.gen == gen then
        { c with kill := c.kill.map fun k => { k with piles := k.piles.filter fun p => p != pile } }
      else c }

/-- SLOT_DISCARD: while the command of the generation is being killed. -/
def execSlotDiscard (pile : Nat) (gen : W32) (s : State) : Host.Outcome State Fault Refusal :=
  onlyIf (decide (pile < 16) && s.cmds.any fun c => c.stage == .killing && c.gen == gen) s
    (killPile (modHomed s pile (discardWr gen)) pile gen)

/-! ## Barriers (R172 to R174, R273, R359) -/

/-- The dispatch a gang core runs for a command. -/
def gangDisp (s : State) (c : Cmd) (core : Nat) : Option Disp :=
  (getDisp s core).filter fun d => d.gen == c.gen && d.cmd == c.id

/-- The inbox messages a dispatch took are removed when it commits (R359). -/
def dropInbox (s : State) (part core n : Nat) : State :=
  (List.range n).foldl (fun t _ =>
    let p := getPart t part
    setPart t part { p with inbox := removeFirst (fun m => m.1 == core) p.inbox }) s

/-- A core's dispatch ends; its queues, tags, buffers and gathers go with it (R70, R327). -/
def endDisp (s : State) (core : Nat) (gen : W32) : State :=
  let s1 := { s with piles := (s.piles.map fun (x : Nat × Pile) =>
    (x.1, { x.2 with gathers := x.2.gathers.filter fun g => !(g.core == core && g.gen == gen) })).filter fun x => x.2 != {} }
  setCore s1 core { getCore s1 core with disp := none }

/-- The commit point of a RUN: its cores are released (R327). -/
def runCommit (s : State) (c : Cmd) : State :=
  let s1 := c.gang.foldl (fun t core =>
    match gangDisp t c core with
    | some d => endDisp (dropInbox t c.part core d.inboxN) core c.gen
    | none => t) s
  atCommit (modCmd s1 c.id fun x => { x with gang := [] }) c

/-- A core leaves a barrier. -/
def leaveBarrier (c : Cmd) (s : State) (core : Nat) : State :=
  match gangDisp s c core with
  | some d => advance s core { d with arrived := .no }
  | none => s

/-- GANG_BARRIER_RELEASE. -/
def execGangBarrierRelease (id : Nat) (s : State) : Host.Outcome State Fault Refusal :=
  match getCmd s id with
  | none => .next s
  | some c =>
    let at_ := fun (a : Arrived) => c.gang.all fun core => (gangDisp s c core).any fun d => d.arrived == a
    let none_ := c.gang.any fun core => (gangDisp s c core).all fun d => d.arrived == .no
    if c.stage ≠ .running ∨ c.gang.isEmpty ∨ none_ then .next s
    else if at_ .final then .next (runCommit s c)
    else if at_ .reckon then .next (c.gang.foldl (leaveBarrier c) s)
    else .next (startKill s id (.ends stOutOfBounds 0) false)

/-! ## Kills (R70 to R73, R272) -/

/-- What is left of a killed dispatch until its command is quiescent: the core and its windows stay reserved. -/
def husk (d : Disp) : Disp :=
  { cmd := d.cmd, gen := d.gen, part := d.part, handle := d.handle, gang := d.gang, resBase := d.resBase,
    codeBase := d.codeBase, resSpan := d.resSpan, scrSpan := d.scrSpan, scrBase := d.scrBase, codeSpan := d.codeSpan }

/-- A kill of a generation reaches a core. -/
def deliverKill (s : State) (core : Nat) (gen : W32) : State :=
  let s1 := match getDisp s core with
    | some d => if d.gen = gen then setDisp (endDisp s core gen) core (husk d) else s
    | none => s
  { s1 with cmds := s1.cmds.map fun c =>
      if c.stage == .killing && c.gen == gen then
        { c with kill := c.kill.map fun k => { k with cores := k.cores.filter fun x => x != core } }
      else c }

/-- KILL_DELIVER: one that waits at the Crown for its allowance enters the mesh first (R32). -/
def execKillDeliver (core : Nat) (s : State) : Host.Outcome State Fault Refusal :=
  match (s.net ++ s.crown.mc0Wait).find? fun p => match p with | .kill c _ => c == core | _ => false with
  | some (.kill _ g) =>
    match takeNet (passTo s (s.time + mc0Delay s core g)) 0 crownLoc core with
    | some (.kill _ g, s1) => .next (deliverKill s1 core g)
    | _ => .next s
  | _ => .next s

/-- MC0_BROADCAST_ARRIVE: a partition broadcast of a kill reaches a core; it acts on a core that runs the
generation and is discarded elsewhere (R34). That the flit's gang number is the dispatch generation, and the broadcast a
kill, is the model's choice (notes/assumptions/27.md). -/
def execMc0BroadcastArrive (core part : Nat) (gen : W32) (s : State) : Host.Outcome State Fault Refusal :=
  onlyIf (meshOn s && partOfCore s core == some part && s.cmds.any fun c => c.stage == .killing && c.gen == gen && c.part == part) s
    (deliverKill s core gen)

/-- The command is quiescent (R70), a fault of its run that firmware resolves is resolved, and it is its turn among the
cancelled commands of its ring (R80). -/
def quiescent (s : State) (c : Cmd) (k : Kill) : Bool :=
  k.cores.isEmpty && k.piles.isEmpty && !earlierCancel s c &&
    (match k.kind with | .ends _ _ => true | _ => c.faultAt.isNone)

/-- KILL_QUIESCENT. -/
def execKillQuiescent (id : Nat) (s : State) : Host.Outcome State Fault Refusal :=
  match getCmd s id with
  | none => .next s
  | some c =>
    match c.kill with
    | none => .next s
    | some k =>
      if c.stage = .killing ∧ quiescent s c k then
        let s1 := c.gang.foldl (fun t core => if (gangDisp t c core).isSome then endDisp t core c.gen else t) s
        .next (killOutcome s1 c k.kind)
      else .next s

/-- RUN_LIMIT_EXPIRY (R175). -/
def execRunLimitExpiry (id : Nat) (s : State) : Host.Outcome State Fault Refusal :=
  match getCmd s id with
  | none => .next s
  | some c =>
    match progOf s c with
    | none => .next s
    | some p =>
      onlyIf (c.stage == .running && cop c == opRUN && decide (c.dispBead.toNat + p.runLimit ≤ s.bead.count.toNat)) s
        (startKill s id (.ends stOutOfBounds 0) false)

/-- Every core of the gang is blocked, and one waits for a grant or a release (R278). -/
def deadlocked (s : State) (c : Cmd) : Bool :=
  s.crown.dlLimit != 0 && !c.gang.isEmpty &&
    (c.gang.all fun core => (gangDisp s c core).any fun d => d.started && blocked (getCore s core) d) &&
    c.gang.any fun core => (gangDisp s c core).any sendWaits

/-- The time since which every core of the gang has been blocked. -/
def deadSince (s : State) (c : Cmd) : Nat :=
  c.gang.foldl (fun t core => max t ((gangDisp s c core).elim s.time fun d => d.blockedAt.getD s.time)) 0

/-- CREDIT_DEADLOCK: the gang has been blocked for longer than LIMIT. -/
def execCreditDeadlock (id : Nat) (s : State) : Host.Outcome State Fault Refusal :=
  match getCmd s id with
  | none => .next s
  | some c =>
    onlyIf (c.stage == .running && deadlocked s c) s
      (startKill (passTo s (deadSince s c + s.crown.dlLimit * 1000 + 1)) id (.ends stCreditDeadlock 0) false)

/-- The fault has no resolution: the command ends with a status, unless it is cancelled. -/
def faultTerminal (c : Cmd) (status a : Nat) : Cmd :=
  { c with
    faultAt := none
    kill := c.kill.map fun k => match k.kind with | .ends _ _ => k | _ => { k with kind := .ends status a } }

/-- FAULT_RESOLVE: firmware completes a move or backs a lazy range, or makes the fault terminal (R308). -/
def execFaultResolve (id : Nat) (s : State) : Host.Outcome State Fault Refusal :=
  match getCmd s id with
  | none => .next s
  | some c =>
    match c.faultAt with
    | none => .next s
    | some a =>
      if !s.crown.ready || c.stage != .killing then .next s
      else
        let clear := fun (t : State) => modCmd t id fun c => { c with faultAt := none }
        match walk s c.part a with
        | .page _ _ _ => .next (clear s)
        | .moving _ => .next (clear (finishMove s c.part a))
        | .lazy_ _ =>
          match backRange s c.part a with
          | some s1 => .next (clear s1)
          | none => .next (modCmd s id fun c => faultTerminal c stPageFault a)
        | .none_ _ => .next (modCmd s id fun c => faultTerminal c stPageFault a)
        | .bad l => .next (modCmd (ueReport s l 0) id fun c => faultTerminal c stMemUncorrectable l)

/-! ## Digests (R362, R363, R484) -/

/-- The objects whose payloads a command's digest covers, as they stand after its flip. -/
def digestObjs (s : State) (c : Cmd) : List Obj :=
  if cop c = opINIT ∨ cop c = opIMPORT then c.news.flatMap NewState.objs
  else if cop c = opRUN then (groupStreams c).flatMap fun st => (getStream s st).objs.map (objAfter c.gen)
  else if cop c = opEXPORT ∨ cop c = opBIND then (groupStreams c).flatMap fun st => (getStream s st).objs
  else []

/-- The commit digest of a list of objects. -/
def digestOf (s : State) (objs : List Obj) : W64 :=
  let k := digestKey s
  siphash k (objs.flatMap fun o => leN 8 (siphash k (objBytes s o)).toNat)

/-- The position the first stream will hold after the commit. -/
def posAfter (s : State) (c : Cmd) : Nat :=
  if cop c = opRUN then (getStream s (groupFirst c)).position + c.desc.lenC.toNat
  else match c.news with | n :: _ => n.position | [] => 0

/-- The package of the twin: the other half of the pair (R363). -/
def twinPkg (s : State) : Nat := Nat.xor (selfPkg s) 0x8000

/-- The command goes to the commit engine. -/
def accept (s : State) (id : Nat) : State := modCmd s id fun c => { c with stage := .committing }

/-- An event of a mirrored command, on the lowest stream of its group. -/
def twinEvent (s : State) (c : Cmd) (cls : Nat) (d1 : W64) : State :=
  event s crownLoc cls (subjStream (groupFirst c) 0xFF) (match c.digest with | some d => d.toNat | none => 0) d1.toNat

/-- No twin digest: OK and TWIN_LOST. -/
def twinLost (s : State) (c : Cmd) : State := accept (twinEvent s c 0x28 0) c.id

/-- The twin's digest is here. -/
def twinCompare (s : State) (c : Cmd) (d : W64) : State :=
  if c.digest = some d then accept s c.id
  else accept (modCmd (twinEvent s c 0x27 d) c.id fun c => { c with diverged := true }) c.id

/-- A stored twin digest is for the command. -/
def twinKey (s : State) (c : Cmd) (t : TwinDigest) : Bool :=
  t.first == groupFirst c && t.count == groupCount c && t.pos == posAfter s c

/-- The digest of a command has been computed. -/
def digestReady (s : State) (c : Cmd) (d : W64) : State :=
  let c1 := { c with digest := some d, digestDone := true, twinFrom := some s.time }
  let s1 := modCmd s c.id fun _ => c1
  if !exchanges s c then accept s1 c.id
  else if !reachable s (twinPkg s) then twinLost s1 c1
  else
    let s2 := sendCtl s1 (twinPkg s) (.digest (groupFirst c) (groupCount c) (posAfter s c) d)
    match s2.dom.digests.find? (twinKey s c) with
    | some t => twinCompare { s2 with dom := { s2.dom with digests := s2.dom.digests.erase t } } c1 t.d
    | none => s2

/-- DIGEST_COMPUTE. -/
def execDigestCompute (id : Nat) (s : State) : Host.Outcome State Fault Refusal :=
  match getCmd s id with
  | none => .next s
  | some c =>
    if c.stage ≠ .waiting ∨ c.digestDone then .next s
    else
      match (digestObjs s c).findSome? (objBad s) with
      | some pa =>
        .next (accept (modCmd (ueReport s pa 0) id fun c => { c with digestUe := some pa, digestDone := true }) id)
      | none => .next (digestReady ((digestObjs s c).foldl noteObj s) c (digestOf s (digestObjs s c)))

/-- Removes the oldest control message that satisfies a predicate. -/
def takeGot (s : State) (p : Nat × Ctl → Bool) : Option (Nat × Ctl × State) :=
  (s.dom.got.find? p).map fun x => (x.1, x.2, { s with dom := { s.dom with got := removeFirst p s.dom.got } })

/-- TWIN_DIGEST_ARRIVE: the oldest digest that has come from the twin is compared, or kept. -/
def execTwinDigestArrive (s : State) : Host.Outcome State Fault Refusal :=
  match takeGot s fun x => match x.2 with | .digest _ _ _ _ => true | _ => false with
  | some (_, .digest first count pos d, s1) =>
    let t : TwinDigest := { first := first, count := count, pos := pos, d := d, at_ := s.time }
    match s1.cmds.find? fun c => c.stage == .waiting && c.digestDone && twinKey s1 c t with
    | some c => .next (twinCompare s1 c d)
    | none => .next { s1 with dom := { s1.dom with digests := s1.dom.digests ++ [t] } }
  | _ => .next s

/-- TWIN_WAIT_TIMEOUT: WAIT_US has passed, or the twin is gone or unroutable. -/
def execTwinWaitTimeout (id : Nat) (s : State) : Host.Outcome State Fault Refusal :=
  match getCmd s id with
  | none => .next s
  | some c =>
    let late := match c.twinFrom with
      | some t => decide (t + s.dom.waitUs * 1000 ≤ s.time)
      | none => false
    onlyIf (c.stage == .waiting && c.digestDone && (late || !reachable s (twinPkg s))) s (twinLost s c)

/-- TWIN_DIGEST_DISCARD. -/
def execTwinDigestDiscard (s : State) : Host.Outcome State Fault Refusal :=
  .next { s with dom := { s.dom with
    digests := s.dom.digests.filter fun t => decide (s.time < t.at_ + s.dom.waitUs * 1000) } }

/-! ## Step 1: audio (R387, R389, R390) -/

/-- SLIP is set on a port; its event is raised on a transition (R390). `kind` is 0 for an underrun, 1 for an
overrun. -/
def audSlip (s : State) (port stream kind : Nat) : State :=
  let p := getAp s port
  if p.slip then s
  else event (setAp s port { p with slip := true }) nightcapLoc 0x32 (subjKind 4 port) stream kind

/-- Cuts bytes into sample words. -/
def sampleWords (n : Nat) (b : Bytes) : List W32 := (chunks n b.length b).map fun w => BitVec.ofNat 32 (ofLE w)

/-- The port runs and has every slot of the binding (R389). -/
def bindLive (s : State) (b : Bind) : Bool :=
  (getAp s b.port).state == 1 && decide (b.slot + b.chans ≤ (getAp s b.port).slotsM1 + 1)

/-- A stream's samples enter its binding. -/
def handOver (s : State) (st : Nat) (b : Bind) (w : List W32) : State :=
  if !bindLive s b then s
  else
    let free := 8192 * b.chans - b.buf.length
    let s1 := setBind s st (some { b with buf := b.buf ++ w.take free })
    if free < w.length then audSlip s1 b.port st 1 else s1

/-- The samples of the stream of index `i` (R387), read from the staging of `s0`. -/
def audioBytes (s0 : State) (c : Cmd) (p : Prog) (b : Bind) (i : Nat) : Bytes :=
  let steps := c.desc.lenC.toNat
  (List.range steps).flatMap fun t =>
    stageRead s0 c (outBase c + (i * steps + t) * p.outPerStep + b.aoff) (b.frames * b.chans * sampleBytes b.fmt)

/-- The lines of device output that the hand-over cannot read are reported (R288); host output reports its own. -/
def noteSamples (s0 s : State) (c : Cmd) : State :=
  if outDev c && (List.range (groupCount c)).any fun i => (getBind s (groupFirst c + i)).isSome then
    (touched c).foldl (notePiece s0 c) s
  else s

/-- AUDIO_HANDOVER, in step 1 of the commit. A RUN whose publication to the host fails still commits, and all its effects
but that output stand (table *Status codes*), so its samples are handed over (notes/assumptions/33.md). -/
def handOverAll (s0 s : State) (c : Cmd) : State :=
  if cop c ≠ opRUN then s
  else
    match progOf s0 c with
    | none => s
    | some p =>
      (List.range (groupCount c)).foldl (fun t i =>
        let st := groupFirst c + i
        match getBind t st with
        | some b => handOver t st b (sampleWords (sampleBytes b.fmt) (audioBytes s0 c p b i))
        | none => t) (noteSamples s0 s c)

/-! ## Step 2: slots and tables (R62, R115, R132, R133, R200, R210, R239, R297, R320) -/

/-- The history entry of a site report: MAXABS, and the largest and smallest value at an asymmetric site alone (R116). -/
def reportEnt (sites : List Site) (r : SiteReport) : HistEnt :=
  if (sites.getD r.site {}).asym then { maxAbs := r.maxAbs, max := r.max, min := r.min }
  else { maxAbs := r.maxAbs, max := 0, min := 0 }

/-- A site report enters the history and the saturation count of a stream. -/
def addReport (sites : List Site) (s : State) (st : Nat) (r : SiteReport) : State :=
  let x := getStream s st
  let h := (reportEnt sites r :: tget [] x.hist r.site).take 8
  setStream s st { x with
    hist := tput [] x.hist r.site h, satcount := tput 0 x.satcount r.site (min (tget 0 x.satcount r.site + r.sat) 0xFFFFFFFF) }

/-- QUANT_SATURATION: the counts of the sites of a stream that crossed a multiple of their threshold. -/
def satEvents (s : State) (c : Cmd) (sites : List Site) (st : Nat) (old : Tab Nat) : State :=
  (List.range sites.length).foldl (fun t i =>
    let thr := ((sites[i]?).getD {}).satThr
    let n := tget 0 (getStream t st).satcount i
    if thr ≠ 0 ∧ tget 0 old i / thr < n / thr then
      event t crownLoc 0x03 (subjStream st i) (n + c.client * 2 ^ 32) t.bead.count.toNat
    else t) s

/-- The stream table after a RUN, for the stream of index `i`. -/
def runStream (s : State) (c : Cmd) (sites : List Site) (i : Nat) : State :=
  let st := groupFirst c + i
  let x := getStream s st
  let n := c.desc.lenC.toNat
  let s1 := setStream s st { x with
    slip := if c.desc.flags.getLsbD 1 then 0 else x.slip, lastSet := c.desc.set, position := x.position + n, rstep := x.rstep + BitVec.ofNat 64 n, lastBead := s.bead.count
    objs := x.objs.map (objAfter c.gen) }
  let s2 := (c.reports.filter fun r => r.idx == i).foldl (fun t r => addReport sites t st r) s1
  satEvents s2 c sites st x.satcount

/-- A stream's former objects are freed (R200, R297). -/
def freeObjs (s : State) (part st : Nat) : State :=
  let x := getStream s st
  if x.home < 16 then
    let bases := x.objs.map Obj.base
    freeExtents s fun (e : Extent) => e.owner == Owner.state part st && bases.contains e.base
  else s

/-- STATE_INIT and STATE_IMPORT give a stream its new objects. -/
def newStream (part : Nat) (s : State) (n : NewState) : State :=
  let s1 := freeObjs s part n.stream
  let x := getStream s1 n.stream
  setStream s1 n.stream { x with
    objs := n.objs, home := n.pile, position := n.position, rstep := n.rstep, seed := n.seed.getD x.seed
    hist := [], satcount := [], damaged := false, lastBead := s.bead.count, move := none }

/-- The context that STREAM_OPEN binds (R199, R239, R320). -/
def openStream (c : Cmd) (i : Nat) : Stream :=
  { isOpen := true, client := c.client, part := c.part, defaultSet := c.desc.set,
    seed := BitVec.ofNat 256 (fieldLE c.arg (32 * i) 32) }

/-- STREAM_CLOSE frees a context, its objects and its binding (R297, R320, R386). -/
def closeStream (part : Nat) (s : State) (st : Nat) : State :=
  setBind (setStream (freeObjs s part st) st {}) st none

/-- The binding of a table entry, with an empty buffer. -/
def bindOf (r : BindReq) : Option Bind :=
  if r.en then
    some { port := r.port, slot := r.slot, chans := r.chans, fmt := r.fmt, aoff := r.aoff, frames := r.frames,
           prefill := r.prefill }
  else none

/-- Writes a key of a list with rising keys. -/
def keyPut {α : Type} : List (Nat × α) → Nat → α → List (Nat × α)
  | [], k, v => [(k, v)]
  | (j, w) :: t, k, v =>
    if k < j then (k, v) :: (j, w) :: t else if k = j then (k, v) :: t else (j, w) :: keyPut t k v

/-- One segment of a set is written to one core (R191, R321). -/
def loadSeg (w : WSet) (core res code : Nat) (s : State) (g : Seg) : State :=
  let x := getCore s core
  if g.type = 0 then
    setCore s core { x with imem := (List.range (g.length / 8)).foldl (fun m i =>
      keyPut m (code + g.dest + i) (BitVec.ofNat 64 (fieldLE w.image (g.src + 8 * i) 8))) x.imem }
  else setCore s core { x with ls := memPut x.ls (res + g.dest) (slice w.image g.src g.length) }

/-- The code window of a rank is marked invalid. -/
def clearCode (s : State) (core base n : Nat) : State :=
  let x := getCore s core
  setCore s core { x with imem := x.imem.filter fun y => !(decide (base ≤ y.1) && decide (y.1 < base + n)) }

/-- The segments of a rank are written to a core at the rank's windows; a code word no segment covers is marked
invalid (R171). -/
def loadRank (w : WSet) (s : State) (r core : Nat) : State :=
  let code := (w.codeBase[r]?).getD 0
  (w.segs.filter fun g => decide (g.first ≤ r) && decide (r ≤ g.last)).foldl
    (loadSeg w core ((w.resBase[r]?).getD 0) code) (clearCode s core code w.codeSpan)

/-- The set is loaded. -/
def loadSet (s : State) (w : WSet) : State :=
  let s1 := (List.range w.cores.length).foldl (fun t r => loadRank w t r ((w.cores[r]?).getD 0)) s
  { s1 with sets := s1.sets ++ [w] }

/-- The set is evicted. -/
def evictSet (s : State) (part : Nat) (h : W32) : State :=
  match findSet s part h with
  | none => s
  | some w =>
    let s1 := (w.cores.zip w.codeBase).foldl (fun t x => clearCode t x.1 x.2 w.codeSpan) s
    { s1 with sets := s1.sets.filter fun x => !(x.part == part && x.handle == h) }

/-- The commit bead of the last command that committed for its streams (R320). -/
def stampBead (s : State) (c : Cmd) : State :=
  (groupStreams c).foldl (fun t st => setStream t st { getStream t st with lastBead := t.bead.count }) s

/-- Step 2 of the commit, by opcode. -/
def commitTables (s : State) (c : Cmd) : State :=
  let op := cop c
  if op = opRUN then
    let sites := match findSet s c.part c.desc.set with | some w => w.sites | none => []
    (List.range (groupCount c)).foldl (fun t i => runStream t c sites i) s
  else if op = opINIT ∨ op = opIMPORT then c.news.foldl (newStream c.part) s
  else if op = opOPEN then
    (List.range (groupCount c)).foldl (fun t i => setStream t (groupFirst c + i) (openStream c i)) s
  else if op = opCLOSE then (groupStreams c).foldl (closeStream c.part) s
  else if op = opBIND then (bindsOf c).foldl (fun t x => setBind t x.1 (bindOf x.2)) (stampBead s c)
  else if op = opEXPORT then stampBead s c
  else if op = opLOAD then (match c.newSet with | some w => loadSet s w | none => s)
  else if op = opEVICT then evictSet s c.part c.desc.set
  else s

/-! ## Step 3: held messages (R359) -/

/-- A held message for a core of this package. -/
def heldLocal (s : State) (h : Held) : Bool := h.dst / 4096 == selfPkg s
def heldFlits (l : List Held) : Nat := sumN (l.map fun h => flitsOf h.data)

/-- Held messages of accepted commands that have not left: those for a partition's inbox, and those for other
packages. -/
def heldDue (s : State) (c : Cmd) : List Held :=
  (s.cmds.filter fun x => x.stage == .committing && x.pub.isSome && !x.sent && x.id != c.id && x.part == c.part).flatMap
    fun x => x.held.filter (heldLocal s)
def awayDue (s : State) (c : Cmd) : List Held :=
  (s.cmds.filter fun x => x.stage == .committing && x.pub.isSome && !x.sent && x.id != c.id).flatMap fun x =>
    x.held.filter fun h => !heldLocal s h

/-- The inbox and the resend store have room for the held messages. -/
def heldRoom (s : State) (c : Cmd) : Bool :=
  let away := c.held.filter fun h => !heldLocal s h
  decide (inboxFlits s c.part + heldFlits (heldDue s c) + heldFlits (c.held.filter (heldLocal s)) ≤ 65536) &&
    (away.isEmpty ||
      decide (sumN (s.dom.resend.map fun (u : Unacked) => flitsOf u.data) + heldFlits (awayDue s c) + heldFlits away ≤
        262144))

/-- One held message leaves. -/
def sendHeld (c : Cmd) (s : State) (h : Held) : State :=
  if heldLocal s h then
    match inboxPut s c.part (h.dst % 4096) (selfPkg s) h.data with
    | some s1 => s1
    | none => s
  else
    let n := s.dom.ctlSeq
    sendMessage { s with dom := { s.dom with
      ctlSeq := n + 1, resend := s.dom.resend ++
        [{ seq := n, dst := h.dst, data := h.data, firstAt := s.time, sentAt := s.time, cmd := c.id, bead := s.bead.count }] } }
      h.dst n h.data

/-! ## Step 4 (R75, R133, R327) -/

/-- The RUN commits later than its effective bead. -/
def overran (s : State) (c : Cmd) : Bool :=
  cop c == opRUN && c.desc.bead != 0 && decide (c.effBead.toNat < s.bead.count.toNat)

/-- The slip of a stream after an overrun. -/
def slipStream (c : Cmd) (s : State) (st : Nat) : State :=
  let x := getStream s st
  let n := min (s.bead.count.toNat - c.desc.bead.toNat) 0xFFFFFFFF
  let up := n - x.slip
  let s1 := setStream s st { x with slip := n, slipCount := min (x.slipCount + up) 0xFFFFFFFF }
  modAcct s1 c.client fun a => { a with slipBeads := a.slipBeads + BitVec.ofNat 64 up }

/-- OVERRUN. -/
def chargeOverrun (s : State) (c : Cmd) : State :=
  if overran s c then
    modAcct ((groupStreams c).foldl (slipStream c) s) c.client fun a => { a with overruns := a.overruns + 1 }
  else s

/-- The status and address of the completion entry. Where several hold, a line that the digest met comes first (R484), then
a publication that failed (R66, R291), then a refused message (R24), then differing digests (notes/assumptions/30.md). -/
def commitStatus (c : Cmd) : Nat × Nat :=
  let d := match c.digest with | some d => d.toNat | none => 0
  match c.digestUe, c.pub with
  | some pa, _ => (stMemUncorrectable, pa)
  | none, some (some f) => f
  | none, _ => if c.sendRefused then (stOutOfBounds, 0) else if c.diverged then (stDiverged, d) else (stOK, d)

/-! ## The commit engine (R64) -/

/-- Bytes of host output of a command. -/
def hostOut (c : Cmd) : Nat := if usesOut (cop c) && !outDev c then outLen c.desc else 0

/-- The commit engine has one of its 8 places free, and room for the host output within 8 MiB. -/
def engineRoom (s : State) (c : Cmd) : Bool :=
  let l := s.cmds.filter fun x => x.stage == .committing && x.pub.isSome && x.id != c.id
  decide (l.length < 8) && decide (sumN (l.map hostOut) + hostOut c ≤ 8388608)

/-- A command past its commit point for which there is room now. -/
def acceptNow (s : State) (c : Cmd) : Bool := c.stage == .committing && c.pub.isNone && engineRoom s c && heldRoom s c

/-- It is the turn of the command's partition among those with a command to accept (R313). -/
def commitTurn (s : State) (c : Cmd) : Bool :=
  nextInTurn s.crown.commitPart ((s.cmds.filter (acceptNow s)).map Cmd.part) == some c.part

/-- The command is in the commit engine, or is accepted now (R64, R313, R359). -/
def acceptable (s : State) (c : Cmd) : Bool :=
  c.stage == .committing && (c.pub.isSome || (acceptNow s c && commitTurn s c))

/-- Acceptance and step 1, unless they are done: the staging pages are published, and audio samples handed over. -/
def commitPublish (s : State) (c : Cmd) (refused : Option W64) : State × Cmd :=
  if c.pub.isSome then (s, c)
  else
    let r := publish s c refused
    let c1 := { c with pub := some r.2 }
    let s1 := handOverAll s r.1 c
    (modCmd { s1 with crown := { s1.crown with commitPart := c.part } } c.id fun _ => c1, c1)

/-- Steps 2 and 3, unless they are done: slots and tables, then the held messages. -/
def commitSend (s : State) (c : Cmd) : State × Cmd :=
  if c.sent then (s, c)
  else
    let c1 := { c with sent := true }
    (modCmd (c.held.foldl (sendHeld c) (commitTables s c)) c.id fun _ => c1, c1)

/-- Step 4: the command retires with its completion entry. -/
def commitEnd (s : State) (c : Cmd) : State :=
  let st := commitStatus c
  let s1 := retire (chargeOverrun s c) c st.1 st.2 (overran s c) true
  match c.digestUe with
  | some pa => markDamaged s1 pa
  | none => s1

/-- What is left of the commit step (R65). -/
def commitStep (s : State) (c : Cmd) (refused : Option W64) : State :=
  let a := commitPublish s c refused
  let b := commitSend a.1 a.2
  commitEnd b.1 b.2

/-- COMMIT_STEP: what is left of the step, once the command has been accepted. -/
def execCommitStep (id : Nat) (refused : Option W64) (s : State) : Host.Outcome State Fault Refusal :=
  match getCmd s id with
  | none => .next s
  | some c => onlyIf (acceptable s c) s (commitStep s c refused)

/-- No entry of the command's streams is left to flip. -/
def flipped (s : State) (c : Cmd) : Bool :=
  (groupStreams c).all fun st => (getStream s st).objs.all fun o => o.wr.all fun w => w.gen != c.gen

/-- SLOT_FLIP: a flip comes after the command's acceptance and its publication, which it does where they are not done
(R65); with the last one the tables become current and the held messages leave. -/
def execSlotFlip (pile : Nat) (gen : FlipAns) (s : State) : Host.Outcome State Fault Refusal :=
  match s.cmds.find? fun c => cop c == opRUN && c.stage == .committing && c.gen == gen.gen with
  | none => .next s
  | some c =>
    let a := commitPublish s c gen.refused
    let s1 := modHomed a.1 pile (objAfter gen.gen)
    onlyIf (acceptable s c && decide (pile < 16) && (groupStreams c).any fun st => (getStream s st).home == pile) s
      (if flipped s1 a.2 then (commitSend s1 a.2).1 else s1)

end Sys2Proof.Machine
end

