-- ==== Sys2Proof/Machine/Cores.lean ====
section
/-! DEFINITION. Faults in a core and the ranks it holds (R141, R160, R161, R328). -/

namespace Sys2Proof.Machine

open Sys2Proof

/-- Ranks of a set that a core holds. -/
def ranksOn (w : WSet) (core : Nat) : List Nat :=
  (List.range w.cores.length).filter fun r => (w.cores[r]?).getD 0 == core

/-- The ranks on a core that went out of service wait for the placer (R328). -/
def loseRanks (now core : Nat) (w : WSet) : WSet :=
  { w with lost := w.lost ++ ((ranksOn w core).filter fun r => !(w.lost.any fun x => x.1 == r)).map fun r => (r, now) }

/-- The ranks on a core that is back in service no longer wait. -/
def regainRanks (core : Nat) (w : WSet) : WSet := { w with lost := w.lost.filter fun y => (w.cores[y.1]?).getD 0 != core }

/-- A core fault (R160): the running command is killed as a loss of a core, the core goes out of service, the event is
raised. -/
def coreFaulted (s : State) (core kind : Nat) (addr : W64) : State :=
  let s1 := match getDisp s core with
    | some d => if genCurrent s d.gen then startKill s d.cmd .counted false else s
    | none => s
  let s2 := setCore s1 core { getCore s1 core with oos := true, fault := some (kind, addr) }
  let s3 := { s2 with
    sets := s2.sets.map (loseRanks s.time core)
    cmds := s2.cmds.map fun c => { c with newSet := c.newSet.map (loseRanks s.time core) } }
  event s3 core 0x04 (subjEndpoint (selfAddr s core)) kind addr.toNat

/-- The core exists and is powered as part of an unfenced die. -/
def coreUp (s : State) (core : Nat) : Bool :=
  decide (core < 2560) && !dieFenced s (dieOf core) && !s.pwr.coresOff.contains (groupOf core)

/-- CORE_SCRUB: a word of memory `mem` is clean (kind 0), has one bad bit (1), or more (2). -/
def execCoreScrub (core mem word kind : Nat) (s : State) : Host.Outcome State Fault Refusal :=
  if !coreUp s core || decide (2 < mem) then .next s
  else if kind = 1 then .next (setCore s core { getCore s core with ceCount := min ((getCore s core).ceCount + 1) 0xFFFF })
  else if kind = 2 then .next (coreFaulted s core 0 (BitVec.ofNat 64 word))
  else .next s

/-- CORE_FAULT: kinds 0 memory, 1 vector residue, 2 matrix residue, 3 carry residue. -/
def execCoreFault (core kind : Nat) (addr : W64) (s : State) : Host.Outcome State Fault Refusal :=
  onlyIf (coreUp s core && decide (kind < 4)) s (coreFaulted s core kind addr)

/-- Every rank a core holds is written again from the image copy of its set. -/
def rewriteCore (s : State) (core : Nat) : State :=
  s.sets.foldl (fun t w => (ranksOn w core).foldl (fun u r => loadRank w u r core) t) s

/-- CORE_RESTORE: once the core's run is over, firmware rewrites the core's share of its sets or substitutes a lane,
and returns the core if the test passes (R161). -/
def execCoreRestore (core : Nat) (pass : Bool) (s : State) : Host.Outcome State Fault Refusal :=
  let x := getCore s core
  match x.fault with
  | none => .next s
  | some (kind, _) =>
    if !s.crown.ready || x.disp.isSome then .next s
    else
      let s1 := if kind = 0 then rewriteCore s core
        else if kind = 1 ∧ sparesUsed s core < 4 then setCore s core { x with spares := x.spares + 1 } else s
      let good := pass && (kind == 0 || (kind == 1 && decide (sparesUsed s core < 4)))
      let s2 := setCore s1 core { getCore s1 core with oos := !good, fault := none }
      .next (if good then
          { s2 with
            sets := s2.sets.map (regainRanks core), cmds := s2.cmds.map fun c => { c with newSet := c.newSet.map (regainRanks core) } }
        else s2)

/-- Nothing in use on the core overlaps the windows of a rank. -/
def rankFits (s : State) (w : WSet) (r core : Nat) : Bool :=
  ((lsUsed s core).all fun x => !overlap ((w.resBase[r]?).getD 0) w.resSpan x.1 x.2) &&
    ((codeUsed s core).all fun x => !overlap ((w.codeBase[r]?).getD 0) w.codeSpan x.1 x.2)

/-- The core that takes a rank (R328). -/
def relocTarget (s : State) (w : WSet) (r : Nat) : Option Nat := (coresInOrder s w.part).find? (rankFits s w r)

/-- RANK_RELOCATE. -/
def execRankRelocate (part : Nat) (handle : W32) (rank : Nat) (s : State) : Host.Outcome State Fault Refusal :=
  match findSet s part handle with
  | none => .next s
  | some w =>
    match relocTarget s w rank with
    | none => .next s
    | some core =>
      if !placerUp s || !(w.lost.any fun x => x.1 == rank) then .next s
      else
        let old := (w.cores[rank]?).getD 0
        let w1 := { w with cores := w.cores.set rank core, lost := w.lost.filter fun x => x.1 != rank }
        let s1 := clearCode s old ((w.codeBase[rank]?).getD 0) w.codeSpan
        let s2 := { s1 with sets := s1.sets.map fun x => if x.part == part && x.handle == handle then w1 else x }
        .next (loadRank w1 s2 rank core)

/-- SET_LOST: a rank unplaced 100 ms after its core's fault, with no core to take it. -/
def execSetLost (part : Nat) (handle : W32) (s : State) : Host.Outcome State Fault Refusal :=
  match findSet s part handle with
  | none => .next s
  | some w =>
    let names := fun (c : Cmd) => c.part == part && usesSet (cop c) && c.desc.set == handle
    let due := w.lost.any fun x => decide (x.2 + 100000000 ≤ s.time) && (relocTarget s w x.1).isNone
    if !s.crown.ready || !due || s.cmds.any fun c => names c && c.stage != .queued then .next s
    else
      let s1 := event (evictSet s part handle) crownLoc 0x05 (subjKind 9 part) handle.toNat 0
      .next ((s.cmds.filter names).foldl (fun t c =>
        match getCmd t c.id with
        | some c1 => complete t c1 stOutOfBounds 0
        | none => t) s1)

end Sys2Proof.Machine
end

