-- ==== Sys2Proof/Machine/Piles.lean ====
section
/-! DEFINITION. What the pile base dies do: line reads and writes, scrub, repair, refresh, the version directory
(R256, R281 to R295). -/

namespace Sys2Proof.Machine

open Sys2Proof

/-! ## Serving a line (R282, R284, R288) -/

/-- Reads a line with the errors `e1` of this read on top of those it holds, and once more with `e2` if that is
uncorrectable: the flips left in the data and the symbols corrected; none if it stays uncorrectable. -/
def serveLine (s : State) (line : Nat) (e1 e2 : ErrPat) : Option (ErrPat × List Nat) :=
  match decodeLine s line (errXor (lineErrs s line) e1) with
  | some r => some r
  | none => decodeLine s line (errXor (lineErrs s line) e2)

/-- A line of a pile that was read is counted as corrected or not (R288). -/
def countCe (s : State) (pa : Nat) (fixed : List Nat) (again : Bool) : State :=
  bumpCe s (pa / 2 ^ 36) (b2n (fixed != [] || again))

/-- The first of the two reads of a line is uncorrectable. -/
def readTwice (s : State) (line : Nat) (e1 : ErrPat) : Bool := (decodeLine s line (errXor (lineErrs s line) e1)).isNone

/-- Bytes at `pa` within one line, with flips left by the decoder. -/
def lineData (s : State) (pa n : Nat) (r : ErrPat) : Bytes :=
  (List.range n).map fun i => tget 0 s.pile.mem (pa + i) ^^^ flipByte r ((pa + i) % 64)

/-- The next line piece of a transfer of a current dispatch, and what follows it. -/
structure LineJob where
  d : Disp
  c : Cmd
  x : Xfer
  pa : Nat
  n : Nat
  rest : List (Nat × Nat)
deriving DecidableEq, Repr

def lineJob (s : State) (core xid : Nat) (write : Bool) : Option LineJob :=
  match getDisp s core with
  | none => none
  | some d =>
    match getCmd s d.cmd, d.xfers.find? fun x => x.xid == xid && x.write == write with
    | some c, some x =>
      match x.stat with
      | .lines (p :: t) =>
        if d.started && meshOn s && genCurrent s d.gen && c.gen == d.gen then
          some { d := d, c := c, x := x, pa := p.1, n := p.2, rest := t }
        else none
      | _ => none
    | _, _ => none

/-- How the transfer stands once the piece is served. -/
def restStat (l : List (Nat × Nat)) : XStat := if l.isEmpty then .served else .lines l

/-- The dispatch with a changed transfer goes back to its core as it now is. -/
def putXfer (s : State) (core : Nat) (x : Xfer) : State :=
  match getDisp s core with
  | some d => setDisp s core (setXfer d x)
  | none => s

/-- The transfer reaches a non-current slot that the dispatch has not written (R197). -/
def slotUnwritten (s : State) (g : W32) (x : Xfer) : Option (Nat × Nat × Nat × Obj) :=
  match x.entry with
  | some (st, ob, en, true) =>
    match (getStream s st).objs[ob]? with
    | some o => if o.wr.any fun w => w.entry == en && w.gen == g then none else some (st, ob, en, o)
    | none => none
  | _ => none

/-- PILE_READ. -/
def execPileRead (core xid : Nat) (e1 e2 : ErrPat) (s : State) : Host.Outcome State Fault Refusal :=
  match lineJob s core xid false with
  | none => .next s
  | some j =>
    let line := j.pa / 64 * 64
    if !paOk s j.pa then .fault (.noSuchLine j.pa)
    else
      match serveLine s line e1 e2 with
      | none => .next (putXfer (ueReport s line 0) core { j.x with stat := .badLine line })
      | some (r, fixed) =>
        let s1 := countCe s j.pa fixed (readTwice s line e1)
        let b := if (slotUnwritten s j.d.gen j.x).isSome then freeBytes s.free j.n else lineData s j.pa j.n r
        .next (nextFree (putXfer s1 core { j.x with data := j.x.data ++ b, stat := restStat j.rest }))

/-- An earlier write of the same queue still has a piece for the channel of this one (R256). -/
def channelBusy (j : LineJob) : Bool :=
  j.d.xfers.any fun y =>
    y.queue == j.x.queue && y.write && decide (y.xid < j.x.xid) &&
      (match y.stat with
       | .lines l => l.any fun q => q.1 / 2 ^ 36 == j.pa / 2 ^ 36 && channelOf q.1 == channelOf j.pa
       | _ => false)

/-- The first write of an entry by a dispatch sets its written bit (R295); what it does not write is undefined (R198). -/
def markWritten (s : State) (g : W32) (x : Xfer) : State :=
  match slotUnwritten s g x with
  | none => s
  | some (st, ob, en, o) =>
    let s1 := pmFree s (slotPa o en (1 - curSlot o en)) o.espan
    let y := getStream s1 st
    setStream s1 st { y with objs := y.objs.set ob { o with wr := o.wr ++ [{ entry := en, gen := g }] } }

/-- The staging page a write falls in. -/
def pieceOf (c : Cmd) (pa : Nat) : Option StagePage :=
  (stagePieces c).find? fun (p : StagePage) => decide (p.pa ≤ pa) && decide (pa < p.pa + p.size)

/-- An uncorrectable line of the target page that the write would copy in. -/
def copyBad (s : State) (c : Cmd) (p : StagePage) : Option Nat :=
  if partly c p && !c.copied.contains p.dva then
    (pageHome s c.part p.dva).bind fun pa => firstBad s pa p.size
  else none

/-- The run has written bytes of the command's host output. -/
def noteWrote (s : State) (j : LineJob) : State :=
  match pieceOf j.c j.pa with
  | some p =>
    if outDev j.c then s
    else modCmd s j.c.id fun c => { c with wrote := c.wrote ++ [(p.dva + (j.pa - p.pa), j.n)] }
  | none => s

/-- The bytes of the piece are written; a piece of a line is merged with what the line holds. -/
def writeLine (s : State) (core : Nat) (j : LineJob) (e1 e2 : ErrPat) : State :=
  let line := j.pa / 64 * 64
  let b := slice j.x.data (j.x.bytes - (j.n + sumN (j.rest.map Prod.snd))) j.n
  let done := { j.x with stat := restStat j.rest }
  if j.n = 64 then putXfer (noteWrote (pmWrite s j.pa b) j) core done
  else
    match serveLine s line e1 e2 with
    | none => putXfer (ueReport s line 0) core { j.x with stat := .badLine line }
    | some (r, fixed) =>
      let old := lineData s line 64 r
      let o := j.pa - line
      putXfer (noteWrote (pmWrite (countCe s j.pa fixed (readTwice s line e1)) line (old.take o ++ b ++ old.drop (o + j.n))) j) core done

/-- PILE_WRITE. -/
def execPileWrite (core xid : Nat) (e1 e2 : ErrPat) (s : State) : Host.Outcome State Fault Refusal :=
  match lineJob s core xid true with
  | none => .next s
  | some j =>
    if !paOk s j.pa then .fault (.noSuchLine j.pa)
    else if channelBusy j then .next s
    else
      match pieceOf j.c j.pa with
      | none => .next (writeLine (markWritten s j.d.gen j.x) core j e1 e2)
      | some p =>
        match copyBad s j.c p with
        | some l => .next (putXfer (ueReport s l 0) core { j.x with stat := .badLine l })
        | none => .next (writeLine (touchPage s j.c p ((j.pa, j.n) == (p.pa + ((pageCover j.c p).1 - p.dva), (pageCover j.c p).2))) core j e1 e2)

/-! ## Scrub and repair (R283, R285, R287, R290) -/

def pileEvent (s : State) (pile cls d0 d1 : Nat) : State :=
  event s (pileLoc pile) cls (subjEndpoint (selfAddr s (pileLoc pile))) d0 d1

/-- A symbol position of a channel has been corrected in one more line of the pass (R283). -/
def seeSymbol (pile line : Nat) (s : State) (sym : Nat) : State :=
  let p := getPile s pile
  let ch := channelOf line
  if p.erased.contains (ch, sym) || p.symSeen.contains (ch, sym, line) then s
  else
    let seen := p.symSeen ++ [(ch, sym, line)]
    let n := (seen.filter fun x => x.1 == ch && x.2.1 == sym).length
    let s1 := setPile s pile { p with symSeen := seen }
    if n ≠ 16 then s1
    else if (p.erased.filter fun x => x.1 == ch).length < 2 then
      setPile s1 pile { getPile s1 pile with erased := p.erased ++ [(ch, sym)] }
    else pileEvent s1 pile 0x10 ch sym

/-- A repair copies correctable lines corrected (R287): those that `hit` picks lose the errors they hold. -/
def repairLines (s : State) (hit : Nat → Bool) : State :=
  { s with pile := { s.pile with errs := s.pile.errs.filter fun x => !(hit x.1 && correctable s x.1 x.2) } }

/-- A row with corrected errors in two consecutive passes is replaced (R287). -/
def seeRow (pile line : Nat) (s : State) : State :=
  let p := getPile s pile
  let bank := dramBank line
  let row := dramRow line
  let s1 := if p.rowSeen.contains (bank, row) then s else setPile s pile { p with rowSeen := p.rowSeen ++ [(bank, row)] }
  if !p.rowPrev.contains (bank, row) then s1
  else if 32 ≤ tget 0 p.rowsUsed bank then pileEvent s1 pile 0x12 0 line
  else
    let q := getPile s1 pile
    let s2 := setPile s1 pile { q with
      rowsUsed := tput 0 q.rowsUsed bank (tget 0 q.rowsUsed bank + 1)
      rowSeen := q.rowSeen.filter fun x => x != (bank, row)
      rowPrev := q.rowPrev.filter fun x => x != (bank, row) }
    let s3 := { s2 with health := { s2.health with rowFix := s2.health.rowFix ++ [(pile, bank, s2.sec.age)] } }
    pileEvent (repairLines s3 fun l => l / 2 ^ 36 == pile && dramBank l == bank && dramRow l == row) pile 0x11 0 line

/-- A column group with corrected errors in 8 rows of a bank in one pass is replaced (R287). -/
def seeCol (pile line : Nat) (s : State) : State :=
  let p := getPile s pile
  let bank := dramBank line
  let col := dramCol line
  let e := (bank, col, dramRow line)
  let seen := if p.colSeen.contains e then p.colSeen else p.colSeen ++ [e]
  let s1 := setPile s pile { p with colSeen := seen }
  if (seen.filter fun x => x.1 == bank && x.2.1 == col).length < 8 then s1
  else if 8 ≤ tget 0 p.colsUsed bank then pileEvent s1 pile 0x12 1 line
  else
    let q := getPile s1 pile
    let s2 := setPile s1 pile { q with
      colsUsed := tput 0 q.colsUsed bank (tget 0 q.colsUsed bank + 1)
      colSeen := q.colSeen.filter fun x => !(x.1 == bank && x.2.1 == col) }
    let s3 := { s2 with health := { s2.health with colFix := s2.health.colFix ++ [(pile, bank, s2.sec.age)] } }
    pileEvent (repairLines s3 fun l => l / 2 ^ 36 == pile && dramBank l == bank && dramCol l == col) pile 0x11 1 line

/-- Lines of a pile (R279). -/
def pileLines : Nat := pileBytes / 64

/-- The scrub goes on to the next line; after the last a new pass begins. -/
def scrubNext (s : State) (pile : Nat) : State :=
  let p := getPile s pile
  if p.scrubPos + 1 < pileLines then setPile s pile { p with scrubPos := p.scrubPos + 1 }
  else
    setPile s pile { p with
      scrubPos := 0, symSeen := [], rowPrev := p.rowSeen, rowSeen := [], colSeen := [], lastPassCe := p.passCe, passCe := 0 }

/-- The scrub has corrected symbols of a line, or read it twice: it writes it back and counts. -/
def scrubFixed (s : State) (pile line : Nat) (r : ErrPat) (fixed : List Nat) : State :=
  let s1 := pmWrite (bumpCe s pile 1) line (lineData s line 64 r)
  let s2 := setPile s1 pile { getPile s1 pile with passCe := (getPile s1 pile).passCe + 1 }
  seeCol pile line (seeRow pile line (fixed.foldl (seeSymbol pile line) s2))

/-- The scrub reads one line; the symbols it counts are those of the read that decoded. -/
def scrubLine (s : State) (pile line : Nat) (e1 e2 : ErrPat) : State :=
  match serveLine s line e1 e2 with
  | some (r, fixed) => if fixed = [] && !readTwice s line e1 then s else scrubFixed s pile line r fixed
  | none => markDamaged (ueReport s line 1) line

/-- PATROL_SCRUB: the next line of the pile, in which the bits of `upset` have flipped since it was last written. -/
def execPatrolScrub (pile : Nat) (upset e1 e2 : ErrPat) (s : State) : Host.Outcome State Fault Refusal :=
  let p := getPile s pile
  if !(pileOk pile) || pileFenced s pile || !p.scrubEn || p.selfRefresh then .next s
  else
    let line := pile * 2 ^ 36 + 64 * p.scrubPos
    let s1 := { s with pile := { s.pile with errs := tput [] s.pile.errs line (errXor (lineErrs s line) upset) } }
    .next (scrubNext (scrubLine s1 pile line e1 e2) pile)

/-- PILE_REFRESH: a channel whose interval has passed (R286). -/
def execPileRefresh (pile channel : Nat) (s : State) : Host.Outcome State Fault Refusal :=
  let p := getPile s pile
  onlyIf (pileOk pile && decide (channel < 32) && !pileFenced s pile && !p.selfRefresh &&
      decide (tget 0 p.refreshed channel + (if p.hot then 1950 else 3900) ≤ s.time)) s
    (setPile s pile { p with refreshed := tput 0 p.refreshed channel s.time })

/-- DIRECTORY_ECC_ERROR: the word of the directory that holds objects of the streams is reloaded from its copy; if
that cannot be read either, every one of them is damaged (R295). -/
def execDirectoryEccError (pile : Nat) (streams : List Nat) (copyBad : Bool) (s : State) :
    Host.Outcome State Fault Refusal :=
  onlyIf copyBad s
    ((streams.filter fun st => (getStream s st).home == pile && !(getStream s st).objs.isEmpty).foldl
      (fun t st => setStream t st { getStream t st with damaged := true }) s)

end Sys2Proof.Machine
end

