-- ==== Sys2Proof/Machine/Swap.lean ====
section
/-! DEFINITION. Residency: swapping state to host memory and back, and moving it between piles (R292, R298 to R301,
R323, R324). -/

namespace Sys2Proof.Machine

open Sys2Proof

/-- No command that names the stream is placed, running or committing (R298). -/
def streamQuiet (s : State) (st : Nat) : Bool := s.cmds.all fun c => c.stage == .queued || !namesStream c st

/-- The stream's objects lie in a pile. -/
def homed (s : State) (st : Nat) : Bool := decide ((getStream s st).home < 16)

/-! ## When firmware swaps and moves (R324) -/

/-- A command waits for the stream to be resident: for STATE_INIT, STATE_IMPORT and STREAM_CLOSE a swapped one counts as
resident (R300). -/
def waitsState (c : Cmd) : Bool := cop c != opINIT && cop c != opIMPORT && cop c != opCLOSE

/-- A swapped stream of the command finds no room to come back. -/
def noHome (s : State) (c : Cmd) (st : Nat) : Bool :=
  let x := getStream s st
  x.home == 0x1E && waitsState c && (chooseHome s x.part st x.defaultSet x.objs).isNone

/-- A command the placer could take but for pile room, for its staging pages or for a swapped stream (R324). -/
def roomFails (s : State) (c : Cmd) : Bool :=
  sliceOk s c && ((allowed s c && (stageRoom s c).isNone) || (inLine s c && (groupStreams c).any (noHome s c)))

/-- The streams that firmware may swap out for a command whose reservation fails: of the streams no command names
the one of lowest LAST_BEAD, else those of clients whose slice is not running. -/
def victims (s : State) (c : Cmd) : List Nat :=
  let p := getPart s c.part
  let l := (s.streams.filter fun x =>
    x.2.isOpen && x.2.part == c.part && decide (x.2.home < 16) && x.2.move.isNone && !namesStream c x.1 &&
      streamQuiet s x.1).map Prod.fst
  let idle := l.filter fun st => s.cmds.all fun x => !namesStream x st
  match leastBy (fun st => ((getStream s st).lastBead.toNat, st)) idle with
  | some st => [st]
  | none => l.filter fun st => p.mode && !(p.sliceValid && p.sliceClient == (getStream s st).client)

/-- A swap-out of the stream is requested, or firmware starts one. -/
def swapWanted (s : State) (st : Nat) : Bool :=
  (getStream s st).move == some none || s.cmds.any fun c => roomFails s c && (victims s c).contains st

/-- A move of the stream to the pile is requested, or firmware starts one after a RUN (R324). -/
def moveWanted (s : State) (st pile : Nat) : Bool :=
  let x := getStream s st
  x.move == some (some pile) ||
    (x.move.isNone &&
      (match findSet s x.part x.lastSet with
       | some w =>
         leastBy (fun p => (pileCost w.cores p, homedBytes s p)) (pilesUp s) == some pile &&
           decide (pileCost w.cores pile + w.cores.length ≤ pileCost w.cores x.home)
       | none => false))

/-! ## Swap images (R299, R300) -/

/-- Bytes of a swap image: 64 of header and every entry in object and entry order. -/
def swapBytes (objs : List Obj) : Nat := 64 + sumN (objs.map payBytes)

/-- The image of a stream: the header begins with the SipHash, the rest of it is free (notes/assumptions/18.md). -/
def swapImage (s : State) (objs : List Obj) : Bytes :=
  let body := objs.flatMap (objBytes s)
  leN 8 (siphash (Config.bootKey s.sec.boots) body).toNat ++ freeBytes s.free 56 ++ body

/-- The image is one whose SipHash agrees. -/
def swapGood (s : State) (objs : List Obj) (b : Bytes) : Bool :=
  b.length == swapBytes objs && fieldLE b 0 8 == (siphash (Config.bootKey s.sec.boots) (b.drop 64)).toNat

/-- A place for the image in the partition's swap area. -/
def swapPlace (s : State) (part n : Nat) : Option (Nat × Nat) :=
  match (getPart s part).swap with
  | none => none
  | some (base, size, pasid) =>
    let used := (s.streams.filter fun x => x.2.part == part && x.2.home == 0x1E).map fun x =>
      (x.2.swapAt - base, swapBytes x.2.objs)
    (firstGap used size n 64).map fun o => (base + o, pasid)

/-- A command that waits for the stream has not been allowed without a break since the last boundary (R325). -/
def breakWait (s : State) (st : Nat) : State :=
  { s with cmds := s.cmds.map fun c => if c.stage == .queued && namesStream c st then { c with allowed := false } else c }

/-- The stream's swap or move is over. -/
def endMove (s : State) (st : Nat) : State := breakWait (setStream s st { getStream s st with move := none }) st

/-- The regions of the stream's objects are freed and it is swapped (R299). -/
def swappedOut (s : State) (st at_ : Nat) : State :=
  let x := getStream s st
  let s1 := breakWait (freeObjs s x.part st) st
  setStream s1 st { x with
    home := 0x1E, swapAt := at_, move := none, objs := x.objs.map fun o => { o with base := 0, cur := [], wr := [] } }

/-- SWAP_OUT; `refused` says that the host's IOMMU refused a write. -/
def execSwapOut (stream : Nat) (refused : Bool) (s : State) : Host.Outcome State Fault Refusal :=
  let x := getStream s stream
  if !s.crown.ready || !homed s stream || !streamQuiet s stream || !swapWanted s stream then .next s
  else
    match x.objs.findSome? (objBad s) with
    | some l =>
      let s1 := endMove (ueReport s l 0) stream
      .next (setStream s1 stream { getStream s1 stream with damaged := true })
    | none =>
      match swapPlace s x.part (swapBytes x.objs) with
      | none => .next (endMove s stream)
      | some (a, pasid) =>
        if refused then .next (endMove s stream)
        else
          let s1 := nextFree (dmaWrite (x.objs.foldl noteObj s) (some pasid) a (swapImage s x.objs))
          .next (swappedOut s1 stream a)

/-- The first queued command that names the stream. -/
def waitingFor (s : State) (st : Nat) : Option Cmd := s.cmds.find? fun c => c.stage == .queued && namesStream c st

/-- A swap-in that fails damages the stream; the command waiting for it completes with STATE_DAMAGED (R300). -/
def swapFail (s : State) (st : Nat) : State :=
  let s1 := setStream s st { getStream s st with damaged := true }
  match waitingFor s1 st with
  | some c => if waitsState c then complete s1 c stStateDamaged 0 else s1
  | none => s1

/-- Every entry of the objects is written into slot 0 from consecutive bytes. -/
def putEntries (s : State) : List Obj → Bytes → State
  | [], _ => s
  | o :: t, b =>
    putEntries ((List.range o.entries).foldl (fun u e => putSlot u o e 0 (slice b (e * o.bytes) o.bytes)) s) t
      (b.drop (payBytes o))

/-- The image is read from the partition's swap area (R299, R369). -/
def swapRead (s : State) (x : Stream) : State :=
  match (getPart s x.part).swap with
  | some (_, _, pasid) => dmaRead s (some pasid) x.swapAt (swapBytes x.objs)
  | none => s

/-- SWAP_IN: `img` is what the host answers to the read of the image. -/
def execSwapIn (stream : Nat) (img : HostAns) (s : State) : Host.Outcome State Fault Refusal :=
  let x := getStream s stream
  if !s.crown.ready || x.home != 0x1E then .next s
  else
    match chooseHome s x.part stream x.defaultSet x.objs with
    | none => .next s
    | some p =>
      let s1 := swapRead s x
      match img with
      | .refused _ => .next (swapFail s1 stream)
      | .data b =>
        if !swapGood s1 x.objs b then .next (swapFail s1 stream)
        else
          match placeObjs s1 p x.part stream x.objs with
          | none => .next s1
          | some (o, s2) => .next (setStream (putEntries s2 o (b.drop 64)) stream { x with objs := o, home := p, swapAt := 0 })

/-! ## Moves (R301) -/

/-- The broadcast of a move of the stream is under way. -/
def moveSent (s : State) (st : Nat) : Bool :=
  (s.net ++ s.crown.mc0Wait).any fun p => match p with | .home _ x _ => x == st | _ => false

/-- STATE_MOVE: the current slots are copied, the new directory entries built, and the broadcast sent. -/
def execStateMove (stream pile : Nat) (s : State) : Host.Outcome State Fault Refusal :=
  let x := getStream s stream
  if !s.crown.ready || !homed s stream || pileFenced s pile || 16 ≤ pile || x.home == pile || !streamQuiet s stream ||
      moveSent s stream || !moveWanted s stream pile then .next s
  else
    match x.objs.findSome? (objBad s) with
    | some l =>
      let s1 := endMove (ueReport s l 0) stream
      .next (setStream s1 stream { getStream s1 stream with damaged := true })
    | none =>
      if !objsFit s pile x.part stream x.objs then .next (endMove s stream)
      else
        match placeObjs s pile x.part stream x.objs with
        | none => .next (endMove s stream)
        | some (o, s1) =>
          let new := o.map fun y => { y with cur := [], wr := [] }
          let s2 := putEntries (x.objs.foldl noteObj s1) new (x.objs.flatMap (objBytes s))
          let s3 := setStream s2 stream { x with objs := new, home := pile, move := some (some pile), was := some (x.home, x.objs) }
          .next (sendNet s3 (.home (List.range 2560) stream x.home))

/-- Bases of regions in use or reserved: a finished move frees none of them. -/
def basesInUse (s : State) (st : Nat) : List Nat :=
  (getStream s st).objs.map Obj.base ++ s.cmds.flatMap fun c => c.news.flatMap fun n => n.objs.map Obj.base

/-- The last stream unit has the new home: the old regions are freed. -/
def moveDone (s : State) (st old : Nat) : State :=
  let keep := basesInUse s st
  let s1 := freeExtents s fun (e : Extent) =>
    (match e.owner with | .state _ x => x == st | _ => false) && e.base / 2 ^ 36 == old && !keep.contains e.base
  breakWait (setStream s1 st { getStream s1 st with move := none, was := none }) st

/-- A move whose broadcast a firmware restart interrupts is to start again from the beginning: the stream is where it was
before, the new regions are free and the request stands (R301). -/
def undoMove (s : State) (st : Nat) : State :=
  let x := getStream s st
  match x.was with
  | none => s
  | some (home, objs) =>
    let s1 := setStream (freeObjs s x.part st) st { x with home := home, objs := objs, was := none }
    let keep := fun (p : Packet) => match p with | .home _ y _ => y != st | _ => true
    { s1 with net := s1.net.filter keep, crown := { s1.crown with mc0Wait := s1.crown.mc0Wait.filter keep } }
def undoMoves (s : State) : State := (s.streams.map Prod.fst).foldl undoMove s

/-- HOME_TABLE_UPDATE: the oldest broadcast that has not reached the core's stream unit does. -/
def execHomeTableUpdate (core : Nat) (s : State) : Host.Outcome State Fault Refusal :=
  match takeNet s 0 crownLoc core with
  | some (.home left st old, s1) =>
    let rest := left.filter fun c => c != core
    if rest.isEmpty then .next (moveDone s1 st old)
    else
      .next { s with net := s.net.map fun p =>
        match p with
        | .home l x o => if l.contains core && x == st && o == old then .home rest st old else p
        | _ => p }
  | _ => .next s

end Sys2Proof.Machine
end

