-- ==== Sys2Proof/Machine/Trans.lean ====
section
/-! DEFINITION. TLBs and invalidations (R305, R306), the CXL.mem window (R310 to R312, R370), and the registers of
partitions and clients (R313 to R316). -/

namespace Sys2Proof.Machine

open Sys2Proof

/-! ## TLBs -/

/-- The TLB of a number: a core's, then those of R305 outside the cores. -/
def getTlb (s : State) (n : Nat) : List TlbEnt := if n < 2560 then (getCore s n).tlb else tget [] s.dieTlb (n - 2560)
def setTlb (s : State) (n : Nat) (l : List TlbEnt) : State :=
  if n < 2560 then setCore s n { getCore s n with tlb := l } else { s with dieTlb := tput [] s.dieTlb (n - 2560) l }

/-- The set of a TLB that holds a page: a core's has one set of 64, any other 512 sets of 8 ways (R305). -/
def setIndex (n : Nat) (e : TlbEnt) : Nat := if n < 2560 then 0 else Config.tlbSet e.part e.dva % 512
def tlbWays (n : Nat) : Nat := if n < 2560 then 64 else 8

/-- A translation enters its set; a full set loses an entry nobody can foretell (notes/assumptions/12.md). -/
def fillTlb (s : State) (n : Nat) (e : TlbEnt) : State :=
  let l := getTlb s n
  let set := l.filter fun x => setIndex n x == setIndex n e
  if set.length < tlbWays n then setTlb s n (l ++ [e])
  else
    match set[Config.freeNat s.free % set.length]? with
    | some x => nextFree (setTlb s n (l.erase x ++ [e]))
    | none => s

/-- The entry of a page that a walk finds. -/
def walkEnt (s : State) (part dva : Nat) : Option TlbEnt :=
  match walk s part dva with
  | .page pa sz w => some { part := part, dva := dva / sz * sz, size := sz, pa := pa - dva % sz, w := w }
  | _ => none

/-- A TLB outside the cores misses and walks. -/
def missDie (s : State) (n part dva : Nat) : State :=
  if (tlbHit (getTlb s n) part dva).isSome then s
  else match walkEnt s part dva with | some e => fillTlb s n e | none => s

/-- TLB_WALK: a core's miss is looked up in its die's TLB, and walks if that misses too. -/
def execTlbWalk (tlb part : Nat) (dva : W64) (s : State) : Host.Outcome State Fault Refusal :=
  let a := dva.toNat
  if 2617 ≤ tlb || (tlbHit (getTlb s tlb) part a).isSome then .next s
  else if 2560 ≤ tlb then .next (missDie s tlb part a)
  else
    let die := 2560 + dieOf tlb
    let s1 := missDie s die part a
    .next (match tlbHit (getTlb s1 die) part a with | some e => fillTlb s1 tlb e | none => s1)

/-- Every acknowledgement of an invalidation has come: the old pages are free, the page that is moved is copied, and the
request that made the change is answered (R306). -/
def invalDone (s : State) (v : Inval) : State :=
  let s1 := freeExtents (match v.moveTo with | some pa => copyPage s v pa | none => s) fun e => v.free.contains e
  match v.chan with
  | some m => endSlow s1 m 0 []
  | none => s1

/-- A TLB forgets a range; with a core's, its die's does, so that no later transfer of the core uses the old entry. -/
def forget (s : State) (tlb : Nat) (v : Inval) : State :=
  let s1 := setTlb s tlb (dropTlb v.part v.dva v.size (getTlb s tlb))
  if tlb < 2560 then
    let d := 2560 + dieOf tlb
    setTlb s1 d (dropTlb v.part v.dva v.size (getTlb s1 d))
  else s1

/-! ## The CXL.mem window -/

def winBase (m : Memwin) : Nat := m.baseHi.toNat * 2 ^ 32 + m.baseLo.toNat * 2 ^ 21
def winSize (m : Memwin) : Nat := m.size2m.toNat * 2 ^ 21
/-- Window accesses are served (R312, R370). -/
def winLive (m : Memwin) : Bool := m.en && m.hdm && m.size2m != 0

/-! ## Moving pages, and invalidations (R306, R311) -/

/-- The window serves part of a range of a partition, so that firmware leaves its pages where they are (R311). -/
def inWindow (s : State) (p dva n : Nat) : Bool :=
  s.memwin.en && s.memwin.part.toNat == p && overlap (winBase s.memwin) (winSize s.memwin) dva n

/-- Firmware moves the page of an address to a pile: it marks the page moving and sends the invalidation; the copy waits
for the last acknowledgement (R306). -/
def startMove (s : State) (p dva pile : Nat) : State :=
  let (e, size, _) := pteAt s p dva
  let base := dva / size * size
  if !s.crown.ready || !partOk p || 2 ^ 48 ≤ dva || 16 ≤ pile || !pteP e || inWindow s p base size then s
  else
    match physAlloc s pile size size (.page p) with
    | none => s
    | some (pa, s1) =>
      let s2 := (leafKeys base size).foldl (fun t k => setPte t p k (mkMoving (pteOf t p k))) s1
      { s2 with inval := s2.inval ++
          [{ part := p, dva := base, size := size, tlbs := List.range 2617, free := [], moveTo := some pa }] }

/-- The oldest invalidation that has not reached the TLB does; what follows the last acknowledgement waits for the
firmware. -/
def invalidate (s : State) (tlb : Nat) : State :=
  match s.inval.find? fun v => v.tlbs.contains tlb with
  | none => s
  | some v =>
    let s1 := forget s tlb v
    let w := { v with tlbs := v.tlbs.filter fun t => t != tlb }
    if !w.tlbs.isEmpty then { s1 with inval := s1.inval.map fun x => if x == v then w else x }
    else if s.crown.ready then invalDone { s1 with inval := s1.inval.erase v } w
    else s

/-- TLB_INVALIDATE, after firmware has begun the move of a page where it does so. -/
def execTlbInvalidate (tlb : InvalAns) (s : State) : Host.Outcome State Fault Refusal :=
  .next (invalidate (match tlb.move with | some (p, dva, pile) => startMove s p dva pile | none => s) tlb.tlb)

/-- An access fails: its status bit is set, the first offset latched, the event raised on a transition (R312). -/
def winFail (s : State) (bit off : Nat) : State :=
  let m := s.memwin
  let st := m.status ||| BitVec.ofNat 4 (2 ^ bit)
  let s1 := { s with memwin := { m with status := st, fault := if m.status = 0 then off else m.fault } }
  if st = m.status then s1 else event s1 crownLoc 0x14 (subjKind 5 0) st.toNat off

/-- The translation of a window access through the Crown's TLB. -/
def winTrans (s : State) (off : Nat) : Trans :=
  let p := s.memwin.part.toNat
  let a := winBase s.memwin + off
  match tlbHit (tget [] s.dieTlb 56) p a with
  | some e => .page (e.pa + (a - e.dva)) e.size e.w
  | none => walk s p a

def ones64 : Bytes := List.replicate 64 0xFF
def setLine (s : State) (b : Bytes) : State := { s with io := { s.io with line := b } }

/-- A read of a line of the window. -/
def winRead64 (s : State) (off : Nat) : State :=
  if !winLive s.memwin then setLine s ones64
  else if winSize s.memwin ≤ off then setLine (winFail s 0 off) ones64
  else
    match winTrans s off with
    | .page pa _ _ =>
      if lineBad s pa then setLine (winFail (ueReport s pa 0) 3 off) ones64
      else setLine (noteRead s pa 64) (pmRead s pa 64)
    | .bad l => setLine (winFail (ueReport s l 0) 3 off) ones64
    | _ => setLine (winFail s 1 off) ones64

/-- A write of a line of the window. -/
def winWrite64 (s : State) (off : Nat) (b : Bytes) : State :=
  if !winLive s.memwin then s
  else if winSize s.memwin ≤ off then winFail s 0 off
  else
    match winTrans s off with
    | .page pa _ w =>
      if !w then winFail s 2 off
      else if lineBad s pa then winFail (ueReport s pa 0) 3 off
      else pmWrite s pa (slice b 0 64)
    | .bad l => winFail (ueReport s l 0) 3 off
    | _ => winFail s 1 off

/-- CXLMEM_READ. -/
def execCxlmemRead (off : Nat) (s : State) : Host.Outcome State Fault Refusal :=
  .next (hostAccess s fun s => winRead64 s (off / 64 * 64))
/-- CXLMEM_WRITE. -/
def execCxlmemWrite (off : Nat) (data : Bytes) (s : State) : Host.Outcome State Fault Refusal :=
  .next (hostAccess s fun s => winWrite64 s (off / 64 * 64) data)

/-- A write of CRN_MEMWIN_CTRL (R312). -/
def memwinCtrl (s : State) (v : W32) : State :=
  let m := s.memwin
  let part := bits v.toNat 19 16
  let n := bits v.toNat 15 0
  let m1 := { m with part := BitVec.ofNat 4 part, size2m := BitVec.ofNat 16 n }
  let ok := (getPart s part).en && decide (n ≤ 32768) && decide (winBase m + n * 2 ^ 21 ≤ 2 ^ 48)
  if m.en then (if v.getLsbD 31 then s else { s with memwin := { m1 with en := false } })
  else { s with memwin := { m1 with en := v.getLsbD 31 && ok } }

/-- A write of CRN_MEMWIN_BASE_LO or _HI. -/
def memwinBase (s : State) (hi : Bool) (v : W32) : State :=
  let m := s.memwin
  if m.en then s
  else if hi then { s with memwin := { m with baseHi := BitVec.ofNat 16 (bits v.toNat 15 0) } }
  else { s with memwin := { m with baseLo := BitVec.ofNat 11 (bits v.toNat 31 21) } }

/-- MEMWIN_CTRL_WRITE. -/
def execMemwinCtrlWrite (v : W32) (s : State) : Host.Outcome State Fault Refusal := .next (hostAccess s fun s => memwinCtrl s v)
/-- MEMWIN_BASE_WRITE. -/
def execMemwinBaseWrite (hi : Bool) (v : W32) (s : State) : Host.Outcome State Fault Refusal :=
  .next (hostAccess s fun s => memwinBase s hi v)

/-! ## Partitions and clients -/

/-- The register write is rejected (R314). -/
def partReject (s : State) (n : Nat) : State := setPart s n { getPart s n with reject := true }

/-- A die may join the partition. -/
def dieJoins (s : State) (n d : Nat) : Bool :=
  !dieFenced s d && ((List.range 16).all fun p => p == n || !partHasDie s p d)
/-- A core of the die holds a rank of a loaded set. -/
def dieHolds (s : State) (d : Nat) : Bool := (allSets s).any fun w => w.cores.any fun c => dieOf c == d

/-- A write of CRN_PART_DIES_LOn or _HIn. -/
def partDies (s : State) (n : Nat) (hi : Bool) (v : W32) : State :=
  let p := getPart s n
  let p1 := if hi then { p with diesHi := v.setWidth 8 } else { p with diesLo := v }
  let t := setPart s n p1
  let bad := (List.range 40).any fun d =>
    (partHasDie t n d && !partHasDie s n d && !dieJoins s n d) || (!partHasDie t n d && partHasDie s n d && dieHolds s d)
  if bad then partReject s n else t

/-- A write of CRN_PART_CTRLn. -/
def partCtrl (s : State) (n : Nat) (v : W32) : State :=
  let p := getPart s n
  let en := v.getLsbD 31
  let mode := v.getLsbD 28
  let hold := bits v.toNat 3 0
  let bad := (en && p.diesLo == 0 && p.diesHi == 0) ||
    (p.en && !en && s.clients.any fun (x : Nat × Client) => x.2.reg && x.2.part == n) ||
    (p.en && (mode != p.mode || hold != p.hold))
  if bad then partReject s n else setPart s n { p with en := en, mode := mode, hold := hold }

/-- A write of CRN_PART_QUOTAn. -/
def partQuota (s : State) (n : Nat) (v : W32) : State :=
  setPart s n { getPart s n with quota := min (bits v.toNat 9 0) 768 }

/-- A write of CRN_CLIENT_SCHEDc (R316). -/
def clientSched (s : State) (c : Nat) (v : W32) : State :=
  let x := getSched s c
  setSched s c {
    weight := max (bits v.toNat 31 28) 1, slice := min (max (bits v.toNat 24 12) 1) 4096,
    part := if (getClient s c).reg then x.part else bits v.toNat 3 0 }

/-- PART_DIES_WRITE. -/
def execPartDiesWrite (n : Nat) (hi : Bool) (v : W32) (s : State) : Host.Outcome State Fault Refusal :=
  .next (hostAccess s fun s => if partOk n then partDies s n hi v else s)
/-- PART_CTRL_WRITE. -/
def execPartCtrlWrite (n : Nat) (v : W32) (s : State) : Host.Outcome State Fault Refusal :=
  .next (hostAccess s fun s => if partOk n then partCtrl s n v else s)
/-- PART_QUOTA_WRITE. -/
def execPartQuotaWrite (n : Nat) (v : W32) (s : State) : Host.Outcome State Fault Refusal :=
  .next (hostAccess s fun s => if partOk n then partQuota s n v else s)
/-- CLIENT_SCHED_WRITE. -/
def execClientSchedWrite (c : Nat) (v : W32) (s : State) : Host.Outcome State Fault Refusal :=
  .next (hostAccess s fun s => if clientOk c then clientSched s c v else s)

end Sys2Proof.Machine
end

