-- ==== Sys2Proof/Machine/Links.lean ====
section
/-! DEFINITION. Floine ports and frames (R335 to R341, R353, R364, R365). -/

namespace Sys2Proof.Machine

open Sys2Proof

/-! ## Ports -/

/-- The link die of a port, and the link pair of the die (R25, R335). -/
def portDie (p : Nat) : Nat := p / 12
def portPair (p : Nat) : Nat := portDie p % 3
/-- The port exists and its link die is not fenced. -/
def portThere (s : State) (p : Nat) : Bool := portOk p && !linkFenced s (portDie p)
/-- The port's power domain is on. -/
def portPowered (s : State) (p : Nat) : Bool := !s.pwr.domOff.contains (15 + portPair p)

/-- The peer as LNK_PORT_STATUSp[22:0] shows it. -/
def peerBits (x : Port) : Nat := x.peerPort * 2 ^ 16 + b2n x.peerPair * 2 ^ 15 + x.peerPkg
/-- The peer as PAIR and PACKAGE. -/
def peerOf (x : Port) : Nat := b2n x.peerPair * 2 ^ 15 + x.peerPkg

/-- The link timestamp, in units of 1/1.6 ns (R338). -/
def linkTime (s : State) : Nat := s.time * 8 / 5

/-- A port as training finds it: every sequence number, credit and buffer as at first (R339, R340). REPLAYS keeps its
count until the port comes up again. -/
def portFresh (x : Port) : Port :=
  { x with
    txSeq := 0, rxSeq := 0xFFFF, lastAck := 0xFFFF, credit0 := 32, credit1 := 1024, credit2 := 1024, ret0 := 0,
    ret1 := 0, ret2 := 0, rx := [], replay := [], resend := [], wantReplay := false, peerReplay := false,
    discarding := false, gapAt := 0, replayRuns := 0, badAt := [], eqOut := [], eqAt := [], eqIn := [], peerTx := none,
    echo := none, routed := false }

/-- A member reports a change of one of its links to the keeper (R345). -/
def reportLink (s : State) (p : Nat) (x : Port) (up : Bool) : State :=
  if !s.dom.inDomain then s
  else if s.dom.keeper then
    { s with dom := { s.dom with got := s.dom.got ++ [(selfPkg s, .link p (peerOf x) x.peerPort up)] } }
  else sendCtl s s.dom.keeperPkg (.link p (peerOf x) x.peerPort up)

/-- The port leaves the up state for a cause of R365; what it replays is discarded. A neighbour with no other link
to this package is reported (R350). -/
def portDrop (s : State) (p cause : Nat) : State :=
  let x := getPort s p
  let s1 := setPort s p { portFresh x with state := 0, wentDown := true, trainAt := s.time + 1000000000 }
  let s2 := event s1 (3856 + portDie p) 0x21 (subjKind 3 p) (peerBits x) cause
  let other := (List.range 72).any fun q => q != p && (getPort s q).state == 2 && peerOf (getPort s q) == peerOf x
  let s3 := if s.dom.inDomain && s.dom.roster.contains (peerOf x) && !other then
      event s2 crownLoc 0x22 (subjEndpoint (peerOf x * 4096 + crownLoc)) p 0 else s2
  reportLink s3 p x false

/-- The external reference is lost: the PLLs go to the internal oscillator and every port that is up goes down (R441). -/
def refLoss (s : State) : State :=
  if s.rst.step < 2 || s.pwr.onOsc then s
  else
    let s1 := { s with pwr := { s.pwr with refLost := true, onOsc := true } }
    let s2 := (List.range 72).foldl (fun t q => if (getPort t q).state = 2 then portDrop t q 0 else t) s1
    event s2 nightcapLoc 0x33 (subjKind 8 0) s.rst.clksel.toNat 0

/-- A port goes down; with port 0 goes the reference that is recovered from it (R441). -/
def portFalls (s : State) (p cause : Nat) : State :=
  let t := portDrop s p cause
  if p = 0 ∧ s.rst.clksel = 2 then refLoss t else t

/-- A write of LNK_PORT_CTRLp (R365, R432, R433). -/
def portCtrl (s : State) (p : Nat) (v : W32) : State :=
  if !portThere s p then s
  else
    let x := getPort s p
    let en := v.getLsbD 31
    let med := bits v.toNat 1 0
    let y := { x with adapt := v.getLsbD 8, medium := if x.en || decide (2 ≤ med) then x.medium else BitVec.ofNat 2 med }
    let k := portPair p
    if en && !x.en then
      let s1 := setPort s p { y with en := true, state := 1, trainAt := s.time }
      { s1 with pwr := { s1.pwr with
          domOff := s1.pwr.domOff.filter fun d => d != 15 + k || s1.pwr.shut.contains d
          pairOffAt := tput 0 s1.pwr.pairOffAt k 0 } }
    else if !en && x.en then
      let s1 := setPort s p { y with en := false }
      let s2 := if x.state = 2 then portFalls s1 p 3 else setPort s1 p { y with en := false, state := 0 }
      if pairEn s2 k then s2
      else { s2 with pwr := { s2.pwr with pairOffAt := tput 0 s2.pwr.pairOffAt k (s.time + 10000000) } }
    else setPort s p y

/-- PORT_CTRL_WRITE. -/
def execPortCtrlWrite (p : Nat) (v : W32) (s : State) : Host.Outcome State Fault Refusal :=
  .next (hostAccess s fun s => portCtrl s p v)

/-- The boot ROM is trying the peer source, and asks for the image once port 0 is up (R402). -/
def romPeer (s : State) : Bool := match s.sec.rom with | .trying 2 _ => true | _ => false

/-- PORT_TRAINING: an enabled port that is not up tries; with a round trip above 3.0 µs it fails (R339, R365). -/
def execPortTraining (p : Nat) (a : TrainAns) (s : State) : Host.Outcome State Fault Refusal :=
  let x := getPort s p
  if !portThere s p || !portPowered s p || !x.en || x.state == 2 || s.rst.step < 6 || s.time < x.trainAt then .next s
  else
    let again := s.time + 1000000000
    if !a.locked || s.pwr.onOsc then .next (setPort s p { x with state := 1, trainAt := again })
    else
      let y := { portFresh x with
        rttNs := a.rttNs, delayNs := a.rttNs / 2, peerPort := a.peerPort, peerPair := a.peerPair, peerPkg := a.peerPkg }
      if 3000 < a.rttNs then .next (setPort s p { y with state := 3, trainAt := again })
      else
        let s1 := event (setPort s p { y with state := 2, replays := 0 }) (3856 + portDie p) 0x20 (subjKind 3 p) (peerBits y) 0
        let s2 := if p = 0 ∧ romPeer s then sendCtl s1 (nearby 0) .bootFetch else s1
        let s3 := if s.dom.inDomain then sendCtl s2 (nearby p) (.neighbour (selfPkg s)) else s2
        .next (reportLink s3 p y true)

/-- The port goes down for a cause (R365): 0 loss of signal or alignment for 10 µs, 1 eight replays of one frame, 2 sixteen
uncorrectable codewords within 1 ms. -/
def fallsFor (s : State) (x : Port) (cause : Nat) : Bool :=
  cause == 0 || (cause == 1 && decide (8 ≤ x.replayRuns)) ||
    (cause == 2 && decide (16 ≤ (x.badAt.filter fun t => decide (s.time < t + 1000000)).length))

/-- PORT_DOWN. -/
def execPortDown (p cause : Nat) (s : State) : Host.Outcome State Fault Refusal :=
  onlyIf (portThere s p && (getPort s p).state == 2 && fallsFor s (getPort s p) cause) s (portFalls s p cause)

/-! ## Frames (R337 to R341) -/

/-- Moves up to `n` flits from a class's queue, within its credits: the flits and what is left. -/
def takeFlits (n credit : Nat) (q : List Flit) : List Flit × List Flit := (q.take (min n credit), q.drop (min n credit))

/-- The slots of the next frame: FL0 first, then FL1, then FL2 (R341); until the keeper has routed the port FL0 alone, which
carries joins and what the keeper sends (R365). -/
def fillSlots (x : Port) : List Flit × Port :=
  let n := if x.routed then 23 else 0
  let a := takeFlits 23 x.credit0 x.tx0
  let b := takeFlits (n - a.1.length) x.credit1 x.tx1
  let c := takeFlits (n - a.1.length - b.1.length) x.credit2 x.tx2
  (a.1 ++ b.1 ++ c.1, { x with
    tx0 := a.2, tx1 := b.2, tx2 := c.2, credit0 := x.credit0 - a.1.length, credit1 := x.credit1 - b.1.length,
    credit2 := x.credit2 - c.1.length })

/-- The echo of the peer's last timestamp: with the time it was held (R338). -/
def echoOf (s : State) (x : Port) : W64 :=
  match x.peerTx with
  | some (t, at_) => t + BitVec.ofNat 64 (linkTime s - at_)
  | none => 0

/-- SLOT_CLASS: two bits per slot, 0 for an empty one. -/
def slotClass : List Flit → Nat
  | [] => 0
  | f :: t => (f.cls % 3 + 1) + 4 * slotClass t

/-- The 1,536 bytes of a frame (R338). -/
def frameBytes (f : OutFrame) (ack : W16) (tx echo : W64) : Bytes :=
  let cr := fun (i : Nat) => leN 1 ((f.cr[i]?).getD 0)
  let head := leN 2 f.seq.toNat ++ leN 2 ack.toNat ++ leN 6 (slotClass f.slots) ++ cr 0 ++ cr 1 ++ cr 2 ++
    leN 1 (b2n f.replay) ++ leN 2 0 ++ leN 8 tx.toNat ++ leN 8 echo.toNat ++
    ((List.range 4).flatMap fun i => leN 2 ((f.eq[i]?).getD 0).toNat) ++ zeroBytes 20
  let slots := slice (f.slots.flatMap fun y => slice y.data 0 64) 0 1472
  head ++ leN 4 (crc32c (head ++ slots)).toNat ++ slots

/-- A frame leaves a port, with ACK and the times of this moment. -/
def putFrame (s : State) (p : Nat) (x : Port) (f : OutFrame) : State :=
  wire (setPort s p x) (.frame p (frameBytes f x.rxSeq (BitVec.ofNat 64 (linkTime s)) (echoOf s x)))

/-- A received flit may go on to a port: it is up, and the keeper has routed both ports (R365). -/
def goesOn (s : State) (from_ q : Nat) : Bool := (getPort s q).state == 2 && (getPort s q).routed && (getPort s from_).routed

/-- The credit that a flit's place in the input buffer returns (R340). -/
def creditBack (x : Port) (cls : Nat) : Port :=
  if cls = 0 then { x with ret0 := x.ret0 + 1 }
  else if cls = 1 then { x with ret1 := x.ret1 + 1 }
  else { x with ret2 := x.ret2 + 1 }

/-- What becomes of the flits of a port's input buffers, in the order of each class: one for this package is delivered; one
for another goes on by its route (R344, R345), and waits with those of its class behind it while the port of its route
does not take it; one without a route is lost. `held` are the classes that wait. -/
def drainRx (p : Nat) : List Flit → List Nat → State → State
  | [], _, s => s
  | f :: t, held, s =>
    let keep := setPort s p { getPort s p with rx := (getPort s p).rx ++ [f] }
    let gone := setPort s p (creditBack (getPort s p) f.cls)
    if held.contains f.cls then drainRx p t held keep
    else if f.dst = selfPkg s then drainRx p t held gone
    else
      match tget none s.dom.routes f.dst with
      | none => drainRx p t held gone
      | some q =>
        if goesOn s p q then drainRx p t held (setPort gone q (pushFlit (getPort gone q) f))
        else drainRx p t (f.cls :: held) keep

/-- The flits of a port's input buffers move on. -/
def moveOn (s : State) (p : Nat) : State :=
  drainRx p (getPort s p).rx [] (setPort s p { getPort s p with rx := [] })

/-- The next new frame of a port, and the port after it. -/
def newFrame (x : Port) : OutFrame × Port :=
  let r := fillSlots x
  let c0 := min x.ret0 255
  let c1 := min (x.ret1 / 8) 255
  let c2 := min (x.ret2 / 8) 255
  let f : OutFrame :=
    { seq := x.txSeq, cr := [c0, c1, c2], replay := x.wantReplay, eq := (List.range 4).map fun i => tget 0 x.eqOut i, slots := r.1 }
  (f, { r.2 with
    txSeq := x.txSeq + 1, replay := x.replay ++ [f], ret0 := x.ret0 - c0, ret1 := x.ret1 - 8 * c1, ret2 := x.ret2 - 8 * c2
    wantReplay := false, eqOut := [] })

/-- FRAME_SEND: frames to be replayed go first; a new frame needs room in the replay buffer of 256. -/
def execFrameSend (p : Nat) (s : State) : Host.Outcome State Fault Refusal :=
  if !portThere s p || (getPort s p).state != 2 then .next s
  else
    let s1 := moveOn s p
    let x := getPort s1 p
    match x.resend with
    | f :: t => .next (putFrame s1 p { x with resend := t } f)
    | [] => if 256 ≤ x.replay.length then .next s1 else .next (putFrame s1 p (newFrame x).2 (newFrame x).1)

/-- Frames the peer has acknowledged leave a list. -/
def ackFrames (ack : W16) (l : List OutFrame) : List OutFrame := l.filter fun e => 0x8000 ≤ (ack - e.seq).toNat

/-- More symbols of a codeword are wrong than RS(544,514) corrects (R337). -/
def codewordBad (e : List (Nat × BitVec 10)) : Bool := decide (15 < (e.filter fun x => x.2 != 0).length)

/-- The CRC of a received image agrees. -/
def frameGood (b : Bytes) : Bool :=
  b.length == 1536 && fieldLE b 60 4 == (crc32c (b.take 60 ++ b.drop 64)).toNat

/-- The flits of a received image, with their destinations. -/
def frameFlits (f : FrameIn) : List Flit :=
  let cls := fun (i : Nat) => fieldLE f.image 4 6 / 4 ^ i % 4
  let used := (List.range 23).filter fun i => cls i != 0
  (used.zip f.dsts).map fun x => { cls := cls x.1 - 1, dst := x.2, data := slice f.image (64 + 64 * x.1) 64 }

/-- The peer's requests replace those of their lanes (R364). -/
def takeEq (b : Bytes) (t : Tab W16) : Tab W16 :=
  (List.range 4).foldl (fun t i =>
    let r := BitVec.ofNat 16 (fieldLE b (32 + 2 * i) 2)
    if r = 0 then t else tput 0 t i r) t

/-- An in-order frame is taken: its flits enter the input buffers and move on. -/
def takeFrame (s : State) (p : Nat) (x : Port) (f : FrameIn) : State :=
  let b := f.image
  let ack := BitVec.ofNat 16 (fieldLE b 2 2)
  moveOn (setPort s p { x with
    rxSeq := BitVec.ofNat 16 (fieldLE b 0 2), discarding := false, gapAt := 0, wantReplay := false, lastAck := ack
    replay := ackFrames ack x.replay, resend := ackFrames ack x.resend, peerReplay := x.peerReplay || bitOf (fieldLE b 13 1) 0
    credit0 := min (x.credit0 + fieldLE b 10 1) 32, credit1 := min (x.credit1 + 8 * fieldLE b 11 1) 1024
    credit2 := min (x.credit2 + 8 * fieldLE b 12 1) 1024, rx := x.rx ++ frameFlits f, eqIn := takeEq b x.eqIn
    peerTx := some (BitVec.ofNat 64 (fieldLE b 16 8), linkTime s), echo := some (BitVec.ofNat 64 (fieldLE b 24 8), linkTime s) }) p

/-- A frame is discarded. A replay is asked for when discarding begins, at a frame that is itself bad, and when a replay
has begun again without the frame that is due (R339). -/
def discardFrame (x : Port) (ahead : Nat) : Port :=
  { x with
    wantReplay := x.wantReplay || !x.discarding || ahead == 0 || decide (ahead ≤ x.gapAt), discarding := true, gapAt := ahead }

/-- The port notes uncorrectable codewords. -/
def noteCodewords (now : Nat) (x : Port) (bad : Nat) : Port :=
  if bad = 0 then x
  else { x with
    uncorr := true, badAt := (x.badAt.filter fun t => decide (now < t + 1000000)) ++ List.replicate (min bad 16) now }

/-- FRAME_RECEIVE: a frame that is good and next in order is taken; one received before is dropped; a bad frame or a gap is
discarded (R339). -/
def execFrameReceive (p : Nat) (f : FrameIn) (s : State) : Host.Outcome State Fault Refusal :=
  if !portThere s p || (getPort s p).state != 2 then .next s
  else
    let bad := (f.fec.filter codewordBad).length
    let x := noteCodewords s.time (getPort s p) bad
    let ahead := (BitVec.ofNat 16 (fieldLE f.image 0 2) - x.rxSeq).toNat
    if bad ≠ 0 ∨ !frameGood f.image then .next (setPort s p (discardFrame x 0))
    else if ahead = 1 then .next (takeFrame s p x f)
    else if 0x8000 ≤ ahead ∨ ahead = 0 then .next (setPort s p x)
    else .next (setPort s p (discardFrame x ahead))

/-- FRAME_REPLAY: every frame after ACK is sent again; replays in a row that begin with the same frame are counted (R339,
R365). -/
def execFrameReplay (p : Nat) (s : State) : Host.Outcome State Fault Refusal :=
  let x := getPort s p
  let head := (x.replay.head?.map OutFrame.seq).getD x.txSeq
  onlyIf (portThere s p && x.state == 2 && x.peerReplay) s
    (setPort s p { x with
      peerReplay := false, resend := x.replay, replays := min (x.replays + 1) 0xFFFF, replayHead := head
      replayRuns := if x.replayHead = head ∧ x.replayRuns ≠ 0 then x.replayRuns + 1 else 1 })

/-! ## Equaliser, margin, delay (R353, R364) -/

/-- A request of a lane that has made none for 1 ms goes into the next frame (R364); 0 asks for nothing. -/
def askLane (now : Nat) (x : Port) (l : Nat × W16) : Port :=
  let t := tget 0 x.eqAt l.1
  if l.2 != 0 && (t == 0 || decide (t + 1000000 ≤ now + 1)) then
    { x with eqOut := tput 0 x.eqOut l.1 l.2, eqAt := tput 0 x.eqAt l.1 (now + 1) }
  else x

/-- EQ_ADAPT: requests for the four lanes. -/
def execEqAdapt (p : Nat) (req : List W16) (s : State) : Host.Outcome State Fault Refusal :=
  let x := getPort s p
  onlyIf (portThere s p && x.state == 2 && x.adapt) s
    (setPort s p (((List.range 4).zip req).foldl (askLane s.time) x))

/-- MARGIN_MEASURE: the worst lane's eye height; the least of the day is kept for the trend (R364, R463). -/
def execMarginMeasure (p mv : Nat) (s : State) : Host.Outcome State Fault Refusal :=
  let x := getPort s p
  let m := min mv 255
  let d := tget 0 s.health.dayMin p
  onlyIf (portThere s p && x.state == 2) s
    { setPort s p { x with margin := m } with
      health := { s.health with dayMin := tput 0 s.health.dayMin p (if d = 0 then m + 1 else min d (m + 1)) } }

/-- LINK_DELAY_MEASURE: half the round trip of the last echo. -/
def execLinkDelayMeasure (p : Nat) (s : State) : Host.Outcome State Fault Refusal :=
  let x := getPort s p
  match x.echo with
  | none => .next s
  | some (t, at_) =>
    let rtt := (at_ - t.toNat) * 5 / 8
    onlyIf (portThere s p && x.state == 2) s (setPort s p { x with rttNs := rtt, delayNs := rtt / 2 })

end Sys2Proof.Machine
end

