-- ==== Sys2Proof/Machine/Domain.lean ====
section
/-! DEFINITION. The domain (R343 to R355): control messages, routes, joining and leaving, keepers, time and bead
marks; commit reports (R360, R361) and the registers of announce slots and mirroring. -/

namespace Sys2Proof.Machine

open Sys2Proof

/-! ## Routes (R344, R345) -/

/-- A node of the keeper's spanning tree: its parent, its port towards it, the parent's port towards it. -/
structure TreeEnt where
  node : Nat
  parent : Nat
  up : Nat
  down : Nat
deriving DecidableEq, Repr

/-- The links of a package by its port number, lowest first: its port, the other package, the other port. -/
def linksAt (l : List Edge) (n : Nat) : List (Nat × Nat × Nat) :=
  (List.range 72).flatMap fun p =>
    (l.filter fun e => e.a == n && e.pa == p).map (fun e => (p, e.b, e.pb)) ++
      (l.filter fun e => e.b == n && e.pb == p).map fun e => (p, e.a, e.pa)

/-- Breadth-first from the front of the queue. -/
def bfs (l : List Edge) (root : Nat) : Nat → List Nat → List TreeEnt → List TreeEnt
  | 0, _, t => t
  | _, [], t => t
  | fuel + 1, x :: q, t =>
    let r := (linksAt l x).foldl (fun (acc : List Nat × List TreeEnt) y =>
      if y.2.1 = root ∨ acc.2.any (fun e => e.node == y.2.1) then acc
      else (acc.1 ++ [y.2.1], acc.2 ++ [{ node := y.2.1, parent := x, up := y.2.2, down := y.1 }])) (q, t)
    bfs l root fuel r.1 r.2

/-- The spanning tree of the keeper's graph. -/
def treeOf (l : List Edge) (root : Nat) : List TreeEnt := bfs l root (2 * l.length + 2) [root] []

/-- The entries on the way from a package up to the root. -/
def upPath (t : List TreeEnt) : Nat → Nat → List TreeEnt
  | 0, _ => []
  | fuel + 1, n =>
    match t.find? fun e => e.node == n with
    | some e => e :: upPath t fuel e.parent
    | none => []

/-- The port by which flits of package `a` for package `b` leave: down the tree where `b` lies below `a`, else up. -/
def hop (t : List TreeEnt) (root a b : Nat) : Option Nat :=
  let p := upPath t (t.length + 1) b
  if b ≠ root ∧ p.isEmpty then none
  else
    match p.find? fun e => e.parent == a with
    | some e => some e.down
    | none => (t.find? fun e => e.node == a).map TreeEnt.up

/-- The packages a tree reaches. -/
def reached (t : List TreeEnt) (root : Nat) : List Nat := root :: t.map TreeEnt.node

/-- Writes a route, and with it the keeper has routed the port (R344, R365). -/
def setRoute (s : State) (dst : Nat) (port : Option Nat) : State :=
  let s1 := { s with dom := { s.dom with routes := tput none s.dom.routes dst port } }
  match port with
  | some p => setPort s1 p { getPort s1 p with routed := true }
  | none => s1

/-- A link report changes the keeper's graph. -/
def linkChange (l : List Edge) (src p peer pp : Nat) (up : Bool) : List Edge :=
  let rest := l.filter fun e => !((e.a == src && e.pa == p) || (e.b == src && e.pb == p))
  if up then rest ++ [{ a := src, pa := p, b := peer, pb := pp }] else rest

/-- The ports of a package towards its children in the tree. -/
def childPorts (t : List TreeEnt) (n : Nat) : List Nat := (t.filter fun e => e.parent == n).map TreeEnt.down

/-- A package takes its place in the tree: the ports towards its children. -/
def setTree (s : State) (l : List Nat) : State := { s with dom := { s.dom with children := l } }

/-- The keeper writes its own table and sends every other member its own, with the member's place in the tree. -/
def sendRoutes (s : State) : State :=
  let me := selfPkg s
  let t := treeOf s.dom.edges me
  s.dom.roster.foldl (fun u m =>
    let v := if m = me then setTree u (childPorts t m) else sendCtl u m (.tree (childPorts t m))
    (s.dom.roster.filter fun d => d != m).foldl (fun v d =>
      if m = me then setRoute v d (hop t me m d) else sendCtl v m (.route d (hop t me m d))) v) s

/-! ## Members that go (R349, R350) -/

/-- A command of this package waits for a remote read from a package. -/
def readsFrom (s : State) (c : Cmd) (pkg : Nat) : Bool :=
  c.gang.any fun core => (gangDisp s c core).any fun d => d.reads.any fun r => r.dst / 4096 == pkg

/-- Held messages that a gone member has not acknowledged are dropped, with one event per commit. -/
def dropHeld (s : State) (pkg : Nat) : State :=
  let lost := s.dom.resend.filter fun u => u.dst / 4096 == pkg
  let s1 := { s with dom := { s.dom with resend := s.dom.resend.filter fun u => u.dst / 4096 != pkg } }
  ((lost.map fun u => (u.cmd, u.bead)).eraseDups).foldl (fun t k =>
    event t crownLoc 0x23 (subjEndpoint (pkg * 4096 + crownLoc))
      (sumN ((lost.filter fun u => u.cmd == k.1).map fun u => flitsOf u.data)) k.2.toNat) s1

/-- Running commands that read from a package that has gone end (R358). -/
def cancelReaders (s : State) (pkg : Nat) : State :=
  ((s.cmds.filter fun c => c.stage == .running && readsFrom s c pkg).map Cmd.id).foldl
    (fun t id => startKill t id (.ends stRemoteUnreachable 0) false) s

/-- Queued commands that wait for a commit of a package that has gone end (R361). -/
def endWaiters (s : State) (pkg : Nat) : State :=
  ((s.cmds.filter fun c => c.stage == .queued && c.dep.any fun d => d.pkg == pkg && !d.own && !d.met).map Cmd.id).foldl (fun t id =>
    match getCmd t id with
    | some c => complete t c stRemoteUnreachable 0
    | none => t) s

/-- The neighbour on a port has a number, or 0 outside a domain (table LNK_PORT_STATUSp). -/
def setPeer (s : State) (p pkg : Nat) : State :=
  setPort s p { getPort s p with peerPair := decide (32768 ≤ pkg), peerPkg := pkg % 32768 }

/-- The package is in no table of this one any more. -/
def forgetMember (s : State) (pkg : Nat) : State :=
  let roster := s.dom.roster.filter fun m => m != pkg
  let s1 := (List.range 72).foldl (fun t p =>
    if (getPort t p).state = 2 ∧ peerOf (getPort t p) = pkg then setPeer t p 0 else t) s
  { s1 with dom := { s.dom with
    roster := roster, members := roster.length, routes := tput none s.dom.routes pkg none
    ctl := s.dom.ctl.filter fun x => x.dst != pkg, subs := s.dom.subs.filter fun x => x.src != pkg
    edges := s.dom.edges.filter fun e => e.a != pkg && e.b != pkg } }

/-- What a member does when another has gone. -/
def memberLeft (s : State) (pkg : Nat) : State :=
  forgetMember (dropHeld (endWaiters (cancelReaders s pkg) pkg) pkg) pkg

/-- The keeper broadcasts a departure and the new roster. -/
def tellGone (s : State) (pkg : Nat) : State :=
  (s.dom.roster.filter fun m => m != selfPkg s).foldl (fun t m =>
    sendCtl (sendCtl t m (.departure pkg)) m (.roster s.dom.roster)) s

/-- The number is kept from now on, for 1 s (R349). -/
def keepNumber (s : State) (pkg : Nat) : State :=
  { s with dom := { s.dom with freeing := tput 0 s.dom.freeing pkg (s.time + 1) } }

/-- The keeper broadcasts a departure and the routes that follow; the number is kept for 1 s. -/
def keeperDrops (s : State) (pkg : Nat) : State :=
  if !s.dom.roster.contains pkg then s
  else sendRoutes (keepNumber (tellGone (memberLeft s pkg) pkg) pkg)

/-- A member reports the loss of another to the keeper, which acts at once if it is this package. -/
def reportGone (s : State) (pkg : Nat) : State :=
  if s.dom.keeper then keeperDrops s pkg
  else if s.dom.inDomain && pkg != s.dom.keeperPkg then sendCtl s s.dom.keeperPkg (.departure pkg)
  else s

/-- Nothing of the domain is left in this package but its own dependencies: PAIR 0, PACKAGE 0. -/
def outOfDomain (s : State) : State :=
  { s with dom := { s.dom with
    inDomain := false, keeper := false, aligned := false, pair := false, pkg := 0, keeperPkg := 0, members := 0,
    routes := [], roster := [], edges := [], freeing := [], claim := none, ctl := []
    subs := s.dom.subs.filter fun x => x.src == 65536, nonces := [], children := [], leaving := none, phase := none } }

/-- The package leaves its domain (R349), and R41 applies if the domain bead was the reference. -/
def leaveDomain (s : State) : State := refLostNow (outOfDomain s) 6

/-- A leave is over once nobody is left to acknowledge the departure (R343, R349): it is answered. -/
def finishLeave (s : State) : State :=
  match s.dom.leaving with
  | none => s
  | some m =>
    if s.dom.ctl.any fun x => x.m == .departure (selfPkg s) then s
    else match m with
      | some m => endSlow (leaveDomain s) m 0 []
      | none => leaveDomain s

/-! ## Control messages (R343) -/

/-- The message waits for the command that acts on it. -/
def keepCtl (s : State) (src : Nat) (m : Ctl) : State :=
  { s with dom := { s.dom with got := s.dom.got ++ [(src, m)] } }

/-- The port that an answer of the keeper to a join goes on by (R347). -/
def viaPort (via : Nat) : Nat := via - 1

/-- The challenge of a join is answered with the proof by the package that joins, the first one only; a member that has
relayed the request relays it. -/
def challenged (s : State) (src : Nat) (n : W64) (via : Nat) : State :=
  if via ≠ 0 then sendCtl s (nearby (viaPort via)) (.challenge n 0)
  else
    match s.dom.join with
    | some j =>
      if j.asked.isSome then s
      else
        sendCtl { s with dom := { s.dom with join := some { j with asked := some src } } } src
          (.joinRequest j.want j.demand s.dom.cfgPair s.dom.domId (siphash s.dom.key (leN 8 n.toNat)) n 0)
    | none => s

/-- A grant or a refusal is relayed, or waits for JOIN_COMPLETE; the relay learns its neighbour's number and reports the
link (R345). -/
def granted (s : State) (src k : Nat) (count : W64) (period : W16) (keeper via : Nat) : State :=
  if via = 0 then keepCtl s src (.joinGrant k count period keeper 0)
  else
    let p := viaPort via
    let s1 := setPeer s p k
    reportLink (sendCtl s1 (nearby p) (.joinGrant k count period keeper 0)) p (getPort s1 p) true
def refusedJoin (s : State) (src via : Nat) : State :=
  if via = 0 then keepCtl s src (.joinRefuse 0) else sendCtl s (nearby (viaPort via)) (.joinRefuse 0)

/-- A neighbour says its number (R345, R365). -/
def metNeighbour (s : State) (src pkg : Nat) : State :=
  if src < 65536 then s
  else
    let s1 := setPeer s (src - 65536) pkg
    reportLink s1 (src - 65536) (getPort s1 (src - 65536)) true

/-- What a message does as it arrives; all others wait for the commands that act on them. What a refusal does is
SEND_REFUSED; a read is served as its request comes, so that a cancel finds none to stop. -/
def ctlActs (s : State) (src : Nat) (m : Ctl) : State :=
  match m with
  | .challenge n via => challenged s src n via
  | .joinGrant k c p keeper via => granted s src k c p keeper via
  | .joinRefuse via => refusedJoin s src via
  | .neighbour pkg => metNeighbour s src pkg
  | .tree l => if src = s.dom.keeperPkg then setTree s l else s
  | .roster l => { s with dom := { s.dom with roster := l, members := l.length } }
  | .probe => s
  | .cancelRead _ _ => s
  | .refusal _ => s
  | .joinRequest _ _ _ _ _ _ _ => keepCtl s src m
  | .link _ _ _ _ => keepCtl s src m
  | .route _ _ => keepCtl s src m
  | .beadMark _ _ _ => keepCtl s src m
  | .timeMark _ _ => keepCtl s src m
  | .subscribe _ _ _ _ => keepCtl s src m
  | .report _ _ => keepCtl s src m
  | .withdraw _ => keepCtl s src m
  | .digest _ _ _ _ => keepCtl s src m
  | .departure _ => keepCtl s src m
  | .claim _ => keepCtl s src m
  | .bootFetch => keepCtl s src m
  | .reset _ => keepCtl s src m

/-- CONTROL_MESSAGE_ARRIVE: an acknowledgement ends what it acknowledges; a message is acknowledged, and acts once. -/
def execControlMessageArrive (src seq : Nat) (ack : Bool) (m : Ctl) (s : State) : Host.Outcome State Fault Refusal :=
  if !crownUp s || d1Off s then .next s
  else if ack then
    .next (finishLeave { s with dom := { s.dom with
      ctl := s.dom.ctl.filter fun x => !(x.seq == seq && x.dst == src)
      resend := s.dom.resend.filter fun u => !(u.seq == seq && u.dst / 4096 == src) } })
  else if s.dom.seen.contains (src, seq) then .next (sendAck s src seq)
  else .next (ctlActs (sendAck { s with dom := { s.dom with seen := s.dom.seen ++ [(src, seq)] } } src seq) src m)

/-- CONTROL_RESEND: after 50 µs without an acknowledgement. -/
def execControlResend (seq : Nat) (s : State) : Host.Outcome State Fault Refusal :=
  match s.dom.ctl.find? fun x => x.seq == seq && decide (x.sentAt + 50000 ≤ s.time) with
  | some x =>
    .next (sendFl0 { s with dom := { s.dom with
      ctl := s.dom.ctl.map fun y => if y.seq == seq then { y with sentAt := s.time } else y } } x.dst (.ctl x.dst seq x.m))
  | none =>
    match s.dom.resend.find? fun u => u.seq == seq && decide (u.sentAt + 50000 ≤ s.time) with
    | some u =>
      .next (sendMessage { s with dom := { s.dom with
        resend := s.dom.resend.map fun y => if y.seq == seq then { y with sentAt := s.time } else y } } u.dst seq u.data)
    | none => .next s

/-- ACK_TIMEOUT: after 2 ms the destination is treated as gone (R343, R350). -/
def execAckTimeout (seq : Nat) (s : State) : Host.Outcome State Fault Refusal :=
  match s.dom.ctl.find? fun x => x.seq == seq && decide (x.firstAt + 2000000 ≤ s.time) with
  | none => .next s
  | some x =>
    let s1 := finishLeave { s with dom := { s.dom with ctl := s.dom.ctl.filter fun y => y.seq != seq } }
    if s1.dom.inDomain && s.dom.roster.contains x.dst then
      .next (reportGone (event s1 crownLoc 0x22 (subjEndpoint (x.dst * 4096 + crownLoc)) 0xFF 0) x.dst)
    else .next s1

/-- The oldest departure that has come: a report to the keeper, or the keeper's broadcast. -/
def execMemberGone (s : State) : Host.Outcome State Fault Refusal :=
  match takeGot s fun x => match x.2 with | .departure _ => true | _ => false with
  | some (_, .departure pkg, s1) =>
    if !s1.dom.inDomain || pkg == selfPkg s1 then .next s1
    else if s1.dom.keeper then .next (keeperDrops s1 pkg)
    else .next (memberLeft s1 pkg)
  | _ => .next s

/-- PACKAGE_NUMBER_FREE: 1 s after the broadcast. -/
def execPackageNumberFree (pkg : Nat) (s : State) : Host.Outcome State Fault Refusal :=
  let t := tget 0 s.dom.freeing pkg
  onlyIf (t != 0 && decide (t + 1000000000 ≤ s.time + 1)) s
    { s with dom := { s.dom with freeing := tput 0 s.dom.freeing pkg 0 } }

/-- Applies the link reports that have come, and drops members that the tree has lost. -/
def keeperReroutes (s : State) : State :=
  let old := reached (treeOf s.dom.edges (selfPkg s)) (selfPkg s)
  let edges := s.dom.got.foldl (fun l x =>
    match x.2 with | .link p peer pp up => linkChange l x.1 p peer pp up | _ => l) s.dom.edges
  let s1 := { s with dom := { s.dom with
    edges := edges, got := s.dom.got.filter fun x => match x.2 with | .link _ _ _ _ => false | _ => true } }
  let now := reached (treeOf edges (selfPkg s)) (selfPkg s)
  sendRoutes ((s1.dom.roster.filter fun m => old.contains m && !now.contains m).foldl keeperDrops s1)

/-- ROUTE_UPDATE: the keeper applies the reports that have come; a member writes its table from updates of its keeper alone
(R344). -/
def execRouteUpdate (s : State) : Host.Outcome State Fault Refusal :=
  if !s.crown.ready || !s.dom.inDomain then .next s
  else if s.dom.keeper then .next (keeperReroutes s)
  else
    match takeGot s fun x => match x.2 with | .route _ _ => true | _ => false with
    | some (src, .route d p, s1) => .next (if src = s.dom.keeperPkg then setRoute s1 d p else s1)
    | _ => .next s

/-! ## Joining (R347, R348) -/

/-- The number the keeper assigns: the requested one if it is free, else the lowest free one of the half. -/
def assignNumber (s : State) (want : Nat) (pair : Bool) : Option Nat :=
  let free := fun (n : Nat) =>
    let k := b2n pair * 32768 + n
    !s.dom.roster.contains k && tget 0 s.dom.freeing k == 0
  if want < 32768 ∧ free want then some want else (List.range 32768).find? free

/-- The keeper sends its roster to every other member. -/
def tellRoster (s : State) : State :=
  (s.dom.roster.filter fun m => m != selfPkg s).foldl (fun t m => sendCtl t m (.roster s.dom.roster)) s

/-- The keeper admits a member; a neighbour's link joins its graph at once, that of a relayed one when its relay reports
it. -/
def admitPkg (s : State) (src via n : Nat) (pair : Bool) : State :=
  let k := b2n pair * 32768 + n
  let s0 := { s with dom := { s.dom with roster := s.dom.roster ++ [k], members := s.dom.members + 1 } }
  let s1 := if src < 65536 then s0
    else
      let t := setPeer s0 (src - 65536) k
      { t with dom := { t.dom with
        edges := linkChange t.dom.edges (selfPkg t) (src - 65536) k (getPort t (src - 65536)).peerPort true } }
  sendRoutes (tellRoster (sendCtl s1 src (.joinGrant k s.bead.count s.bead.curPeriod (selfPkg s) via)))

/-- The keeper forgets a challenge once it is answered. -/
def dropNonce (s : State) (src via : Nat) : State :=
  { s with dom := { s.dom with nonces := s.dom.nonces.filter fun x => !(x.1 == src && x.2.1 == via) } }

/-- The keeper's answer to a proof (R347, R348). -/
def judgeJoin (s : State) (src via want : Nat) (demand pair : Bool) (proof nonce : W64) : State :=
  let s1 := dropNonce s src via
  if !s.dom.nonces.contains (src, via, nonce) || proof != siphash s.dom.key (leN 8 nonce.toNat) || 32768 ≤ s.dom.members then
    sendCtl s1 src (.joinRefuse via)
  else
    match assignNumber s want pair with
    | some n => if demand && n != want then sendCtl s1 src (.joinRefuse via) else admitPkg s1 src via n pair
    | none => sendCtl s1 src (.joinRefuse via)

/-- JOIN_REQUEST: the oldest request that has come from a neighbour or a member. A member relays one that came over a port to the keeper; the keeper
asks for the proof of a nonce of its own, then checks it. -/
def execJoinRequest (src : Nat) (s : State) : Host.Outcome State Fault Refusal :=
  match takeGot s fun x => x.1 == src && (match x.2 with | .joinRequest _ _ _ _ _ _ _ => true | _ => false) with
  | some (_, .joinRequest want demand pair domId proof nonce via, s1) =>
    if !s1.dom.inDomain || domId != s1.dom.domId then .next s1
    else if !s1.dom.keeper then
      .next (if src < 65536 then s1
        else sendCtl s1 s1.dom.keeperPkg (.joinRequest want demand pair domId proof nonce (src - 65536 + 1)))
    else if nonce = 0 then
      let n := BitVec.ofNat 64 (Config.freeNat s1.free)
      .next (sendCtl (nextFree { s1 with dom := { s1.dom with nonces := s1.dom.nonces ++ [(src, via, n)] } }) src (.challenge n via))
    else .next (judgeJoin s1 src via want demand pair proof nonce)
  | _ => .next s

/-- The package is a member with a number. -/
def becomeMember (s : State) (k keeper : Nat) : State :=
  { s with dom := { s.dom with
    inDomain := true, pair := decide (32768 ≤ k), pkg := k % 32768, keeperPkg := keeper, keeper := k == keeper
    join := none, lastMark := s.time } }

/-- Every port that is up is reported to the keeper. -/
def reportLinks (s : State) : State :=
  (List.range 72).foldl (fun t p => if (getPort t p).state = 2 then reportLink t p (getPort t p) true else t) s

/-- A message goes to the neighbour on every port that is up, but for one that a source names. -/
def floodCtl (s : State) (but : Nat) (m : Ctl) : State :=
  (List.range 72).foldl (fun t p => if (getPort t p).state = 2 ∧ nearby p ≠ but then sendCtl t (nearby p) m else t) s

/-- JOIN_COMPLETE: a refusal is answered; a grant takes effect at the domain's next bead mark (R42, R347), and the neighbours
learn the package's number. -/
def execJoinComplete (s : State) : Host.Outcome State Fault Refusal :=
  match s.dom.join with
  | none => .next s
  | some j =>
    match takeGot s fun x => match x.2 with | .joinRefuse _ => true | _ => false with
    | some (_, _, s1) => .next (endSlow { s1 with dom := { s1.dom with join := none } } j.chan 6 [])
    | none =>
      match takeGot s fun x => match x.2 with | .joinGrant _ _ _ _ _ => true | _ => false with
      | some (_, .joinGrant k _ _ keeper _, s1) =>
        match takeGot s1 fun x => match x.2 with | .beadMark _ _ _ => true | _ => false with
        | some (_, .beadMark count _ _, s2) =>
          let s3 := becomeMember { s2 with bead := { s2.bead with
            count := count, edge := s2.time, samples := 0, from3 := 3 * s2.time } } k keeper
          .next (endSlow (reportLinks (floodCtl s3 0 (.neighbour k))) j.chan 0 (leN 2 (k % 32768)))
        | _ => .next s
      | _ => .next s

/-- DOMAIN_FOUND: 1 s without an answer. The package founds the domain if it may, else the join is refused. -/
def execDomainFound (s : State) : Host.Outcome State Fault Refusal :=
  match s.dom.join with
  | none => .next s
  | some j =>
    let answered := s.dom.got.any fun x => match x.2 with | .joinGrant _ _ _ _ _ => true | .joinRefuse _ => true | _ => false
    if answered || s.time < j.at_ + 1000000000 then .next s
    else if j.found then
      let k := b2n s.dom.cfgPair * 32768 + (if j.want < 32768 then j.want else 0)
      let s1 := becomeMember { s with dom := { s.dom with roster := [k], members := 1 } } k k
      .next (endSlow s1 j.chan 0 (leN 2 (k % 32768)))
    else .next (endSlow { s with dom := { s.dom with join := none } } j.chan 6 [])

/-! ## Keepers (R351, R352) -/

/-- A claim lower than what the package has seen is adopted and passed on over its other ports (R351). -/
def adoptClaim (s : State) (src n : Nat) : State :=
  match s.dom.claim with
  | some (k, _) => if n < k then floodCtl { s with dom := { s.dom with claim := some (n, s.time) } } src (.claim n) else s
  | none => s

/-- KEEPER_CLAIM: after 4 ms without time marks the package claims, or hears the claim of another. -/
def execKeeperClaim (heard : Option Nat) (s : State) : Host.Outcome State Fault Refusal :=
  if !s.dom.inDomain || s.dom.keeper || s.time < s.dom.lastMark + 4000000 then .next s
  else
    let me := selfPkg s
    let s1 := match s.dom.claim with
      | some _ => s
      | none => floodCtl { s with dom := { s.dom with claim := some (me, s.time) } } 0 (.claim me)
    match heard with
    | some n =>
      match takeGot s1 fun x => match x.2 with | .claim q => q == n | _ => false with
      | some (src, _, s2) => .next (adoptClaim s2 src n)
      | none => .next s1
    | none => .next s1

/-- KEEPER_ELECT: 1 ms without a lower claim. -/
def execKeeperElect (s : State) : Host.Outcome State Fault Refusal :=
  match s.dom.claim with
  | none => .next s
  | some (k, t) =>
    if !s.dom.inDomain || s.time < t + 1000000 then .next s
    else
      let s1 := event s crownLoc 0x24 (subjEndpoint (k * 4096 + crownLoc)) s.dom.keeperPkg 0
      let s2 := { s1 with dom := { s1.dom with
        keeperPkg := k, keeper := k == selfPkg s, claim := none, lastMark := s.time, edges := [] } }
      let s3 := reportLinks s2
      .next (if s3.dom.keeper then keeperReroutes s3 else s3)

/-- DOMAIN_SPLIT: a port has come up to a member of the same domain ID with another keeper; the fragment with the
higher keeper dissolves. -/
def execDomainSplit (port otherKeeper : Nat) (s : State) : Host.Outcome State Fault Refusal :=
  if !s.dom.inDomain || (getPort s port).state != 2 || decide (s.dom.keeperPkg ≤ otherKeeper) then .next s
  else
    let s1 := event s crownLoc 0x25 (subjKind 8 0) s.dom.domId.toNat otherKeeper
    let s2 := (s.dom.roster.filter fun m => m != selfPkg s).foldl memberLeft s1
    .next (leaveDomain s2)

/-! ## Marks (R353 to R355) -/

/-- A mark goes on to the children in the spanning tree (R353). -/
def toChildren (s : State) (m : Ctl) : State := s.dom.children.foldl (fun t p => sendCtl t (nearby p) m) s

/-- The delay of a mark that came from a neighbour: that of the hops behind it and of this link. -/
def markDelay (s : State) (src delay : Nat) : Nat := delay + (getPort s (src - 65536)).delayNs

/-- The keeper probes one member after another, one with each time mark (R350). -/
def probeOne (s : State) : State :=
  match (s.dom.roster.filter fun m => m != selfPkg s)[s.dom.probeNext % (max 1 (s.dom.roster.length - 1))]? with
  | some m => sendCtl { s with dom := { s.dom with probeNext := s.dom.probeNext + 1 } } m .probe
  | none => s

/-- A member's sample clock follows the keeper's: what the difference of the clocks has grown by since the last mark moves
its bead boundaries (R354). -/
def followMark (s : State) (phase : Int) : State :=
  let s1 := { s with dom := { s.dom with lastMark := s.time, phase := some phase, aligned := s.bead.activeRef == 6 } }
  match s.dom.phase with
  | some old =>
    if s.bead.activeRef = 6 then
      { s1 with bead := { s1.bead with from3 := ((s.bead.from3 : Int) + 3 * (phase - old)).toNat } }
    else s1
  | none => s1

/-- TIME_MARK: the keeper sends one along the tree every 125 µs; a member takes the oldest that has come, and sends it
on. -/
def execTimeMark (s : State) : Host.Outcome State Fault Refusal :=
  if !s.dom.inDomain then .next s
  else if s.dom.keeper then
    if s.time < s.dom.lastMark + 125000 then .next s
    else .next (probeOne (toChildren { s with dom := { s.dom with lastMark := s.time } } (.timeMark s.time 0)))
  else
    match takeGot s fun x => match x.2 with | .timeMark _ _ => true | _ => false with
    | some (src, .timeMark t d, s1) =>
      let delay := markDelay s src d
      .next (toChildren (followMark s1 ((s.time : Int) - (t + delay : Nat))) (.timeMark t delay))
    | _ => .next s

/-- A member on the domain bead places its boundary at the keeper's, which was `delay` ago (R354): the boundary it has just
had is moved there, and one that it has not had yet is now. -/
def placeBoundary (s : State) (delay : Nat) : State :=
  let half := s.bead.curPeriod.toNat * 62500 / 6
  let s1 := if s.bead.en && decide (s.bead.edge + half ≤ s.time) then beadEdge s false else s
  { s1 with bead := { s1.bead with from3 := 3 * (s.time - delay) } }

/-- A bead mark reaches a member: a re-selection that waits applies now (R355); on the domain bead the member takes the
PERIOD, for the bead in progress too (notes/assumptions/48.md), and the boundary. -/
def takeBeadMark (s : State) (p : W16) (delay : Nat) : State :=
  let s1 := if s.bead.refsel = 6 then { s with bead := { s.bead with period := p } } else s
  if awaitsDomain s1 then
    let s2 := domainEdge s1
    { s2 with bead := { s2.bead with from3 := 3 * (s.time - delay) } }
  else if s.bead.refsel = 6 ∧ s.bead.activeRef = 6 then
    placeBoundary { s1 with bead := { s1.bead with curPeriod := p } } delay
  else s1

/-- BEAD_MARK: the keeper sends one along the tree at every boundary; a member takes the oldest that has come, and sends it
on. Its PERIOD holds for the bead in progress too (notes/assumptions/48.md). -/
def execBeadMark (s : State) : Host.Outcome State Fault Refusal :=
  if !s.dom.inDomain then .next s
  else if s.dom.keeper then
    onlyIf (s.bead.en && s.time == s.bead.edge) s (toChildren s (.beadMark s.bead.count s.bead.curPeriod 0))
  else
    match takeGot s fun x => match x.2 with | .beadMark _ _ _ => true | _ => false with
    | some (src, .beadMark n p d, s1) =>
      let delay := markDelay s src d
      .next (takeBeadMark (toChildren s1 (.beadMark n p delay)) p delay)
    | _ => .next s

/-- BEAD_ALIGN_LOST: 4 ms without a time mark on the domain bead (R355). -/
def execBeadAlignLost (s : State) : Host.Outcome State Fault Refusal :=
  onlyIf (s.dom.inDomain && s.bead.activeRef == 6 && decide (s.dom.lastMark + 4000000 ≤ s.time)) s
    (event (beadFallback s) crownLoc 0x26 (subjKind 8 0) s.bead.count.toNat 0)

/-! ## Commit reports (R360, R361) -/

/-- Answers of a report: 0 not satisfied, 1 satisfied, 2 unreachable, 3 busy. -/
def depCode : DepAns → Nat
  | .unmet => 0
  | .met => 1
  | .unreachable => 2

/-- A subscription or its withdrawal is taken. -/
def takeSub (s : State) (src : Nat) (m : Ctl) : State :=
  match m with
  | .withdraw cmd => { s with dom := { s.dom with subs := s.dom.subs.filter fun x => !(x.src == src && x.cmd == cmd) } }
  | .subscribe slot seq once cmd =>
    let a := localDep s slot seq
    if a != .unmet || once then sendCtl s src (.report cmd (depCode a))
    else if 8192 ≤ s.dom.subs.length then sendCtl s src (.report cmd 3)
    else { s with dom := { s.dom with subs := s.dom.subs ++ [{ src := src, cmd := cmd, slot := slot, seq := seq }] } }
  | _ => s

/-- A held subscription is answered: a command of this package goes on, or ends (R361). -/
def answerSub (s : State) (x : Sub) : State :=
  let a := localDep s x.slot x.seq
  let s1 := { s with dom := { s.dom with subs := s.dom.subs.filter fun y => y != x } }
  if x.src ≠ 65536 then sendCtl s1 x.src (.report x.cmd (depCode a))
  else if a = .met then modCmd s1 x.cmd fun c => { c with dep := c.dep.map fun d => { d with met := true } }
  else
    match getCmd s1 x.cmd with
    | some c => if c.stage = .queued then complete s1 c stRemoteUnreachable 0 else s1
    | none => s1

/-- SUBSCRIPTION: the oldest subscription that has come; else the first held one that can be answered now. -/
def execSubscription (s : State) : Host.Outcome State Fault Refusal :=
  match takeGot s fun x => match x.2 with | .subscribe _ _ _ _ => true | .withdraw _ => true | _ => false with
  | some (src, m, s1) => .next (takeSub s1 src m)
  | none =>
    match s.dom.subs.find? fun x => localDep s x.slot x.seq != .unmet with
    | some x => .next (answerSub s x)
    | none => .next s

/-- The answer to a command's subscription. -/
def takeReport (s : State) (src cmd answer : Nat) : State :=
  match getCmd s cmd with
  | none => s
  | some c =>
    match c.dep with
    | none => s
    | some d =>
      if c.stage != .queued || d.pkg != src || d.own || d.met then s
      else if answer = 1 then modCmd s cmd fun c => { c with dep := some { d with met := true } }
      else if answer = 3 then modCmd s cmd fun c => { c with dep := some { d with busyAt := some s.time } }
      else complete s c stRemoteUnreachable 0

/-- SUBSCRIPTION_REPLY: the oldest answer that has come; else a dependency on a slot of this package that has been
disabled. -/
def execSubscriptionReply (s : State) : Host.Outcome State Fault Refusal :=
  match takeGot s fun x => match x.2 with | .report _ _ => true | _ => false with
  | some (src, .report cmd answer, s1) => .next (takeReport s1 src cmd answer)
  | _ =>
    match s.cmds.find? fun c => c.stage == .queued && c.dep.any fun d =>
        !d.met && d.own && localDep s d.slot d.seq == .unreachable with
    | some c => .next (complete s c stRemoteUnreachable 0)
    | none => .next s

/-- SUBSCRIPTION_RETRY: 100 µs after a busy answer. -/
def execSubscriptionRetry (id : Nat) (s : State) : Host.Outcome State Fault Refusal :=
  match getCmd s id with
  | none => .next s
  | some c =>
    match c.dep with
    | none => .next s
    | some d =>
      match d.busyAt with
      | none => .next s
      | some t =>
        onlyIf (c.stage == .queued && decide (t + 100000 ≤ s.time)) s
          (if d.own then subscribeOwn s id d
           else sendCtl (modCmd s id fun c => { c with dep := some { d with busyAt := none } }) d.pkg
             (.subscribe d.slot d.seq false id))

/-- A write of CRN_ANNOUNCEs: ignored while EN is 1, except one that clears EN. -/
def announce (s : State) (n : Nat) (v : W32) : State :=
  let a := tget {} s.dom.announce n
  if a.en && v.getLsbD 31 then s
  else { s with dom := { s.dom with
    announce := tput {} s.dom.announce n
      { en := v.getLsbD 31, client := bits v.toNat 13 2, ring := bits v.toNat 1 0 } } }

/-- ANNOUNCE_WRITE. -/
def execAnnounceWrite (n : Nat) (v : W32) (s : State) : Host.Outcome State Fault Refusal :=
  .next (hostAccess s fun s => if n < 256 then announce s n v else s)

/-- A write of CRN_MIRRORw: the bits of open streams keep their value, and a write that would change one sets
BAD_MIRROR. -/
def mirrorSet (s : State) (w : Nat) (v : W32) : State :=
  let old := tget (0 : W32) s.dom.mirror w
  let open_ : W32 := (List.range 32).foldl (fun m i => if (getStream s (32 * w + i)).isOpen then m ||| BitVec.ofNat 32 (2 ^ i) else m) 0
  { s with dom := { s.dom with
    mirror := tput 0 s.dom.mirror w ((old &&& open_) ||| (v &&& ~~~open_))
    badMirror := s.dom.badMirror || (old ^^^ v) &&& open_ != 0 } }

/-- MIRROR_WRITE. -/
def execMirrorWrite (w : Nat) (v : W32) (s : State) : Host.Outcome State Fault Refusal :=
  .next (hostAccess s fun s => if w < 512 then mirrorSet s w v else s)

end Sys2Proof.Machine
end

