-- ==== Sys2Proof/Machine/Mail.lean ====
section
/-! DEFINITION. The host link and the mailboxes (R366, R367, R375 to R379), and the requests of the table *Request
types*. -/

namespace Sys2Proof.Machine

open Sys2Proof

/-! ## The host link (R366, R367) -/

/-- The link comes up on all modules, on one pair, or stays down. -/
def linkTrained (s : State) (m01 m23 : Bool) : State :=
  let n : BitVec 4 := (if m01 then 3 else 0) ||| (if m23 then 12 else 0)
  let one := m01 != m23
  let s1 := { s with crown := { s.crown with linkUp := m01 || m23, degraded := one, modules := n } }
  if one then event s1 crownLoc 0x15 (subjKind 5 0) n.toNat 0 else s1

/-- HOST_LINK_TRAIN: which pairs of modules can train; only while the Crown is out of reset and D2 is on. -/
def execHostLinkTrain (m01 m23 : Bool) (s : State) : Host.Outcome State Fault Refusal :=
  onlyIf (crownUp s && !s.pwr.domOff.contains 2) s (linkTrained s m01 m23)

/-! ## Mailbox registers (R375 to R377) -/

def getH2f (s : State) (m : Nat) : H2F := tget {} s.mail.h2f m
def setH2f (s : State) (m : Nat) (x : H2F) : State := { s with mail := { s.mail with h2f := tput {} s.mail.h2f m x } }
def getReqs (s : State) (m : Nat) : List Req := tget [] s.mail.reqs m
def setReqs (s : State) (m : Nat) (l : List Req) : State := { s with mail := { s.mail with reqs := tput [] s.mail.reqs m l } }
def setReplies (s : State) (m : Nat) (l : List Bytes) : State :=
  { s with mail := { s.mail with replies := tput [] s.mail.replies m l } }

/-- The bytes of the DATA words. -/
def dataBytes (t : Tab W32) : Bytes := (List.range 16).flatMap fun w => leN 4 (tget (0 : W32) t w).toNat

/-- A write of DATAw to a mailbox; none if it is rejected (R375). -/
def boxData (x : H2F) (w : Nat) (v : W32) : Option H2F :=
  if x.full then none else some { x with data := tput 0 x.data w v }

/-- A write of SEND to a mailbox; none if it is rejected (R375). -/
def boxSend (x : H2F) (v : W32) : Option H2F :=
  let n := bits v.toNat 6 0
  if x.full || n == 0 || decide (64 < n) then none
  else some { x with full := true, len := n, msg := (dataBytes x.data).take n }

/-- The reader has taken the message: the DATA words are 0 and FULL is clear (R375). -/
def boxTake (x : H2F) : H2F := { x with data := [], full := false, len := 0, msg := [] }

/-- The PCIe function reports the error of a rejected write at a BAR0 offset (R375): Completer Abort, logged with its header;
non-fatal it is advisory, with ERR_COR where that is enabled; fatal it is reported as fatal. -/
def aerReport (s : State) (off : Nat) : State :=
  let io := { s.io with aerAbort := true, aerLog := some off }
  { s with io :=
      if io.aerFatal then { io with errs := io.errs ++ [.fatal] }
      else { io with aerAdvisory := true, errs := if io.corEn then io.errs ++ [.cor] else io.errs } }

/-- A rejected write to register `r` of mailbox `m`: REJECT, and the error. -/
def mailReject (s : State) (m r : Nat) : State :=
  aerReport (setH2f s m { getH2f s m with reject := true }) (0x20000 + 0x80 * m + r)

/-- A write of DATAw. -/
def mailData (s : State) (m w : Nat) (v : W32) : State :=
  match boxData (getH2f s m) w v with
  | some x => setH2f s m x
  | none => mailReject s m (4 * w)

/-- A write of SEND. -/
def mailSend (s : State) (m : Nat) (v : W32) : State :=
  match boxSend (getH2f s m) v with
  | some x => wakeCall (setH2f s m x)
  | none => mailReject s m 0x40

/-! Mailboxes between the firmware and the Nightcap (R377): their registers are not in the map, and neither side's messages
are given; a rejected write returns a bus error to its writer. -/

def setInner (s : State) (n : Nat) (x : H2F) : State := { s with mail := { s.mail with inner := tput {} s.mail.inner n x } }
/-- A write that a mailbox took, or its rejection, with whether the writer sees a bus error. -/
def innerWrite (s : State) (n : Nat) (r : Option H2F) : State × Bool :=
  match r with
  | some x => (setInner s n x, false)
  | none => (setInner s n { tget {} s.mail.inner n with reject := true }, true)
def innerData (s : State) (n w : Nat) (v : W32) : State × Bool := innerWrite s n (boxData (tget {} s.mail.inner n) w v)
def innerSend (s : State) (n : Nat) (v : W32) : State × Bool := innerWrite s n (boxSend (tget {} s.mail.inner n) v)
def innerTake (s : State) (n : Nat) : State := setInner s n (boxTake (tget {} s.mail.inner n))

/-- A write of CLEAR. -/
def mailClear (s : State) (m : Nat) (v : W32) : State := if v.getLsbD 0 then setF2h s m {} else s

/-- MAILBOX_DATA_WRITE. -/
def execMailboxDataWrite (m w : Nat) (v : W32) (s : State) : Host.Outcome State Fault Refusal :=
  .next (hostAccess s fun s => if mailOk m && decide (w < 16) then mailData s m w v else s)
/-- MAILBOX_SEND. -/
def execMailboxSend (m : Nat) (v : W32) (s : State) : Host.Outcome State Fault Refusal :=
  .next (hostAccess s fun s => if mailOk m then mailSend s m v else s)
/-- MAILBOX_CLEAR. -/
def execMailboxClear (m : Nat) (v : W32) (s : State) : Host.Outcome State Fault Refusal :=
  .next (hostAccess s fun s => if mailOk m then mailClear s m v else s)

/-- The boot ROM runs and serves channel 0 (R401). -/
def romServes (s : State) : Bool :=
  crownUp s && !s.crown.ready && (match s.sec.rom with | .idle => false | .booted => false | _ => true)

/-- Somebody reads the requests of a channel. -/
def served (s : State) (m : Nat) : Bool := !d1Off s && mailOk m && (s.crown.ready || (m == 0 && romServes s))

/-- MAILBOX_TAKE. -/
def execMailboxTake (m : Nat) (s : State) : Host.Outcome State Fault Refusal :=
  let x := getH2f s m
  onlyIf (served s m && x.full) s
    (setReqs (setH2f s m (boxTake x)) m
      (getReqs s m ++ [{ msg := x.msg, at_ := s.time }]))

/-! ## Requests (R378, R379) -/

/-- A request type: the length of its parameters and where they lie, as offset and bytes. -/
structure ReqType where
  len : Nat
  used : List (Nat × Nat)
deriving DecidableEq, Repr

/-- The types of R379 and R411 that the firmware takes, and those that the boot ROM takes. -/
def reqType (ready : Bool) (ty : Nat) : Option ReqType :=
  if !ready then
    (if ty = 0x28 then some { len := 12, used := [(4, 8)] }
     else if ty = 0x29 then some { len := 8, used := [(4, 4)] } else none)
  else if ty = 0x01 ∨ ty = 0x02 ∨ ty = 0x0B then some { len := 6, used := [(4, 2)] }
  else if ty = 0x03 then some { len := 30, used := [(4, 26)] }
  else if ty = 0x04 ∨ ty = 0x05 then some { len := 8, used := [(4, 1), (6, 2)] }
  else if ty = 0x06 then some { len := 26, used := [(4, 1), (8, 18)] }
  else if ty = 0x07 ∨ ty = 0x08 then some { len := 24, used := [(4, 1), (8, 16)] }
  else if ty = 0x09 then some { len := 28, used := [(4, 1), (8, 20)] }
  else if ty = 0x0A then some { len := 24, used := [(4, 2), (8, 16)] }
  else if ty = 0x0C then some { len := 8, used := [(4, 4)] }
  else if ty = 0x10 then some { len := 33, used := [(8, 25)] }
  else if ty = 0x11 then some { len := 7, used := [(4, 3)] }
  else if ty = 0x12 then some { len := 4, used := [] }
  else if ty = 0x20 then some { len := 52, used := [(4, 48)] }
  else if ty = 0x21 ∨ ty = 0x23 then some { len := 20, used := [(4, 16)] }
  else if ty = 0x22 then some { len := 5, used := [(4, 1)] }
  else none

/-- Every byte that the type does not list is 0. -/
def resvZero (t : ReqType) (b : Bytes) : Bool :=
  (List.range b.length).all fun i =>
    i < 2 || (t.used.any fun u => decide (u.1 ≤ i) && decide (i < u.1 + u.2)) || (b[i]?).getD 0 == 0

/-- How a request is answered: at once, or later, when what it started is over. -/
inductive Ans where
  | now (s : State) (status : Nat) (results : Bytes)
  | later (s : State)

/-- The types that `used` describes and that a message of this length reaches; otherwise BAD_TYPE. -/
def typeOf (s : State) (b : Bytes) : Option ReqType :=
  (reqType s.crown.ready (fieldLE b 0 1)).filter fun t => decide (t.len ≤ b.length)

/-- The firmware handles the next request of the channel: the one before it is answered, and the reply of this one has room,
so that what it does and its reply are one step (R377, R378, R380). -/
def takesNext (s : State) (m : Nat) : Bool := served s m && !(s.mail.slow.any fun x => x.1 == m) && mailFree s m

/-- The oldest request of channel `m`, if it is of type `ty`, is handled by `f` and answered. -/
def request (s : State) (m ty : Nat) (f : State → Bytes → Ans) : State :=
  if !takesNext s m then s
  else
    match getReqs s m with
    | [] => s
    | r :: rest =>
      match typeOf s r.msg with
      | none => s
      | some t =>
        if fieldLE r.msg 0 1 ≠ ty then s
        else
          let s1 := setReqs s m rest
          if !resvZero t r.msg then giveReply s1 m (replyBytes r.msg 2 [])
          else
            match f s1 r.msg with
            | .now s2 st res => giveReply s2 m (replyBytes r.msg st res)
            | .later s2 => { s2 with mail := { s2.mail with slow := s2.mail.slow ++ [(m, r)] } }

/-- A request refused with a status: nothing changes. -/
def no (s : State) (status : Nat) : Ans := .now s status []

/-! ### Stop and resume -/

/-- The registered clients in the scope of a STOP or RESUME. -/
def scopeClients (s : State) (b : Bytes) : List Nat :=
  let id := fieldLE b 6 2
  (s.clients.filter fun (x : Nat × Client) => x.2.reg &&
    (if fieldLE b 4 1 = 0 then x.1 == id else if fieldLE b 4 1 = 1 then x.2.part == id else true)).map Prod.fst

/-- SCOPE and ID are in range, and a client named is registered. -/
def scopeOk (s : State) (b : Bytes) : Bool :=
  let id := fieldLE b 6 2
  if fieldLE b 4 1 = 0 then (getClient s id).reg && clientOk id
  else if fieldLE b 4 1 = 1 then partOk id else fieldLE b 4 1 == 2

/-- No command of the clients in scope is being killed (R80). -/
def scopeQuiet (s : State) (b : Bytes) : Bool :=
  let l := scopeClients s b
  s.cmds.all fun c => c.stage != .killing || !l.contains c.client

/-- The stop takes effect for every client in its scope. -/
def endStops (s : State) (b : Bytes) : State := (scopeClients s b).foldl endStop s

/-- A STOP that has waited for its commands takes effect and is answered. -/
def settleStop (s : State) (m : Nat) : State :=
  match s.mail.slow.find? fun x => x.1 == m with
  | some (_, r) => if fieldLE r.msg 0 1 = 4 ∧ scopeQuiet s r.msg then endSlow (endStops s r.msg) m 0 [] else s
  | none => s

/-- A request of a type that does not exist, or too short, is answered in its turn. -/
def settleBad (s : State) (m : Nat) : State :=
  if !takesNext s m then s
  else
    match getReqs s m with
    | [] => s
    | r :: rest => if (typeOf s r.msg).isNone then giveReply (setReqs s m rest) m (replyBytes r.msg 1 []) else s

/-- MAILBOX_REPLY: the oldest reply of the channel enters the empty mailbox, and vector m is raised; else the request that
only waits for its reply is answered. -/
def execMailboxReply (m : Nat) (s : State) : Host.Outcome State Fault Refusal :=
  if !served s m || (getF2h s m).full then .next s
  else
    match getReplies s m with
    | [] => .next (settleBad (settleStop s m) m)
    | b :: rest => .next (msix (setF2h (setReplies s m rest) m { data := b, full := true }) m)

/-- STOP. -/
def execStop (m : Nat) (s : State) : Host.Outcome State Fault Refusal :=
  .next (request s m 0x04 fun s b =>
    if !scopeOk s b then no s 2
    else
      let s1 := (scopeClients s b).foldl beginStop s
      if scopeQuiet s1 b then .now (endStops s1 b) 0 [] else .later s1)

/-- RESUME. -/
def execResume (m : Nat) (s : State) : Host.Outcome State Fault Refusal :=
  .next (request s m 0x05 fun s b =>
    if !scopeOk s b then no s 2 else .now ((scopeClients s b).foldl resumeClient s) 0 [])

/-! ### Clients and rings -/

/-- CLIENT_REGISTER. -/
def execClientRegister (m : Nat) (s : State) : Host.Outcome State Fault Refusal :=
  .next (request s m 0x01 fun s b =>
    let c := fieldLE b 4 2
    let p := (getSched s c).part
    if !clientOk c then no s 2
    else if (getClient s c).reg then no s 3
    else if !(getPart s p).en then no s 2
    else .now (setClient s c { reg := true, part := p, weight := (getSched s c).weight }) 0 [])

/-- Closes every stream of a client, disables its pairs and forgets its debt (R319). -/
def unregister (s : State) (c : Nat) : State :=
  let own := (s.streams.filter fun x => x.2.isOpen && x.2.client == c).map Prod.fst
  let s1 := own.foldl (fun t st => closeStream (getStream t st).part t st) s
  setClient s1 c { acct := { (getClient s1 c).acct with debtNs := 0 } }

/-- CLIENT_UNREGISTER. -/
def execClientUnregister (m : Nat) (s : State) : Host.Outcome State Fault Refusal :=
  .next (request s m 0x02 fun s b =>
    let c := fieldLE b 4 2
    if !(clientOk c && (getClient s c).reg) then no s 2
    else if s.cmds.any fun x => x.client == c then no s 3
    else .now (unregister s c) 0 [])

/-- The fields of a RING_SET that enables a pair. -/
def ringFieldsOk (b : Bytes) : Bool :=
  let n := fieldLE b 7 1
  decide (4 ≤ n) && decide (n ≤ 16) && fieldLE b 8 8 % (64 * 2 ^ n) == 0 && fieldLE b 16 8 % (32 * 2 ^ n) == 0 &&
    decide (fieldLE b 24 4 < 2 ^ 20) && decide (9 ≤ fieldLE b 28 2) && decide (fieldLE b 28 2 ≤ 2047)

/-- The pair as RING_SET leaves it. -/
def ringOf (b : Bytes) : Ring :=
  if fieldLE b 7 1 = 0 then {}
  else
    { en := true, log2 := fieldLE b 7 1, sqBase := BitVec.ofNat 64 (fieldLE b 8 8), cqBase := BitVec.ofNat 64 (fieldLE b 16 8)
      pasid := BitVec.ofNat 20 (fieldLE b 24 4), vector := fieldLE b 28 2 }

/-- RING_SET. -/
def execRingSet (m : Nat) (s : State) : Host.Outcome State Fault Refusal :=
  .next (request s m 0x03 fun s b =>
    let c := fieldLE b 4 2
    let n := fieldLE b 6 1
    let r := getRing s c n
    if !(clientOk c && (getClient s c).reg && ringOk n && (fieldLE b 7 1 == 0 || ringFieldsOk b)) then no s 2
    else if r.en && !r.fault && s.cmds.any (fun x => x.client == c && x.ring == n) then no s 3
    else
      let s1 := setRing s c n (ringOf b)
      let x := getClient s1 c
      .now (setClient s1 c { x with faultSt := x.faultSt &&& ~~~(BitVec.ofNat 4 (2 ^ n)) }) 0 [])

/-! ### Device memory (R304, R306, R308, R315) -/

/-- PART, DVA and BYTES of a request. -/
def rPart (b : Bytes) : Nat := fieldLE b 4 1
def rDva (b : Bytes) : Nat := fieldLE b 8 8
def rBytes (b : Bytes) : Nat := fieldLE b 16 8
/-- The range lies in the 48-bit device space, aligned to `al`. -/
def rangeFits (b : Bytes) (al : Nat) : Bool :=
  partOk (rPart b) && rDva b % al == 0 && rBytes b % al == 0 && decide (rDva b + rBytes b ≤ 2 ^ 48)

/-- Maps pages of one size, backed in any pile with room; none if memory or QUOTA runs out. -/
def mapBacked (p size : Nat) (w : Bool) : State → List Nat → Option State
  | s, [] => some s
  | s, a :: t =>
    match physAllocAny s size size (.page p) (pilesUp s) with
    | some (pa, s1) =>
      match putPtes s1 p (leaves a size w (some pa)) with
      | some s2 => mapBacked p size w s2 t
      | none => none
    | none => none

/-- Maps pages of one size lazily; none if no memory is left for a table. -/
def mapLazy (s : State) (p size : Nat) (w : Bool) (l : List Nat) : Option State :=
  putPtes s p (l.flatMap fun a => leaves a size w none)

/-- The addresses of the pages of a range. -/
def pageList (dva n size : Nat) : List Nat := (List.range (n / size)).map fun i => dva + i * size

/-- MAP. -/
def execMap (m : Nat) (s : State) : Host.Outcome State Fault Refusal :=
  .next (request s m 0x06 fun s b =>
    let g := fieldLE b 24 1
    let f := fieldLE b 25 1
    let size := if g = 0 then 4096 else if g = 1 then 65536 else 2 ^ 21
    if decide (2 < g) || decide (3 < f) || !rangeFits b size then no s 2
    else if (pagesOf s (rPart b) (rDva b) (rBytes b)).any fun a => pteMapped (pteAt s (rPart b) a).1 then no s 3
    else
      let l := pageList (rDva b) (rBytes b) size
      match if bitOf f 1 then mapLazy s (rPart b) size (bitOf f 0) l else mapBacked (rPart b) size (bitOf f 0) s l with
      | some s1 => .now s1 0 []
      | none => no s 4)

/-- The mapped pages of a range with their entries and sizes. -/
def mappedPages (s : State) (p dva n : Nat) : List (Nat × W64 × Nat) :=
  (pagesOf s p dva n).filterMap fun a =>
    let (e, sz, _) := pteAt s p a
    if pteMapped e then some (a, e, sz) else none

/-- No mapped page is cut by the ends of the range (R304). -/
def pagesWhole (dva n : Nat) (l : List (Nat × W64 × Nat)) : Bool :=
  l.all fun x => decide (dva ≤ x.1) && decide (x.1 + x.2.2 ≤ dva + n)

/-- The command's device argument or output overlaps a range of its partition. -/
def cmdTouches (c : Cmd) (p dva n : Nat) : Bool :=
  c.part == p &&
    ((usesArg (cop c) && isDev c.desc.arg && overlap (devAddr c.desc.arg) (argLen c.desc) dva n) ||
     (usesOut (cop c) && isDev c.desc.out && overlap (devAddr c.desc.out) (outLen c.desc) dva n))

/-- The range is in use by a fetched command or by the window. -/
def rangeBusy (s : State) (p dva n : Nat) : Bool :=
  (s.cmds.any fun c => cmdTouches c p dva n) ||
    inWindow s p dva n

/-- Removes the entries of pages and sends the invalidation to every TLB; the pages are freed when all have
acknowledged it. -/
def unmapPages (s : State) (m p dva n : Nat) (l : List (Nat × W64 × Nat)) : State :=
  let keys := l.flatMap fun x => leafKeys x.1 x.2.2
  let old := keys.map fun k => (k, pteOf s p k)
  let pas := (l.filter fun x => pteP x.2.1 || pteSw x.2.1 == 1).map fun x => ptePa x.2.1
  let free := s.pile.alloc.filter fun e => e.owner == Owner.page p && pas.contains e.base
  let s1 := keys.foldl (fun t k => setPte t p k 0) s
  { s1 with inval := s1.inval ++
      [{ part := p, dva := dva, size := n, tlbs := List.range 2617, free := free, chan := some m, old := old }] }

/-- UNMAP; a page that is being moved is moved first. -/
def execUnmap (m : Nat) (s : State) : Host.Outcome State Fault Refusal :=
  .next (request s m 0x07 fun s b =>
    let l := mappedPages s (rPart b) (rDva b) (rBytes b)
    if !rangeFits b 4096 || !pagesWhole (rDva b) (rBytes b) l then no s 2
    else if rangeBusy s (rPart b) (rDva b) (rBytes b) then no s 3
    else if l.all fun x => !pteP x.2.1 && pteSw x.2.1 == 2 then
      .now ((l.flatMap fun x => leafKeys x.1 x.2.2).foldl (fun t k => setPte t (rPart b) k 0) s) 0 []
    else
      let t := l.foldl (fun t x => finishMove t (rPart b) x.1) s
      .later (unmapPages t m (rPart b) (rDva b) (rBytes b) (mappedPages t (rPart b) (rDva b) (rBytes b))))

/-- Backs lazy pages of their own size with zeroed memory. -/
def backPages (p : Nat) : State → List (Nat × W64 × Nat) → Option State
  | s, [] => some s
  | s, (a, e, size) :: t =>
    match physAllocAny s size size (.page p) (pilesUp s) with
    | some (pa, s1) =>
      match putPtes (pmWrite s1 pa (zeroBytes size)) p (leaves a size (pteW e) (some pa)) with
      | some s2 => backPages p s2 t
      | none => none
    | none => none

/-- BACK. -/
def execBack (m : Nat) (s : State) : Host.Outcome State Fault Refusal :=
  .next (request s m 0x08 fun s b =>
    let l := (mappedPages s (rPart b) (rDva b) (rBytes b)).filter fun x => !pteP x.2.1 && pteSw x.2.1 == 2
    if !rangeFits b 4096 || !pagesWhole (rDva b) (rBytes b) l then no s 2
    else
      match backPages (rPart b) s l with
      | some s1 => .now s1 0 []
      | none => no s 4)

/-- SWAP_AREA. -/
def execSwapArea (m : Nat) (s : State) : Host.Outcome State Fault Refusal :=
  .next (request s m 0x09 fun s b =>
    let p := rPart b
    if !partOk p || rBytes b % 2 ^ 21 != 0 || decide (2 ^ 20 ≤ fieldLE b 24 4) then no s 2
    else if s.streams.any fun x => x.2.part == p && x.2.home == 0x1E then no s 3
    else .now (setPart s p { getPart s p with swap := some (rDva b, rBytes b, fieldLE b 24 4) }) 0 [])

/-- EXPORT_SET. -/
def execExportSet (m : Nat) (s : State) : Host.Outcome State Fault Refusal :=
  .next (request s m 0x0A fun s b =>
    let p := rPart b
    let i := fieldLE b 5 1
    let e : Export := { part := p, dva := rDva b, bytes := rBytes b }
    if !partOk p || decide (64 ≤ i) || decide (2 ^ 48 < rDva b + rBytes b) then no s 2
    else if (tget none s.dom.exports i).any fun x => x.part != p then no s 3
    else .now { s with dom := { s.dom with
      exports := tput none s.dom.exports i (if rBytes b = 0 then none else some e) } } 0 [])

/-! ### Streams -/

/-- The results of STREAM_READ, bytes 4 to 43 of the reply. -/
def streamResult (x : Stream) : Bytes :=
  leN 1 (b2n x.isOpen + 2 * b2n x.damaged) ++ leN 1 x.home ++ leN 2 x.client ++ leN 4 x.part ++ leN 4 x.position ++
    leN 4 x.slip ++ leN 4 x.slipCount ++ leN 8 x.rstep.toNat ++ leN 8 x.lastBead.toNat ++ leN 4 x.defaultSet.toNat

/-- STREAM_READ. -/
def execStreamRead (m : Nat) (s : State) : Host.Outcome State Fault Refusal :=
  .next (request s m 0x0B fun s b =>
    if 16384 ≤ fieldLE b 4 2 then no s 2 else .now s 0 (streamResult (getStream s (fieldLE b 4 2))))

/-- STREAM_PLACE: the request is queued; a stream that is where it should be, or has no state in a pile, needs nothing. -/
def execStreamPlace (m : Nat) (s : State) : Host.Outcome State Fault Refusal :=
  .next (request s m 0x0C fun s b =>
    let st := fieldLE b 4 2
    let act := fieldLE b 6 1
    let pile := fieldLE b 7 1
    let x := getStream s st
    if decide (16384 ≤ st) || decide (1 < act) || (act == 1 && !(pileOk pile && !pileFenced s pile)) || !x.isOpen then no s 2
    else if x.move.isSome then no s 3
    else if 16 ≤ x.home ∨ (act = 1 ∧ x.home = pile) then .now s 0 []
    else .now (setStream s st { x with move := some (if act = 0 then none else some pile) }) 0 [])

/-! ### Domains (R347 to R349) -/

/-- DOMAIN_SET. -/
def execDomainSet (m : Nat) (s : State) : Host.Outcome State Fault Refusal :=
  .next (request s m 0x10 fun s b =>
    if 1 < fieldLE b 32 1 then no s 2
    else if s.dom.inDomain then no s 3
    else .now { s with dom := { s.dom with
      domId := BitVec.ofNat 64 (fieldLE b 8 8), key := BitVec.ofNat 128 (fieldLE b 16 16)
      cfgPair := bitOf (fieldLE b 32 1) 0 } } 0 [])

/-- A join request leaves on every port that is up. -/
def askJoin (s : State) (want : Nat) (demand : Bool) : State :=
  (List.range 72).foldl (fun t p =>
    if (getPort t p).state = 2 then
      sendCtl t (nearby p) (.joinRequest want demand t.dom.cfgPair t.dom.domId 0 0 0)
    else t) s

/-- DOMAIN_JOIN. -/
def execDomainJoin (m : Nat) (s : State) : Host.Outcome State Fault Refusal :=
  .next (request s m 0x11 fun s b =>
    let want := fieldLE b 4 2
    let f := fieldLE b 6 1
    if decide (32768 ≤ want) || decide (3 < f) then no s 2
    else if s.dom.inDomain || s.dom.join.isSome then no s 3
    else if s.cmds.any fun c => cop c == opRUN && c.desc.bead != 0 then no s 6
    else
      let j : Join := { chan := m, want := want, demand := bitOf f 0, found := bitOf f 1, at_ := s.time }
      .later (askJoin { s with dom := { s.dom with join := some j } } want (bitOf f 0)))

/-- R349 does not allow the package to leave. -/
def leaveBusy (s : State) : Bool :=
  (s.cmds.any fun c => c.desc.token != 0) ||
    (s.cores.any fun x => x.2.disp.any fun d => !d.reads.isEmpty) ||
    s.streams.any fun x => x.2.isOpen && mirrored s x.1

/-- Who is told of a departure: the keeper, or every member if this package is the keeper. -/
def tellLeave (s : State) : State :=
  if s.dom.keeper then
    (s.dom.roster.filter fun k => k != selfPkg s).foldl (fun t k => sendCtl t k (.departure (selfPkg s))) s
  else sendCtl s s.dom.keeperPkg (.departure (selfPkg s))

/-- The departure is on its way; the leave is answered once it is acknowledged (R343). -/
def startLeave (s : State) (m : Nat) : State :=
  let s1 := tellLeave s
  { s1 with dom := { s1.dom with leaving := some (some m) } }

/-- DOMAIN_LEAVE: a package that is alone, or in no domain, has nobody to tell. -/
def execDomainLeave (m : Nat) (s : State) : Host.Outcome State Fault Refusal :=
  .next (request s m 0x12 fun s _ =>
    if leaveBusy s || s.dom.leaving.isSome then no s 3
    else if !s.dom.inDomain || (s.dom.keeper && s.dom.roster.all fun k => k == selfPkg s) then .now (leaveDomain s) 0 []
    else .later (startLeave s m))

end Sys2Proof.Machine
end

