-- ==== Sys2Proof/Machine/Boot.lean ====
section
/-! DEFINITION. The boot ROM, the image, the fuses, the identity and attestation (R398 to R413), and the start of the
firmware (R418). -/

namespace Sys2Proof.Machine

open Sys2Proof

/-- A fault is present from now on; FAULT_N shows the first to occur (R424). -/
def raiseFault (s : State) (n : Nat) : State :=
  if s.rst.faults.contains n then s else { s with rst := { s.rst with faults := s.rst.faults ++ [n] } }

/-! ## The boot sequence (R398, R399) -/

/-- The first and second source of BOOTSEL: 0 flash, 1 host push, 2 Floine peer. -/
def bootSources (sel : Nat) : Option (Nat × Option Nat) :=
  if sel = 0 then some (0, none)
  else if sel = 1 then some (1, none)
  else if sel = 2 then some (2, none)
  else if sel = 3 then some (0, some 1)
  else if sel = 4 then some (0, some 2)
  else none

def setSec (s : State) (f : Sec → Sec) : State := { s with sec := f s.sec }
def setCode (s : State) (code : Nat) : State := { s with crown := { s.crown with bootCode := BitVec.ofNat 8 code } }

/-- Where the ROM stands. -/
def romTo (r : Rom) (x : Sec) : Sec := { x with rom := r }
/-- The medium of port 0 that the ROM tries, and since when (R402). -/
def mediumTo (k : BitVec 2) (since : Nat) (x : Sec) : Sec := { x with medium := k, mediumAt := since }
/-- The code of the first source is kept. -/
def codeOf (second : Bool) (code : Nat) (x : Sec) : Sec :=
  { x with firstCode := if second then x.firstCode else BitVec.ofNat 8 code }

/-- The ROM stops with a code (R399). -/
def romStop (s : State) (code : Nat) : State := raiseFault (setCode (setSec s (romTo .stopped)) code) 7

/-- The ROM trains port 0 with a medium (R402). -/
def romTrain (s : State) (medium : Nat) : State :=
  portCtrl (portCtrl s 0 0x100) 0 (BitVec.ofNat 32 (0x80000100 + medium))

/-- The ROM turns to a source. -/
def trySource (s : State) (src : Nat) (second : Bool) : State :=
  let s1 := setSec s (romTo (.trying src second))
  if src = 2 then romTrain (setSec s1 (mediumTo 0 s.time)) 0 else s1

/-- A source has failed: its code is recorded, and the ROM goes on to the next source, waits for a further push, or
stops. -/
def sourceFails (s : State) (code : Nat) : State :=
  match s.sec.rom with
  | .trying src second =>
    let s1 := setCode (setSec s (codeOf second code)) code
    match bootSources s.sec.bootsel.toNat, second with
    | some (_, some nxt), false => trySource s1 nxt true
    | _, _ => if src = 1 then setSec s1 (romTo .push) else romStop s1 code
  | _ => setCode s code

/-- The security block as the ROM starts. -/
def secStart (now : Nat) (x : Sec) : Sec :=
  { x with
    boots := x.boots + 1, source := 7, fellBack := false, firstCode := 0, image := [], win := [], booted := []
    measure := [], svn := 0, romAt := now, held := [], repSeq := 0, engineOn := false, lmsReady := false, treeBuilt := false
    dmaFault := false, sigsLeft := 0 }
/-- A leaf of the top tree is spent, and the security engine starts (R398, R409). -/
def spendLeaf (x : Sec) : Sec :=
  if x.nextLeaf < 65536 then { x with engineOn := true, leaf := x.nextLeaf, nextLeaf := x.nextLeaf + 1, lmsSpent := false }
  else { x with engineOn := true, lmsSpent := true }

/-- The ROM starts: it checks the fuses, spends a leaf of the top tree and turns to the first source. -/
def startRom (s : State) (fusesOk : Bool) : State :=
  let s1 := setSec s (secStart s.time)
  if !fusesOk then romStop s1 0x0B
  else
    match bootSources s.sec.bootsel.toNat with
    | some (src, _) => trySource (setSec s1 spendLeaf) src false
    | none => romStop (setSec s1 spendLeaf) 0x0C

/-! ## The image (R403 to R405) -/

def imgBody (b : Bytes) : Nat := fieldLE b 8 4
def imgOwner (b : Bytes) : Bool := bitOf (fieldLE b 6 1) 0
def imgSvn (b : Bytes) : Nat := fieldLE b 12 4
/-- The bytes the header says the image has. -/
def imgTotal (b : Bytes) : Nat := 128 + imgBody b + (if imgOwner b then 3928 else 1964)
/-- M: the SHA-384 of header and body. -/
def imgMeasure (b : Bytes) : Bytes := sha384 (slice b 0 (128 + imgBody b))

/-- The header is well formed and the bytes are as many as it says. -/
def imgFormed (b : Bytes) : Bool :=
  fieldLE b 0 4 == 0x5746564B && fieldLE b 4 2 == 1 && decide (fieldLE b 6 1 < 2) && fieldLE b 7 1 == 0 &&
    decide (65536 ≤ imgBody b) && decide (imgBody b ≤ 8388608) && imgBody b % 64 == 0 && decide (imgSvn b ≤ 64) &&
    (slice b 20 108).all (fun x => x == 0) && b.length == imgTotal b

/-- The three items of a signature part at offset `o`: key, ECDSA signature, LMS signature. -/
def partKey (b : Bytes) (o : Nat) : Bytes := slice b o 96
def partSig (b : Bytes) (o : Nat) : Bytes := slice b (o + 96) 96
def partLms (b : Bytes) (o : Nat) : Bytes := slice b (o + 192) 1772
def vendorAt (b : Bytes) : Nat := 128 + imgBody b
def ownerAt (b : Bytes) : Nat := 128 + imgBody b + 1964

/-- The boot code of an image: that of the first check of R404 that fails, or 0. -/
def imageCode (x : Sec) (b : Bytes) : Nat :=
  let m := imgMeasure b
  let v := vendorAt b
  let o := ownerAt b
  if !imgFormed b then 0x03
  else if sha384 (partKey b v) != slice x.vendorDigest 0 48 then 0x04
  else if !ecdsaOk (partKey b v) (partSig b v) m then 0x05
  else if !lmsOk x.vendorLms (partLms b v) m then 0x06
  else if x.ownerSet && !(imgOwner b && sha384 (partKey b o) == slice x.ownerDigest 0 48 &&
      ecdsaOk (partKey b o) (partSig b o) m) then 0x07
  else if x.ownerSet && !lmsOk x.ownerLms (partLms b o) m then 0x08
  else if imgSvn b < x.rollback then 0x09
  else 0

/-- The image is booted. -/
def bootedImage (b : Bytes) (src : Nat) (second : Bool) (x : Sec) : Sec :=
  { x with
    rom := .booted, booted := b, measure := imgMeasure b, svn := imgSvn b, source := BitVec.ofNat 3 src, fellBack := second }

/-- An accepted image: it is measured, and the firmware starts. -/
def acceptImage (s : State) (b : Bytes) (src : Nat) (second : Bool) : State :=
  let s1 := setSec s (bootedImage b src second)
  { s1 with crown := { s1.crown with bootCode := 0, fwVersion := BitVec.ofNat 32 (fieldLE b 16 4) } }

/-- A source has delivered an image. -/
def checkImage (s : State) (b : Bytes) (src : Nat) (second : Bool) : State :=
  if imageCode s.sec b = 0 then acceptImage s b src second else sourceFails s (imageCode s.sec b)

/-- The Basic Flash Parameter Table of JESD216 as a list of its words; none if the tables are not valid
(notes/assumptions/51.md). -/
def flashTable (sfdp : Bytes) : Option (List Nat) :=
  let at_ := fieldLE sfdp 12 3
  let n := fieldLE sfdp 11 1
  if fieldLE sfdp 0 4 == 0x50444653 && fieldLE sfdp 5 1 == 1 && fieldLE sfdp 8 1 == 0 && decide (9 ≤ n) &&
      decide (at_ + 4 * n ≤ sfdp.length)
  then some ((List.range n).map fun i => fieldLE sfdp (at_ + 4 * i) 4)
  else none

/-- The tables list the 1-4-4 fast read. -/
def flashQuad (t : List Nat) : Bool := bitOf (t.headD 0) 21
/-- The device is larger than 16 MiB, so that the ROM uses 4-byte addresses. -/
def flashLarge (t : List Nat) : Bool :=
  let d := (t[1]?).getD 0
  if bitOf d 31 then decide (27 < d % 2 ^ 31) else decide (2 ^ 27 ≤ d)

/-- The ROM reads the header of the image at address 0, and then as many bytes as it says. -/
def flashImage (mem : Bytes) : Bytes := mem.take (imgTotal (slice mem 0 128))

/-- FLASH_READ (R400): a device without valid tables counts as absent. -/
def execFlashRead (a : ImgAns) (s : State) : Host.Outcome State Fault Refusal :=
  match s.sec.rom with
  | .trying 0 second =>
    if !crownUp s then .next s
    else
      match a with
      | .absent => .next (sourceFails s 0x01)
      | .device sfdp fails mem =>
        match flashTable sfdp with
        | none => .next (sourceFails s 0x01)
        | some t =>
          let b := flashImage mem
          let s1 := wire s (.flash (flashQuad t) (flashLarge t) b.length)
          .next (if fails then sourceFails s1 0x02 else checkImage s1 b 0 second)
  | _ => .next s

/-! ## Host push (R401) -/

/-- IMAGE_WINDOW_WRITE. -/
def execImageWindowWrite (off : Nat) (data : Bytes) (s : State) : Host.Outcome State Fault Refusal :=
  .next (hostAccess s fun s =>
    if s.crown.ready || decide (0x100000 < off + data.length) then s
    else setSec s fun x => { x with win := memPut x.win off data })

/-- BOOT_CHUNK. -/
def execBootChunk (m : Nat) (s : State) : Host.Outcome State Fault Refusal :=
  .next (request s m 0x28 fun s b =>
    let o := fieldLE b 4 4
    let n := fieldLE b 8 4
    if n = 0 ∨ 1048576 < n ∨ 8392664 < o + n then no s 2
    else .now (setSec s fun x => { x with image := memPut x.image o (memGet x.win 0 n) }) 0 [])

/-- BOOT_GO: the pushed image is checked where the ROM waits for a push; a TOTAL above the largest of R403 matches no
header. -/
def execBootGo (m : Nat) (s : State) : Host.Outcome State Fault Refusal :=
  .next (request s m 0x29 fun s b =>
    let img := memGet s.sec.image 0 (min (fieldLE b 4 4) 8392665)
    match s.sec.rom with
    | .trying 1 second => .now (checkImage s img 1 second) 0 []
    | .push => .now (checkImage s img 1 (s.sec.bootsel == 3)) 0 []
    | _ => no s 3)

/-! ## Floine peer (R402) -/

/-- The image this package booted leaves for a peer. -/
def sendImage (s : State) (dst : Nat) : State :=
  queueFlits (wire s (.image dst s.sec.booted)) 1 dst (flitsOf s.sec.booted)

/-- A destination is reached by a port that is up. -/
def portUpTo (s : State) (dst : Nat) : Bool := (outPort s dst).any fun p => (getPort s p).state == 2

/-- BOOT_FETCH: a request that has come from a peer is served on its port; it waits while the firmware is not ready. -/
def execBootFetch (s : State) : Host.Outcome State Fault Refusal :=
  if !s.crown.ready || d1Off s then .next s
  else
    match takeGot s fun x => match x.2 with | .bootFetch => true | _ => false with
    | some (src, _, s1) => .next (if portUpTo s1 src then sendImage s1 src else s1)
    | none => .next s

/-- BOOT_MEDIUM_SWITCH: every 500 ms until port 0 is up. -/
def execBootMediumSwitch (s : State) : Host.Outcome State Fault Refusal :=
  if crownUp s && romPeer s && (getPort s 0).state != 2 && decide (s.sec.mediumAt + 500000000 ≤ s.time) then
    let k := 1 - s.sec.medium.toNat
    .next (romTrain (setSec s (mediumTo (BitVec.ofNat 2 k) s.time)) k)
  else .next s

/-- BOOT_PEER_TIMEOUT: 10 s after the ROM started. -/
def execBootPeerTimeout (s : State) : Host.Outcome State Fault Refusal :=
  onlyIf (crownUp s && romPeer s && decide (s.sec.romAt + 10000000000 ≤ s.time)) s (sourceFails s 0x01)

/-- PEER_IMAGE_ARRIVE. -/
def execPeerImageArrive (b : Bytes) (s : State) : Host.Outcome State Fault Refusal :=
  match s.sec.rom with
  | .trying 2 second => onlyIf (crownUp s && (getPort s 0).state == 2) s (checkImage s b 2 second)
  | _ => .next s

/-- FIRMWARE_READY: the firmware of an accepted image accepts requests; the release sequence is over. At the end of a
boot the bead counter starts (R42). -/
def execFirmwareReady (s : State) : Host.Outcome State Fault Refusal :=
  onlyIf (s.sec.rom == .booted && s.rst.resetting.isNone && crownUp s && !d1Off s) s
    { s with
      crown := { s.crown with ready := true }
      bead := if s.bead.en then s.bead else { s.bead with en := true, edge := s.time, from3 := 3 * s.time } }

/-! ## Fuses (R406, R407) -/

/-- ROLLBACK_ADVANCE. -/
def execRollbackAdvance (m : Nat) (s : State) : Host.Outcome State Fault Refusal :=
  .next (request s m 0x22 fun s b =>
    let t := fieldLE b 4 1
    if s.sec.svn < t then no s 2
    else .now (setSec s fun x => { x with rollback := max x.rollback t }) 0 [])

/-- An owner block verifies, and the running image has an owner part under its keys (R407). -/
def ownerBlockOk (x : Sec) (b : Bytes) : Bool :=
  let key := slice b 0 96
  let lms := slice b 96 56
  let d := sha384 (leN 8 x.serial.toNat ++ slice b 0 152)
  let img := x.booted
  b.length == 2020 && ecdsaOk key (slice b 152 96) d && lmsOk lms (slice b 248 1772) d && imgOwner img &&
    partKey img (ownerAt img) == key && ecdsaOk key (partSig img (ownerAt img)) (imgMeasure img) &&
    lmsOk lms (partLms img (ownerAt img)) (imgMeasure img)

/-- PASID and length of a request that names host memory. -/
def dmaFieldsOk (b : Bytes) (al least most : Nat) : Bool :=
  decide (fieldLE b 4 4 < 2 ^ 20) && fieldLE b 8 8 % al == 0 && decide (least ≤ fieldLE b 16 4) &&
    decide (fieldLE b 16 4 ≤ most)

/-- OWNER_PROVISION: `blk` is what the host answers to the read of the owner block. -/
def execOwnerProvision (m : Nat) (blk : HostAns) (s : State) : Host.Outcome State Fault Refusal :=
  .next (request s m 0x23 fun s b =>
    if s.sec.ownerSet then no s 3
    else if !dmaFieldsOk b 1 2020 2020 then no s 2
    else
      let s := dmaRead s (some (fieldLE b 4 4)) (fieldLE b 8 8) 2020
      match blk with
      | .refused _ => no s 2
      | .data d =>
        if !ownerBlockOk s.sec d then no s 2
        else .now (setSec s fun x => { x with
          ownerDigest := sha384 (slice d 0 96), ownerLms := slice d 96 56, ownerSet := true }) 0 [])

/-! ## Identity (R408, R409) -/

def udsBytes (x : Sec) : Bytes := leN 32 x.uds.toNat
/-- The seed of the DeviceID key. -/
def deviceSeed (x : Sec) : Bytes := hmac384 (udsBytes x) (label "KV64 DeviceID")
/-- The seed of the alias key, by way of the CDI. -/
def aliasSeed (x : Sec) : Bytes :=
  hmac384 (hmac384 (udsBytes x) (x.measure ++ leN 4 x.svn ++ slice x.ownerDigest 0 48)) (label "KV64 Alias")
/-- The seed of the lower LMS tree of a boot. -/
def lowerSeed (x : Sec) : Bytes := hmac384 (udsBytes x) (label "KV64 LMS" ++ leN 4 x.leaf)
/-- The public key that the engine derives from a seed. -/
def keyOf (seed : Bytes) : Bytes := slice (Config.secret 0 seed) 0 96
/-- An ECDSA signature of a digest; `n` tells one signature from the next. -/
def ecdsaSign (seed digest : Bytes) (n : Nat) : Bytes := slice (Config.secret 1 (seed ++ digest ++ leN 8 n)) 0 96
/-- The HSS public key, 60 bytes with L = 2. -/
def hssPub (x : Sec) : Bytes :=
  beN 4 2 ++ beN 4 0xEA000010 ++ beN 4 4 ++ slice (Config.secret 2 (udsBytes x)) 0 16 ++ slice x.topTree 0 32
/-- The public key of the lower tree, 56 bytes. -/
def lowerPub (x : Sec) : Bytes := beN 4 7 ++ beN 4 4 ++ slice (Config.secret 3 (lowerSeed x)) 0 48
/-- An HSS signature of 3,316 bytes with a leaf of the lower tree. -/
def hssSign (x : Sec) (leaf : Nat) (d : Bytes) : Bytes :=
  let top := Config.secret 4 (udsBytes x ++ leN 4 x.leaf)
  let low := Config.secret 5 (lowerSeed x ++ leN 4 leaf ++ d)
  beN 4 1 ++
    (beN 4 x.leaf ++ beN 4 4 ++ slice top 0 1120 ++ beN 4 0xEA000010 ++ slice top 1120 512) ++ lowerPub x ++
    (beN 4 leaf ++ beN 4 4 ++ slice low 0 1120 ++ beN 4 7 ++ slice low 1120 480)

/-- The identity block of 512 bytes. -/
def identityBlock (s : State) : Bytes :=
  let x := s.sec
  let dev := deviceSeed x
  let al := keyOf (aliasSeed x)
  keyOf dev ++ al ++ ecdsaSign dev (sha384 (al ++ x.measure ++ leN 4 x.svn)) x.boots ++ hssPub x ++ leN 8 x.serial.toNat ++
    leN 4 x.leaf ++ List.replicate 152 0

def dmaFaulted (s : State) : State := setSec s fun x => { x with dmaFault := true }

/-- IDENTITY_READ; a refused DMA is answered BAD_FIELD (notes/assumptions/20.md). -/
def execIdentityRead (m : Nat) (refused : Bool) (s : State) : Host.Outcome State Fault Refusal :=
  .next (request s m 0x21 fun s b =>
    if !dmaFieldsOk b 1 512 (2 ^ 32) then no s 2
    else if refused then .now (dmaFaulted s) 2 []
    else .now (dmaWrite s (some (fieldLE b 4 4)) (fieldLE b 8 8) (identityBlock s)) 0 [])

/-! ## Reports (R410 to R412) -/

def chipId : Nat := 0x4B642100
/-- A fence bit is set (R28). -/
def degradedPkg (s : State) : Bool :=
  s.crown.fenceLo != 0 || s.crown.fenceHi != 0 || s.crown.fenceLnk != 0 || s.crown.fencePlb != 0

/-- Bytes 0 to 255 of a report. -/
def reportHead (s : State) (leaf : Nat) (nonce : Bytes) : Bytes :=
  let x := s.sec
  leN 4 0x5441564B ++ leN 2 1 ++
    leN 2 (b2n s.dbg.attached + 2 * b2n x.ownerSet + 4 * b2n (degradedPkg s) + 8 * b2n s.dom.inDomain) ++ leN 4 3668 ++
    leN 4 s.dbg.sessions ++ leN 8 x.serial.toNat ++ leN 4 chipId ++ leN 4 s.crown.fwVersion.toNat ++ leN 4 x.svn ++
    leN 4 x.rollback ++ leN 4 x.leaf ++ leN 4 leaf ++ leN 8 s.bead.count.toNat ++
    leN 4 (b2n s.dom.inDomain * 2 ^ 31 + selfPkg s) ++ leN 4 0 ++ slice nonce 0 32 ++ slice x.measure 0 48 ++
    slice x.ownerDigest 0 48 ++ leN 4 s.crown.fenceLo.toNat ++ leN 4 s.crown.fenceHi.toNat ++
    leN 4 (s.crown.fencePlb.toNat + s.crown.fenceLnk.toNat * 2 ^ 16) ++ List.replicate 52 0

/-- The whole report, signed with a leaf. -/
def reportOf (s : State) (leaf : Nat) (nonce : Bytes) : Bytes :=
  let h := reportHead s leaf nonce
  let d := sha384 h
  h ++ ecdsaSign (aliasSeed s.sec) d leaf ++ hssSign s.sec leaf d

/-- A request for a report: NO_ROOM, BUSY, or held under the next number. -/
def holdReport (s : State) (r : HeldReport) : Except Nat State :=
  let x := s.sec
  if x.lmsSpent || (x.treeBuilt && decide (x.sigsLeft ≤ x.held.length)) then .error 4
  else if 64 ≤ x.held.length then .error 3
  else .ok (setSec s fun x => { x with held := x.held ++ [r], repSeq := x.repSeq + 1 })

/-- ATTEST. -/
def execAttest (m : Nat) (s : State) : Host.Outcome State Fault Refusal :=
  .next (request s m 0x20 fun s b =>
    if !dmaFieldsOk b 64 3668 (2 ^ 32) then no s 2
    else
      match holdReport s { dma := some (fieldLE b 4 4, fieldLE b 8 8), nonce := slice b 20 32 } with
      | .error e => no s e
      | .ok s1 => .now s1 0 (leN 4 s.sec.repSeq))

/-- The I3C port answers: its dynamic address is assigned (R478). -/
def mctpUp (s : State) : Bool := s.dbg.dynAddr.isSome

/-- REPORT_SIGN: the oldest held report is signed and written, bytes 8 to 3,667 first; `refused` says that the host's
IOMMU refused the DMA. -/
def execReportSign (refused : Bool) (s : State) : Host.Outcome State Fault Refusal :=
  match s.sec.held with
  | [] => .next s
  | r :: rest =>
    if !s.crown.ready || d1Off s || !s.sec.lmsReady || s.sec.sigsLeft = 0 then .next s
    else
      let leaf := 32768 - s.sec.sigsLeft
      let rep := reportOf s leaf r.nonce
      let s1 := setSec s fun x => { x with held := rest, sigsLeft := x.sigsLeft - 1 }
      match r.dma with
      | none => .next (wire s1 (.mctp (some 0) rep))
      | some (pasid, a) =>
        .next (if refused then dmaFaulted s1
               else dmaWrite (dmaWrite s1 (some pasid) (a + 8) (rep.drop 8)) (some pasid) a (rep.take 8))

/-- LMS_TREE_READY: the lower tree stands, for the first time of the boot or again after S2. -/
def execLmsTreeReady (s : State) : Host.Outcome State Fault Refusal :=
  onlyIf (crownUp s && !d1Off s && s.sec.engineOn && !s.sec.lmsSpent && !s.sec.lmsReady) s
    (setSec s fun x => { x with
      lmsReady := true, treeBuilt := true, sigsLeft := if x.treeBuilt then x.sigsLeft else 32768 })

/-- MCTP_ATTEST (R413): held like any request; what a mailbox would refuse is answered by its status. -/
def execMctpAttest (nonce : Bytes) (s : State) : Host.Outcome State Fault Refusal :=
  if !mctpUp s then .next s
  else if !s.crown.ready || d1Off s then .next (wire s (.mctp (some 3) []))
  else
    match holdReport s { dma := none, nonce := slice nonce 0 32 } with
    | .error e => .next (wire s (.mctp (some (BitVec.ofNat 8 e)) []))
    | .ok s1 => .next s1

/-- MCTP_IDENTITY (R413). -/
def execMctpIdentity (s : State) : Host.Outcome State Fault Refusal :=
  if !mctpUp s then .next s
  else if !s.crown.ready || d1Off s then .next (wire s (.mctp (some 3) []))
  else .next (wire s (.mctp (some 0) (identityBlock s)))

end Sys2Proof.Machine
end

