-- ==== Sys2Proof/Machine/Reset.lean ====
section
/-! DEFINITION. Resets, their scopes and causes, the release sequence, logic self-test and the clock-good interlock
(R415 to R426, R431). -/

namespace Sys2Proof.Machine

open Sys2Proof

/-! ## Scopes (R415) -/

/-- What a pile keeps in its repair OTP (R283, R287). -/
def pileOtp (p : Pile) : Pile := { erased := p.erased, rowsUsed := p.rowsUsed, colsUsed := p.colsUsed }

/-- The fuses and the OTP. -/
def fuses (x : Sec) : Sec :=
  { uds := x.uds, serial := x.serial, vendorDigest := x.vendorDigest, vendorLms := x.vendorLms, topTree := x.topTree
    ownerSet := x.ownerSet, ownerDigest := x.ownerDigest, ownerLms := x.ownerLms, rollback := x.rollback
    nextLeaf := x.nextLeaf, age := x.age, dayAt := x.dayAt, overstress := x.overstress, boots := x.boots, lanes := x.lanes }

/-- The state after the package scope, apart from the reset controller's own: what lies outside the scope (the fuses,
the repair OTP, the fences, the Nightcap's registers, D20) and what the outside has seen stay. -/
def clearPackage (s : State) : State :=
  { time := s.time, free := s.free, pending := s.pending, io := { s.io with msixTable := [], corEn := false }
    crown := { fenceLo := s.crown.fenceLo, fenceHi := s.crown.fenceHi, fenceLnk := s.crown.fenceLnk, fencePlb := s.crown.fencePlb }
    piles := (s.piles.map fun x => (x.1, pileOtp x.2)).filter fun x => x.2 != {}
    sec := { fuses s.sec with bootsel := s.sec.bootsel }
    dbg := { s.dbg with attached := false }
    rst := s.rst
    pwr := { target := s.pwr.target, idleMs := s.pwr.idleMs, idleFrom := s.time, shut := s.pwr.shut, seq := s.pwr.seq
             domOff := ([15, 16, 17, 19] ++ s.pwr.shut).eraseDups, throttle := s.pwr.throttle, droops := s.pwr.droops }
    mon := s.mon
    health := { rowFix := s.health.rowFix, colFix := s.health.colFix } }

/-- A reset of the package scope: the cause is recorded, and the release sequence restarts at step 2. A wider reset
in progress goes on; a self-test that was due and has not run stays due. -/
def packageReset (s : State) (cause : Nat) (test : Bool) : State :=
  let r := s.rst
  { clearPackage s with rst := { r with
    cause := r.cause ||| BitVec.ofNat 10 (2 ^ cause)
    resetting := if r.resetting = some .alwaysOn then some .alwaysOn else some .package
    step := min r.step 1, runTest := test || (r.resetting.isSome && decide (r.step < 3) && r.runTest)
    relAt := s.time, forced := [], faults := r.faults.filter fun f => f == 6 || r.hold == some f } }

/-- Everything is reset; with VAON good throughout, the sequence register and the THERM and SUPPLY causes stay (R419,
R431); the rise of PWROK samples the straps (R420). -/
def alwaysOnReset (s : State) (vaonGood pwrok : Bool) (straps : Straps) : State :=
  let t := clearPackage s
  { t with
    dbg := {}, mon := {}
    io := { t.io with aerAbort := false, aerAdvisory := false, aerFatal := false, aerLog := none }
    sec := { t.sec with
      bootsel := if pwrok then straps.bootsel else s.sec.bootsel, dayAt := if vaonGood then s.sec.dayAt else s.time }
    pwr := { idleFrom := s.time, seq := if vaonGood then s.pwr.seq else 0 }
    crown := {}
    rst := { cause := 1 ||| (if vaonGood then s.rst.cause &&& 0x60 else 0), relAt := s.time
             clksel := if pwrok then straps.clksel else s.rst.clksel
             stmand := if pwrok then straps.stmand else s.rst.stmand } }

/-- The package is held for good: code `n` of FAULT_N, or none, until POR, or until POR or PIN. -/
def hold (s : State) (n : Nat) (porOnly : Bool) : State :=
  let s1 := if n = 0 then s else raiseFault s n
  { s1 with rst := { s1.rst with hold := some n, holdPor := porOnly } }

/-- A failure of self-test holds the package (R426). -/
def testHolds (s : State) (n : Nat) : State :=
  let s1 := hold s n false
  { s1 with rst := { s1.rst with cause := s1.rst.cause ||| 0x80 } }

/-! ## Sources -/

/-- POR. -/
def execPor (vaonGood pwrok : Bool) (straps : Straps) (s : State) : Host.Outcome State Fault Refusal :=
  .next (alwaysOnReset s vaonGood pwrok straps)

/-- PIN_RESET: it also ends a hold that does not wait for POR. -/
def execPinReset (s : State) : Host.Outcome State Fault Refusal :=
  let s1 := if s.rst.hold.isSome && !s.rst.holdPor then { s with rst := { s.rst with hold := none } } else s
  .next (packageReset s1 1 true)

/-- HOST_RESET: a hot or link reset of the host die over a link that is up, or the loss of the link outside a reset and
S2 (R416). -/
def execHostReset (linkLoss : Bool) (s : State) : Host.Outcome State Fault Refusal :=
  onlyIf (crownUp s && s.crown.linkUp && (!linkLoss || (s.rst.resetting.isNone && s.pwr.cur != 2))) s
    (packageReset s 2 s.rst.stWarm)

/-- The requests the firmware has accepted and not answered are answered with RETRY, in order (R378). -/
def retryAll (s : State) : State :=
  (List.range 8).foldl (fun t m =>
    let l := ((t.mail.slow.filter fun x => x.1 == m).map fun x => x.2) ++ getReqs t m
    l.foldl (fun u r => putReply u m (replyBytes r.msg 5 []))
      (setReqs { t with mail := { t.mail with slow := t.mail.slow.filter fun x => x.1 != m } } m [])) s

/-- An unmapping that was not answered has no effect: its entries are put back (R378). -/
def undoUnmaps (s : State) : State :=
  let l := s.inval.filter fun v => v.chan.isSome
  let s1 := { s with inval := s.inval.filter fun v => v.chan.isNone }
  l.foldl (fun t v => v.old.foldl (fun u x => setPte u v.part x.1 x.2) t) s1

/-- Every running command is killed uncounted. -/
def rerunAll (s : State) : State :=
  ((s.cmds.filter fun c => c.stage == .running).map Cmd.id).foldl (fun t id => startKill t id .rerun false) s

/-- What the firmware holds in its own memory is gone: READY, a join, a stop that has not taken effect (R378), the reports it
has not answered. -/
def freshFirmware (s : State) : State :=
  { s with
    crown := { s.crown with ready := false, restarts := min (s.crown.restarts + 1) 255 }
    clients := s.clients.map fun x => (x.1, { x.2 with stopping := false })
    dom := { s.dom with join := none, leaving := s.dom.leaving.map fun _ => none }
    sec := { s.sec with held := [] }
    rst := { s.rst with kickAt := s.time } }

/-- The firmware restarts (R412, R418). -/
def firmwareReset (s : State) : State := freshFirmware (rerunAll (retryAll (undoMoves (undoUnmaps s))))

/-- Sets a cause bit. -/
def setCause (s : State) (n : Nat) : State :=
  { s with rst := { s.rst with cause := s.rst.cause ||| BitVec.ofNat 10 (2 ^ n) } }

/-- FW_RESTART: during a package-scope reset only the cause is recorded (R416). -/
def execFwRestart (s : State) : Host.Outcome State Fault Refusal :=
  if !crownUp s || s.sec.rom != .booted then .next s
  else if s.rst.resetting.isSome then .next (setCause s 3)
  else .next (firmwareReset (setCause s 3))

/-- WDOG_EXPIRY: 500 ms without a kick; before the firmware has set READY it takes the package scope (R418). -/
def execWdogExpiry (s : State) : Host.Outcome State Fault Refusal :=
  if !crownUp s || d1Off s || s.time < s.rst.kickAt + 500000000 then .next s
  else if s.rst.resetting.isSome then .next (setCause s 4)
  else if s.crown.ready then .next (firmwareReset (setCause s 4))
  else .next (packageReset s 4 false)

/-- THERMTRIP_N goes low and the package is held in reset until POR. -/
def thermal (s : State) : State :=
  let s1 := hold (packageReset s 5 false) 0 true
  { s1 with rst := { s1.rst with thermTrip := true } }

/-- THERM_RESET. -/
def execThermReset (s : State) : Host.Outcome State Fault Refusal := .next (thermal s)

/-- SUPPLY_RESET. -/
def execSupplyReset (s : State) : Host.Outcome State Fault Refusal := .next (packageReset s 6 true)

/-- LINK_RESET: a reset message of the keeper with a valid SipHash of this package's number (R415,
notes/assumptions/21.md). -/
def execLinkReset (s : State) : Host.Outcome State Fault Refusal :=
  match takeGot s fun x => match x.2 with | .reset _ => true | _ => false with
  | some (src, .reset proof, s1) =>
    onlyIf (s1.dom.inDomain && src == s1.dom.keeperPkg && proof == siphash s1.dom.key (leN 2 (selfPkg s1))) s1
      (packageReset s1 8 s1.rst.stWarm)
  | _ => .next s

/-- SEQ_BREACH: overstress programs a bit of the link dies' thermometer (R463); LOAD_OFF comes with a SUPPLY reset. -/
def execSeqBreach (bits : BitVec 6) (s : State) : Host.Outcome State Fault Refusal :=
  let s1 := { s with
    pwr := { s.pwr with seq := s.pwr.seq ||| bits }
    sec := { s.sec with overstress := if bits.getLsbD 1 then min (s.sec.overstress + 1) 64 else s.sec.overstress } }
  .next (if bits.getLsbD 5 then packageReset s1 6 true else s1)

/-! ## The release sequence (R421, R425, R426) -/

/-- A bit per listed number. -/
def maskOf (l : List Nat) (lo n : Nat) : Nat := sumN ((List.range n).map fun i => if l.contains (lo + i) then 2 ^ i else 0)

/-- The fences that self-test leaves. -/
def setFences (s : State) (cmp pile link : List Nat) : State :=
  { s with crown := { s.crown with
    fenceLo := BitVec.ofNat 32 (maskOf cmp 0 32), fenceHi := BitVec.ofNat 8 (maskOf cmp 32 8)
    fencePlb := BitVec.ofNat 16 (maskOf pile 0 16), fenceLnk := BitVec.ofNat 6 (maskOf link 0 6) } }

/-- Every number below `n` is listed. -/
def allFail (l : List Nat) (n : Nat) : Bool := (List.range n).all fun i => l.contains i

/-- Self-test may run: the reference can be measured and is in range, and so are the supplies (R425). -/
def testRuns (s : State) (t : SelfTest) : Bool := s.rst.clksel != 3 && !s.pwr.onOsc && t.refOk && t.supplyOk

def atStep (s : State) (n : Nat) : State := { s with rst := { s.rst with step := n } }

/-- Step 3. -/
def selfTest (s : State) (t : SelfTest) : State :=
  if !s.rst.runTest then atStep s 3
  else if !testRuns s t then
    let s1 := { s with rst := { s.rst with
      ran := false, notRun := true, refOut := !t.refOk || s.rst.clksel == 3 || s.pwr.onOsc, supplyOut := !t.supplyOk
      runTest := false } }
    if s.rst.stmand then hold s1 3 false else atStep (setFences s1 [] [] []) 3
  else
    let s1 := { s with rst := { s.rst with
      ran := true, notRun := false, refOut := false, supplyOut := false, stMs := t.ms % 65536, runTest := false
      testLanes := t.lanes.foldl (fun m x => if x.1 < 2560 then tput 0 m x.1 x.2 else m) [] } }
    if !t.crownOk then testHolds s1 1
    else if !t.nightcapOk then testHolds s1 2
    else
      let s2 := setFences s1 t.cmpFail t.pileFail t.linkFail
      if !t.ringsOk || allFail t.cmpFail 40 || allFail t.pileFail 16 then testHolds s2 4 else atStep s2 3

/-- Step 4: the Crown leaves reset, its clocks start, the boot ROM runs. -/
def releaseCrown (s : State) (t : SelfTest) : State :=
  let s1 := atStep s 4
  startRom { s1 with tally := { s1.tally with clock := 0 }, rst := { s1.rst with kickAt := s1.time } } t.fusesOk

/-- The last compute column group is released and the sequence is over; a debug session open then counts as attached
(R426). -/
def releaseDone (s : State) : State :=
  let s1 := atStep s 14
  { s1 with
    rst := { s1.rst with resetting := none }
    dbg := { s1.dbg with attached := s1.dbg.attached || s1.dbg.isOpen } }

/-- Step 2: the reference and the PLLs; a package that runs on no external reference is on the oscillator. -/
def releaseClocks (s : State) (t : SelfTest) : State :=
  if t.pllOk then atStep { s with pwr := { s.pwr with onOsc := s.pwr.onOsc || s.rst.clksel == 3 } } 2 else hold s 5 false

/-- Step 5: a pile whose DRAM fails its initialisation is fenced too; with none left the package is held (R426). -/
def initPiles (s : State) (bad : List Nat) : State :=
  let f := s.crown.fencePlb ||| BitVec.ofNat 16 (maskOf bad 0 16)
  let s1 := { s with crown := { s.crown with fencePlb := f } }
  if f = 0xFFFF then testHolds s1 4 else atStep s1 5

/-- RESET_RELEASE_STEP: steps 5 and 6, then the eight compute column groups in ascending order. The boot ROM requests the
piles as it starts (notes/assumptions/42.md). -/
def execResetReleaseStep (t : SelfTest) (s : State) : Host.Outcome State Fault Refusal :=
  if s.rst.resetting.isNone || s.rst.hold.isSome then .next s
  else
    match s.rst.step with
    | 0 => .next (atStep s 1)
    | 1 => .next (releaseClocks s t)
    | 2 => .next (selfTest s t)
    | 3 => if s.rst.clkBad.contains 0x60 then .next s else .next (releaseCrown s t)
    | 4 => .next (initPiles s t.pileFail)
    | 13 => .next (releaseDone s)
    | n => .next (atStep s (min 13 (n + 1)))

/-- REF_RECOVERY_TIMEOUT: no recovered clock within 500 ms under CLKSEL 0b10. -/
def execRefRecoveryTimeout (s : State) : Host.Outcome State Fault Refusal :=
  onlyIf (s.rst.resetting.isSome && s.rst.clksel == 2 && s.rst.step == 1 && decide (s.rst.relAt + 500000000 ≤ s.time)) s
    { s with pwr := { s.pwr with onOsc := true } }

/-! ## The clock-good interlock (R422) -/

/-- The release step after which a block of NCP_CLK_EARLY is out of reset. -/
def blockStep (b : Nat) : Nat :=
  if b = 0x60 then 4 else if 0x40 ≤ b ∧ b < 0x50 then 5 else if 0x50 ≤ b ∧ b < 0x56 then 6 else 7 + b % 8

/-- A block the register names. -/
def blockOk (b : Nat) : Bool := decide (b < 40) || (0x40 ≤ b && b < 0x56) || b == 0x60

/-- The block is out of reset. -/
def blockUp (s : State) (b : Byte) : Bool := decide (blockStep b.toNat ≤ s.rst.step) && !s.rst.clkBad.contains b

/-- What a core keeps through its reset: the contents of its memories. Its registers take their reset values, so the lanes
that the firmware substituted are no longer in the map (R151, R159, notes/assumptions/43.md). -/
def coreReset (c : Core) : Core := { ls := c.ls, imem := c.imem }

/-- The commands that run on a core of a compute die are killed as by the loss of a die (table *Causes of a kill*). -/
def killDie (s : State) (b : Nat) : State :=
  ((s.cmds.filter fun c => c.stage == .running && s.cores.any fun (x : Nat × Core) =>
      dieOf x.1 == b && (match x.2.disp with | some d => d.cmd == c.id | none => false)).map Cmd.id).foldl
    (fun t id => startKill t id .counted false) s

/-- The reset of a block is asserted while the package runs: a compute die loses what its cores run and their registers, a
pile base die what is not in its repair OTP, a link die its links, the Crown everything that a package-scope reset clears. A boot ROM that had stopped runs anew, so its
FAULT_N code goes (R399). -/
def blockResets (s : State) (b : Nat) : State :=
  if b < 40 then
    let s1 := killDie s b
    { s1 with cores := (s1.cores.map fun (x : Nat × Core) =>
        if dieOf x.1 = b then (x.1, coreReset x.2) else x).filter fun x => x.2 != {} }
  else if 0x40 ≤ b ∧ b < 0x50 then setPile s (b - 0x40) (pileOtp (getPile s (b - 0x40)))
  else if 0x50 ≤ b ∧ b < 0x56 then
    ((List.range 12).map fun i => 12 * (b - 0x50) + i).foldl (fun t p => if (getPort t p).state = 2 then portFalls t p 0 else t) s
  else if b = 0x60 then
    { clearPackage s with rst := { s.rst with
      resetting := some .package, step := 3, runTest := false, faults := s.rst.faults.filter fun f => f != 7 } }
  else s

/-- The monitor resets a force-released block again and records it. -/
def earlyCaught (s : State) (b : Byte) : State :=
  { s with rst := { s.rst with clkEarly := true, clkBlock := b, forced := s.rst.forced.filter fun x => x != b } }

/-- CLOCK_GOOD_CHANGE. -/
def execClockGoodChange (block : Byte) (good : Bool) (s : State) : Host.Outcome State Fault Refusal :=
  if !blockOk block.toNat then .next s
  else if good then
    let s1 := { s with rst := { s.rst with clkBad := s.rst.clkBad.filter fun x => x != block } }
    .next (if s.rst.forced.contains block then earlyCaught s1 block else s1)
  else if s.rst.clkBad.contains block then .next s
  else
    let s1 := { s with rst := { s.rst with clkBad := s.rst.clkBad ++ [block] } }
    .next (if blockUp s block then blockResets s1 block.toNat else s1)

end Sys2Proof.Machine
end

