-- ==== Sys2Proof/Machine/Power.lean ====
section
/-! DEFINITION. Power states, clocks, the compute supplies and the governor (R432 to R445). -/

namespace Sys2Proof.Machine

open Sys2Proof

/-! ## States (R434 to R438) -/

def getRule (s : State) (r : Nat) : Rule := tget {} s.mon.rules r
def setRule (s : State) (r : Nat) (x : Rule) : State := { s with mon := { s.mon with rules := tput {} s.mon.rules r x } }

/-- An active rule holds the package in S0 (R451). -/
def wakeHeld (s : State) : Bool := s.mon.rules.any fun x => x.2.en && x.2.active && x.2.wake

/-- The conditions of R435 for S2 beyond those for S1. -/
def quietS2 (s : State) : Bool :=
  ((List.range 4).all fun p => !(getAp s p).en) && s.bead.refsel == 0 && quietMail s && s.mail.replies.isEmpty &&
    s.sec.held.isEmpty

/-- The package has been idle for IDLE_MS. -/
def idleLong (s : State) : Bool := decide (s.pwr.idleFrom + s.pwr.idleMs * 1000000 ≤ s.time)

/-- What a core keeps through S1, from the Crown's repair records (R437). -/
def coreRecord (c : Core) : Core := { oos := c.oos, spares := c.spares }

/-- The conditions under which an entry into S1 starts (R434, R435). -/
def mayEnterS1 (s : State) : Bool :=
  s.pwr.target != 0 && quietS1 s && quietMail s && idleLong s && !wakeHeld s
/-- The conditions under which an entry into S2 starts. -/
def mayEnterS2 (s : State) : Bool := s.pwr.target == 2 && quietS1 s && quietS2 s && idleLong s && !wakeHeld s

/-- A doorbell write, a mailbox SEND or a rule wake aborts the entry in progress (R436). -/
def aborts (s : State) : Bool := s.pwr.abort || wakeHeld s

/-- The highest compute column group that is still on, and the lowest that is off. -/
def topOn (off : List Nat) : Nat := ((List.range 8).filter fun g => !off.contains g).foldl max 0
def lowOff (off : List Nat) : Nat := off.foldl min 7

/-- The core switch of one more domain goes off, D10 first; with the last one the package is in S1. -/
def coresDown (s : State) : State :=
  let g := topOn s.pwr.coresOff
  let off := s.pwr.coresOff ++ [g]
  { s with
    cores := (s.cores.map fun (x : Nat × Core) => if groupOf x.1 = g then (x.1, coreRecord x.2) else x).filter fun x => x.2 != {}
    pwr := { s.pwr with
      coresOff := off, cur := if off.length = 8 then 1 else 0, stepAt := s.time
      vddc := tput {} s.pwr.vddc g { tget {} s.pwr.vddc g with eclk := 0, cycAcc := 0 } } }

/-- Every rank of every loaded set is written again from its image copy. -/
def loadRanks (s : State) (w : WSet) : State :=
  (List.range w.cores.length).foldl (fun u r => loadRank w u r ((w.cores[r]?).getD 0)) s

/-- The core switch of one more domain goes on, the lowest first, which is also the reverse of the order of an entry; after
the last one the loaded sets are written again, and the package is in S0. -/
def coresRise (s : State) : State :=
  let off := s.pwr.coresOff.filter fun g => g != lowOff s.pwr.coresOff
  let s1 := { s with pwr := { s.pwr with coresOff := off, stepAt := s.time } }
  if off.isEmpty then
    s1.sets.foldl loadRanks { s1 with pwr := { s1.pwr with cur := 0, abort := false, idleFrom := s.time } }
  else s1

/-- S1_ENTRY: one domain of an entry, every 100 µs; an entry that is aborted turns back. -/
def execS1Entry (s : State) : Host.Outcome State Fault Refusal :=
  if !s.crown.ready || s.pwr.cur != 0 then .next s
  else if s.pwr.coresOff.isEmpty then onlyIf (mayEnterS1 s) s (coresDown s)
  else if aborts s then .next (coresRise (passTo s (s.pwr.stepAt + 250000)))
  else .next (coresDown (passTo s (s.pwr.stepAt + 100000)))

/-- An exit from S1 is due or in progress: a command is validated, a request accepted, or a rule wakes the package; or an
entry has been aborted. -/
def leavesS1 (s : State) : Bool :=
  (s.pwr.cur == 1 && s.pwr.s2Steps == 0 &&
      (!s.cmds.isEmpty || !quietMail s || wakeHeld s || decide (s.pwr.coresOff.length < 8))) ||
    (s.pwr.cur == 0 && !s.pwr.coresOff.isEmpty && aborts s)

/-- S1_EXIT: one domain of an exit, every 250 µs. -/
def execS1Exit (s : State) : Host.Outcome State Fault Refusal :=
  onlyIf (s.crown.ready && leavesS1 s) s
    (coresRise (if s.pwr.coresOff.length = 8 then s else passTo s (s.pwr.stepAt + 250000)))

/-- Every port that is up goes down. -/
def portsFall (s : State) : State :=
  (List.range 72).foldl (fun t p => if (getPort t p).state = 2 then portFalls t p 0 else t) s

/-- Step 2 of an entry into S2: the piles refresh themselves, D11 to D18 go off. -/
def pilesDown (s : State) : State :=
  let s1 := portsFall s
  { s1 with
    piles := ((List.range 16).filter fun p => !pileFenced s p).foldl
      (fun t p => tput {} t p { tget {} t p with selfRefresh := true }) s1.piles
    pwr := { s1.pwr with domOff := (s1.pwr.domOff ++ s2Domains.filter fun d => d != 1).eraseDups } }

/-- The last step: D1 goes off. -/
def crownDown (s : State) : State :=
  { s with
    sec := { s.sec with lmsReady := false }
    dieTlb := []
    pwr := { s.pwr with cur := 2, abort := false, domOff := (s.pwr.domOff ++ [1]).eraseDups } }

/-- Step `k` of an entry into S2 (R436): the Crown's tables are saved in the lowest-numbered unfenced pile, the piles and
D11 to D18, the fabric of D10 down to D3, D1. -/
def s2Down (s : State) (k : Nat) : State :=
  let s1 := { s with pwr := { s.pwr with s2Steps := k + 1, stepAt := s.time } }
  if k = 0 then
    { s1 with pwr := { s1.pwr with tablesIn := (List.range 16).find? fun p => !pileFenced s p } }
  else if k = 1 then pilesDown s1
  else if k < 10 then { s1 with pwr := { s1.pwr with fabricOff := s1.pwr.fabricOff ++ [topOn s1.pwr.fabricOff] } }
  else crownDown s1

/-- Step `k` of an entry into S2 is undone. -/
def s2Undo (s : State) (k : Nat) : State :=
  let s1 := { s with pwr := { s.pwr with s2Steps := k, stepAt := s.time } }
  if k = 0 then { s1 with pwr := { s1.pwr with tablesIn := none, abort := false, idleFrom := s.time } }
  else if k = 1 then domainsOn s1
  else { s1 with pwr := { s1.pwr with fabricOff := s1.pwr.fabricOff.filter fun g => g != lowOff s1.pwr.fabricOff } }

/-- S2_ENTRY: one step of an entry, the fabrics every 100 µs; an entry that is aborted turns back. -/
def execS2Entry (s : State) : Host.Outcome State Fault Refusal :=
  let k := s.pwr.s2Steps
  if !s.crown.ready || s.pwr.cur != 1 || s.pwr.coresOff.length != 8 then .next s
  else if k = 0 then onlyIf (mayEnterS2 s) s (s2Down s 0)
  else if aborts s then .next (s2Undo s (k - 1))
  else .next (s2Down (if 2 < k ∧ k < 10 then passTo s (s.pwr.stepAt + 100000) else s) k)

/-- S2_WAKE. -/
def execS2Wake (s : State) : Host.Outcome State Fault Refusal := onlyIf (s.pwr.cur == 2) s (s2Leave s)

/-- LINK_PAIR_OFF: 10 ms after the last EN on the pair has been cleared (R433). -/
def execLinkPairOff (pair : Nat) (s : State) : Host.Outcome State Fault Refusal :=
  let t := tget 0 s.pwr.pairOffAt pair
  onlyIf (t != 0 && decide (t ≤ s.time) && !pairEn s pair) s
    { s with pwr := { s.pwr with
      pairOffAt := tput 0 s.pwr.pairOffAt pair 0, domOff := (s.pwr.domOff ++ [15 + pair]).eraseDups } }

/-! ## The reference (R441) -/

/-- REF_LOST. -/
def execRefLost (s : State) : Host.Outcome State Fault Refusal := .next (refLoss s)

/-! ## Compute supplies (R442 to R444) -/

/-- AVS_READBACK: Vout and Iout of a group; a port that has failed reads nothing. -/
def execAvsReadback (g mv amps : Nat) (s : State) : Host.Outcome State Fault Refusal :=
  let x := getVddc s g
  onlyIf (groupOk g && groupUp s g && !x.avsFault) s (setVddc s g { x with measMv := mv % 1024, amps := amps })

/-- AVS_FAULT: 0 no valid response in three frames, 1 a status alert. -/
def execAvsFault (g kind : Nat) (s : State) : Host.Outcome State Fault Refusal :=
  let x := getVddc s g
  onlyIf (groupOk g && groupUp s g && !x.avsFault && decide (kind < 2)) s
    (event (setVddc s g { x with avsFault := true }) nightcapLoc 0x34 (subjKind 6 g) kind x.measMv)

/-- A write of NCP_VDDCg: writing 1 to AVS_FAULT clears it. -/
def vddcWrite (s : State) (g : Nat) (v : W32) : State :=
  if v.getLsbD 31 then setVddc s g { getVddc s g with avsFault := false } else s

/-- AVS_FAULT_CLEAR. -/
def execAvsFaultClear (g : Nat) (v : W32) (s : State) : Host.Outcome State Fault Refusal :=
  .next (hostAccess s fun s => if groupOk g then vddcWrite s g v else s)

/-- DROOP_TRIP: a die's clock stretches. -/
def execDroopTrip (die : Nat) (s : State) : Host.Outcome State Fault Refusal :=
  onlyIf (decide (die < 40) && groupUp s (die % 8) && !dieFenced s die && !s.pwr.coresOff.contains (die % 8) &&
      !s.pwr.droop.contains die) s
    { s with pwr := { s.pwr with droop := s.pwr.droop ++ [die], droops := s.pwr.droops + 1 } }

/-- DROOP_RECOVER. -/
def execDroopRecover (die : Nat) (s : State) : Host.Outcome State Fault Refusal :=
  .next { s with pwr := { s.pwr with droop := s.pwr.droop.filter fun d => d != die } }

/-! ## The governor (R445) -/

/-- The ECLK cap of a throttle level, in MHz. -/
def throttleCap (level : Nat) : Nat := 3600 - 300 * min level 7

/-- What limits a group: the least of its caps, in steps of 50 MHz from 1,200 MHz. -/
def groupCap (level : Nat) (fault : Bool) (ci cp ca : Nat) : Nat :=
  let f := min (throttleCap level) (min ci (min cp (if fault then ca else 3600)))
  max 1200 (f / 50 * 50)

/-- The ECLK a group is to have: lower while it is hot, not higher until it is cool again. -/
def groupGoal (cur cap : Nat) (hot cool : Bool) : Nat :=
  if hot then min cap (max 1200 (cur - 100)) else if cool then cap else min cap (max cur 1200)

/-- One period of a group: `need` is the voltage in mV that its dies need at the goal. ECLK falls before the target does;
the target rises by at most 25 mV at a time, and ECLK rises once the read-back has reached it. -/
def vddcStep (x : Vddc) (goal need : Nat) : Vddc :=
  let t := max 600 (min 900 (need + 10))
  if goal < x.eclk then { x with eclk := goal, targetMv := if x.avsFault then x.targetMv else min t x.targetMv }
  else if x.avsFault then { x with eclk := goal }
  else if x.targetMv < t then { x with targetMv := min t (x.targetMv + 25) }
  else if x.measMv < t then x
  else { x with eclk := goal, targetMv := t }

/-- Element `i` of a list of numbers or flags. -/
def nthN (l : List Nat) (i : Nat) : Nat := (l[i]?).getD 0
def nthB (l : List Bool) (i : Nat) : Bool := (l[i]?).getD false

/-- A group's period. -/
def governGroup (s : State) (need : List Nat) (hot cool : List Bool) (ci cp ca : List Nat) (g : Nat) : State :=
  let x := getVddc s g
  if s.pwr.coresOff.contains g then s
  else
    let cap := groupCap s.pwr.throttle x.avsFault (nthN ci g) (nthN cp g) (nthN ca g)
    setVddc s g (vddcStep x (groupGoal x.eclk cap (nthB hot g) (nthB cool g)) (nthN need g))

/-- A cap holds some group below 3,600 MHz. -/
def capBinds (s : State) (caps : List Nat) : Bool :=
  (List.range 8).any fun g => decide (nthN caps g < 3600) && decide (nthN caps g < (getVddc s g).eclk + 50)

/-- GOVERNOR_TICK: for each group the voltage its dies need, whether a sensor is at its limit or below its release
point, and the frequencies that the current limit, CAP_W and a failed port's voltage allow. -/
def execGovernorTick (need : List Nat) (tempHot tempCool : List Bool) (capCurrent capPower capAvs : List Nat) (s : State) :
    Host.Outcome State Fault Refusal :=
  if !s.crown.ready || s.pwr.cur == 2 then .next s
  else
    let s1 := (List.range 8).foldl (fun t g => governGroup t need tempHot tempCool capCurrent capPower capAvs g) s
    .next { s1 with pwr := { s1.pwr with
      limTemp := (List.range 8).any fun g => nthB tempHot g || (!nthB tempCool g && s.pwr.limTemp)
      limCurrent := capBinds s1 capCurrent, limPower := capBinds s1 capPower, limRule := s.pwr.throttle != 0
      limAvs := (List.range 8).any fun g => (getVddc s1 g).avsFault && decide (nthN capAvs g < (getVddc s1 g).eclk + 50) } }

end Sys2Proof.Machine
end

