-- ==== Sys2Proof/Machine/Monitor.lean ====
section
/-! DEFINITION. The Nightcap monitor: channels, filters, rules and their actions (R448 to R452). -/

namespace Sys2Proof.Machine

open Sys2Proof

def getChan (s : State) (c : Nat) : Chan := tget {} s.mon.ch c
def setChan (s : State) (c : Nat) (x : Chan) : State := { s with mon := { s.mon with ch := tput {} s.mon.ch c x } }

/-! ## Channels (R448, R449) -/

/-- The nearest integer to `n / 2^k`, ties to even. -/
def rneShift (n : Int) (k : Nat) : Int :=
  let q := n.fdiv (2 ^ k)
  let r := n - q * 2 ^ k
  if 2 * r < 2 ^ k then q else if 2 * r = 2 ^ k then (if q % 2 = 0 then q else q + 1) else q + 1

/-- VALUE: y rounded to 8 fraction bits. -/
def chanValue (x : Chan) : W32 := BitVec.ofInt 32 (rneShift x.y 8)

/-- The counter that SEL names, since the beginning. -/
def counterOf (s : State) (sel : Nat) : Nat :=
  if sel = 0 then s.pwr.droops
  else if sel = 1 then sumN (s.piles.map fun x => x.2.ceCount)
  else if sel = 2 then sumN (s.ports.map fun x => x.2.replays)
  else if sel = 3 then sumN (s.clients.map fun x => x.2.acct.overruns.toNat)
  else 0

/-- The source of the channel lies in a domain that is off. -/
def chanOff (s : State) (c : Nat) : Bool :=
  if c < 8 then s.pwr.fabricOff.contains c
  else if c < 24 then s.pwr.domOff.contains (11 + (c - 8) / 4)
  else if c < 30 then s.pwr.domOff.contains (15 + (c - 24) % 3)
  else c == 30 && (s.pwr.domOff.contains 1 || !crownUp s)

/-- The value of a flow channel: 1 over the interval of the last two edges, 0 with no edge for 1 s. -/
def flowHz (s : State) (f : Nat) : Nat :=
  let g := tget 0 s.mon.flowGap f
  if g = 0 ∨ tget 0 s.mon.flowLast f + 1000000 ≤ s.time / 1000 then 0 else 256 * 1000000 / g

/-- The sample of a channel: a counter's increase, a flow, a read-back, or what the sensor gives. -/
def sampleOf (s : State) (c : Nat) (x : W32) : W32 :=
  let k := getChan s c
  if 55 ≤ c then BitVec.ofNat 32 (256 * (counterOf s k.sel - k.last))
  else if c = 32 ∨ c = 33 then BitVec.ofNat 32 (flowHz s (c - 32))
  else if 34 ≤ c ∧ c < 42 then BitVec.ofNat 32 (256 * (getVddc s (c - 34)).measMv)
  else if 42 ≤ c ∧ c < 50 then BitVec.ofNat 32 (256 * (getVddc s (c - 42)).amps)
  else x

/-- A sample enters the filter. -/
def filterChan (k : Chan) (x : W32) : Chan :=
  let v := x.toInt * 256
  { k with raw := x, primed := true, y := if k.primed then k.y + rneShift (v - k.y) k.k else v }

/-- The hottest layer of a pile is above 85 °C by the sample of its channel (R286). -/
def notePile (s : State) (c : Nat) (x : W32) : State :=
  if 8 ≤ c ∧ c < 24 then setPile s (c - 8) { getPile s (c - 8) with hot := decide (85 * 256 < x.toInt) } else s

/-- A channel takes a sample; the counters' reading is kept for the next. -/
def sampleChan (s : State) (c : Nat) (x : W32) : State :=
  let k := getChan s c
  let s1 := setChan (notePile s c x) c { filterChan k (sampleOf s c x) with last := if 55 ≤ c then counterOf s k.sel else k.last }
  if c = 54 then { s1 with pwr := { s1.pwr with pkgW := (rneShift (getChan s1 54).y 16).toNat % 65536 } } else s1

/-! ## Rules (R450) -/

/-- T and H with 16 fraction bits. -/
def ruleT (r : Rule) : Int := r.thresh.toInt * 256
def ruleH (r : Rule) : Int := (r.hyst.toNat : Int) * 256

/-- A sample counts as exceeded, or as cleared. -/
def exceeded (r : Rule) (y : Int) : Bool := if r.below then decide (y < ruleT r) else decide (ruleT r < y)
def clearedBy (r : Rule) (y : Int) : Bool :=
  if r.below then decide (ruleT r + ruleH r ≤ y) else decide (y ≤ ruleT r - ruleH r)

/-- A rule counts a sample of its channel, up to PERSIST. -/
def countRule (r : Rule) (y : Int) : Rule :=
  let hit := if r.active then clearedBy r y else exceeded r y
  { r with count := if hit then min (r.count + 1) r.persist else 0 }

/-- Every enabled rule on a sampled channel counts. -/
def countRules (s : State) (due : List Nat) : State :=
  (List.range 32).foldl (fun t i =>
    let r := getRule t i
    if r.en && due.contains r.channel then setRule t i (countRule r (getChan t r.channel).y) else t) s

/-- FLOW_PULSE: a rising edge at 1 µs resolution. -/
def execFlowPulse (f : Nat) (s : State) : Host.Outcome State Fault Refusal :=
  let us := s.time / 1000
  onlyIf (decide (f < 2)) s
    { s with mon := { s.mon with
      flowGap := tput 0 s.mon.flowGap f (us - tget 0 s.mon.flowLast f), flowLast := tput 0 s.mon.flowLast f us } }

/-! ## Actions (R451, R452) -/

/-- The rules that are active. -/
def activeRules (s : State) : List Rule := (s.mon.rules.map Prod.snd).filter fun r => r.en && r.active

/-- The domains that active rules shut. -/
def shutNow (s : State) : List Nat :=
  ([15, 16, 17, 18, 19] : List Nat).filter fun d => (activeRules s).any fun r => r.shut && r.domain == d

/-- Every binding of the port loses its buffer and starts again (R390). -/
def emptyBinds (s : State) (p : Nat) : State :=
  { s with binds := (s.binds.map fun (x : Nat × Option Bind) =>
      (x.1, x.2.map fun b => if b.port = p then { b with buf := [], started := false } else b)).filter fun x => x.2.isSome }

/-- The pins of a port that has stopped (R392). -/
def pinsLow (s : State) (p : Nat) : State := wire s (.audioLow p (getAp s p).master)

/-- The audio ports stop, and D18 is off (R452). -/
def shutAudio (s : State) : State :=
  let s1 := (List.range 5).foldl (fun t p => refLostNow t (refOfPort p)) s
  let s2 := (List.range 4).foldl (fun t p => if (getAp t p).state = 1 then pinsLow (emptyBinds t p) p else t) s1
  { s2 with ap := (s2.ap.map fun (x : Nat × APort) =>
      (x.1, { x.2 with state := 0, en := false, rate := 0, slotAt := none })).filter fun x => x.2 != {} }

/-- A domain is shut: a link pair's ports go down, the audio ports stop. -/
def shutDomain (s : State) (d : Nat) : State :=
  let s1 := { s with pwr := { s.pwr with domOff := (s.pwr.domOff ++ [d]).eraseDups } }
  if d = 18 then shutAudio s1
  else if d < 18 then
    (List.range 72).foldl (fun t p => if portPair p = d - 15 ∧ (getPort t p).state = 2 then portFalls t p 0 else t) s1
  else s1

/-- A domain returns: a link pair if a port of it is enabled, D18 with its registers at reset values, unless the state
keeps it off; D19 stays off until something is programmed. -/
def returnDomain (s : State) (d : Nat) : State :=
  let on := { s with pwr := { s.pwr with domOff := s.pwr.domOff.filter fun x => x != d } }
  if s.pwr.cur = 2 ∨ d = 19 then s
  else if d = 18 then { on with ap := [] }
  else if pairEn s (d - 15) then on else s

/-- The eight groups keep to the cap of the throttle level at once. -/
def capClocks (s : State) (level : Nat) : State :=
  { s with pwr := { s.pwr with
    throttle := level
    vddc := (s.pwr.vddc.map fun (x : Nat × Vddc) => (x.1, { x.2 with eclk := min x.2.eclk (throttleCap level) })).filter
      fun x => x.2 != {} } }

/-- FAULT_N code 6 stands while a rule with FAULT is active. -/
def ruleFault (s : State) (on : Bool) : State :=
  if on then raiseFault s 6 else { s with rst := { s.rst with faults := s.rst.faults.filter fun f => f != 6 } }

/-- The domains that rules shut become `new`: those added are shut, those gone return. -/
def setShut (s : State) (new : List Nat) : State := { s with pwr := { s.pwr with shut := new } }
def shutTo (s : State) (new : List Nat) : State :=
  (s.pwr.shut.filter fun d => !new.contains d).foldl returnDomain
    ((new.filter fun d => !s.pwr.shut.contains d).foldl shutDomain (setShut s new))

/-- What holds while rules are active: the throttle level, FAULT_N code 6, the shut domains. -/
def applyRules (s : State) : State :=
  let act := activeRules s
  shutTo (ruleFault (capClocks s (act.foldl (fun m r => max m r.throttle) 0)) (act.any fun r => r.fault)) (shutNow s)

/-- A wake rule takes the package out of S2, or aborts an entry; the firmware then switches the cores on (R437). -/
def wakeNow (s : State) : State := if s.pwr.cur = 2 then s2Leave s else wakeCall s

/-- A rule that is to become active, or inactive: it has counted PERSIST samples (R450). -/
def ruleDue (x : Rule) : Bool := x.en && decide (x.persist ≤ x.count)
/-- The numbers of the rules that are to become active. -/
def rulesRising (s : State) : List Nat := (List.range 32).filter fun r => ruleDue (getRule s r) && !(getRule s r).active

/-- Every rule that is due changes. -/
def turnRules (s : State) : State :=
  (List.range 32).foldl (fun t r =>
    let x := getRule t r
    if ruleDue x then setRule t r { x with active := !x.active, count := 0 } else t) s

/-- The FIRED bits of rules that become active with IRQ set, and their events. -/
def fireBits (s : State) (l : List Nat) : State :=
  l.foldl (fun t r => if (getRule t r).irq then { t with mon := { t.mon with fired := t.mon.fired ||| BitVec.ofNat 32 (2 ^ r) } } else t) s
def fireEvents (s : State) (l : List Nat) : State :=
  l.foldl (fun t r =>
    let x := getRule t r
    if x.irq then event t nightcapLoc 0x35 (subjKind 7 r) x.channel (chanValue (getChan t x.channel)).toNat else t) s

/-- The rules that are due change, and their actions take effect together (R451, R452): a trip or a reset comes before
every other action, and what holds while rules are active holds after it too (notes/assumptions/52.md). -/
def rulesAct (s : State) : State :=
  let l := rulesRising s
  let s1 := fireBits (turnRules s) l
  let has := fun (f : Rule → Bool) => l.any fun r => f (getRule s r)
  if has fun x => x.trip || (x.reset && decide (x.channel < 32)) then applyRules (thermal s1)
  else if has fun x => x.reset then applyRules (packageReset s1 6 true)
  else
    let s2 := fireEvents (applyRules s1) l
    if has fun x => x.wake then wakeNow s2 else s2

/-- MONITOR_TICK, every 10 µs: what the last tick has left to act acts; the channels due in this one take their samples, then
the rules on them count; a rule written since its last sample acts as it is now written. -/
def execMonitorTick (samples : List (Nat × W32)) (s : State) : Host.Outcome State Fault Refusal :=
  if s.rst.step < 1 then .next s
  else
    let s0 := passTo s (s.mon.tickAt + 10000)
    let t := if (List.range 32).any fun r => ruleDue (getRule s0 r) then rulesAct s0 else s0
    let due := (List.range 64).filter fun c =>
      let k := getChan t c
      k.en && !chanOff t c && t.mon.tick % k.period == 0
    let val := fun (c : Nat) => ((samples.find? fun x => x.1 == c).map Prod.snd).getD (getChan t c).raw
    let s1 := due.foldl (fun t c => sampleChan t c (val c)) t
    let s2 := countRules s1 due
    let s3 := if (activeRules s2).any fun r => due.contains r.channel then applyRules s2 else s2
    .next { s3 with mon := { s3.mon with tick := s3.mon.tick + 1, tickAt := s0.time } }

/-- RULE_ACTIVATE: the rule has counted PERSIST exceeded samples; every rule that is due in the tick changes with it. -/
def execRuleActivate (r : Nat) (s : State) : Host.Outcome State Fault Refusal :=
  onlyIf (decide (r < 32) && ruleDue (getRule s r) && !(getRule s r).active) s (rulesAct s)

/-- RULE_DEACTIVATE: the rule has counted PERSIST cleared samples; every rule that is due in the tick changes with it. -/
def execRuleDeactivate (r : Nat) (s : State) : Host.Outcome State Fault Refusal :=
  onlyIf (decide (r < 32) && ruleDue (getRule s r) && (getRule s r).active) s (rulesAct s)

/-! ## Registers -/

/-- A write of NCP_CHc +0x0. -/
def chanWrite (s : State) (c : Nat) (v : W32) : State :=
  let n := v.toNat
  let k := getChan s c
  let en := bitOf n 31
  setChan s c { k with
    en := en, sel := if 55 ≤ c then bits n 23 20 else k.sel, k := bits n 19 16
    period := min (max (bits n 9 0) 1) 1000, primed := k.primed && k.en && en
    last := if 55 ≤ c && (!k.en || bits n 23 20 != k.sel) then counterOf s (bits n 23 20) else k.last }

/-- A write of word `w` of NCP_RULEr; clearing EN makes the rule inactive. -/
def ruleWrite (s : State) (r w : Nat) (v : W32) : State :=
  let n := v.toNat
  let x := getRule s r
  let y :=
    if w = 0 then
      let en := bitOf n 31
      { x with
        en := en, below := bitOf n 30, channel := bits n 21 16, persist := max (bits n 7 0) 1
        active := x.active && en, count := if en then x.count else 0 }
    else if w = 1 then { x with thresh := v }
    else if w = 2 then { x with hyst := v }
    else
      { x with
        irq := bitOf n 31, fault := bitOf n 30, trip := bitOf n 29, reset := bitOf n 28, wake := bitOf n 27
        shut := bitOf n 26, domain := bits n 20 16, throttle := bits n 2 0 }
  let s1 := setRule s r y
  if x.active && !y.active then applyRules s1 else s1

end Sys2Proof.Machine
end

