-- ==== Sys2Proof/Machine/Audio.lean ====
section
/-! DEFINITION. The audio ports, their frames and bindings, and the word clock (R382 to R397). Port 4 of the table is
AUD_WCLK. -/

namespace Sys2Proof.Machine

open Sys2Proof

/-- D18 is powered. -/
def audUp (s : State) : Bool := crownUp s && !s.pwr.domOff.contains 18

/-! ## AUD_CTRL (R384) -/

def slotWidth (w : Nat) : Nat := if w = 0 then 16 else if w = 1 then 24 else 32

/-- The port as a write of AUD_CTRLp would leave its fields. -/
def ctrlFields (x : APort) (v : W32) : APort :=
  let n := v.toNat
  { x with
    en := bitOf n 31, thru := bitOf n 30, master := bitOf n 29, tdmDelay := bitOf n 28
    format := BitVec.ofNat 2 (bits n 27 26), width := BitVec.ofNat 2 (bits n 25 24), slotsM1 := bits n 20 16
    clksrc := BitVec.ofNat 2 (bits n 9 8), mdivM1 := bits n 7 0 }

/-- The fields apart from EN and THRU are the same. -/
def sameSetup (x y : APort) : Bool := { x with en := false, thru := false } == { y with en := false, thru := false }

/-- A master's bit clock would be above 49.152 MHz: AUD_MCLK / MDIV, or NOMINAL × SLOTS × WIDTH. -/
def bclkTooFast (x : APort) : Bool :=
  if x.clksrc = 0 then decide (49152000000 * (x.mdivM1 + 1) < x.mclk)
  else decide (49152000000 < x.nominal * (x.slotsM1 + 1) * slotWidth x.width.toNat)

/-- A setting with EN 1 is rejected. -/
def startBad (x : APort) : Bool :=
  x.format == 3 || x.width == 3 || x.clksrc == 3 || (x.format != 2 && x.slotsM1 != 1) || x.slotsM1 == 0 ||
    decide (x.nominal < 8000000) || decide (384000000 < x.nominal) ||
    (x.master && bclkTooFast x)

/-- A write of AUD_CTRLp; `mclk` is the AUD_MCLK that the package measures, in mHz. -/
def audCtrl (s : State) (p : Nat) (v : W32) (mclk : Nat) : State :=
  let x := { getAp s p with mclk := mclk }
  let y := ctrlFields x v
  if (x.en && !sameSetup x y) || (y.en && startBad y) then setAp s p { x with badConfig := true }
  else if y.en && !x.en then
    setAp (emptyBinds s p) p { y with
      state := 1, resyncs := 0, frames := 0, marks := [], rateDue := false, lastEdge := s.time, startAt := s.time
      slotTime := s.time, slotAt := none, wordBase := (getAp s 4).frames, din := [] }
  else if !y.en && x.en then
    let s1 := setAp (emptyBinds s p) p { y with state := 0, slotAt := none, rate := if y.master then 0 else y.rate }
    refLostNow (pinsLow s1 p) (refOfPort p)
  else setAp s p y

/-- A write to an AUD_ register: dropped while D18 is off. -/
def audReg (p : Nat) (f : State → State) (s : State) : State :=
  hostAccess s fun s => if apOk p && audUp s then f s else s

/-- AUD_PORT_START: a write with EN 1. -/
def execAudPortStart (p : Nat) (v : W32) (mclkMhz : Nat) (s : State) : Host.Outcome State Fault Refusal :=
  .next (audReg p (fun s => audCtrl s p (v ||| 0x80000000) mclkMhz) s)
/-- AUD_PORT_STOP: a write with EN 0. -/
def execAudPortStop (p : Nat) (v : W32) (s : State) : Host.Outcome State Fault Refusal :=
  .next (audReg p (fun s => audCtrl s p (v &&& 0x7FFFFFFF) (getAp s p).mclk) s)

/-- The first bit clock of the last slot of the frame in progress has passed (R391). -/
def lastSlotBegun (x : APort) : Bool := x.slotAt.any fun k => decide (x.slotsM1 < k)

/-- A write of AUD_MASKp: it applies from the next frame, or from the one after (R391). -/
def audMask (s : State) (p : Nat) (v : W32) : State :=
  let x := getAp s p
  setAp s p { x with maskNext := x.maskNext ++ [(if lastSlotBegun x then 2 else 1, v)] }

/-- AUD_MASK_WRITE of 32 bits; a narrower write is dropped (R371). -/
def execAudMaskWrite (p : Nat) (v : W32) (width : Nat) (s : State) : Host.Outcome State Fault Refusal :=
  .next (audReg p (fun s => if width = 4 then audMask s p v else s) s)

/-- A write of AUD_STATUSp or AUD_WCLK_STATUS. -/
def audStatusW1c (s : State) (p : Nat) (v : W32) : State :=
  let x := getAp s p
  setAp s p { x with
    badConfig := x.badConfig && !v.getLsbD 4, slip := x.slip && !v.getLsbD 3
    rateChange := x.rateChange && !v.getLsbD 2, clockLost := x.clockLost && !v.getLsbD 1 }

/-! ## Edges and clocks (R383, R393 to R396) -/

/-- No frame edge has come within two nominal frame periods of the last one (R394). -/
def clockLate (s : State) (x : APort) : Bool := decide (2 * 10 ^ 12 ≤ (s.time - x.lastEdge) * x.nominal)

/-- A port, or the word clock, has lost its clock: a port stops, its pins at rest (R392, R394). -/
def clockGone (s : State) (p : Nat) : State :=
  let x := getAp s p
  let s1 := setAp s p { x with
    state := if p = 4 then 0 else 2, clockLost := true, rate := 0, frames := 0, marks := [], rateDue := false, slotAt := none }
  let s2 := if x.clockLost then s1 else event s1 nightcapLoc 0x30 (subjKind 4 p) x.rate 0
  refLostNow (if p = 4 then s2 else pinsLow s2 p) (refOfPort p)

/-- The word clock is lost, and with it the clock of the masters that are locked to it. -/
def wordGone (s : State) : State :=
  (List.range 4).foldl (fun t q =>
    let y := getAp t q
    if y.state = 1 ∧ y.master ∧ y.clksrc = 2 then clockGone t q else t) (clockGone s 4)

/-- An accepted frame edge: it is counted against the internal reference, and counts a sample period of the bead (R393,
R395). -/
def frameEdge (s : State) (p : Nat) : State :=
  let x := getAp s p
  let mark := x.frames % 1024 == 0
  let y := { x with
    frames := x.frames + 1, lastEdge := s.time, marks := if mark then (s.time :: x.marks).take 5 else x.marks
    rateDue := x.rateDue || (mark && !x.marks.isEmpty) }
  countSample (setAp s p y) (refOfPort p)

/-- The time before which slot `k` of the frame that began with edge `frame` cannot begin (R383): on a master with a bit clock
of known rate the time it takes, else the least time that the highest bit clock needs after the last slot. -/
def slotDue (x : APort) (frame k : Nat) : Nat :=
  let slots := x.slotsM1 + 1
  let w := slotWidth x.width.toNat
  let n := frame * slots + k
  if x.master ∧ x.clksrc = 1 then x.startAt + n * 10 ^ 12 / (x.nominal * slots)
  else if x.master ∧ x.clksrc = 0 then x.startAt + n * w * (x.mdivM1 + 1) * 10 ^ 12 / x.mclk
  else x.slotTime + w * 1000000 / 49152

/-- A master has a clock for its next frame: AUD_MCLK runs, or AUD_WCLK has had an edge for it (R383). -/
def clockThere (s : State) (x : APort) : Bool :=
  !x.master || x.clksrc == 1 || (x.clksrc == 0 && x.mclk != 0) ||
    (x.clksrc == 2 && (getAp s 4).state == 1 && decide (x.frames + x.wordBase < (getAp s 4).frames))

/-! ## Frames (R382, R388 to R392, R395) -/

/-- A frame takes the mask writes that are due. -/
def takeMask (x : APort) : APort :=
  let l := x.maskNext.map fun m => (m.1 - 1, m.2)
  { x with
    mask := ((l.filter fun m => m.1 == 0).getLast?.map Prod.snd).getD x.mask
    maskNext := l.filter fun m => m.1 != 0 }

/-- The bits of a sample word in a slot of `w` bits (R388). -/
def slotWord (fmt w : Nat) (v : W32) : W32 :=
  let n :=
    if fmt = 8 then v.toNat % 65536 * 2 ^ (w - 16)
    else if fmt = 9 then (if w = 16 then v.toNat % 2 ^ 24 / 256 else v.toNat % 2 ^ 24 * 2 ^ (w - 24))
    else if w = 16 then (convPcm 16 (dec32 v) none).1 % 65536
    else (convPcm 24 (dec32 v) none).1 % 2 ^ 24 * 2 ^ (w - 24)
  BitVec.ofNat 32 n

/-- A binding starts at the first frame that begins after its buffer holds PREFILL frames. -/
def startBinds (s : State) (p : Nat) : State :=
  { s with binds := s.binds.map fun (x : Nat × Option Bind) =>
      (x.1, x.2.map fun b =>
        if b.port = p ∧ !b.started ∧ bindLive s b ∧ b.prefill * b.chans ≤ b.buf.length then { b with started := true } else b) }

/-- The started binding that occupies a slot, with its stream. -/
def slotBind (s : State) (p slot : Nat) : Option (Nat × Bind) :=
  s.binds.findSome? fun x =>
    match x.2 with
    | some b => if b.started && b.port == p && decide (b.slot ≤ slot) && decide (slot < b.slot + b.chans) then some (x.1, b) else none
    | none => none

/-- The word of a slot: its binding's, or an underrun; the word heard one frame ago where nothing is bound; 0 if masked. A word
that was not heard there is free. -/
def slotOut (s : State) (p slot : Nat) : State × W32 :=
  let x := getAp s p
  let w := slotWidth x.width.toNat
  let on := x.mask.getLsbD slot
  match slotBind s p slot with
  | some (st, b) =>
    match b.buf with
    | [] => (audSlip s p st 0, 0)
    | v :: rest => (setBind s st (some { b with buf := rest }), if on then slotWord b.fmt w v else 0)
  | none =>
    if on && x.thru then
      match tget none x.din slot with
      | some v => (s, v)
      | none => (nextFree s, BitVec.ofNat 32 ((Config.freeW32 s.free).toNat % 2 ^ w))
    else (s, 0)

/-- The first bit of a slot comes one bit clock after the edge it belongs to: in I2S, and in TDM with TDM_DELAY. -/
def lateBits (x : APort) : Bool := x.format == 0 || (x.format == 2 && x.tdmDelay)

/-- AUD_FSp of a master in bit clock `j` of a frame of `n`, counted from the frame-start edge (R382). -/
def fsLevel (x : APort) (n j : Nat) : Bool :=
  if x.format = 0 then decide (n / 2 ≤ j) else if x.format = 1 then decide (j < n / 2) else j == 0

/-- A slot as it leaves the port, MSB first: in each bit clock AUD_FSp, where the port drives it, and AUD_DOp. -/
def slotBits (x : APort) (slot : Nat) (v : W32) : List (Option Bool × Bool) :=
  let w := slotWidth x.width.toNat
  let n := (x.slotsM1 + 1) * w
  (List.range w).map fun i =>
    (if x.master then some (fsLevel x n ((slot * w + i + b2n (lateBits x)) % n)) else none, v.getLsbD (w - 1 - i))

/-- One slot passes; `heard` is what AUD_DIp brings in it. -/
def slotStep (s : State) (p slot : Nat) (heard : W32) : State :=
  let s0 := passTo s (slotDue (getAp s p) ((getAp s p).frames - 1) slot)
  let r := slotOut s0 p slot
  let x := getAp r.1 p
  let din := tput none x.din slot (some (BitVec.ofNat 32 (heard.toNat % 2 ^ slotWidth x.width.toNat)))
  wire (setAp r.1 p { x with slotAt := some (slot + 1), slotTime := s0.time, din := din }) (.audio p slot (slotBits x slot r.2))

/-- A slot that is not sent takes its word all the same, and it is discarded; nothing is heard in it (R395). -/
def slotSkip (p : Nat) (s : State) (slot : Nat) : State :=
  let r := slotOut s p slot
  let x := getAp r.1 p
  setAp r.1 p { x with din := tput none x.din slot none }

/-- The next slots of the frame in progress pass, one for each word heard. -/
def slotsPass (p : Nat) : State → List W32 → State
  | s, [] => s
  | s, v :: rest =>
    match (getAp s p).slotAt with
    | some k => if k ≤ (getAp s p).slotsM1 then slotsPass p (slotStep s p k v) rest else s
    | none => s

/-- A frame starts: mask writes that are due apply, and bindings that hold PREFILL frames start (R389, R391). -/
def startFrame (s : State) (p : Nat) : State :=
  let s1 := frameEdge (startBinds (setAp s p (takeMask (getAp s p))) p) p
  setAp s1 p { getAp s1 p with slotAt := some 0 }

/-- The port runs. -/
def apRuns (s : State) (p : Nat) : Bool := apOk p && audUp s && (getAp s p).en && (getAp s p).state == 1

/-- The frame in progress, if there is one, has had all its slots. -/
def frameOver (x : APort) : Bool := x.slotAt.all fun k => decide (x.slotsM1 < k)

/-- A running port: a new frame starts where the last one is over, and slots pass; an edge that comes too late finds the port
stopped. -/
def portFrame (s : State) (p : Nat) (din : List W32) : State :=
  let x := getAp s p
  if !frameOver x then slotsPass p s din
  else if x.slotAt.isSome && !x.master && clockLate s x then clockGone s p
  else if clockThere s x then slotsPass p (startFrame (passTo s (slotDue x x.frames 0)) p) din
  else s

/-- AUD_FRAME: a frame passes, or part of it: `din` is what AUD_DIp carries in its next slots, so that commits may fall between
them (R389). For port 4 it is an edge of AUD_WCLK; a slave that does not run counts its frame edges all the same (R393). -/
def execAudFrame (p : Nat) (din : List W32) (s : State) : Host.Outcome State Fault Refusal :=
  if apRuns s p then .next (portFrame s p din)
  else if !audUp s then .next s
  else if p = 4 then
    if (getAp s 4).state = 0 then .next s
    else if clockLate s (getAp s 4) then
      let s1 := wordGone s
      .next (frameEdge (setAp s1 4 { getAp s1 4 with state := 1 }) 4)
    else .next (frameEdge s 4)
  else if apOk p && !(getAp s p).master then
    let x := getAp s p
    .next (frameEdge (if clockLate s x then setAp s p { x with frames := 0, marks := [], rateDue := false, rate := 0 } else s) p)
  else .next s

/-- AUD_RESYNC: a slave sees a frame-start edge too early or too late; the words of the slots not sent are discarded, and the
next frame starts there. `mid` is the other FS edge of I2S, with which slot 1 begins (notes/assumptions/50.md). -/
def execAudResync (p : Nat) (mid : Bool) (din : List W32) (s : State) : Host.Outcome State Fault Refusal :=
  let x := getAp s p
  match x.slotAt with
  | none => .next s
  | some k =>
    if !apRuns s p || x.master || (mid && (x.format != 0 || decide (1 < k))) then .next s
    else if !mid && clockLate s x then .next (clockGone s p)
    else
      let upTo := if mid then 1 else x.slotsM1 + 1
      let s1 := ((List.range upTo).filter fun i => decide (k ≤ i)).foldl (slotSkip p) s
      let s2 := setAp s1 p { getAp s1 p with resyncs := min ((getAp s1 p).resyncs + 1) 0xFFFFFFFF, slotAt := some upTo }
      .next (slotsPass p (if mid then s2 else startFrame s2 p) din)

/-! ## Rates (R393, R396) -/

/-- RATE_MHZ has left NOMINAL ± TOL. -/
def rateOut (x : APort) (rate : Nat) : Bool :=
  let d := if rate < x.nominal then x.nominal - rate else rate - x.nominal
  x.tol != 0 && decide (x.nominal * x.tol < d * 1000000)

/-- A rate outside 0.875 to 1.125 of NOMINAL is no bead reference. -/
def rateFar (x : APort) (rate : Nat) : Bool :=
  decide (1000 * rate < 875 * x.nominal) || decide (1125 * x.nominal < 1000 * rate)

/-- The mean rate in mHz over the last 4,096 frames, or over those there are (R393), rounded down or up
(notes/assumptions/131.md). -/
def meanRate (x : APort) (up : Bool) : Nat :=
  match x.marks.head?, x.marks.getLast? with
  | some a, some b =>
    let n := max 1 (a - b)
    min (((x.marks.length - 1) * 1024 * 10 ^ 12 + if up then n - 1 else 0) / n) 0xFFFFFFFF
  | _, _ => 0

/-- AUD_RATE_UPDATE: after 1,024 frames. R393 does not say how the mean is rounded: `up` says which way the port does. -/
def execAudRateUpdate (p : Nat) (up : Bool) (s : State) : Host.Outcome State Fault Refusal :=
  let x := getAp s p
  if !(decide (p < 5) && audUp s && x.rateDue) then .next s
  else
    let rate := meanRate x up
    let out := rateOut x rate
    let s1 := setAp s p { x with rate := rate, rateDue := false, rateChange := x.rateChange || out }
    let s2 := if out && !x.rateChange then event s1 nightcapLoc 0x31 (subjKind 4 p) rate x.nominal else s1
    .next (if rateFar x rate then refLostNow s2 (refOfPort p) else s2)

/-- AUD_CLOCK_LOST: two nominal periods have passed without an edge (notes/assumptions/25.md), or the source of a master's clock
has failed; with the word clock stop the masters that are locked to it. -/
def execAudClockLost (p : Nat) (s : State) : Host.Outcome State Fault Refusal :=
  let x := getAp s p
  let t := passTo s (x.lastEdge + (2 * 10 ^ 12 + x.nominal - 1) / x.nominal)
  if !(decide (p < 5) && audUp s && x.state == 1) then .next s
  else if x.master then
    .next (if x.clksrc == 0 || (x.clksrc == 2 && (getAp s 4).state != 1) then clockGone s p else s)
  else if x.nominal = 0 then .next s
  else .next (if p = 4 then wordGone t else clockGone t p)

/-- WORD_CLOCK_RETURN: an edge of AUD_WCLK after it was lost, or the first one. -/
def execWordClockReturn (s : State) : Host.Outcome State Fault Refusal :=
  onlyIf (audUp s && (getAp s 4).state == 0) s (frameEdge (setAp s 4 { getAp s 4 with state := 1 }) 4)

end Sys2Proof.Machine
end

