-- ==== Sys2Proof/Machine/Elem.lean ====
section
/-! DEFINITION. The element-wise functions that the table *Element-wise functions* (R148) bounds: their exact values
to far more bits than FP32 holds, and a result that is free within the bound (notes/assumptions/8.md). Numbers here
are integers in units of 2^-900. -/

namespace Sys2Proof.Machine

open Sys2Proof

/-! ## Fixed point -/

def fxOne : Int := 2 ^ 900
def fxMul (a b : Int) : Int := a * b / 2 ^ 900
def fxDiv (a b : Int) : Int := a * 2 ^ 900 / b

/-- A finite FP32 value, exactly. -/
def fixOf (x : Fp) : Int :=
  match x with
  | .fin s m e => let v : Int := (m * 2 ^ (e + 900).toNat : Nat); if s then -v else v
  | _ => 0

/-- e^r for a small r by its power series: `n` terms, the next divided by `i`. -/
def expSeries : Nat → Int → Int → Int → Int
  | 0, _, _, _ => 0
  | n + 1, i, t, r => t + expSeries n (i + 1) (fxMul t r / i) r
/-- e^v for |v| up to 256. -/
def fxExp (v : Int) : Int := (List.range 12).foldl (fun y _ => fxMul y y) (expSeries 90 1 fxOne (v / 4096))

/-- The odd power series with divisors 1, 3, 5, ...: `p` is the power at hand, `q` what the next is multiplied by. -/
def oddSeries : Nat → Int → Int → Int → Int
  | 0, _, _, _ => 0
  | n + 1, i, p, q => p / i + oddSeries n (i + 2) (fxMul p q) q
/-- ln v for a positive v: v = 2^k * m, ln m = 2 artanh ((m - 1) / (m + 1)). -/
def fxLog (v : Int) : Int :=
  let k := Nat.log2 v.natAbs
  let b : Int := 2 ^ k
  let z := fxDiv (v - b) (v + b)
  let third := fxOne / 3
  2 * oddSeries 300 1 z (fxMul z z) + ((k : Int) - 900) * (2 * oddSeries 300 1 third (fxMul third third))

/-- artan (1 / n). -/
def fxAtanInv (n : Int) : Int := oddSeries 220 1 (fxOne / n) (-(fxOne / (n * n)))
/-- π by Machin's formula. -/
def fxPi : Int := 16 * fxAtanInv 5 - 4 * fxAtanInv 239

/-- The series of sine or cosine from the term `t`, whose successor is divided by i (i + 1). -/
def trigSeries : Nat → Int → Int → Int → Int
  | 0, _, _, _ => 0
  | n + 1, i, t, r2 => t + trigSeries n (i + 2) (-(fxMul t r2 / (i * (i + 1)))) r2
/-- sin (v + `turn` quarter turns). -/
def fxSin (turn : Int) (v : Int) : Int :=
  let h := fxPi / 2
  let q := (2 * v + h) / (2 * h)
  let r := v - q * h
  let w := (q + turn) % 4
  let y := if w % 2 = 0 then trigSeries 90 2 r (fxMul r r) else trigSeries 90 1 fxOne (fxMul r r)
  if w < 2 then y else -y

/-- The series of the normal distribution's integral: `t` is the term before its division by `i`. -/
def phiSeries : Nat → Int → Int → Int → Int
  | 0, _, _, _ => 0
  | n + 1, i, t, v2 => t / i + phiSeries n (i + 2) (-(fxMul t v2 / (i + 1))) v2
/-- (1 + erf (v / √2)) / 2 for |v| up to 16. -/
def fxPhi (v : Int) : Int :=
  let two := (2 * fxPi * fxOne).toNat
  let root : Int := isqrt two (Nat.log2 two / 2 + 1) 0
  fxOne / 2 + fxDiv (phiSeries 800 1 v (fxMul v v)) root

/-! ## The functions -/

/-- The exact value of function 3 to 13 at a finite value, to the precision of the fixed point; far out, the value
that no FP32 result can tell from it, with its sign. -/
def elemExact (fn : Nat) (v : Int) : Int :=
  let big := fun (n : Int) => decide (n * fxOne ≤ v)
  let low := fun (n : Int) => decide (v ≤ -(n * fxOne))
  if fn = 3 then (if big 200 then fxOne else if low 200 then 1 else fxDiv fxOne (fxOne + fxExp (-v)))
  else if fn = 4 then
    (if big 100 then fxOne else if low 100 then -fxOne else fxDiv (fxExp (2 * v) - fxOne) (fxExp (2 * v) + fxOne))
  else if fn = 5 then (if big 200 then v else if low 200 then -1 else fxDiv v (fxOne + fxExp (-v)))
  else if fn = 6 then (if big 16 then v else if low 16 then -1 else fxMul v (fxPhi v))
  else if fn = 7 then (if big 200 then v else if low 200 then 1 else fxLog (fxOne + fxExp v))
  else if fn = 8 then fxExp v
  else if fn = 9 then fxLog v
  else if fn = 10 then fxDiv fxOne v
  else if fn = 11 then
    let w := (2 ^ 2700 / v).toNat
    (isqrt w (Nat.log2 w / 2 + 1) 0 : Nat)
  else if fn = 12 then fxSin 0 v
  else fxSin 1 v

/-- The error bound of a function in units in the last place. -/
def elemUlps (fn : Nat) : Nat := if fn = 5 ∨ fn = 6 then 3 else if 8 ≤ fn ∧ fn ≤ 11 then 1 else 2

/-- The unit in the last place of a finite FP32 value. -/
def ulpOf (x : Fp) : Int :=
  match x with
  | .fin _ m e => 2 ^ ((if m = 0 then -149 else lsbOf fmt32 m e) + 900).toNat
  | _ => 0

/-- `r` is a result of function `fn` at `x` within the table's bound of the exact value `y`: in units in the last
place, for sine and cosine beyond 65,536 an absolute error of 2^-22. -/
def elemOk (fn : Nat) (x y : Int) (r : W32) : Bool :=
  let z := dec32 r
  let far := decide (12 ≤ fn) && decide (65536 * fxOne < x.natAbs)
  z.isFin && decide (((fixOf z - y).natAbs : Int) ≤ if far then 2 ^ 878 else elemUlps fn * ulpOf z)

/-- A function whose table row gives a bound, for an argument whose result the table does not give: the free value
where it is within the bound, else the nearest value. e^0 is 1 and ln 1 is +0: R247 has its sum reach 1 and LOGP never
exceed 0 (notes/assumptions/41.md). Where FP32 has no finite value near, and at an infinity, the spec
states no result and it is the free value. -/
def elemBounded (fn : Nat) (x : W32) : W32 :=
  let v := fixOf (dec32 x)
  let y := elemExact fn v
  let r := Config.elemFn fn x
  if fn = 8 ∧ isZero32 x then 0x3F800000
  else if fn = 9 ∧ x = 0x3F800000 then 0
  else if !isFin32 x || elemOk fn v y r then r
  else
    match roundMag fmt32 y.natAbs (-900) none with
    | some n => BitVec.ofNat 32 (signEnc fmt32 (decide (y < 0)) + n)
    | none => r

end Sys2Proof.Machine
end

