-- ==== Sys2Proof/Machine/Matrix.lean ====
section
/-! DEFINITION. The matrix engine: codebooks, tiles and row streams (R142 to R145, R179, R180). -/

namespace Sys2Proof.Machine

open Sys2Proof

/-- A range of a launch: a length of 0 meets every range check (R137). -/
def rngOk (d : Disp) (a n : Nat) : Bool := n == 0 || winOk d a n
/-- A range a launch writes. -/
def rngW (d : Disp) (a n : Nat) : Bool := n == 0 || winWritable d a n

/-- Sets flags of CMP_ARITH_FLAGS (R105). -/
def orFlags (d : Disp) (f : Fl) : Disp := { d with flags := d.flags ||| f }

/-- A row element of the accumulator memory; a row never written reads +0 (R138). -/
def accGet (d : Disp) (row j : Nat) : W32 := tget 0 d.acc (row * 32 + j)
def accPut (d : Disp) (row j : Nat) (v : W32) : Disp := { d with acc := tput 0 d.acc (row * 32 + j) v }

/-- The header of the weight block at a window address, checked. -/
def wbAt (ls : Tab Byte) (d : Disp) (wa : Nat) : Option WBlock :=
  if winOk d wa 16 && wbHeadOk (winRead ls d wa 16) then some (wbHead (winRead ls d wa 16)) else none

/-- CBLD: the codebook of a block into buffer IMM[0]. -/
def cbldDo (ls : Tab Byte) (d : Disp) (w : Nat) : Option Disp :=
  let wa := (areg d (fP w)).toNat
  match wbAt ls d wa with
  | none => none
  | some h =>
    if winOk d (wa + 16) (wbCbBytes h) then
      let n := if h.wide then 256 else 16
      let put := fun (t : Tab (BitVec 13)) =>
        (List.range n).foldl (fun t i => tput 0 t i (BitVec.ofNat 13 (ofLE (winRead ls d (wa + 16 + 2 * i) 2)))) t
      some (if bitOf (fImm w) 0 then { d with cb1 := put d.cb1 } else { d with cb0 := put d.cb0 })
    else none

/-- CBLD. -/
def execOpCbld (core : Nat) (s : State) : Host.Outcome State Fault Refusal := .next (launch s core 0x40 0 cbldDo)

/-- The element of a tile load from a block (R112, R142): the escape and rows past DEPTH are +0. -/
def tlbElem (ls : Tab Byte) (d : Disp) (wa : Nat) (h : WBlock) (cb : Tab (BitVec 13)) (k j : Nat) : BitVec 13 :=
  if h.depth ≤ k then 0
  else
    let i := wbIndex h (fun o => (winByte ls d (wa + wbIdxOff h + o)).toNat) k j
    if h.esc && i == wbEscIdx h then 0 else tget 0 cb i

/-- TLB: group s[S] + IMM[10:0] of a block through codebook buffer IMM[11] into the shadow tile. -/
def tlbDo (ls : Tab Byte) (d : Disp) (w : Nat) : Option Disp :=
  let wa := (areg d (fP w)).toNat
  let g := (sreg d (fS w) + BitVec.ofNat 64 (bits (fImm w) 10 0)).toNat
  match wbAt ls d wa with
  | none => none
  | some h =>
    if g < (h.depth + 31) / 32 && winOk d wa (wbRemOff h) then
      let cb := if bitOf (fImm w) 11 then d.cb1 else d.cb0
      some { d with shadow :=
        { w := (List.range 1024).foldl (fun t i => tput 0 t i (tlbElem ls d wa h cb (32 * g + i / 32) (i % 32))) []
          rows := min 32 (h.depth - 32 * g), cols := h.channels } }
    else none

/-- TLB. -/
def execOpTlb (core : Nat) (s : State) : Host.Outcome State Fault Refusal := .next (launch s core 0x41 0 tlbDo)

/-- TLD: 32 × 32 PF13 values, k-major, into the shadow tile. -/
def tldDo (ls : Tab Byte) (d : Disp) (w : Nat) : Option Disp :=
  let wa := (areg d (fP w)).toNat
  if winOk d wa 2048 then
    some { d with shadow :=
      { w := (List.range 1024).foldl (fun t i => tput 0 t i (BitVec.ofNat 13 (ofLE (winRead ls d (wa + 2 * i) 2)))) [] } }
  else none

/-- TLD. -/
def execOpTld (core : Nat) (s : State) : Host.Outcome State Fault Refusal := .next (launch s core 0x42 0 tldDo)

/-- TSWP: the tiles are exchanged. -/
def execOpTswp (core : Nat) (s : State) : Host.Outcome State Fault Refusal :=
  .next (launch s core 0x43 0 fun _ d _ => some { d with active := d.shadow, shadow := d.active })

/-! ## Row streams -/

/-- An activation of format code 0 to 7 as a PF13 operand (R91, R144). -/
def rowElem (fmt v zp : Nat) : Fp × Fl :=
  if fmt = 6 then (if v = 128 then (Fp.zero, 0) else (ofInt (sgn 8 v) 0, 0))
  else if fmt = 7 then (if v = 0 then (Fp.zero, 0) else (ofInt ((v : Int) - zp) 0, 0))
  else toPf13 (widen fmt v)

/-- The 32 operands of a row; a row of scale code 0x00 is not read (R144). -/
def rowOps (ls : Tab Byte) (d : Disp) (fmt a mt : Nat) : List (Fp × Fl) :=
  let coded := fmt == 6 || fmt == 7
  if coded && winByte ls d mt == 0 then List.replicate 32 (Fp.zero, 0)
  else
    let zp := if coded then (winByte ls d (mt + 1)).toNat else 0
    let n := fmtBytes fmt
    (List.range 32).map fun i => rowElem fmt (ofLE (winRead ls d (a + n * i) n)) zp

/-- The operands of column `j` of a tile and a row; a padding row of the group adds +0 whatever the row holds (R94). -/
def colPairs (t : Tile) (ops : List (Fp × Fl)) (j : Nat) : List (Fp × Fp) :=
  ((List.range 32).zip ops).map fun x =>
    if x.1 < t.rows then (decFmt fmtPf13 (tget 0 t.w (32 * x.1 + j)).toNat, x.2.1) else (Fp.zero, Fp.zero)

/-- One row meets the active tile (R94, R95). The columns of padding channels are computed, and their outputs discarded
(R109); the flags of that computing stay (notes/assumptions/36.md). -/
def mrowRow (d : Disp) (chain : Bool) (acc : Nat) (ops : List (Fp × Fl)) : Disp :=
  let d0 := orFlags d (ops.foldl (fun f o => f ||| o.2) 0)
  (List.range 32).foldl (fun t j =>
    let init := if chain then dec32 (accGet d acc j) else Fp.zero
    let r := fin32w (groupStep init (colPairs d.active ops j))
    orFlags (if j < d.active.cols then accPut t acc j r.1 else t) r.2) d0

/-- MROW (R143, R180). -/
def mrowDo (ls : Tab Byte) (d : Disp) (w : Nat) : Option Disp :=
  match blockAt ls d w 64 with
  | none => none
  | some b =>
    let src := fieldLE b 0 4
    let stride := fieldLE b 4 4
    let m := fieldLE b 8 2
    let ra := fieldLE b 10 2
    let fmt := bits (fieldLE b 12 1) 3 0
    let chain := bitOf (fieldLE b 12 1) 4
    let mt := fieldLE b 16 4
    let coded := fmt == 6 || fmt == 7
    if stride % 16 == 0 && decide (m ≤ 1024) && decide (ra ≤ 1023) && decide (ra + m ≤ 1024) && decide (fmt ≤ 7) &&
        bits (fieldLE b 12 1) 7 5 == 0 && zeros b 13 3 && zeros b 20 44 &&
        (m == 0 || winOk d src ((m - 1) * stride + 32 * fmtBytes fmt)) && (!coded || rngOk d mt (8 * m)) then
      some ((List.range m).foldl (fun t i => mrowRow t chain (ra + i) (rowOps ls d fmt (src + i * stride) (mt + 8 * i))) d)
    else none

/-- MROW. -/
def execOpMrow (core : Nat) (s : State) : Host.Outcome State Fault Refusal := .next (launch s core 0x44 0 mrowDo)

end Sys2Proof.Machine
end

