-- ==== Sys2Proof/Machine/Vector.lean ====
section
/-! DEFINITION. The vector engine: element-wise operations and functions, reductions, conversions, random fills,
the correction path and the depth-wise path (R98 to R104, R129, R147 to R150, R181 to R183, R228, R229, R241,
R242). -/

namespace Sys2Proof.Machine

open Sys2Proof

/-! ## Element-wise functions (table *Element-wise functions*) -/

def posInf : W32 := 0x7F800000
def negInf : W32 := 0xFF800000
def one32 : W32 := 0x3F800000

/-- Function 0 to 13 of R181 on one FP32 value; `al` is the slope of leaky ReLU. Where the table bounds the
result it is free within the bound (notes/assumptions/8.md). -/
def elemEval (fn : Nat) (al x : W32) : W32 × Fl :=
  if isNan32 x then (nan32, 0)
  else if fn = 0 then (x, 0)
  else if fn = 1 then (if fltLt 0 x then x else 0, 0)
  else if fn = 2 then (if x = 0x80000000 ∨ !fltLt x 0 then (x, 0) else fmul al x)
  else if fn = 3 then (if x = negInf then 0 else if x = posInf then one32 else elemBounded 3 x, 0)
  else if fn = 4 then
    (if x = negInf then negW one32 else if x = posInf then one32
     else if (absW x).toNat < 0x39800000 then x else elemBounded 4 x, 0)
  else if fn = 5 ∨ fn = 6 then (if x = negInf then 0x80000000 else if x = posInf then posInf else elemBounded fn x, 0)
  else if fn = 7 then (if x = negInf then 0 else if x = posInf then posInf else elemBounded 7 x, 0)
  else if fn = 8 then
    (if fltLt 0x42B17218 x then (posInf, flOverflow) else if fltLt x 0xC2CFF211 ∨ x = 0xC2CFF211 then (0, 0)
     else (elemBounded 8 x, 0))
  else if fn = 9 then
    (if isZero32 x then (negInf, 0) else if x.getLsbD 31 then (nan32, flInvalid) else (elemBounded 9 x, 0))
  else if fn = 10 then
    (if isZero32 x then (x ||| posInf, 0) else if x = posInf then (0, 0) else if x = negInf then (0x80000000, 0)
     else (elemBounded 10 x, if absW (elemBounded 10 x) = posInf then flOverflow else 0))
  else if fn = 11 then
    (if isZero32 x then (x ||| posInf, 0) else if x = posInf then (0, 0)
     else if x.getLsbD 31 then (nan32, flInvalid) else (elemBounded 11 x, 0))
  else if absW x = posInf then (nan32, flInvalid)
  else (elemBounded fn x, 0)

/-! ## The vector block (R181) -/

/-- Fields of the vector block. -/
structure VBlk where
  dst : Nat
  a : Nat
  b : Nat
  c : Nat
  count : Nat
  opc : Nat
  inF : Nat
  outF : Nat
  sr : Bool
  bb : Bool
  cb : Bool
  mixer : Bool
  key : Nat
  rsite : Nat
  rstep : Nat
  rindex : Nat
  alpha : W32
deriving DecidableEq, Repr

def vblk (b : Bytes) : VBlk :=
  let f := fieldLE b 22 1
  { dst := fieldLE b 0 4, a := fieldLE b 4 4, b := fieldLE b 8 4, c := fieldLE b 12 4, count := fieldLE b 16 4,
    opc := fieldLE b 20 1, inF := bits (fieldLE b 21 1) 3 0, outF := bits (fieldLE b 21 1) 7 4,
    sr := bitOf f 0, bb := bitOf f 1, cb := bitOf f 2, mixer := bitOf f 3, key := bits (fieldLE b 23 1) 3 0,
    rsite := fieldLE b 24 4, rstep := fieldLE b 28 4, rindex := fieldLE b 32 4, alpha := f32At b 36 }

/-- Reserved fields 0. -/
def vblkRsv (b : Bytes) : Bool := bits (fieldLE b 22 1) 7 4 == 0 && bits (fieldLE b 23 1) 7 4 == 0 && zeros b 40 24

/-- Operands an operation uses, fields it does not use at 0, and its ranges (R137, R181). `nSrc` operands of which
the last may be broadcast; `dstBytes` bytes written. -/
def vRanges (d : Disp) (v : VBlk) (nSrc dstBytes : Nat) : Bool :=
  let n := v.count
  let sz := fmtBytes v.inF
  let one := fun (bc : Bool) => if bc then (if n = 0 then 0 else sz) else n * sz
  (if 1 ≤ nSrc then rngOk d v.a (n * sz) else v.a == 0) &&
    (if 2 ≤ nSrc then rngOk d v.b (one v.bb) else v.b == 0 && !v.bb) &&
    (if 3 ≤ nSrc then rngOk d v.c (one v.cb) else v.c == 0 && !v.cb) && rngW d v.dst dstBytes

/-- Element `i` of an operand, raw; a broadcast operand has one element. -/
def vEl (ls : Tab Byte) (d : Disp) (code a : Nat) (bc : Bool) (i : Nat) : Nat :=
  ofLE (winRead ls d (a + (if bc then 0 else i) * fmtBytes code) (fmtBytes code))

/-- A value widened exactly to FP32. -/
def to32 (x : Fp) : W32 := BitVec.ofNat 32 (convFp 0 x none).1

/-- Writes a list of elements of a format and the flags they set. -/
def vWrite (d : Disp) (dst code : Nat) (l : List (Nat × Fl)) : Disp :=
  orFlags (if l.isEmpty then d else winWrite d dst (l.flatMap fun x => leN (fmtBytes code) x.1))
    (l.foldl (fun f x => f ||| x.2) 0)

/-- The counter-mode word of an index for a key slot (R237). -/
def keyWord (d : Disp) (key cls site step idx : Nat) : W32 := cmWord (tget 0 d.keys key) cls site step idx
/-- The random half-word of stochastic rounding (R104, R236). -/
def srBits (d : Disp) (sr : Bool) (key site step idx : Nat) : Option Nat :=
  if sr then some ((keyWord d key 1 site step idx).toNat % 65536) else none

/-- Targets of stochastic rounding (R103). -/
def srOk (code : Nat) : Bool := (1 ≤ code && code ≤ 4) || code == 8 || code == 9

/-- The largest counter index of a launch of `n` elements fits 32 bits (R237). -/
def idxOk (rindex n : Nat) : Bool := n == 0 || decide (rindex + n - 1 ≤ 0xFFFFFFFF)

/-! ## VOP (R147) -/

/-- Operands an operation code takes. -/
def vopSrcs (opc : Nat) : Nat := if opc = 3 then 3 else if 7 ≤ opc then 1 else 2

/-- The exact result of ADD, SUB, MUL, FMA. -/
def vopExact (opc : Nat) (x y z : Fp) : Fp × Fl :=
  if opc = 0 then addX x y else if opc = 1 then addX x y.neg else if opc = 2 then mulX x y else fmaX x y z

/-- One element of VOP from raw operands. -/
def vopEl (opc inF outF : Nat) (x y z : Nat) : Nat × Fl :=
  let a := widen inF x
  let b := widen inF y
  let c := widen inF z
  if opc ≤ 3 then
    if inF = outF ∧ (inF = 1 ∨ inF = 2) then packed (fmtOf inF) (vopExact opc a b c)
    else
      let r := fin32w (vopExact opc a b c)
      let o := convFp outF (dec32 r.1) none
      (o.1, r.2 ||| o.2)
  else if opc = 4 then convFp outF (dec32 (fmin (to32 a) (to32 b))) none
  else if opc = 5 then convFp outF (dec32 (fmax (to32 a) (to32 b))) none
  else if opc = 6 ∨ opc = 7 then
    let r := fin32w (if opc = 6 then divX a b else sqrtX a)
    let o := convFp outF (dec32 r.1) none
    (o.1, r.2 ||| o.2)
  else if inF = outF then
    let f := fmtOf inF
    let top := 2 ^ (f.eb + f.fb)
    let raw := x % (2 * top)
    (if opc = 8 then raw else if opc = 9 then raw % top else if top ≤ raw then raw - top else raw + top, 0)
  else convFp outF (if opc = 8 then a else if opc = 9 then a.abs else a.neg) none

def vopDo (ls : Tab Byte) (d : Disp) (w : Nat) : Option Disp :=
  match blockAt ls d w 64 with
  | none => none
  | some blk =>
    let v := vblk blk
    if vblkRsv blk && decide (v.opc ≤ 10) && decide (v.inF ≤ 5) && decide (v.outF ≤ 5) && !v.sr && !v.mixer &&
        v.alpha == 0 && vRanges d v (vopSrcs v.opc) (v.count * fmtBytes v.outF) then
      let n := vopSrcs v.opc
      some (vWrite d v.dst v.outF ((List.range v.count).map fun i =>
        vopEl v.opc v.inF v.outF (vEl ls d v.inF v.a false i) (if 2 ≤ n then vEl ls d v.inF v.b v.bb i else 0)
          (if 3 ≤ n then vEl ls d v.inF v.c v.cb i else 0)))
    else none

/-- VOP. -/
def execOpVop (core : Nat) (s : State) : Host.Outcome State Fault Refusal := .next (launch s core 0x50 1 vopDo)

/-! ## VFN (R148) -/

def vfnDo (ls : Tab Byte) (d : Disp) (w : Nat) : Option Disp :=
  match blockAt ls d w 64 with
  | none => none
  | some blk =>
    let v := vblk blk
    if vblkRsv blk && decide (v.opc ≤ 13) && decide (v.inF ≤ 5) && decide (v.outF ≤ 5) && !v.sr && !v.mixer &&
        (v.opc == 2 || v.alpha == 0) && vRanges d v 1 (v.count * fmtBytes v.outF) then
      some (vWrite d v.dst v.outF ((List.range v.count).map fun i =>
        let r := elemEval v.opc v.alpha (to32 (widen v.inF (vEl ls d v.inF v.a false i)))
        let o := convFp v.outF (dec32 r.1) none
        (o.1, r.2 ||| o.2)))
    else none

/-- VFN. -/
def execOpVfn (core : Nat) (s : State) : Host.Outcome State Fault Refusal := .next (launch s core 0x51 1 vfnDo)

/-! ## VRED (R98, R99) -/

/-- The pairwise tree (R98); the fuel is the number of elements. -/
def pairwise : Nat → List W32 → W32 × Fl
  | 0, _ => (0, 0)
  | fuel + 1, l =>
    match l with
    | [] => (0, 0)
    | [x] => (x, 0)
    | _ =>
      let m := 2 ^ Nat.log2 (l.length - 1)
      let a := pairwise fuel (l.take m)
      let b := pairwise fuel (l.drop m)
      let r := fadd a.1 b.1
      (r.1, a.2 ||| b.2 ||| r.2)

/-- The largest, or smallest, element and its lowest index; a NaN wins (R99). -/
def argBest (big : Bool) : Nat → List W32 → W32 × Nat
  | _, [] => (0, 0)
  | i, [x] => (if isNan32 x then nan32 else x, i)
  | i, x :: t =>
    let r := argBest big (i + 1) t
    if isNan32 x then (nan32, i)
    else if isNan32 r.1 then r
    else if (if big then fltLt x r.1 else fltLt r.1 x) then r else (x, i)

def vredDo (ls : Tab Byte) (d : Disp) (w : Nat) : Option Disp :=
  match blockAt ls d w 64 with
  | none => none
  | some blk =>
    let v := vblk blk
    let arg := v.opc == 4 || v.opc == 5
    if vblkRsv blk && decide (v.opc ≤ 6) && decide (v.inF ≤ 5) && v.outF == 0 && !v.sr && !v.mixer && v.alpha == 0 &&
        vRanges d v 1 (if v.count = 0 then 0 else if arg then 8 else 4) then
      if v.count = 0 then some d
      else
        let l := (List.range v.count).map fun i => to32 (widen v.inF (vEl ls d v.inF v.a false i))
        let best := argBest (v.opc == 2 || v.opc == 4 || v.opc == 6) 0 (if v.opc = 6 then l.map absW else l)
        if v.opc = 0 then
          let r := pairwise l.length l
          some (vWrite d v.dst 0 [((if isNan32 r.1 then nan32 else r.1).toNat, r.2)])
        else if v.opc = 1 then
          let sq := l.map fun x => fmul x x
          let r := pairwise l.length (sq.map Prod.fst)
          some (vWrite d v.dst 0 [(r.1.toNat, sq.foldl (fun f x => f ||| x.2) r.2)])
        else if arg then
          -- an index beyond 32 bits is not stated
          let ix := v.rindex + best.2
          some (vWrite d v.dst 0 [(best.1.toNat, 0), (if ix < 2 ^ 32 then ix else (Config.freeW32 d.scrTag).toNat, 0)])
        else some (vWrite d v.dst 0 [(best.1.toNat, 0)])
    else none

/-- VRED. -/
def execOpVred (core : Nat) (s : State) : Host.Outcome State Fault Refusal := .next (launch s core 0x52 1 vredDo)

/-! ## VCVT -/

def cvtFmt (c : Nat) : Bool := c ≤ 5 || c == 8 || c == 9

def vcvtDo (ls : Tab Byte) (d : Disp) (w : Nat) : Option Disp :=
  match blockAt ls d w 64 with
  | none => none
  | some blk =>
    let v := vblk blk
    if vblkRsv blk && v.opc == 0 && cvtFmt v.inF && cvtFmt v.outF && (!v.sr || (srOk v.outF && idxOk v.rindex v.count)) &&
        !v.mixer && v.alpha == 0 && vRanges d v 1 (v.count * fmtBytes v.outF) then
      some (vWrite d v.dst v.outF ((List.range v.count).map fun i =>
        convOut v.outF (widen v.inF (vEl ls d v.inF v.a false i)) (srBits d v.sr v.key v.rsite v.rstep (v.rindex + i))))
    else none

/-- VCVT. -/
def execOpVcvt (core : Nat) (s : State) : Host.Outcome State Fault Refusal := .next (launch s core 0x53 1 vcvtDo)

/-! ## VRND (R241, R242) -/

/-- The uniform value of a word: an odd integer times 2^-24. -/
def uniform (w : W32) : W32 := to32 (.fin false (2 * (w.toNat / 512) + 1) (-24))

/-- The words of a fill from the lane mixers: element i takes the next word of lane i mod 64. -/
def mixFill : Nat → Nat → Tab (BitVec 128) → List W32 × Tab (BitVec 128)
  | 0, _, t => ([], t)
  | n + 1, i, t =>
    let c := mixerNext (tget 0 t (i % 64))
    let r := mixFill n (i + 1) (tput 0 t (i % 64) c)
    (mixerWord c :: r.1, r.2)

def vrndDo (ls : Tab Byte) (d : Disp) (w : Nat) : Option Disp :=
  match blockAt ls d w 64 with
  | none => none
  | some blk =>
    let v := vblk blk
    if vblkRsv blk && decide (v.opc ≤ 1) && v.inF == 0 && v.outF == (if v.opc = 0 then 10 else 0) && !v.sr &&
        v.alpha == 0 && (v.mixer || idxOk v.rindex v.count) && vRanges d v 0 (v.count * 4) then
      let (ws, d1) :=
        if v.mixer then
          let r := mixFill v.count 0 d.mixers
          (r.1, { d with mixers := r.2 })
        else ((List.range v.count).map fun i => keyWord d v.key 0 v.rsite v.rstep (v.rindex + i), d)
      some (vWrite d1 v.dst 0 (ws.map fun x => (if v.opc = 0 then x.toNat else (uniform x).toNat, 0)))
    else none

/-- VRND. -/
def execOpVrnd (core : Nat) (s : State) : Host.Outcome State Fault Refusal := .next (launch s core 0x54 1 vrndDo)

/-! ## VCOR (R129, R182) -/

/-- One correction: the reduction index, 0 for a weight entry and 1 for an activation entry, and both factors. -/
structure CTerm where
  k : Nat
  act : Bool
  x : Fp
  y : Fp
deriving DecidableEq, Repr

/-- Inserts a term in the order of R97, after its equals. -/
def ctInsert (t : CTerm) : List CTerm → List CTerm
  | [] => [t]
  | u :: r => if 2 * t.k + b2n t.act < 2 * u.k + b2n u.act then t :: u :: r else u :: ctInsert t r

/-- The activation remainder entries of a row: VALUE and INDEX (R124). -/
def actRems (ls : Tab Byte) (d : Disp) (rem n : Nat) : List (W32 × Nat) :=
  (List.range n).map fun i => (winW32 ls d (rem + 8 * i), ofLE (winRead ls d (rem + 8 * i + 4) 2))

/-- The activation at a piece index, as a weight term uses it (R129, R182). -/
def actVal (code zp : Nat) (rems : List (W32 × Nat)) (i : Nat) : Fp :=
  let esc := if zp = 0 then code == 128 else code == 0
  if esc then
    match rems.find? fun e => e.2 == i with
    | some e => dec32 e.1
    | none => Fp.zero
  else if zp = 0 then ofInt (sgn 8 code) 0 else ofInt ((code : Int) - zp) 0

/-- The terms of one output element. -/
def vcorTerms (ls : Tab Byte) (d : Disp) (wa : Nat) (h : WBlock) (wrem : List WRem) (act zp koff klen : Nat)
    (rems : List (W32 × Nat)) (j : Nat) : List CTerm :=
  let wt := (wrem.filter fun r => r.j == j && decide (koff ≤ r.k) && decide (r.k < koff + klen)).map fun r =>
    ({ k := r.k, act := false, x := dec32 r.value,
       y := actVal (winByte ls d (act + (r.k - koff))).toNat zp rems (r.k - koff) } : CTerm)
  let at_ := rems.filterMap fun e =>
    if e.2 < klen then
      let k := koff + e.2
      let i := wbIndex h (fun o => (winByte ls d (wa + wbIdxOff h + o)).toNat) k j
      if h.esc && i == wbEscIdx h then none
      else some ({ k := k, act := true, x := decFmt fmtPf13 (ofLE (winRead ls d (wa + 16 + 2 * i) 2) % 8192), y := dec32 e.1 } : CTerm)
    else none
  (wt ++ at_).foldl (fun l t => ctInsert t l) []

/-- Adds the terms to one accumulator element, each one rounded fused multiply-add. -/
def vcorElem (d : Disp) (row j : Nat) (ts : List CTerm) : Disp :=
  ts.foldl (fun t c =>
    let r := fin32w (fmaX c.x c.y (dec32 (accGet t row j)))
    orFlags (accPut t row j r.1) r.2) d

def vcorDo (ls : Tab Byte) (d : Disp) (w : Nat) : Option Disp :=
  match blockAt ls d w 64 with
  | none => none
  | some b =>
    let wa := fieldLE b 0 4
    let act := fieldLE b 4 4
    let ast := fieldLE b 8 4
    let mt := fieldLE b 12 4
    let rem := fieldLE b 16 4
    let m := fieldLE b 20 2
    let ra := fieldLE b 22 2
    let koff := fieldLE b 24 4
    let klen := fieldLE b 28 4
    match wbAt ls d wa with
    | none => none
    | some h =>
      if zeros b 32 32 && decide (m ≤ 1024) && decide (ra ≤ 1023) && decide (ra + m ≤ 1024) && decide (1 ≤ klen) &&
          decide (klen ≤ 65536) && decide (koff + klen ≤ h.depth) && winOk d wa (wbLen h) &&
          (m == 0 || winOk d act ((m - 1) * ast + klen)) && rngOk d mt (8 * m) && rngOk d rem (256 * m) then
        let wrem := wbRems h (winRead ls d wa (wbLen h))
        some ((List.range m).foldl (fun t i =>
          let md := winRead ls t (mt + 8 * i) 8
          if fieldLE md 0 1 = 0 then t
          else
            let rems := actRems ls t (rem + 256 * i) (min (fieldLE md 2 1) 32)
            (List.range h.channels).foldl (fun u j =>
              vcorElem u (ra + i) j
                (vcorTerms ls t wa h wrem (act + i * ast) (fieldLE md 1 1) koff klen rems j)) t) d)
      else none

/-- VCOR. -/
def execOpVcor (core : Nat) (s : State) : Host.Outcome State Fault Refusal := .next (launch s core 0x55 1 vcorDo)

/-! ## VDW (R150, R183, R217, R218, R228, R229) -/

/-- Fields of the depth-wise block. -/
structure DwBlk where
  src : Nat
  dst : Nat
  filt : Nat
  bias : Nat
  g : Nat
  t : Nat
  ch : Nat
  inF : Nat
  outF : Nat
  ih : Nat
  iw : Nat
  kh : Nat
  kw : Nat
  sy : Nat
  sx : Nat
  dy : Nat
  dx : Nat
  pt : Nat
  pb : Nat
  pl : Nat
  pr : Nat
  iy0 : Nat
  irows : Nat
  oy0 : Nat
  orows : Nat
  srs : Nat
  drs : Nat
deriving DecidableEq, Repr

def dwBlk (b : Bytes) : DwBlk :=
  let n := fun o => fieldLE b o 1
  { src := fieldLE b 0 4, dst := fieldLE b 4 4, filt := fieldLE b 8 4, bias := fieldLE b 12 4, g := fieldLE b 16 2,
    t := fieldLE b 18 2, ch := fieldLE b 20 2, inF := n 22 % 16, outF := n 22 / 16, ih := fieldLE b 32 2,
    iw := fieldLE b 34 2, kh := n 36 % 16, kw := n 36 / 16, sy := n 37 % 16, sx := n 37 / 16, dy := n 38 % 16,
    dx := n 38 / 16, pt := n 40, pb := n 41, pl := n 42, pr := n 43, iy0 := fieldLE b 44 2, irows := fieldLE b 46 2,
    oy0 := fieldLE b 48 2, orows := fieldLE b 50 2, srs := fieldLE b 52 4, drs := fieldLE b 56 4 }

/-- An output size (R218); 0 where it is below 1. -/
def outSize (n p q dil k st : Nat) : Nat := if dil * (k - 1) + 1 ≤ n + p + q then (n + p + q - (dil * (k - 1) + 1)) / st + 1 else 0
def dwOh (x : DwBlk) : Nat := outSize x.ih x.pt x.pb x.dy x.kh x.sy
def dwOw (x : DwBlk) : Nat := outSize x.iw x.pl x.pr x.dx x.kw x.sx

/-- Every field is in its range (R183, R228). -/
def dwFields (b : Bytes) (x : DwBlk) : Bool :=
  zeros b 23 9 && zeros b 39 1 && zeros b 60 4 && decide (1 ≤ x.g) && decide (x.g ≤ 64) && decide (1 ≤ x.t) &&
    decide (x.t ≤ 81) && decide (1 ≤ x.ch) && decide (x.ch ≤ 4096) && x.ch % x.g == 0 && decide (x.inF ≤ 5) &&
    decide (x.outF ≤ 5) && decide (1 ≤ x.ih) && decide (1 ≤ x.iw) && decide (1 ≤ x.kh) && decide (x.kh ≤ 9) &&
    decide (1 ≤ x.kw) && decide (x.kw ≤ 9) && x.kh * x.kw == x.t && decide (1 ≤ x.sy) && decide (1 ≤ x.sx) &&
    decide (1 ≤ x.dy) && decide (1 ≤ x.dx) && decide (x.iy0 < x.ih) && decide (1 ≤ x.irows) &&
    decide (x.iy0 + x.irows ≤ x.ih) && decide (1 ≤ dwOh x) && decide (1 ≤ dwOw x) && decide (x.oy0 + x.orows ≤ dwOh x) &&
    decide (x.iw * x.ch * fmtBytes x.inF ≤ x.srs) && decide (dwOw x * x.ch * fmtBytes x.outF ≤ x.drs)

/-- Every in-image row the outputs need is held. -/
def dwRowsHeld (x : DwBlk) : Bool :=
  (List.range x.orows).all fun r => (List.range x.kh).all fun ky =>
    let y : Int := ((x.oy0 + r) * x.sy + ky * x.dy : Nat) - (x.pt : Int)
    !(decide (0 ≤ y) && decide (y < x.ih)) || (decide ((x.iy0 : Int) ≤ y) && decide (y < x.iy0 + x.irows))

/-- One output element: the bias, then a fused multiply-add per product, channels ascending, then taps. -/
def dwElem (ls : Tab Byte) (d : Disp) (x : DwBlk) (oy ox j : Nat) : Nat × Fl :=
  let n := j / x.g
  let isz := fmtBytes x.inF
  let prods := (List.range (x.g * x.t)).map fun q => (n * x.g + q / x.t, q % x.t)
  let r := prods.foldl (fun (acc : W32 × Fl) p =>
    let y : Int := (oy * x.sy + p.2 / x.kw * x.dy : Nat) - (x.pt : Int)
    let xx : Int := (ox * x.sx + p.2 % x.kw * x.dx : Nat) - (x.pl : Int)
    let inImg := decide (0 ≤ y) && decide (y < x.ih) && decide (0 ≤ xx) && decide (xx < x.iw)
    let v := if inImg then
        widen x.inF (ofLE (winRead ls d (x.src + (y.toNat - x.iy0) * x.srs + (xx.toNat * x.ch + p.1) * isz) isz))
      else Fp.zero
    let tap := winW32 ls d (x.filt + 4 * ((j * x.g + p.1 - n * x.g) * x.t + p.2))
    let z := fin32w (fmaX v (dec32 tap) (dec32 acc.1))
    (z.1, acc.2 ||| z.2)) (winW32 ls d (x.bias + 4 * j), 0)
  let o := convFp x.outF (dec32 r.1) none
  (o.1, r.2 ||| o.2)

def vdwDo (ls : Tab Byte) (d : Disp) (w : Nat) : Option Disp :=
  match blockAt ls d w 64 with
  | none => none
  | some b =>
    let x := dwBlk b
    let osz := fmtBytes x.outF
    let srcN := (x.irows - 1) * x.srs + x.iw * x.ch * fmtBytes x.inF
    let dstN := if x.orows = 0 then 0 else (x.orows - 1) * x.drs + dwOw x * x.ch * osz
    if dwFields b x && dwRowsHeld x && winOk d x.src srcN && rngW d x.dst dstN && winOk d x.filt (4 * x.ch * x.g * x.t) &&
        winOk d x.bias (4 * x.ch) && (dstN == 0 || !overlap x.src srcN x.dst dstN) then
      let outs := (List.range x.orows).flatMap fun r => (List.range (dwOw x)).flatMap fun ox =>
        (List.range x.ch).map fun j => (x.dst + r * x.drs + (ox * x.ch + j) * osz, dwElem ls d x (x.oy0 + r) ox j)
      some (outs.foldl (fun t o => orFlags (winWrite t o.1 (leN osz o.2.1)) o.2.2) d)
    else none

/-- VDW. -/
def execOpVdw (core : Nat) (s : State) : Host.Outcome State Fault Refusal := .next (launch s core 0x56 1 vdwDo)

end Sys2Proof.Machine
end

