-- ==== Sys2Proof/Machine/Carry.lean ====
section
/-! DEFINITION. The gate pipeline: rescaling, functions and templates, state, output conversion and coding at a
site (R115 to R128, R131, R152, R153, R184, R185, R201 to R205). -/

namespace Sys2Proof.Machine

open Sys2Proof

/-! ## Coding a row piece (R119 to R128) -/

/-- What coding one row piece gives: its codes, the 8 bytes of metadata, the remainder entries, the saturation
count, and the largest finite magnitude, largest and smallest finite element. -/
structure Coded where
  codes : List Nat
  md : Bytes
  rem : List (W32 × Nat)
  sat : Nat
  maxAbs : W32
  max : W32
  min : W32
  fl : Fl
deriving DecidableEq, Repr

/-- Row metadata (R124). -/
def rowMeta (scale zp rem : Nat) (sat first const : Bool) (cscale : W32) : Bytes :=
  leN 1 scale ++ leN 1 zp ++ leN 1 rem ++ leN 1 (b2n sat * 4 + b2n first * 2 + b2n const) ++ leN 4 cscale.toNat

/-- The headroom factor h (R114). -/
def headroom (c : Nat) : W32 :=
  if c = 0 then 0x3F800000 else if c = 1 then 0x3F900000 else if c = 2 then 0x3FA00000 else if c = 3 then 0x3FC00000
  else 0x40000000

/-- The largest, and the smallest, of a list that holds no NaN; `z` for an empty list. -/
def maxOf (z : W32) (l : List W32) : W32 :=
  match l with
  | [] => z
  | x :: t => t.foldl fmax x
def minOf (z : W32) (l : List W32) : W32 :=
  match l with
  | [] => z
  | x :: t => t.foldl fmin x

/-- Scale code, effective scale and flags from t (R86, R87, R119, R125). -/
def scaleOf (t s2 : W32) (pos : Bool) : Nat × W32 × Fl :=
  let q := fdiv t s2
  let c := ueEnc q.1 pos
  let e := fin32w (mulX (ueDec c.1) (dec32 s2))
  (c.1, e.1, q.2 ||| c.2 ||| e.2)

/-- The zero point of an asymmetric row (R125); where the quotient is not defined it is a free value from 1 to
255. -/
def zeroPoint (tag : Nat) (lo h seff : W32) : Nat × Fl :=
  let z := fmul (negW lo) h
  let free := 1 + Config.freeNat tag % 255
  let v :=
    if isNan32 z.1 || isZero32 seff || isNan32 seff then free
    else if !isFin32 z.1 then (if isFin32 seff then 255 else free)
    else (max 1 (min 255 (1 + rintQuot (dec32 z.1) (dec32 seff)))).toNat
  (v, z.2)

/-- What a remainder entry holds: x in units of the row's scale (R121). -/
def remValue (x seff : W32) : W32 × Fl :=
  if isNan32 x then (nan32, 0) else if !isFin32 x then (x, 0) else fdiv x seff

/-- Codes the elements of a piece in ascending order (R121, R126). -/
def codeElems (tag : Nat) (asym esc : Bool) (zp : Nat) (seff : W32) :
    Nat → List W32 → List (W32 × Nat) → List Nat × List (W32 × Nat) × Nat × Fl
  | _, [], _ => ([], [], 0, 0)
  | i, x :: t, rem =>
    let c := rintQuot (dec32 x) (dec32 seff)
    let fits := isFin32 x && (if asym then decide (1 ≤ c + zp) && decide (c + zp ≤ 255) else decide (-127 ≤ c) && decide (c ≤ 127))
    if isFin32 x && isZero32 seff then
      let r := codeElems tag asym esc zp seff (i + 1) t rem
      ((Config.freeByte tag i).toNat :: r.1, r.2)
    else if fits then
      let r := codeElems tag asym esc zp seff (i + 1) t rem
      ((if asym then (c + zp).toNat else (c % 256).toNat) :: r.1, r.2)
    else if esc && decide (rem.length < 32) then
      let v := remValue x seff
      let r := codeElems tag asym esc zp seff (i + 1) t (rem ++ [(v.1, i)])
      ((if asym then 0 else 128) :: r.1, (v.1, i) :: r.2.1, r.2.2.1, r.2.2.2 ||| v.2)
    else
      let r := codeElems tag asym esc zp seff (i + 1) t rem
      let pos := !x.getLsbD 31
      let code :=
        if isNan32 x then (if asym then zp else 0)
        else if asym then (if pos then 255 else 1) else (if pos then 127 else 129)
      (code :: r.1, r.2.1, r.2.2.1 + 1, r.2.2.2 ||| (if isNan32 x then flInvalid else 0))

/-- Codes one row piece at a site, given the site's history, most recent entry first. A constant row (R128) whose |v| / 127
underflows has code 0x01, as R87 says of R119 and R125 (notes/assumptions/37.md). -/
def codePiece (tag : Nat) (site : Site) (hist : List HistEnt) (xs : List W32) : Coded :=
  let fin := xs.filter isFin32
  let nonfin := xs.any fun x => !isFin32 x
  let nonzero := fin.any fun x => !isZero32 x
  let mabs := maxOf 0 (fin.map absW)
  let mx := maxOf 0 fin
  let mn := minOf 0 fin
  let win := hist.take (min hist.length site.w)
  let first := hist.isEmpty || ((win.all fun e => isZero32 e.maxAbs) && nonzero)
  if !nonfin && !nonzero then
    { codes := xs.map fun _ => b2n site.asym, md := rowMeta 0 (b2n site.asym) 0 false first false 0, rem := [],
      sat := 0, maxAbs := 0, max := 0, min := 0, fl := 0 }
  else if site.asym && !nonfin && xs.all (fun x => x == xs.headD 0) then
    let v := xs.headD 0
    let cs := fdiv (absW v) 0x42FE0000
    let sc := scaleOf cs.1 site.s2 true
    { codes := xs.map fun _ => if v.getLsbD 31 then 1 else 255, md := rowMeta sc.1 128 0 false first true cs.1,
      rem := [], sat := 0, maxAbs := absW v, max := v, min := v, fl := cs.2 ||| sc.2.2 }
  else
    let h := headroom site.headroom
    let lo := fmin (if first then mn else minOf 0 (win.map HistEnt.min)) 0
    let (code, seff, zp, fl) :=
      if site.asym then
        let hi := fmax (if first then mx else maxOf 0 (win.map HistEnt.max)) 0
        let d := fsub hi lo
        let p := fmul d.1 h
        let t := fdiv p.1 0x437E0000
        let sc := scaleOf t.1 site.s2 (fltLt 0 d.1)
        let z := zeroPoint tag lo h sc.2.1
        (sc.1, sc.2.1, z.1, d.2 ||| p.2 ||| t.2 ||| sc.2.2 ||| z.2)
      else
        let m := if first then mabs else maxOf 0 (win.map HistEnt.maxAbs)
        let p := fmul m h
        let t := fdiv p.1 0x42FE0000
        let sc := scaleOf t.1 site.s2 (fltLt 0 m)
        (sc.1, sc.2.1, 0, p.2 ||| t.2 ||| sc.2.2)
    let r := codeElems tag site.asym site.esc zp seff 0 xs []
    { codes := r.1, md := rowMeta code zp r.2.1.length (r.2.2.1 != 0) first false 0, rem := r.2.1, sat := r.2.2.1,
      maxAbs := mabs, max := if site.asym then mx else 0, min := if site.asym then mn else 0, fl := fl ||| r.2.2.2 }

/-! ## The carry block (R184) -/

/-- Fields of the carry block. -/
structure CBlk where
  inp : Nat
  gates : Nat
  inAcc : Bool
  func : Nat
  outF : Nat
  sr : Bool
  rowScale : Bool
  site : Nat
  ch : Nat
  rows : Nat
  rescale : Nat
  bias : Nat
  decay : Nat
  stIn : Nat
  stOut : Nat
  out : Nat
  outStride : Nat
  metaIn : Nat
  metaOut : Nat
  remOut : Nat
  hist : Nat
  satcnt : Nat
  key : Nat
  inSite : Nat
  rsite : Nat
  rstep : Nat
  rindex : Nat
  alpha : W32
  report : Nat
deriving DecidableEq, Repr

def cblk (b : Bytes) : CBlk :=
  let n := fun o => fieldLE b o 1
  let w := fun o => fieldLE b o 4
  { inp := w 0, gates := n 4 % 8, inAcc := bitOf (n 4) 3, func := n 5, outF := n 6 % 16, sr := bitOf (n 6) 4,
    rowScale := bitOf (n 6) 5, site := n 7 % 64, ch := fieldLE b 8 2, rows := fieldLE b 10 2, rescale := w 12,
    bias := w 16, decay := w 20, stIn := w 24, stOut := w 28, out := w 32, outStride := w 36, metaIn := w 40,
    metaOut := w 44, remOut := w 48, hist := w 52, satcnt := w 56, key := n 60 % 16, inSite := n 61 % 64,
    rsite := w 64, rstep := w 68, rindex := w 72, alpha := f32At b 76, report := w 80 }

/-- Fields of the template table header (R201). -/
structure Tpl where
  c : Nat
  b : Nat
  initEn : Bool
  resetEn : Bool
  mask : Nat
  init : Nat
  sstride : Nat
  coff : Nat
deriving DecidableEq, Repr

def tplHead (b : Bytes) : Tpl :=
  { c := fieldLE b 0 2, b := fieldLE b 2 2, initEn := bitOf (fieldLE b 4 1) 1, resetEn := bitOf (fieldLE b 4 1) 0,
    mask := fieldLE b 8 4, init := fieldLE b 12 4, sstride := fieldLE b 16 4, coff := fieldLE b 20 4 }

def isTpl (func : Nat) : Bool := 0x10 ≤ func && func ≤ 0x14
def tplGates (func : Nat) : Nat := if func = 0x10 ∨ func = 0x11 then 4 else if func = 0x12 then 2 else if func = 0x13 then 1 else 3
def tplMaxC (func : Nat) : Nat := if func = 0x10 ∨ func = 0x11 then 1 else 256

/-- Bytes of one state row: one slice, or for the LSTM-type cell two slices COFF apart. -/
def stRow (x : CBlk) (t : Tpl) : Nat := if x.func = 0x11 then t.coff + 4 * x.ch else 4 * x.ch
/-- Bytes all state rows span; none where the launch has no element (R137). -/
def stSpan (x : CBlk) (t : Tpl) : Nat := if x.ch = 0 ∨ x.rows = 0 then 0 else (t.b - 1) * t.sstride + stRow x t

/-- The fields of a template header (R201). B × C is the count ROWS, so a launch of 0 rows meets that check as it meets a
range of the count (R137, notes/assumptions/40.md). -/
def tplFields (x : CBlk) (h : Bytes) : Bool :=
  let t := tplHead h
  decide (1 ≤ t.c) && decide (t.c ≤ tplMaxC x.func) && decide (1 ≤ t.b) && decide (t.b ≤ 1024) &&
    (x.rows == 0 || t.b * t.c == x.rows) &&
    bits (fieldLE h 4 1) 7 2 == 0 && zeros h 5 3 && zeros h 24 40 && (t.resetEn || t.mask == 0) &&
    (t.initEn || t.init == 0) && t.sstride % 4 == 0 && (x.func == 0x11 || t.coff == 0)

/-- The checks of a template launch (R201, R202); each range of no byte is met (R137). -/
def tplOk (d : Disp) (x : CBlk) (h : Bytes) : Bool :=
  let t := tplHead h
  tplFields x h && (!t.resetEn || rngOk d t.mask ((x.rows + 7) / 8)) &&
    (!t.initEn || x.ch == 0 || winOk d t.init (stRow x t)) &&
    (x.func ≤ 0x11 || rngOk d (x.decay + 64) (4 * x.ch)) && rngOk d x.stIn (stSpan x t) &&
    rngW d x.stOut (stSpan x t) &&
    (x.stIn == x.stOut || stSpan x t == 0 || !overlap x.stIn (stSpan x t) x.stOut (stSpan x t))

/-- Bytes of an output row. -/
def outRow (x : CBlk) : Nat := x.ch * fmtBytes x.outF
def coding (x : CBlk) : Bool := x.outF == 6 || x.outF == 7

/-- The fields of the carry block that are checked whatever the counts (R137, R184). -/
def carryFields (sites : List Site) (b : Bytes) (x : CBlk) : Bool :=
  let n := fun o => fieldLE b o 1
  bits (n 4) 7 4 == 0 && bits (n 6) 7 6 == 0 && bits (n 7) 7 6 == 0 && bits (n 60) 7 4 == 0 && bits (n 61) 7 6 == 0 &&
    zeros b 62 2 && zeros b 84 44 &&
    (if isTpl x.func then x.gates == tplGates x.func
     else decide (x.func ≤ 0xD) && x.gates == 1 && x.decay == 0 && x.stIn == 0 && x.stOut == 0) &&
    decide (x.outF ≤ 9) && (!x.sr || srOk x.outF) &&
    (if x.rowScale then decide (x.inSite < sites.length) else x.inSite == 0) &&
    (if coding x then (match sites[x.site]? with | some st => st.asym == (x.outF == 7) | none => false)
     else x.report == 0) &&
    decide (x.ch ≤ if x.inAcc then 32 else 4096) && decide (x.rows ≤ 1024)

/-- A launch of no element: with a count of 0 it does nothing (R137). -/
def carryEmpty (x : CBlk) : Bool := x.ch == 0 || x.rows == 0

/-- Bytes from the first output row to the end of the last. -/
def outSpan (x : CBlk) : Nat := if carryEmpty x then 0 else (x.rows - 1) * x.outStride + outRow x

/-- The ranges of a launch and its template table (R137, R184, R201, R237); a range of no byte or row is met. -/
def carryRanges (ls : Tab Byte) (d : Disp) (x : CBlk) : Bool :=
  let tot := x.gates * x.rows
  (!x.sr || idxOk x.rindex (x.rows * x.ch)) &&
    (if x.inAcc then tot == 0 || decide (x.inp + tot ≤ 1024) else rngOk d x.inp (tot * x.ch * 4)) &&
    rngOk d x.rescale (4 * x.gates * x.ch) && rngOk d x.bias (4 * x.gates * x.ch) &&
    (!x.rowScale || rngOk d x.metaIn (8 * x.rows)) && rngW d x.out (outSpan x) &&
    (!coding x || (rngW d x.metaOut (8 * x.rows) && rngW d x.remOut (256 * x.rows) &&
      rngOk d x.hist (128 * x.rows) && rngW d x.satcnt (4 * x.rows) &&
      (x.report == 0 || rngW d x.report (16 * x.rows)))) &&
    (!isTpl x.func || (winOk d x.decay 64 && tplOk d x (winRead ls d x.decay 64)))

/-- The checks of a carry launch (R137, R153, R184). -/
def carryOk (ls : Tab Byte) (d : Disp) (sites : List Site) (b : Bytes) (x : CBlk) : Bool :=
  carryFields sites b x && carryRanges ls d x

/-! ## Rescaling (R131, R185) -/

/-- s_row of an output row. -/
def sRow (ls : Tab Byte) (d : Disp) (sites : List Site) (x : CBlk) (i : Nat) : W32 × Fl :=
  if x.rowScale then
    let m := winRead ls d (x.metaIn + 8 * i) 8
    let sc := fieldLE m 0 1
    if bitOf (fieldLE m 3 1) 0 then (f32At m 4, 0)
    else if sc = 0 then (0, 0)
    else
      match sites[x.inSite]? with
      | some st => fin32w (mulX (ueDec sc) (dec32 st.s2))
      | none => (0, 0)
  else (one32, 0)

/-- The gate value y of gate `n`, output row `i`, channel `j`. -/
def gateVal (ls : Tab Byte) (d : Disp) (x : CBlk) (srow : W32) (n i j : Nat) : W32 × Fl :=
  let r := n * x.rows + i
  let acc := if x.inAcc then accGet d (x.inp + r) j else winW32 ls d (x.inp + (r * x.ch + j) * 4)
  let f := fmul srow (winW32 ls d (x.rescale + 4 * (n * x.ch + j)))
  let y := ffma acc f.1 (winW32 ls d (x.bias + 4 * (n * x.ch + j)))
  (y.1, f.2 ||| y.2)

/-! ## Templates (R203, R204) -/

/-- A value with the flags that forming it set, in sequence. -/
def andThen (a : W32 × Fl) (f : W32 → W32 × Fl) : W32 × Fl :=
  let r := f a.1
  (r.1, a.2 ||| r.2)

/-- The GRU-type cell: h' from the gates and h. -/
def gruStep (y : Nat → W32) (h : W32) : W32 × Fl :=
  let z := elemEval 3 0 (y 0)
  let r := elemEval 3 0 (y 1)
  let n := andThen (ffma r.1 (y 3) (y 2)) (elemEval 4 0)
  let o := andThen (fsub h n.1) fun t => ffma z.1 t n.1
  (o.1, z.2 ||| r.2 ||| n.2 ||| o.2)

/-- The LSTM-type cell: h' and c'. -/
def lstmStep (y : Nat → W32) (c : W32) : W32 × W32 × Fl :=
  let ig := elemEval 3 0 (y 0)
  let fg := elemEval 3 0 (y 1)
  let g := elemEval 4 0 (y 2)
  let og := elemEval 3 0 (y 3)
  let c1 := andThen (fmul ig.1 g.1) fun t => ffma fg.1 c t
  let h1 := andThen (elemEval 4 0 c1.1) fun t => fmul og.1 t
  (h1.1, c1.1, ig.2 ||| fg.2 ||| g.2 ||| og.2 ||| c1.2 ||| h1.2)

/-- The pair (a, u) of a diagonal-decay step. -/
def decayPair (func : Nat) (y : Nat → W32) (lam : W32) : W32 × W32 × Fl :=
  if func = 0x13 then (lam, y 0, 0)
  else
    let dd := elemEval 7 0 (y 1)
    let a := andThen (fmul lam dd.1) (elemEval 8 0)
    let u := fmul dd.1 (y 0)
    (a.1, u.1, dd.2 ||| a.2 ||| u.2)

/-- One round of the scan with distance `k` over the pairs (A, B). -/
def scanRound (k : Nat) (l : List (W32 × W32)) : List (W32 × W32) × Fl :=
  let g := fun (i : Nat) => (l[i]?).getD (0, 0)
  let r := (List.range l.length).map fun i =>
    if k ≤ i then
      let b := ffma (g i).1 (g (i - k)).2 (g i).2
      let a := fmul (g i).1 (g (i - k)).1
      ((a.1, b.1), a.2 ||| b.2)
    else (g i, 0)
  (r.map Prod.fst, r.foldl (fun f x => f ||| x.2) 0)

/-- The rounds of distances 1, 2, 4, ... below the length. -/
def scanRounds : Nat → Nat → List (W32 × W32) → List (W32 × W32) × Fl
  | 0, _, l => (l, 0)
  | n + 1, k, l =>
    if k < l.length then
      let r := scanRound k l
      let q := scanRounds n (2 * k) r.1
      (q.1, r.2 ||| q.2)
    else (l, 0)

/-- The states of a segment that starts from `hin` (R204). -/
def segStates (hin : W32) (l : List (W32 × W32)) : List W32 × Fl :=
  let r := scanRounds 9 1 l
  let hs := r.1.map fun p => ffma p.1 hin p.2
  (hs.map Prod.fst, hs.foldl (fun f x => f ||| x.2) r.2)

/-- The states of a chunk, segment by segment (R204, R205): a mark at the head of `l` starts from init. -/
def chunkStates (init : W32) : Nat → W32 → List (Bool × W32 × W32) → List W32 × Fl
  | 0, _, _ => ([], 0)
  | _, _, [] => ([], 0)
  | n + 1, hin, x :: t =>
    let more := t.takeWhile fun y => !y.1
    let seg := segStates (if x.1 then init else hin) (x.2 :: more.map Prod.snd)
    let rest := chunkStates init n (seg.1.getLastD 0) (t.drop more.length)
    (seg.1 ++ rest.1, seg.2 ||| rest.2)

/-- A reset mark (R204). -/
def tplMark (ls : Tab Byte) (d : Disp) (t : Tpl) (i : Nat) : Bool :=
  t.resetEn && (winByte ls d (t.mask + i / 8)).getLsbD (i % 8)

/-- One batch row and channel of a template: the outputs of its steps and the state row's words, h and c. -/
def tplChan (ls : Tab Byte) (d : Disp) (sites : List Site) (x : CBlk) (t : Tpl) (b j : Nat) :
    List W32 × W32 × W32 × Fl :=
  let gate := fun (i n : Nat) =>
    let sr := sRow ls d sites x i
    let g := gateVal ls d x sr.1 n i j
    (g.1, sr.2 ||| g.2)
  let rows := (List.range t.c).map fun k => b * t.c + k
  let gfl := rows.foldl (fun f i => (List.range x.gates).foldl (fun f n => f ||| (gate i n).2) f) (0 : Fl)
  let h0 := winW32 ls d (x.stIn + b * t.sstride + 4 * j)
  let c0 := winW32 ls d (x.stIn + b * t.sstride + t.coff + 4 * j)
  let ini := if t.initEn then winW32 ls d (t.init + 4 * j) else 0
  let inic := if t.initEn then winW32 ls d (t.init + t.coff + 4 * j) else 0
  if x.func = 0x10 then
    let r := gruStep (fun n => (gate b n).1) (if tplMark ls d t b then ini else h0)
    ([r.1], r.1, 0, gfl ||| r.2)
  else if x.func = 0x11 then
    let r := lstmStep (fun n => (gate b n).1) (if tplMark ls d t b then inic else c0)
    ([r.1], r.1, r.2.1, gfl ||| r.2.2)
  else
    let lam := winW32 ls d (x.decay + 64 + 4 * j)
    let ps := rows.map fun i => decayPair x.func (fun n => (gate i n).1) lam
    let cs := chunkStates ini t.c h0 ((rows.zip ps).map fun p => (tplMark ls d t p.1, p.2.1, p.2.2.1))
    let pf := ps.foldl (fun f p => f ||| p.2.2) (gfl ||| cs.2)
    let outs := if x.func = 0x14 then
        (rows.zip cs.1).map fun p => andThen (elemEval 5 0 (gate p.1 2).1) fun t => fmul p.2 t
      else cs.1.map fun h => (h, 0)
    (outs.map Prod.fst, cs.1.getLastD 0, 0, outs.foldl (fun f p => f ||| p.2) pf)

/-- One batch row: its output rows, and the dispatch with the state row written. -/
def tplBatch (ls : Tab Byte) (sites : List Site) (x : CBlk) (t : Tpl) (d : Disp) (b : Nat) : Disp × List (List W32) :=
  let chans := (List.range x.ch).map (tplChan ls d sites x t b)
  let a := x.stOut + b * t.sstride
  let d1 := winWrite d a (chans.flatMap fun c => leN 4 c.2.1.toNat)
  let d2 := if x.func = 0x11 then winWrite d1 (a + t.coff) (chans.flatMap fun c => leN 4 c.2.2.1.toNat) else d1
  let d3 := orFlags d2 (chans.foldl (fun f c => f ||| c.2.2.2) 0)
  (d3, (List.range t.c).map fun k => chans.map fun c => (c.1[k]?).getD 0)

/-- The output rows of a pass, as FP32, and the dispatch with states and flags. -/
def carryRows (ls : Tab Byte) (d : Disp) (sites : List Site) (x : CBlk) : Disp × List (List W32) :=
  if isTpl x.func then
    let t := tplHead (winRead ls d x.decay 64)
    (List.range t.b).foldl (fun acc b =>
      let r := tplBatch ls sites x t acc.1 b
      (r.1, acc.2 ++ r.2)) (d, [])
  else
    let rows := (List.range x.rows).map fun i =>
      let sr := sRow ls d sites x i
      (List.range x.ch).map fun j =>
        let y := gateVal ls d x sr.1 0 i j
        let r := elemEval x.func x.alpha y.1
        (r.1, sr.2 ||| y.2 ||| r.2)
    (orFlags d (rows.foldl (fun f r => r.foldl (fun f e => f ||| e.2) f) 0), rows.map fun r => r.map Prod.fst)

/-- A history record, or none where its N exceeds 8 (R184). -/
def histAt (ls : Tab Byte) (d : Disp) (a : Nat) : Option (List HistEnt) :=
  let n := (winByte ls d (a + 96)).toNat
  if 8 < n then none
  else some ((List.range n).map fun e =>
    { maxAbs := winW32 ls d (a + 12 * e), max := winW32 ls d (a + 12 * e + 4), min := winW32 ls d (a + 12 * e + 8) })

/-- Codes and writes output row `i`; the SATCNT word stops at its largest value (R132). -/
def carryCode (ls : Tab Byte) (site : Site) (x : CBlk) (d : Disp) (i : Nat) (xs : List W32) (h : List HistEnt) : Disp :=
  let r := codePiece d.scrTag site h xs
  let d1 := winWrite d (x.out + i * x.outStride) (r.codes.map (BitVec.ofNat 8))
  let d2 := winWrite d1 (x.metaOut + 8 * i) r.md
  let d3 := winWrite d2 (x.remOut + 256 * i) (r.rem.flatMap fun e => leN 4 e.1.toNat ++ leN 4 e.2)
  let d4 := winWrite d3 (x.satcnt + 4 * i) (leN 4 (min ((winW32 ls d3 (x.satcnt + 4 * i)).toNat + r.sat) 0xFFFFFFFF))
  let d5 := if x.report = 0 then d4
    else winWrite d4 (x.report + 16 * i) (leN 4 r.maxAbs.toNat ++ leN 4 r.max.toNat ++ leN 4 r.min.toNat ++ leN 4 r.sat)
  orFlags d5 r.fl

/-- Converts and writes output row `i`. -/
def carryConv (x : CBlk) (d : Disp) (i : Nat) (xs : List W32) : Disp :=
  let l := ((List.range x.ch).zip xs).map fun p =>
    convOut x.outF (dec32 p.2) (srBits d x.sr x.key x.rsite x.rstep (x.rindex + i * x.ch + p.1))
  vWrite d (x.out + i * x.outStride) x.outF l

/-- CARRY with the running set's site table. -/
def carryDo (sites : List Site) (ls : Tab Byte) (d : Disp) (w : Nat) : Option Disp :=
  match blockAt ls d w 128 with
  | none => none
  | some b =>
    let x := cblk b
    if !carryOk ls d sites b x then none
    else if carryEmpty x then some d
    else
      let hists := (List.range x.rows).map fun i => histAt ls d (x.hist + 128 * i)
      if coding x && hists.any Option.isNone then none
      else
        let r := carryRows ls d sites x
        let rows := (List.range x.rows).zip r.2
        some (rows.foldl (fun t p =>
          if coding x then
            match sites[x.site]?, hists[p.1]? with
            | some st, some (some h) => carryCode ls st x t p.1 p.2 h
            | _, _ => t
          else carryConv x t p.1 p.2) r.1)

/-- The site table of the set a core's dispatch runs. -/
def sitesOf (s : State) (core : Nat) : List Site :=
  match getDisp s core with
  | some d => match findSet s d.part d.handle with | some w => w.sites | none => []
  | none => []

/-- CARRY. -/
def execOpCarry (core : Nat) (s : State) : Host.Outcome State Fault Refusal :=
  .next (launch s core 0x60 2 (carryDo (sitesOf s core)))

end Sys2Proof.Machine
end

