-- ==== Sys2Proof/Machine/Debug.lean ====
section
/-! DEFINITION. The debug port (R414, R415, R422, R479) and the address of the board-management port (R478). -/

namespace Sys2Proof.Machine

open Sys2Proof

/-- D20 and the Nightcap's always-on domain are out of reset: step 1 of R421. -/
def tapUp (s : State) : Bool := decide (1 ≤ s.rst.step)

/-- SETDASA: the controller assigns the dynamic address. -/
def execSetdasa (addr : BitVec 7) (s : State) : Host.Outcome State Fault Refusal :=
  onlyIf (tapUp s) s { s with dbg := { s.dbg with dynAddr := some addr } }

/-- A session opens, unless one is open (R414). -/
def openSession (s : State) : State :=
  if s.dbg.isOpen then s
  else { s with dbg := { s.dbg with
    isOpen := true, attached := true, sessions := min (s.dbg.sessions + 1) 0xFFFF } }

/-- The TAP loads an instruction; only EXTEST leaves the lands to the boundary register. -/
def loadIr (s : State) (code : Byte) : State := { s with dbg := { s.dbg with ir := code, extest := code == 3 } }

/-- IDCODE. -/
def execIdcode (s : State) : Host.Outcome State Fault Refusal := onlyIf (tapUp s) s (wire (loadIr s 1) (.tdo 0x24B6455F))

/-- SAMPLE/PRELOAD: the boundary register is loaded. -/
def execSamplePreload (bsr : Bytes) (s : State) : Host.Outcome State Fault Refusal :=
  onlyIf (tapUp s) s (let t := loadIr s 2; { t with dbg := { t.dbg with bsr := bsr } })

/-- EXTEST. -/
def execExtest (s : State) : Host.Outcome State Fault Refusal := onlyIf (tapUp s) s (openSession (loadIr s 3))

/-- RESET_PKG. -/
def execResetPkg (s : State) : Host.Outcome State Fault Refusal :=
  onlyIf (tapUp s) s (packageReset (openSession (loadIr s 0x40)) 9 s.rst.stWarm)

/-- A block is released at once: with a clock that is not good it is recorded as forced, else the monitor catches it
at once; a block that is out of reset stays so. -/
def forceBlock (s : State) (b : Byte) : State :=
  if !blockOk b.toNat || blockUp s b then s
  else if s.rst.clkBad.contains b then { s with rst := { s.rst with forced := s.rst.forced ++ [b] } }
  else earlyCaught s b

/-- FORCE_REL. -/
def execForceRel (block : Byte) (s : State) : Host.Outcome State Fault Refusal :=
  onlyIf (tapUp s) s (forceBlock (openSession (loadIr s 0x41)) block)

/-- EOTAS_DEBUG_ACCESS: codes 0x80 to 0x9F open a session; what Eotas does in it the manual does not give. -/
def execEotasDebugAccess (code : Byte) (s : State) : Host.Outcome State Fault Refusal :=
  onlyIf (tapUp s && decide (0x80 ≤ code.toNat) && decide (code.toNat ≤ 0x9F)) s (openSession (loadIr s code))

/-- The codes of the table *TAP instructions* other than BYPASS. -/
def tapCode (c : Nat) : Bool := c == 1 || c == 2 || c == 3 || c == 0x40 || c == 0x41 || (0x80 ≤ c && c ≤ 0x9F)

/-- BYPASS: code 0xFF, or a code the table does not list, which also opens a session. -/
def execBypass (code : Byte) (s : State) : Host.Outcome State Fault Refusal :=
  onlyIf (tapUp s && !tapCode code.toNat) s
    (if code = 0xFF then loadIr s code else openSession (loadIr s code))

/-- TAP_RESET: Test-Logic-Reset or TRST_N closes the session and resets D20; the counts of R414 stay. -/
def execTapReset (s : State) : Host.Outcome State Fault Refusal :=
  onlyIf (tapUp s) s { s with dbg := { s.dbg with isOpen := false, ir := 1, extest := false, bsr := [] } }

end Sys2Proof.Machine
end

