-- ==== Sys2Proof/Machine/Health.lean ====
section
/-! DEFINITION. The fault tally's commands, remaining life and telemetry (R454 to R466). -/

namespace Sys2Proof.Machine

open Sys2Proof

/-! ## The tally (R455 to R459) -/

/-- The classes of the table *Event catalogue*. -/
def eventClass (c : Nat) : Bool :=
  (1 ≤ c && c ≤ 5) || (0x10 ≤ c && c ≤ 0x15) || (0x20 ≤ c && c ≤ 0x28) || (0x30 ≤ c && c ≤ 0x35) || c == 0x38

/-- TALLY_REPORT: a report of a unit of this package, or of another. -/
def execTallyReport (reporter subject : W32) (cls : Nat) (d0 d1 : W64) (s : State) : Host.Outcome State Fault Refusal :=
  onlyIf (eventClass cls) s
    (report s { reporter := reporter &&& 0x0FFFFFFF, subject := subject, cls := cls, d0 := d0, d1 := d1 })

/-- TALLY_RECORD_CLOSE: the record's window has passed. -/
def execTallyRecordClose (slot : Nat) (s : State) : Host.Outcome State Fault Refusal :=
  match tget none s.tally.slots slot with
  | none => .next s
  | some r =>
    onlyIf (r.isOpen && decide (r.firstNs + r.window ≤ s.tally.clock)) s
      { s with tally := { s.tally with slots := tput none s.tally.slots slot (some { r with isOpen := false }) } }

/-- TALLY_IRQ_GAP_END. -/
def execTallyIrqGapEnd (s : State) : Host.Outcome State Fault Refusal :=
  onlyIf (s.tally.pendingIrq && (s.tally.lastIrq.all fun t => decide (t + s.tally.gapUs * 1000 ≤ s.time))) s
    (msix { s with tally := { s.tally with pendingIrq := false, lastIrq := some s.time } } 8)

/-- A write of S to CRN_TALLY_ACK releases the closed records up to S. -/
def tallyAck (s : State) (v : W32) : State :=
  { s with tally := { s.tally with slots := s.tally.slots.filter fun x =>
      match x.2 with
      | some r => recOpen s.tally.clock r || decide (2 ^ 31 ≤ (v - r.seq).toNat)
      | none => false } }

/-- TALLY_ACK. -/
def execTallyAck (v : W32) (s : State) : Host.Outcome State Fault Refusal := .next (hostAccess s fun s => tallyAck s v)

/-! ## Remaining life (R460 to R464) -/

/-- AGE_DAY: 24 hours of good VAON are over; the daily minima of MARGIN join the history of at most 90 days. -/
def execAgeDay (s : State) : Host.Outcome State Fault Refusal :=
  let t := passTo s (s.sec.dayAt + 86400000000000)
  let h := t.health
  .next { t with
    sec := { t.sec with age := min (t.sec.age + 1) 8192, dayAt := t.time }
    health := { h with
      dayMin := []
      margins := h.dayMin.foldl (fun m x => tput [] m x.1 (((x.2 - 1) :: tget [] m x.1).take 90)) h.margins } }

/-- Pairs of ring oscillators of a die (R460). -/
def ringPairs (e : Nat) : Nat := if e < 40 ∨ e = 62 then 4 else 2

/-- The degradation in ppm that the counts of a pair show, stressed and reference. -/
def pairPpm (x : Nat × Nat) : Nat := (x.2 - x.1) * 1000000 / x.2

/-- The degradation of a die: the largest among its pairs. -/
def diePpm (e : Nat) (l : List (Nat × Nat)) : Nat := ((l.take (ringPairs e)).map pairPpm).foldl max 0

/-- DAYS of R461 for a degradation; without any degradation it is at its limit. -/
def daysOf (age eol d : Nat) : Nat := if d = 0 then 65534 else min 65534 (age * eol ^ 4 / d ^ 4 - age)

/-- D_EOL of a die. -/
def eolOf (e : Nat) : Nat := if e < 40 then 250 * (890 - Config.fuseV36 e) else Config.fuseEol e

/-- A criterion: DAYS, DAYS_LOW, DAYS_HIGH and its LIMIT code. -/
structure Crit where
  days : Nat
  low : Nat
  high : Nat
  limit : Nat

/-- The ageing criterion, or not predicted. -/
def ageing (age e d : Nat) : Crit :=
  let u := Config.fuseU e
  if d < 4 * u ∨ age < 30 then { days := 0xFFFF, low := 0xFFFF, high := 0xFFFF, limit := 0xFF }
  else { days := daysOf age (eolOf e) d, low := daysOf age (eolOf e) (d + u), high := daysOf age (eolOf e) (d - u), limit := 0 }

/-- The lesser of two criteria, the first on a tie, bound by bound. -/
def critMin (a b : Crit) : Crit :=
  { days := min a.days b.days, low := min a.low b.low, high := min a.high b.high, limit := if b.days < a.days then b.limit else a.limit }

/-- The most repairs of a bank of the pile in the last 180 days. -/
def recentFixes (l : List (Nat × Nat × Nat)) (pile age : Nat) : Nat :=
  let mine := l.filter fun x => x.1 == pile && decide (age ≤ x.2.2 + 180)
  mine.foldl (fun m x => max m (mine.filter fun y => y.2.1 == x.2.1).length) 0

/-- Spares left, divided by the rate of their use. -/
def spareCrit (left fixes limit : Nat) : Option Crit :=
  if fixes = 0 then none
  else
    let d := min 65534 (left * 180 / fixes)
    some { days := d, low := d, high := d, limit := limit }

/-- Fewest spares left in any bank. -/
def sparesLeft (t : Tab Nat) (n : Nat) : Nat := n - t.foldl (fun m x => max m x.2) 0

/-- The day on which the least-squares fit to a port's daily minima, newest first, reaches 20 mV, from the newest on. -/
def marginDays (l : List Nat) : Option Nat :=
  let n : Int := l.length
  let pts := (List.range l.length).map fun i => ((l.length - 1 - i : Nat), (l[i]?).getD 0)
  let sx : Int := sumN (pts.map Prod.fst)
  let sy : Int := sumN (pts.map Prod.snd)
  let sxy : Int := sumN (pts.map fun p => p.1 * p.2)
  let sxx : Int := sumN (pts.map fun p => p.1 * p.1)
  let p := n * sxy - sx * sy
  let q := n * sxx - sx * sx
  if n < 7 ∨ 0 ≤ p then none
  else some (((-((20 * n - sy) * q + p * sx)).fdiv (n * -p)) - (n - 1)).toNat

/-- The margin criterion of a link die: the least of its ports. -/
def marginCrit (h : Health) (die : Nat) : Option Crit :=
  ((List.range 12).filterMap fun i => marginDays (tget [] h.margins (12 * die + i))).foldl
    (fun (acc : Option Crit) d =>
      let c : Crit := { days := min 65534 d, low := min 65534 d, high := min 65534 d, limit := 3 }
      match acc with
      | none => some c
      | some b => some (critMin b c)) none

/-- The lesser of a criterion and one that may not apply. -/
def critOpt (a : Crit) : Option Crit → Crit
  | none => a
  | some b => critMin a b

/-- A link die loses 30 days per overstress bit (R463). -/
def overstressed (bits : Nat) (c : Crit) : Crit :=
  let f := fun (d : Nat) => if d = 0xFFFF then d else d - 30 * bits
  { c with days := f c.days, low := f c.low, high := f c.high }

/-- The die of a health entry is fenced. -/
def entryFenced (s : State) (e : Nat) : Bool :=
  if e < 40 then dieFenced s e else if e < 56 then pileFenced s (e - 40) else if e < 62 then linkFenced s (e - 56) else false

/-- The prediction of a die. -/
def critOf (s : State) (e d : Nat) : Crit :=
  let age := s.sec.age
  let a := ageing age e d
  if 40 ≤ e ∧ e < 56 then
    let p := getPile s (e - 40)
    let rows := spareCrit (sparesLeft p.rowsUsed 32) (recentFixes s.health.rowFix (e - 40) age) 1
    critOpt (critOpt a rows) (spareCrit (sparesLeft p.colsUsed 8) (recentFixes s.health.colFix (e - 40) age) 2)
  else if 56 ≤ e ∧ e < 62 then overstressed s.sec.overstress (critOpt a (marginCrit s.health (e - 56)))
  else a

def getEnt (s : State) (e : Nat) : HealthEnt := tget {} s.health.entries e

/-- DAYS is at or below WARN_DAYS. -/
def warnLow (s : State) (days : Nat) : Bool := s.health.warnDays != 0 && decide (days ≤ s.health.warnDays) && days != 0xFFFF

/-- The entry of a die as firmware rewrites it; a fenced die's fields read 0. -/
def entryOfDie (s : State) (e d : Nat) : HealthEnt :=
  let old := getEnt s e
  let c := critOf s e d
  if entryFenced s e then { days := 0, daysLow := 0, daysHigh := 0, limit := 0 }
  else
    { days := c.days, daysLow := c.low, daysHigh := c.high, limit := c.limit, low := warnLow s c.days, dPpm := d
      dEol := eolOf e, guardMv := if e < 40 then (d + 249) / 250 else 0, age := s.sec.age, updates := old.updates + 2
      cePass := if 40 ≤ e ∧ e < 56 then (getPile s (e - 40)).lastPassCe else 0 }

def putEnt (s : State) (e : Nat) (x : HealthEnt) : State :=
  { s with health := { s.health with entries := tput {} s.health.entries e x } }

/-- EOL_WARN is raised once as an entry falls to WARN_DAYS, and again only after it has been above WARN_DAYS + 30. -/
def warnEnt (s : State) (e : Nat) : State :=
  let x := getEnt s e
  if entryFenced s e then s
  else if warnLow s x.days && !s.health.warned.contains e then
    event { s with health := { s.health with warned := s.health.warned ++ [e] } } crownLoc 0x38
      (if e = 64 then subjKind 8 0 else subjKind 0xA e) x.days x.limit
  else if s.health.warnDays + 30 < x.days then
    { s with health := { s.health with warned := s.health.warned.filter fun y => y != e } }
  else s

/-- The package's entry is that of its unfenced die with the least DAYS (R464). -/
def packageEnt (s : State) : State :=
  match leastBy (fun e => ((getEnt s e).days, e)) ((List.range 64).filter fun e => !entryFenced s e) with
  | none => s
  | some e =>
    let x := getEnt s e
    putEnt s 64 { days := x.days, daysLow := x.daysLow, daysHigh := x.daysHigh, limit := x.limit, low := x.low
                  limitDie := e, age := s.sec.age, updates := (getEnt s 64).updates + 2 }

/-- WEAR_MEASURE: the counts of the pairs of each powered die, by entry number; every prediction is made again. -/
def execWearMeasure (d : List (Nat × List (Nat × Nat))) (s : State) : Host.Outcome State Fault Refusal :=
  if !s.crown.ready || d1Off s then .next s
  else
    let ppm := fun (e : Nat) => ((d.find? fun x => x.1 == e).map fun x => diePpm e x.2).getD (getEnt s e).dPpm
    let s1 := (List.range 64).foldl (fun t e => putEnt t e (entryOfDie t e (ppm e))) s
    .next ((List.range 65).foldl warnEnt (packageEnt s1))

/-! ## Telemetry (R465, R466) -/

/-- TELEMETRY_COPY: VALUE and RAW of every channel, while D1 is on. -/
def execTelemetryCopy (s : State) : Host.Outcome State Fault Refusal :=
  onlyIf (crownUp s && !d1Off s) s
    { s with health := { s.health with
      chanCopy := (List.range 64).foldl (fun t c => tput (0, 0) t c (chanValue (getChan s c), (getChan s c).raw)) [] } }

/-- A tally slot as the window shows it. -/
def slotBytes (s : State) (i : Nat) : Bytes :=
  match tget none s.tally.slots i with
  | none => List.replicate 64 0
  | some r =>
    leN 4 r.subject.toNat ++ leN 2 r.cls ++ leN 1 (b2n (recOpen s.tally.clock r) + 2) ++ leN 1 0 ++ leN 4 r.count ++
      leN 4 r.reporter.toNat ++ leN 8 r.firstNs ++ leN 8 r.lastNs ++ leN 8 r.firstBead.toNat ++ leN 8 r.d0.toNat ++
      leN 8 r.d1.toNat ++ leN 4 r.seq.toNat ++ leN 4 0

/-- A health entry as the window shows it. -/
def entBytes (s : State) (e : Nat) : Bytes :=
  let x := getEnt s e
  if entryFenced s e then leN 7 0 ++ leN 25 1
  else
    leN 2 x.days ++ leN 2 x.daysLow ++ leN 2 x.daysHigh ++ leN 1 x.limit ++ leN 1 (2 * b2n x.low) ++ leN 4 x.dPpm ++
      leN 4 x.dEol ++ leN 2 x.guardMv ++ leN 2 x.limitDie ++ leN 4 x.age ++ leN 4 x.updates ++ leN 4 x.cePass

/-- A byte of the telemetry window. -/
def teleByte (s : State) (o : Nat) : Byte :=
  if o < 0x4000 then ((slotBytes s (o / 64))[o % 64]?).getD 0
  else if o < 0x4000 + 32 * 65 then ((entBytes s ((o - 0x4000) / 32))[o % 32]?).getD 0
  else if 0x5000 ≤ o ∧ o < 0x5200 then
    let v := tget (0, 0) s.health.chanCopy ((o - 0x5000) / 8)
    ((leN 4 v.1.toNat ++ leN 4 v.2.toNat)[o % 8]?).getD 0
  else 0

/-- MCTP_TELEMETRY_READ. -/
def execMctpTelemetryRead (off len : Nat) (s : State) : Host.Outcome State Fault Refusal :=
  if !mctpUp s then .next s
  else if !s.crown.ready || d1Off s then .next (wire s (.mctp (some 3) []))
  else if len % 4 ≠ 0 ∨ 1024 < len ∨ 0x100000 < off + len then .next (wire s (.mctp (some 1) []))
  else .next (wire s (.mctp (some 0) ((List.range len).map fun i => teleByte s (off + i))))

/-- MCTP_MONITOR_READ: the Nightcap answers itself. -/
def execMctpMonitorRead (s : State) : Host.Outcome State Fault Refusal :=
  onlyIf (mctpUp s) s (wire s (.mctp (some 0) ((List.range 64).flatMap fun c => leN 4 (chanValue (getChan s c)).toNat)))

end Sys2Proof.Machine
end

