-- ==== Sys2Proof/Machine/Regs.lean ====
section
/-! DEFINITION. Writes to the BAR0 registers by offset (R371 and the register tables of every chapter), and the latching
read of the accounting blocks (R333). -/

namespace Sys2Proof.Machine

open Sys2Proof

/-! ## Crown global, 0x0_0000 to 0x0_FFFF -/

/-- A write of CRN_BEAD_STATUS clears its W1C bits. -/
def beadStatusW1c (s : State) (v : W32) : State :=
  { s with bead := { s.bead with badWrite := s.bead.badWrite && !v.getLsbD 7, fallback := s.bead.fallback && !v.getLsbD 6 } }

/-- A write of CRN_BOOT_STATUS: writing 1 clears DMA_FAULT. -/
def bootStatusW1c (s : State) (v : W32) : State :=
  { s with sec := { s.sec with dmaFault := s.sec.dmaFault && !v.getLsbD 29 } }

/-- A write of PLB_SCRUB_CTRLn; a fenced pile ignores it. -/
def scrubCtrl (s : State) (n : Nat) (v : W32) : State :=
  if pileFenced s n then s
  else setPile s n { getPile s n with scrubEn := v.getLsbD 31, scrubHours := min (max (bits v.toNat 9 0) 1) 720 }

/-- A write of CRN_MEMWIN_STATUS clears its W1C bits. -/
def memwinStatusW1c (s : State) (v : W32) : State :=
  { s with memwin := { s.memwin with status := s.memwin.status &&& ~~~(v.setWidth 4) } }

/-- A write to the Crown's global registers at offset `o`. -/
def crnWrite (s : State) (o : Nat) (v : W32) : State :=
  if o = 0x30 then bootStatusW1c s v
  else if o = 0x100 then beadCtrl s v
  else if o = 0x104 then beadStatusW1c s v
  else if o = 0x120 then { s with crown := { s.crown with dlLimit := min (bits v.toNat 19 0) 1000000 } }
  else if o = 0x140 then memwinCtrl s v
  else if o = 0x148 then memwinBase s false v
  else if o = 0x14C then memwinBase s true v
  else if o = 0x150 then memwinStatusW1c s v
  else if o = 0x200 then { s with crown := { s.crown with capW := max 1000 (min 4600 (bits v.toNat 12 0)) } }
  else if 0x1000 ≤ o ∧ o < 0x1400 ∧ o % 0x40 = 0 then scrubCtrl s ((o - 0x1000) / 0x40) v
  else s

/-! ## Nightcap window, 0x1_0000 to 0x1_FFFF -/

/-- A write of NCP_PSTATE. -/
def pstateWrite (s : State) (v : W32) : State :=
  let t := bits v.toNat 29 28
  { s with pwr := { s.pwr with
    target := if t = 3 then s.pwr.target else BitVec.ofNat 2 t, idleMs := max (bits v.toNat 15 0) 1 } }

/-- A write to the Nightcap's registers at offset `o` of the window. -/
def ncpWrite (s : State) (o : Nat) (v : W32) : State :=
  if o = 0 then { s with rst := { s.rst with cause := s.rst.cause &&& ~~~(v.setWidth 10) } }
  else if o = 4 then { s with rst := { s.rst with stWarm := v.getLsbD 0 } }
  else if o = 0xC then { s with rst := { s.rst with clkEarly := s.rst.clkEarly && !v.getLsbD 31 } }
  else if o = 0x10 then { s with pwr := { s.pwr with refLost := s.pwr.refLost && !v.getLsbD 31 } }
  else if o = 0x800 then pstateWrite s v
  else if o = 0x804 then { s with pwr := { s.pwr with seq := s.pwr.seq &&& ~~~(v.setWidth 6) } }
  else if 0x840 ≤ o ∧ o < 0x860 then vddcWrite s ((o - 0x840) / 4) v
  else if o = 0xB04 then { s with mon := { s.mon with fired := s.mon.fired &&& ~~~v } }
  else if 0xC00 ≤ o ∧ o < 0xE00 then ruleWrite s ((o - 0xC00) / 16) (o % 16 / 4) v
  else if 0x1000 ≤ o ∧ o < 0x1400 ∧ o % 16 = 0 then chanWrite s ((o - 0x1000) / 16) v
  else s

/-! ## Mailboxes, 0x2_0000 to 0x2_07FF -/

/-- A write to the mailboxes at offset `o` of the region. -/
def mailWrite (s : State) (o : Nat) (v : W32) : State :=
  let m := o % 0x400 / 0x80
  let r := o % 0x80
  if o < 0x400 then
    if r < 0x40 then mailData s m (r / 4) v
    else if r = 0x40 then mailSend s m v
    else if r = 0x44 then setH2f s m { getH2f s m with reject := (getH2f s m).reject && !v.getLsbD 1 }
    else s
  else if o < 0x800 ∧ r = 0x40 then mailClear s m v
  else s

/-! ## Partitions, links, audio, telemetry -/

/-- A write to the partition set-up at offset `o` of the region. -/
def partWrite (s : State) (o : Nat) (v : W32) : State :=
  let n := o / 0x20
  let r := o % 0x20
  if o < 0x200 then
    if r = 0 then partCtrl s n v
    else if r = 4 then partDies s n false v
    else if r = 8 then partDies s n true v
    else if r = 0xC then partQuota s n v
    else if r = 0x10 then setPart s n { getPart s n with reject := (getPart s n).reject && !v.getLsbD 31 }
    else s
  else if 0x1000 ≤ o ∧ o < 0x5000 then clientSched s ((o - 0x1000) / 4) v
  else s

/-- A write of LNK_PORT_STATUSp clears its W1C bits. -/
def portStatusW1c (s : State) (p : Nat) (v : W32) : State :=
  if !portThere s p then s
  else
    let x := getPort s p
    setPort s p { x with wentDown := x.wentDown && !v.getLsbD 29, uncorr := x.uncorr && !v.getLsbD 28 }

/-- A write of CRN_TWIN_CTRL. -/
def twinCtrl (s : State) (v : W32) : State :=
  { s with dom := { s.dom with
    waitUs := min (max (bits v.toNat 19 0) 1) 1000000, badMirror := s.dom.badMirror && !v.getLsbD 31 } }

/-- A write to the link set-up at offset `o` of the region. -/
def linkWrite (s : State) (o : Nat) (v : W32) : State :=
  if o < 0x480 then
    (if o % 16 = 0 then portCtrl s (o / 16) v else if o % 16 = 4 then portStatusW1c s (o / 16) v else s)
  else if o = 0x1010 then twinCtrl s v
  else if 0x2000 ≤ o ∧ o < 0x2400 then announce s ((o - 0x2000) / 4) v
  else if 0x4000 ≤ o ∧ o < 0x4800 then mirrorSet s ((o - 0x4000) / 4) v
  else s

/-- A write to the registers of the word clock. -/
def wclkWrite (s : State) (r : Nat) (v : W32) : State :=
  let x := getAp s 4
  if r = 0 then setAp s 4 { x with nominal := v.toNat }
  else if r = 4 then setAp s 4 { x with tol := bits v.toNat 16 0 }
  else if r = 0xC then audStatusW1c s 4 v
  else s

/-- A write to the registers of an audio port; AUD_MCLK is what was last measured. -/
def portRegWrite (s : State) (p r : Nat) (v : W32) : State :=
  let x := getAp s p
  if r = 0 then audCtrl s p v x.mclk
  else if r = 4 then setAp s p { x with nominal := v.toNat }
  else if r = 8 then setAp s p { x with tol := bits v.toNat 16 0 }
  else if r = 0xC then audMask s p v
  else if r = 0x14 then audStatusW1c s p v
  else s

/-- A write to the audio registers at offset `o` of the region; dropped while D18 is off. -/
def audWrite (s : State) (o : Nat) (v : W32) : State :=
  if !audUp s then s
  else if o < 0x100 then portRegWrite s (o / 0x40) (o % 0x40) v
  else if o < 0x110 then wclkWrite s (o - 0x100) v
  else s

/-- A write to the telemetry set-up at offset `o` of the region. -/
def tallyWrite (s : State) (o : Nat) (v : W32) : State :=
  if o = 0 then { s with tally := { s.tally with
    windowMs := min (max (bits v.toNat 31 16) 1) 60000, gapUs := max (bits v.toNat 15 0) 1 } }
  else if o = 0x10 then tallyAck s v
  else if o = 0x20 then { s with tally := { s.tally with en0 := v } }
  else if o = 0x24 then { s with tally := { s.tally with en1 := v } }
  else if o = 0x30 then { s with health := { s.health with warnDays := min (bits v.toNat 15 0) 65534 } }
  else s

/-- A write to HDM decoder 0 at offset `o` of the component registers (R370, notes/assumptions/22.md): base and size
while it is not committed, and its control word. -/
def hdmWrite (s : State) (o : Nat) (v : W32) : State :=
  let m := s.memwin
  let low := fun (x : W64) => ((x >>> 32) <<< 32) ||| v.setWidth 64
  let high := fun (x : W64) => (v.setWidth 64 <<< 32) ||| (x.setWidth 32).setWidth 64
  let m1 :=
    if o = 0x1030 then { m with hdm := v.getLsbD 9 }
    else if m.hdm then m
    else if o = 0x1020 then { m with hdmBase := low m.hdmBase }
    else if o = 0x1024 then { m with hdmBase := high m.hdmBase }
    else if o = 0x1028 then { m with hdmSize := low m.hdmSize }
    else if o = 0x102C then { m with hdmSize := high m.hdmSize }
    else m
  { s with memwin := m1 }

/-! ## The map -/

/-- A 32-bit write to BAR0 at an offset that is a multiple of 4. -/
def regWrite (s : State) (off : Nat) (v : W32) : State :=
  if off < 0x10000 then crnWrite s off v
  else if off < 0x20000 then ncpWrite s (off - 0x10000) v
  else if off < 0x40000 then mailWrite s (off - 0x20000) v
  else if off < 0x80000 then partWrite s (off - 0x40000) v
  else if off < 0xC0000 then linkWrite s (off - 0x80000) v
  else if off < 0xE0000 then audWrite s (off - 0xC0000) v
  else if off < 0xF0000 then tallyWrite s (off - 0xE0000) v
  else if off < 0x100000 then hdmWrite s (off - 0xF0000) v
  else s

/-- A write of a width: two 32-bit writes for 64 bits, the lower address first; any other width, or an offset that no
register occupies, is dropped. -/
def barWrite (s : State) (off width : Nat) (v : W64) : State :=
  if off % 4 ≠ 0 then s
  else if width = 4 then regWrite s off (v.setWidth 32)
  else if width = 8 then regWrite (regWrite s off (v.setWidth 32)) (off + 4) ((v >>> 32).setWidth 32)
  else s

/-- REGISTER_WRITE. -/
def execRegisterWrite (off width : Nat) (v : W64) (s : State) : Host.Outcome State Fault Refusal :=
  .next (hostAccess s fun s => barWrite s off width v)

/-! ## Accounting (R333) -/

/-- Counter `k` of an accounting block. -/
def acctCounter (a : Acct) (k : Nat) : W64 :=
  if k = 0 then a.queueNs else if k = 1 then a.preemptions else if k = 2 then a.retired else if k = 3 then a.reruns
  else if k = 4 then a.overruns else if k = 5 then a.slipBeads else if k = 6 then a.chargedNs else a.debtNs

/-- ACCOUNTING_LO_READ: the low half is read, the high half latched. -/
def execAccountingLoRead (c k : Nat) (s : State) : Host.Outcome State Fault Refusal :=
  .next (hostAccess s fun s =>
    if clientOk c && decide (k < 8) then
      let x := getClient s c
      let v := acctCounter x.acct k
      rdata (setClient s c { x with acct := { x.acct with latch := (v >>> 32).setWidth 32 } }) ((v.setWidth 32).setWidth 64)
    else s)

end Sys2Proof.Machine
end

