-- ==== Sys2Proof/Machine/Sample.lean ====
section
/-! DEFINITION. The sampling unit: the Gumbel-max draw (R154, R186, R243 to R248). -/

namespace Sys2Proof.Machine

open Sys2Proof

/-- Fields of the sampling block (R186). -/
structure SBlk where
  scores : Nat
  v : Nat
  mask : Nat
  temp : W32
  topk : Nat
  maskEn : Bool
  key : Nat
  rsite : Nat
  rstep : Nat
  rindex : Nat
  dst : Nat
deriving DecidableEq, Repr

def sblk (b : Bytes) : SBlk :=
  { scores := fieldLE b 0 4, v := fieldLE b 4 4, mask := fieldLE b 8 4, temp := f32At b 12, topk := fieldLE b 16 2,
    maskEn := bitOf (fieldLE b 18 1) 0, key := bits (fieldLE b 19 1) 3 0, rsite := fieldLE b 20 4,
    rstep := fieldLE b 24 4, rindex := fieldLE b 28 4, dst := fieldLE b 32 4 }

/-- TEMP is +0 or a positive normal number (R245). -/
def tempOk (t : W32) : Bool := t == 0 || (decide (0x00800000 ≤ t.toNat) && decide (t.toNat < 0x7F800000))

/-- The checks of R137 and R245: a V of 0 waives only the ranges that V gives. -/
def sampleOk (d : Disp) (b : Bytes) (x : SBlk) : Bool :=
  bits (fieldLE b 18 1) 7 1 == 0 && bits (fieldLE b 19 1) 7 4 == 0 && zeros b 36 28 &&
    decide (x.v ≤ 65536) && tempOk x.temp && decide (x.topk ≤ x.v) && x.dst % 4 == 0 && idxOk x.rindex x.v &&
    rngOk d x.scores (4 * x.v) && (!x.maskEn || rngOk d x.mask ((x.v + 7) / 8)) &&
    winWritable d x.dst 12

/-- A score before noise: whether it is kept, its scaled value, the flags (R246 steps 1 and 2). A NaN score sets
INVALID whether or not its mask bit is set. -/
def sampleScaled (ls : Tab Byte) (d : Disp) (x : SBlk) (v : Nat) : Bool × W32 × Fl :=
  let sc := winW32 ls d (x.scores + 4 * v)
  if isNan32 sc then (false, negInf, flInvalid)
  else if x.maskEn && bitOf (winByte ls d (x.mask + v / 8)).toNat (v % 8) then (false, negInf, 0)
  else if x.temp = 0 then (true, sc, 0)
  else
    let q := fdiv sc x.temp
    (true, q.1, q.2)

/-- Entry `a` with its index comes before entry `b` in the ranking of R99. -/
def ranksBefore (a b : W32 × Nat) : Bool := fltLt b.1 a.1 || (!fltLt a.1 b.1 && decide (a.2 < b.2))

/-- The kept set after the top-k step (R246 step 3). -/
def topkKeep (k : Nat) (l : List (Bool × W32)) : List (Bool × W32) :=
  if k = 0 then l
  else
    let ix := (List.range l.length).zip l
    let kept := ix.filterMap fun (x : Nat × Bool × W32) => if x.2.1 then some (x.2.2, x.1) else none
    ix.map fun (x : Nat × Bool × W32) =>
      (x.2.1 && decide ((kept.filter fun y => ranksBefore y (x.2.2, x.1)).length < k), x.2.2)

/-- Gumbel noise of a class-2 word (R243). -/
def gumbel (w : W32) : W32 := negW (elemEval 9 0 (negW (elemEval 9 0 (uniform w)).1)).1

/-- z of an entry with the flags of the sum (R246 step 4). -/
def sampleZ (d : Disp) (x : SBlk) (v : Nat) (e : Bool × W32) : W32 × Fl :=
  if !e.1 then (negInf, 0)
  else if x.temp = 0 then (e.2, 0)
  else fadd e.2 (gumbel (keyWord d x.key 2 x.rsite x.rstep (x.rindex + v)))

/-- exp of R181. -/
def expW (v : W32) : W32 := (elemEval 8 0 v).1

/-- One block of R247: the running maximum and sum. -/
def logpBlock (acc : W32 × W32 × Fl) (blk : List (Bool × W32)) : W32 × W32 × Fl :=
  let (mx, sum, f) := acc
  let bm := (argBest true 0 (negInf :: (blk.filter Prod.fst).map Prod.snd)).1
  if bm = negInf then acc
  else
    let t := (List.range 64).map fun i =>
      match blk[i]? with
      | some (true, s) => let r := fsub s bm; (expW r.1, r.2)
      | _ => ((0 : W32), (0 : Fl))
    let bs := pairwise 64 (t.map Prod.fst)
    let f1 := t.foldl (fun g y => g ||| y.2) (f ||| bs.2)
    if fltLt mx bm then
      let r := if mx = negInf then (negInf, (0 : Fl)) else fsub mx bm
      let q := ffma sum (expW r.1) bs.1
      (bm, q.1, f1 ||| r.2 ||| q.2)
    else
      let r := fsub bm mx
      let q := ffma bs.1 (expW r.1) sum
      (mx, q.1, f1 ||| r.2 ||| q.2)

/-- LOGP of R247 for the chosen scaled score. -/
def logpOf (l : List (Bool × W32)) (sc : W32) : W32 × Fl :=
  let (mx, sum, f) := (chunks 64 l.length l).foldl logpBlock (negInf, (0 : W32), (0 : Fl))
  let a := fsub sc mx
  let r := fsub a.1 (elemEval 9 0 sum).1
  (r.1, f ||| a.2 ||| r.2)

/-- Index (none for no entry), LOGP, Z and flags of a draw over scaled entries (R246, R247). -/
def drawOf (d : Disp) (x : SBlk) (l : List (Bool × W32)) : Option Nat × W32 × W32 × Fl :=
  let ix := (List.range l.length).zip l
  let infs := ix.filter fun (y : Nat × Bool × W32) => y.2.1 && y.2.2 == posInf
  if l.all fun y => !y.1 || y.2 == negInf then (none, negInf, negInf, 0)
  else
    match infs with
    | (c, _) :: _ =>
      let n := BitVec.ofNat 32 (convFp 0 (.fin false infs.length 0) none).1
      (some c, if x.temp = 0 then 0 else negW (elemEval 9 0 n).1, posInf, 0)
    | [] =>
      let zs := ix.map fun (y : Nat × Bool × W32) => sampleZ d x y.1 y.2
      let best := argBest true 0 (zs.map Prod.fst)
      let f := zs.foldl (fun g y => g ||| y.2) (0 : Fl)
      if x.temp = 0 then (some best.2, 0, best.1, f)
      else
        let lp := logpOf l ((l[best.2]?).getD (false, negInf)).2
        (some best.2, lp.1, best.1, f ||| lp.2)

/-- SAMPLE of the block at a[P]. -/
def sampleDo (ls : Tab Byte) (d : Disp) (w : Nat) : Option Disp :=
  match blockAt ls d w 64 with
  | none => none
  | some b =>
    let x := sblk b
    if !sampleOk d b x then none
    else if x.v = 0 then some d
    else
      let raw := (List.range x.v).map (sampleScaled ls d x)
      let r := drawOf d x (topkKeep x.topk (raw.map fun (y : Bool × W32 × Fl) => (y.1, y.2.1)))
      let idx := match r.1 with | some c => x.rindex + c | none => 0xFFFFFFFF
      some (orFlags (winWrite d x.dst (leN 4 idx ++ leN 4 r.2.1.toNat ++ leN 4 r.2.2.1.toNat))
        (raw.foldl (fun f y => f ||| y.2.2) r.2.2.2))

/-- SAMPLE. -/
def execOpSample (core : Nat) (s : State) : Host.Outcome State Fault Refusal := .next (launch s core 0x61 3 sampleDo)

end Sys2Proof.Machine
end

