-- ==== Sys2Proof/Machine/Scalar.lean ====
section
/-! DEFINITION. Control, scalar, address, local-store and status instructions of the cores, and RKEY and SITEPUT
(R170 to R178, R187, R189, R190). -/

namespace Sys2Proof.Machine

open Sys2Proof

/-! ## Control (R172 to R174) -/

/-- NOP: the next instruction. -/
def execOpNop (core : Nat) (s : State) : Host.Outcome State Fault Refusal :=
  .next (issue s core 0x00 fun d _ => advance s core d)

/-- END: with every token done the core joins the final barrier (R173). -/
def execOpEnd (core : Nat) (s : State) : Host.Outcome State Fault Refusal :=
  .next (issue s core 0x01 fun d _ =>
    if d.tokens = 0 then setDisp s core { d with arrived := .final, stallOn := none, blockedAt := none } else stall s core d 0)

/-- WAIT: every token of IMM is done, or the sequencer stalls. -/
def execOpWait (core : Nat) (s : State) : Host.Outcome State Fault Refusal :=
  .next (issue s core 0x02 fun d w =>
    if d.tokens &&& BitVec.ofNat 32 (fImm w) = 0 then advance s core d else stall s core d 0)

/-- RECKON: the core joins a gang barrier. -/
def execOpReckon (core : Nat) (s : State) : Host.Outcome State Fault Refusal :=
  .next (issue s core 0x03 fun d _ => setDisp s core { d with arrived := .reckon, stallOn := none, blockedAt := none })

/-- JAL. -/
def execOpJal (core : Nat) (s : State) : Host.Outcome State Fault Refusal :=
  .next (issue s core 0x04 fun d w =>
    goTo s core (setSreg d (fA w) (BitVec.ofNat 64 (d.pc + 1))) (fTarget w))

/-- JR: to s[A] + sext(IMM). -/
def execOpJr (core : Nat) (s : State) : Host.Outcome State Fault Refusal :=
  .next (issue s core 0x05 fun d w => goTo s core d (sreg d (fA w) + fSext w).toNat)

/-- A conditional branch on s[A] and s[B]. -/
def branch (s : State) (core op : Nat) (c : W64 → W64 → Bool) : State :=
  issue s core op fun d w =>
    if c (sreg d (fA w)) (sreg d (fB w)) then goTo s core d (fTarget w) else advance s core d

/-- BEQ. -/
def execOpBeq (core : Nat) (s : State) : Host.Outcome State Fault Refusal :=
  .next (branch s core 0x06 fun a b => a == b)

/-- BNE. -/
def execOpBne (core : Nat) (s : State) : Host.Outcome State Fault Refusal :=
  .next (branch s core 0x07 fun a b => a != b)

/-- BLT. -/
def execOpBlt (core : Nat) (s : State) : Host.Outcome State Fault Refusal :=
  .next (branch s core 0x08 fun a b => a.slt b)

/-- BGE. -/
def execOpBge (core : Nat) (s : State) : Host.Outcome State Fault Refusal :=
  .next (branch s core 0x09 fun a b => !a.slt b)

/-- BLTU. -/
def execOpBltu (core : Nat) (s : State) : Host.Outcome State Fault Refusal :=
  .next (branch s core 0x0A fun a b => a.ult b)

/-- BGEU. -/
def execOpBgeu (core : Nat) (s : State) : Host.Outcome State Fault Refusal :=
  .next (branch s core 0x0B fun a b => !a.ult b)

/-- LOOP: s[A] is counted down and the branch taken while it is not 0. -/
def execOpLoop (core : Nat) (s : State) : Host.Outcome State Fault Refusal :=
  .next (issue s core 0x0C fun d w =>
    let v := sreg d (fA w) - 1
    let d1 := setSreg d (fA w) v
    if v = 0 then advance s core d1 else goTo s core d1 (fTarget w))

/-! ## Scalar and address instructions (R163, R176) -/

/-- s[D] = f(s[A], X). -/
def alu (s : State) (core op : Nat) (f : W64 → W64 → W64) : State :=
  issue s core op fun d w => advance s core (setSreg d (fD w) (f (sreg d (fA w)) (opX d w)))

/-- A shift count: X[5:0]. -/
def shamt (x : W64) : Nat := x.toNat % 64

/-- ADD. -/
def execOpAdd (core : Nat) (s : State) : Host.Outcome State Fault Refusal :=
  .next (alu s core 0x10 fun a x => a + x)

/-- SUB. -/
def execOpSub (core : Nat) (s : State) : Host.Outcome State Fault Refusal :=
  .next (alu s core 0x11 fun a x => a - x)

/-- MUL. -/
def execOpMul (core : Nat) (s : State) : Host.Outcome State Fault Refusal :=
  .next (alu s core 0x12 fun a x => a * x)

/-- AND. -/
def execOpAnd (core : Nat) (s : State) : Host.Outcome State Fault Refusal :=
  .next (alu s core 0x13 fun a x => a &&& x)

/-- OR. -/
def execOpOr (core : Nat) (s : State) : Host.Outcome State Fault Refusal :=
  .next (alu s core 0x14 fun a x => a ||| x)

/-- XOR. -/
def execOpXor (core : Nat) (s : State) : Host.Outcome State Fault Refusal :=
  .next (alu s core 0x15 fun a x => a ^^^ x)

/-- SHL. -/
def execOpShl (core : Nat) (s : State) : Host.Outcome State Fault Refusal :=
  .next (alu s core 0x16 fun a x => a <<< shamt x)

/-- SHR. -/
def execOpShr (core : Nat) (s : State) : Host.Outcome State Fault Refusal :=
  .next (alu s core 0x17 fun a x => a >>> shamt x)

/-- SAR. -/
def execOpSar (core : Nat) (s : State) : Host.Outcome State Fault Refusal :=
  .next (alu s core 0x18 fun a x => a.sshiftRight (shamt x))

/-- SLT. -/
def execOpSlt (core : Nat) (s : State) : Host.Outcome State Fault Refusal :=
  .next (alu s core 0x19 fun a x => if a.slt x then 1 else 0)

/-- SLTU. -/
def execOpSltu (core : Nat) (s : State) : Host.Outcome State Fault Refusal :=
  .next (alu s core 0x1A fun a x => if a.ult x then 1 else 0)

/-- MIN. -/
def execOpMin (core : Nat) (s : State) : Host.Outcome State Fault Refusal :=
  .next (alu s core 0x1B fun a x => if x.slt a then x else a)

/-- MAX. -/
def execOpMax (core : Nat) (s : State) : Host.Outcome State Fault Refusal :=
  .next (alu s core 0x1C fun a x => if a.slt x then x else a)

/-- LIH. -/
def execOpLih (core : Nat) (s : State) : Host.Outcome State Fault Refusal :=
  .next (alu s core 0x1D fun a x => (x <<< 32) ||| ((a.setWidth 32).setWidth 64))

/-- DIVU. -/
def execOpDivu (core : Nat) (s : State) : Host.Outcome State Fault Refusal :=
  .next (alu s core 0x1E fun a x => if x = 0 then -1 else a / x)

/-- REMU. -/
def execOpRemu (core : Nat) (s : State) : Host.Outcome State Fault Refusal :=
  .next (alu s core 0x1F fun a x => if x = 0 then a else a % x)

/-- AADD: a[D] = a[A] + X[31:0]. -/
def execOpAadd (core : Nat) (s : State) : Host.Outcome State Fault Refusal :=
  .next (issue s core 0x20 fun d w => advance s core (setAreg d (fD w) (areg d (fA w) + (opX d w).setWidth 32)))

/-- AMOV: a[D] = s[A][31:0] + IMM. -/
def execOpAmov (core : Nat) (s : State) : Host.Outcome State Fault Refusal :=
  .next (issue s core 0x21 fun d w =>
    advance s core (setAreg d (fD w) ((sreg d (fA w)).setWidth 32 + BitVec.ofNat 32 (fImm w))))

/-- ARD: s[D] = a[A]. -/
def execOpArd (core : Nat) (s : State) : Host.Outcome State Fault Refusal :=
  .next (issue s core 0x22 fun d w => advance s core (setSreg d (fD w) ((areg d (fA w)).setWidth 64)))

/-! ## Local store and status (R165, R177) -/

/-- The window address of a scalar access. -/
def lsAddr (d : Disp) (w : Nat) : Nat := (areg d (fA w) + BitVec.ofNat 32 (fImm w)).toNat

/-- A load of `n` bytes into s[D], zero-extended. -/
def lsLoad (s : State) (core op n : Nat) : State :=
  issue s core op fun d w =>
    let a := lsAddr d w
    if a % n = 0 ∧ winOk d a n then
      advance s core (setSreg d (fD w) (BitVec.ofNat 64 (ofLE (winRead (getCore s core).ls d a n))))
    else failOob s d

/-- A store of the low `n` bytes of s[B]; a store to the resident window is refused (R165). -/
def lsStore (s : State) (core op n : Nat) : State :=
  issue s core op fun d w =>
    let a := lsAddr d w
    if a % n = 0 ∧ winWritable d a n then advance s core (winWrite d a (leN n (sreg d (fB w)).toNat))
    else failOob s d

/-- LD64. -/
def execOpLd64 (core : Nat) (s : State) : Host.Outcome State Fault Refusal := .next (lsLoad s core 0x28 8)
/-- ST64. -/
def execOpSt64 (core : Nat) (s : State) : Host.Outcome State Fault Refusal := .next (lsStore s core 0x29 8)
/-- LD32. -/
def execOpLd32 (core : Nat) (s : State) : Host.Outcome State Fault Refusal := .next (lsLoad s core 0x2A 4)
/-- ST32. -/
def execOpSt32 (core : Nat) (s : State) : Host.Outcome State Fault Refusal := .next (lsStore s core 0x2B 4)

/-- CMP_CORE_HEALTH. -/
def coreHealth (s : State) (core : Nat) : Nat :=
  b2n (getCore s core).oos * 2 ^ 31 + sparesUsed s core * 2 ^ 16 + min (getCore s core).ceCount 0xFFFF

/-- The status register at an offset of the sequencer status space. -/
def statusReg (s : State) (core : Nat) (d : Disp) (off : Nat) : W64 :=
  let c := getCore s core
  if off = 0x000 then d.flags.setWidth 64
  else if off = 0x008 then s.bead.count
  else if off = 0x0E0 then BitVec.ofNat 64 (coreHealth s core)
  else if off = 0x0F8 then c.runCycles
  else tget 0 c.stall ((off - 0x100) / 8)

/-- SRD. -/
def execOpSrd (core : Nat) (s : State) : Host.Outcome State Fault Refusal :=
  .next (issue s core 0x30 fun d w => advance s core (setSreg d (fD w) (statusReg s core d (fImm w))))

/-- SWC: each 1 of s[B] clears its flag. -/
def execOpSwc (core : Nat) (s : State) : Host.Outcome State Fault Refusal :=
  .next (issue s core 0x31 fun d w =>
    advance s core { d with flags := clearFlags d.flags (sreg d (fB w)) })

/-! ## Keys and site reports (R189, R190) -/

/-- RKEY: the 32 bytes at a[P] into key slot IMM[3:0]. -/
def execOpRkey (core : Nat) (s : State) : Host.Outcome State Fault Refusal :=
  .next (issue s core 0x7C fun d w =>
    let a := (areg d (fP w)).toNat
    if winOk d a 32 then
      advance s core { d with
        keys := tput 0 d.keys (fImm w % 16) (BitVec.ofNat 256 (ofLE (winRead (getCore s core).ls d a 32))) }
    else failOob s d)

/-- The report a SITEPUT delivers. -/
def siteRep (rank idx site : Nat) (b : Bytes) : SiteReport :=
  { idx := idx, site := site, rank := rank, maxAbs := f32At b 0, max := f32At b 4, min := f32At b 8,
    sat := fieldLE b 12 4 }

/-- The checks of R190 for one more report of a pair. -/
def siteputOk (c : Cmd) (d : Disp) (nsites idx site : Nat) : Bool :=
  let l := c.reports.filter fun r => r.idx == idx && r.site == site
  decide (idx < d.count) && decide (site < nsites) && decide (l.length < d.lenC) && l.all fun r => r.rank == d.rank

/-- SITEPUT: the report joins the command's Crown shadow. -/
def execOpSiteput (core : Nat) (s : State) : Host.Outcome State Fault Refusal :=
  .next (issue s core 0x7D fun d w =>
    let a := (areg d (fP w)).toNat
    let idx := (sreg d (fS w)).toNat
    let site := fImm w % 64
    let n := match findSet s d.part d.handle with | some x => x.sites.length | none => 0
    match getCmd s d.cmd with
    | none => s
    | some c =>
      if winOk d a 16 && siteputOk c d n idx site then
        let r := siteRep d.rank idx site (winRead (getCore s core).ls d a 16)
        advance (modCmd s d.cmd fun c => { c with reports := c.reports ++ [r] }) core d
      else failOob s d)

end Sys2Proof.Machine
end

