-- ==== Sys2Proof/Machine/Dispatch.lean ====
section
/-! DEFINITION. The dispatch: one arm per command, each one direct call of its meaning. -/

namespace Sys2Proof.Machine

open Sys2Proof

def exec (i : Instr) (s : State) : Host.Outcome State Fault Refusal :=
  match i with
  | .registerWrite off width v => Sys2Proof.Machine.execRegisterWrite off width v s
  | .beadCountLoRead => Sys2Proof.Machine.execBeadCountLoRead s
  | .beadCtrlWrite v => Sys2Proof.Machine.execBeadCtrlWrite v s
  | .beadBoundary lost => Sys2Proof.Machine.execBeadBoundary lost s
  | .runHeld id => Sys2Proof.Machine.execRunHeld id s
  | .beadRefFallback => Sys2Proof.Machine.execBeadRefFallback s
  | .sqTailWrite c ring v => Sys2Proof.Machine.execSqTailWrite c ring v s
  | .cqHeadWrite c ring v => Sys2Proof.Machine.execCqHeadWrite c ring v s
  | .cancelWrite c ring v => Sys2Proof.Machine.execCancelWrite c ring v s
  | .dbCtrlStop c v => Sys2Proof.Machine.execDbCtrlStop c v s
  | .dbCtrlResume c v => Sys2Proof.Machine.execDbCtrlResume c v s
  | .doorbellUnmappedWrite c off width v => Sys2Proof.Machine.execDoorbellUnmappedWrite c off width v s
  | .descriptorFetch a => Sys2Proof.Machine.execDescriptorFetch a s
  | .ringFault c ring addr => Sys2Proof.Machine.execRingFault c ring addr s
  | .placeCommand part => Sys2Proof.Machine.execPlaceCommand part s
  | .run id => Sys2Proof.Machine.execRun id s
  | .loadSet id img => Sys2Proof.Machine.execLoadSet id img s
  | .evictSet id => Sys2Proof.Machine.execEvictSet id s
  | .stateInit id => Sys2Proof.Machine.execStateInit id s
  | .stateExport id => Sys2Proof.Machine.execStateExport id s
  | .stateImport id recs => Sys2Proof.Machine.execStateImport id recs s
  | .streamOpen id => Sys2Proof.Machine.execStreamOpen id s
  | .streamClose id => Sys2Proof.Machine.execStreamClose id s
  | .copy id src => Sys2Proof.Machine.execCopy id src s
  | .fence id => Sys2Proof.Machine.execFence id s
  | .waitRemote id => Sys2Proof.Machine.execWaitRemote id s
  | .audioBind id => Sys2Proof.Machine.execAudioBind id s
  | .remoteTokenTimeout id => Sys2Proof.Machine.execRemoteTokenTimeout id s
  | .killDeliver core => Sys2Proof.Machine.execKillDeliver core s
  | .killQuiescent id => Sys2Proof.Machine.execKillQuiescent id s
  | .commitStep id refused => Sys2Proof.Machine.execCommitStep id refused s
  | .slotFlip pile gen => Sys2Proof.Machine.execSlotFlip pile gen s
  | .slotDiscard pile gen => Sys2Proof.Machine.execSlotDiscard pile gen s
  | .remoteSendArrive src seq dst gen data => Sys2Proof.Machine.execRemoteSendArrive src seq dst gen data s
  | .sendRefused gen => Sys2Proof.Machine.execSendRefused gen s
  | .mc0BroadcastArrive core part gen => Sys2Proof.Machine.execMc0BroadcastArrive core part gen s
  | .messageArrive dst src => Sys2Proof.Machine.execMessageArrive dst src s
  | .creditRequestArrive dst src => Sys2Proof.Machine.execCreditRequestArrive dst src s
  | .grantArrive core src => Sys2Proof.Machine.execGrantArrive core src s
  | .haloReleaseArrive core src => Sys2Proof.Machine.execHaloReleaseArrive core src s
  | .tokenDone core engine => Sys2Proof.Machine.execTokenDone core engine s
  | .opNop core => Sys2Proof.Machine.execOpNop core s
  | .opEnd core => Sys2Proof.Machine.execOpEnd core s
  | .opWait core => Sys2Proof.Machine.execOpWait core s
  | .opReckon core => Sys2Proof.Machine.execOpReckon core s
  | .gangBarrierRelease id => Sys2Proof.Machine.execGangBarrierRelease id s
  | .opJal core => Sys2Proof.Machine.execOpJal core s
  | .opJr core => Sys2Proof.Machine.execOpJr core s
  | .opBeq core => Sys2Proof.Machine.execOpBeq core s
  | .opBne core => Sys2Proof.Machine.execOpBne core s
  | .opBlt core => Sys2Proof.Machine.execOpBlt core s
  | .opBge core => Sys2Proof.Machine.execOpBge core s
  | .opBltu core => Sys2Proof.Machine.execOpBltu core s
  | .opBgeu core => Sys2Proof.Machine.execOpBgeu core s
  | .opLoop core => Sys2Proof.Machine.execOpLoop core s
  | .opAdd core => Sys2Proof.Machine.execOpAdd core s
  | .opSub core => Sys2Proof.Machine.execOpSub core s
  | .opMul core => Sys2Proof.Machine.execOpMul core s
  | .opAnd core => Sys2Proof.Machine.execOpAnd core s
  | .opOr core => Sys2Proof.Machine.execOpOr core s
  | .opXor core => Sys2Proof.Machine.execOpXor core s
  | .opShl core => Sys2Proof.Machine.execOpShl core s
  | .opShr core => Sys2Proof.Machine.execOpShr core s
  | .opSar core => Sys2Proof.Machine.execOpSar core s
  | .opSlt core => Sys2Proof.Machine.execOpSlt core s
  | .opSltu core => Sys2Proof.Machine.execOpSltu core s
  | .opMin core => Sys2Proof.Machine.execOpMin core s
  | .opMax core => Sys2Proof.Machine.execOpMax core s
  | .opLih core => Sys2Proof.Machine.execOpLih core s
  | .opDivu core => Sys2Proof.Machine.execOpDivu core s
  | .opRemu core => Sys2Proof.Machine.execOpRemu core s
  | .opAadd core => Sys2Proof.Machine.execOpAadd core s
  | .opAmov core => Sys2Proof.Machine.execOpAmov core s
  | .opArd core => Sys2Proof.Machine.execOpArd core s
  | .opLd64 core => Sys2Proof.Machine.execOpLd64 core s
  | .opSt64 core => Sys2Proof.Machine.execOpSt64 core s
  | .opLd32 core => Sys2Proof.Machine.execOpLd32 core s
  | .opSt32 core => Sys2Proof.Machine.execOpSt32 core s
  | .opSrd core => Sys2Proof.Machine.execOpSrd core s
  | .opSwc core => Sys2Proof.Machine.execOpSwc core s
  | .opCbld core => Sys2Proof.Machine.execOpCbld core s
  | .opTlb core => Sys2Proof.Machine.execOpTlb core s
  | .opTld core => Sys2Proof.Machine.execOpTld core s
  | .opTswp core => Sys2Proof.Machine.execOpTswp core s
  | .opMrow core => Sys2Proof.Machine.execOpMrow core s
  | .opVop core => Sys2Proof.Machine.execOpVop core s
  | .opVfn core => Sys2Proof.Machine.execOpVfn core s
  | .opVred core => Sys2Proof.Machine.execOpVred core s
  | .opVcvt core => Sys2Proof.Machine.execOpVcvt core s
  | .opVrnd core => Sys2Proof.Machine.execOpVrnd core s
  | .opVcor core => Sys2Proof.Machine.execOpVcor core s
  | .opVdw core => Sys2Proof.Machine.execOpVdw core s
  | .opCarry core => Sys2Proof.Machine.execOpCarry core s
  | .opSample core => Sys2Proof.Machine.execOpSample core s
  | .opSqgo core => Sys2Proof.Machine.execOpSqgo core s
  | .queueSetup core q => Sys2Proof.Machine.execQueueSetup core q s
  | .transferIssue core => Sys2Proof.Machine.execTransferIssue core s
  | .transferComplete core xid data => Sys2Proof.Machine.execTransferComplete core xid data s
  | .regulatorRefill core q => Sys2Proof.Machine.execRegulatorRefill core q s
  | .ageLimitExceeded core q => Sys2Proof.Machine.execAgeLimitExceeded core q s
  | .opThim core => Sys2Proof.Machine.execOpThim core s
  | .thimbleIssue core => Sys2Proof.Machine.execThimbleIssue core s
  | .gatherIndexStream core arming => Sys2Proof.Machine.execGatherIndexStream core arming s
  | .gatherGrant core arming => Sys2Proof.Machine.execGatherGrant core arming s
  | .opSend core => Sys2Proof.Machine.execOpSend core s
  | .opHaloSend core => Sys2Proof.Machine.execOpHaloSend core s
  | .opRemoteReadRequest core => Sys2Proof.Machine.execOpRemoteReadRequest core s
  | .opRecv core => Sys2Proof.Machine.execOpRecv core s
  | .opHaloRecv core => Sys2Proof.Machine.execOpHaloRecv core s
  | .opReplyRecv core => Sys2Proof.Machine.execOpReplyRecv core s
  | .opRkey core => Sys2Proof.Machine.execOpRkey core s
  | .opSiteput core => Sys2Proof.Machine.execOpSiteput core s
  | .runLimitExpiry id => Sys2Proof.Machine.execRunLimitExpiry id s
  | .creditDeadlock id => Sys2Proof.Machine.execCreditDeadlock id s
  | .transferFault core xid refused => Sys2Proof.Machine.execTransferFault core xid refused s
  | .coreScrub core mem word kind => Sys2Proof.Machine.execCoreScrub core mem word kind s
  | .coreFault core kind addr => Sys2Proof.Machine.execCoreFault core kind addr s
  | .coreRestore core pass => Sys2Proof.Machine.execCoreRestore core pass s
  | .rankRelocate part handle rank => Sys2Proof.Machine.execRankRelocate part handle rank s
  | .setLost part handle => Sys2Proof.Machine.execSetLost part handle s
  | .pileRead core xid e1 e2 => Sys2Proof.Machine.execPileRead core xid e1 e2 s
  | .pileWrite core xid e1 e2 => Sys2Proof.Machine.execPileWrite core xid e1 e2 s
  | .patrolScrub pile upset e1 e2 => Sys2Proof.Machine.execPatrolScrub pile upset e1 e2 s
  | .pileRefresh pile channel => Sys2Proof.Machine.execPileRefresh pile channel s
  | .directoryEccError pile streams copyBad => Sys2Proof.Machine.execDirectoryEccError pile streams copyBad s
  | .swapOut stream refused => Sys2Proof.Machine.execSwapOut stream refused s
  | .swapIn stream img => Sys2Proof.Machine.execSwapIn stream img s
  | .stateMove stream pile => Sys2Proof.Machine.execStateMove stream pile s
  | .homeTableUpdate core => Sys2Proof.Machine.execHomeTableUpdate core s
  | .tlbWalk tlb part dva => Sys2Proof.Machine.execTlbWalk tlb part dva s
  | .tlbInvalidate tlb => Sys2Proof.Machine.execTlbInvalidate tlb s
  | .faultResolve id => Sys2Proof.Machine.execFaultResolve id s
  | .cxlmemRead off => Sys2Proof.Machine.execCxlmemRead off s
  | .cxlmemWrite off data => Sys2Proof.Machine.execCxlmemWrite off data s
  | .memwinCtrlWrite v => Sys2Proof.Machine.execMemwinCtrlWrite v s
  | .memwinBaseWrite hi v => Sys2Proof.Machine.execMemwinBaseWrite hi v s
  | .partDiesWrite n hi v => Sys2Proof.Machine.execPartDiesWrite n hi v s
  | .partCtrlWrite n v => Sys2Proof.Machine.execPartCtrlWrite n v s
  | .partQuotaWrite n v => Sys2Proof.Machine.execPartQuotaWrite n v s
  | .clientSchedWrite c v => Sys2Proof.Machine.execClientSchedWrite c v s
  | .sliceEnd part => Sys2Proof.Machine.execSliceEnd part s
  | .sliceOverrunCharge part => Sys2Proof.Machine.execSliceOverrunCharge part s
  | .frameSend p => Sys2Proof.Machine.execFrameSend p s
  | .frameReceive p f => Sys2Proof.Machine.execFrameReceive p f s
  | .frameReplay p => Sys2Proof.Machine.execFrameReplay p s
  | .portCtrlWrite p v => Sys2Proof.Machine.execPortCtrlWrite p v s
  | .portTraining p a => Sys2Proof.Machine.execPortTraining p a s
  | .portDown p cause => Sys2Proof.Machine.execPortDown p cause s
  | .eqAdapt p req => Sys2Proof.Machine.execEqAdapt p req s
  | .marginMeasure p mv => Sys2Proof.Machine.execMarginMeasure p mv s
  | .linkDelayMeasure p => Sys2Proof.Machine.execLinkDelayMeasure p s
  | .controlMessageArrive src seq ack m => Sys2Proof.Machine.execControlMessageArrive src seq ack m s
  | .controlResend seq => Sys2Proof.Machine.execControlResend seq s
  | .ackTimeout seq => Sys2Proof.Machine.execAckTimeout seq s
  | .routeUpdate => Sys2Proof.Machine.execRouteUpdate s
  | .joinRequest src => Sys2Proof.Machine.execJoinRequest src s
  | .joinComplete => Sys2Proof.Machine.execJoinComplete s
  | .domainFound => Sys2Proof.Machine.execDomainFound s
  | .memberGone => Sys2Proof.Machine.execMemberGone s
  | .packageNumberFree pkg => Sys2Proof.Machine.execPackageNumberFree pkg s
  | .keeperClaim heard => Sys2Proof.Machine.execKeeperClaim heard s
  | .keeperElect => Sys2Proof.Machine.execKeeperElect s
  | .domainSplit port otherKeeper => Sys2Proof.Machine.execDomainSplit port otherKeeper s
  | .timeMark => Sys2Proof.Machine.execTimeMark s
  | .beadMark => Sys2Proof.Machine.execBeadMark s
  | .beadAlignLost => Sys2Proof.Machine.execBeadAlignLost s
  | .remoteReadServe src gen index offset bytes => Sys2Proof.Machine.execRemoteReadServe src gen index offset bytes s
  | .remoteReadReply core gen data => Sys2Proof.Machine.execRemoteReadReply core gen data s
  | .remoteReadRetry core => Sys2Proof.Machine.execRemoteReadRetry core s
  | .remoteReadTimeout core => Sys2Proof.Machine.execRemoteReadTimeout core s
  | .inboxMessage src seq dst data => Sys2Proof.Machine.execInboxMessage src seq dst data s
  | .subscription => Sys2Proof.Machine.execSubscription s
  | .subscriptionReply => Sys2Proof.Machine.execSubscriptionReply s
  | .subscriptionRetry id => Sys2Proof.Machine.execSubscriptionRetry id s
  | .announceWrite slot v => Sys2Proof.Machine.execAnnounceWrite slot v s
  | .mirrorWrite w v => Sys2Proof.Machine.execMirrorWrite w v s
  | .digestCompute id => Sys2Proof.Machine.execDigestCompute id s
  | .twinDigestArrive => Sys2Proof.Machine.execTwinDigestArrive s
  | .twinWaitTimeout id => Sys2Proof.Machine.execTwinWaitTimeout id s
  | .hostLinkTrain m01 m23 => Sys2Proof.Machine.execHostLinkTrain m01 m23 s
  | .mailboxDataWrite m w v => Sys2Proof.Machine.execMailboxDataWrite m w v s
  | .mailboxSend m v => Sys2Proof.Machine.execMailboxSend m v s
  | .mailboxTake m => Sys2Proof.Machine.execMailboxTake m s
  | .mailboxReply m => Sys2Proof.Machine.execMailboxReply m s
  | .mailboxClear m v => Sys2Proof.Machine.execMailboxClear m v s
  | .clientRegister m => Sys2Proof.Machine.execClientRegister m s
  | .clientUnregister m => Sys2Proof.Machine.execClientUnregister m s
  | .ringSet m => Sys2Proof.Machine.execRingSet m s
  | .stop m => Sys2Proof.Machine.execStop m s
  | .resume m => Sys2Proof.Machine.execResume m s
  | .map m => Sys2Proof.Machine.execMap m s
  | .unmap m => Sys2Proof.Machine.execUnmap m s
  | .back m => Sys2Proof.Machine.execBack m s
  | .swapArea m => Sys2Proof.Machine.execSwapArea m s
  | .exportSet m => Sys2Proof.Machine.execExportSet m s
  | .streamRead m => Sys2Proof.Machine.execStreamRead m s
  | .streamPlace m => Sys2Proof.Machine.execStreamPlace m s
  | .domainSet m => Sys2Proof.Machine.execDomainSet m s
  | .domainJoin m => Sys2Proof.Machine.execDomainJoin m s
  | .domainLeave m => Sys2Proof.Machine.execDomainLeave m s
  | .attest m => Sys2Proof.Machine.execAttest m s
  | .reportSign refused => Sys2Proof.Machine.execReportSign refused s
  | .identityRead m refused => Sys2Proof.Machine.execIdentityRead m refused s
  | .rollbackAdvance m => Sys2Proof.Machine.execRollbackAdvance m s
  | .ownerProvision m blk => Sys2Proof.Machine.execOwnerProvision m blk s
  | .bootChunk m => Sys2Proof.Machine.execBootChunk m s
  | .bootGo m => Sys2Proof.Machine.execBootGo m s
  | .flashRead a => Sys2Proof.Machine.execFlashRead a s
  | .bootFetch => Sys2Proof.Machine.execBootFetch s
  | .bootMediumSwitch => Sys2Proof.Machine.execBootMediumSwitch s
  | .bootPeerTimeout => Sys2Proof.Machine.execBootPeerTimeout s
  | .lmsTreeReady => Sys2Proof.Machine.execLmsTreeReady s
  | .firmwareReady => Sys2Proof.Machine.execFirmwareReady s
  | .mctpAttest nonce => Sys2Proof.Machine.execMctpAttest nonce s
  | .mctpIdentity => Sys2Proof.Machine.execMctpIdentity s
  | .mctpTelemetryRead off len => Sys2Proof.Machine.execMctpTelemetryRead off len s
  | .mctpMonitorRead => Sys2Proof.Machine.execMctpMonitorRead s
  | .setdasa addr => Sys2Proof.Machine.execSetdasa addr s
  | .idcode => Sys2Proof.Machine.execIdcode s
  | .samplePreload bsr => Sys2Proof.Machine.execSamplePreload bsr s
  | .extest => Sys2Proof.Machine.execExtest s
  | .resetPkg => Sys2Proof.Machine.execResetPkg s
  | .forceRel block => Sys2Proof.Machine.execForceRel block s
  | .eotasDebugAccess code => Sys2Proof.Machine.execEotasDebugAccess code s
  | .bypass code => Sys2Proof.Machine.execBypass code s
  | .tapReset => Sys2Proof.Machine.execTapReset s
  | .por vaonGood pwrok straps => Sys2Proof.Machine.execPor vaonGood pwrok straps s
  | .pinReset => Sys2Proof.Machine.execPinReset s
  | .hostReset linkLoss => Sys2Proof.Machine.execHostReset linkLoss s
  | .fwRestart => Sys2Proof.Machine.execFwRestart s
  | .wdogExpiry => Sys2Proof.Machine.execWdogExpiry s
  | .thermReset => Sys2Proof.Machine.execThermReset s
  | .supplyReset => Sys2Proof.Machine.execSupplyReset s
  | .linkReset => Sys2Proof.Machine.execLinkReset s
  | .resetReleaseStep t => Sys2Proof.Machine.execResetReleaseStep t s
  | .refRecoveryTimeout => Sys2Proof.Machine.execRefRecoveryTimeout s
  | .clockGoodChange block good => Sys2Proof.Machine.execClockGoodChange block good s
  | .seqBreach bits => Sys2Proof.Machine.execSeqBreach bits s
  | .s1Entry => Sys2Proof.Machine.execS1Entry s
  | .s2Entry => Sys2Proof.Machine.execS2Entry s
  | .s1Exit => Sys2Proof.Machine.execS1Exit s
  | .s2Wake => Sys2Proof.Machine.execS2Wake s
  | .linkPairOff pair => Sys2Proof.Machine.execLinkPairOff pair s
  | .refLost => Sys2Proof.Machine.execRefLost s
  | .avsReadback g mv amps => Sys2Proof.Machine.execAvsReadback g mv amps s
  | .avsFault g kind => Sys2Proof.Machine.execAvsFault g kind s
  | .avsFaultClear g v => Sys2Proof.Machine.execAvsFaultClear g v s
  | .droopTrip die => Sys2Proof.Machine.execDroopTrip die s
  | .droopRecover die => Sys2Proof.Machine.execDroopRecover die s
  | .governorTick need tempHot tempCool capCurrent capPower capAvs => Sys2Proof.Machine.execGovernorTick need tempHot tempCool capCurrent capPower capAvs s
  | .monitorTick samples => Sys2Proof.Machine.execMonitorTick samples s
  | .ruleActivate r => Sys2Proof.Machine.execRuleActivate r s
  | .ruleDeactivate r => Sys2Proof.Machine.execRuleDeactivate r s
  | .ageDay => Sys2Proof.Machine.execAgeDay s
  | .wearMeasure d => Sys2Proof.Machine.execWearMeasure d s
  | .tallyReport reporter subject cls d0 d1 => Sys2Proof.Machine.execTallyReport reporter subject cls d0 d1 s
  | .tallyRecordClose slot => Sys2Proof.Machine.execTallyRecordClose slot s
  | .tallyIrqGapEnd => Sys2Proof.Machine.execTallyIrqGapEnd s
  | .tallyAck v => Sys2Proof.Machine.execTallyAck v s
  | .telemetryCopy => Sys2Proof.Machine.execTelemetryCopy s
  | .audPortStart p v mclkMhz => Sys2Proof.Machine.execAudPortStart p v mclkMhz s
  | .audPortStop p v => Sys2Proof.Machine.execAudPortStop p v s
  | .audMaskWrite p v width => Sys2Proof.Machine.execAudMaskWrite p v width s
  | .audFrame p din => Sys2Proof.Machine.execAudFrame p din s
  | .audResync p mid din => Sys2Proof.Machine.execAudResync p mid din s
  | .audRateUpdate p up => Sys2Proof.Machine.execAudRateUpdate p up s
  | .audClockLost p => Sys2Proof.Machine.execAudClockLost p s
  | .wordClockReturn => Sys2Proof.Machine.execWordClockReturn s
  | .flowPulse f => Sys2Proof.Machine.execFlowPulse f s
  | .imageWindowWrite off data => Sys2Proof.Machine.execImageWindowWrite off data s
  | .accountingLoRead c k => Sys2Proof.Machine.execAccountingLoRead c k s
  | .peerImageArrive b => Sys2Proof.Machine.execPeerImageArrive b s
  | .twinDigestDiscard => Sys2Proof.Machine.execTwinDigestDiscard s

end Sys2Proof.Machine
end

