-- ==== Sys2Proof/Machine/RegRead.lean ====
section
/-! DEFINITION. What host reads give: the BAR0 registers, the doorbell pages and the accounting blocks (R28, R371, R483
and the register tables of every chapter). A read that also latches something is a command of its own. -/

namespace Sys2Proof.Machine

open Sys2Proof

/-- A field of a register word: its lowest bit and its value. -/
def fld (lo v : Nat) : Nat := v * 2 ^ lo
/-- A one-bit field. -/
def bit1 (lo : Nat) (b : Bool) : Nat := if b then 2 ^ lo else 0

/-! ## Crown global -/

/-- Channels of a pile with an erased symbol (R283). -/
def erasedChannels (p : Pile) : Nat := ((p.erased.map Prod.fst).eraseDups).length

def pileReg (s : State) (n r : Nat) : Nat :=
  let p := getPile s n
  if pileFenced s n then 0
  else if r = 0 then bit1 31 p.scrubEn + p.scrubHours
  else if r = 8 then fld 16 p.ceCount + fld 8 p.ueCount + erasedChannels p
  else if r = 0xC then fld 16 (sparesLeft p.rowsUsed 32) + sparesLeft p.colsUsed 8
  else 0

def crnRead (s : State) (o : Nat) : Nat :=
  let c := s.crown
  let b := s.bead
  let m := s.memwin
  let x := s.sec
  let w := s.pwr
  if o = 0 then chipId
  else if o = 0x10 then bit1 31 c.ready + fld 16 c.restarts + c.bootCode.toNat
  else if o = 0x14 then c.fwVersion.toNat
  else if o = 0x18 then bit1 31 c.linkUp + bit1 30 c.degraded + c.modules.toNat
  else if o = 0x20 then c.fenceLo.toNat
  else if o = 0x24 then c.fenceHi.toNat
  else if o = 0x28 then fld 16 c.fenceLnk.toNat + c.fencePlb.toNat
  else if o = 0x30 then bit1 31 x.lmsReady + bit1 30 x.lmsSpent + bit1 29 x.dmaFault + fld 16 x.held.length + x.sigsLeft
  else if o = 0x100 then bit1 31 b.en + fld 16 b.refsel.toNat + b.period.toNat
  else if o = 0x104 then bit1 7 b.badWrite + bit1 6 b.fallback + bit1 5 b.pendingWr + b.activeRef.toNat
  else if o = 0x108 then b.count.toNat % 2 ^ 32
  else if o = 0x10C then b.hiLatch.toNat
  else if o = 0x120 then c.dlLimit
  else if o = 0x140 then bit1 31 m.en + fld 16 m.part.toNat + m.size2m.toNat
  else if o = 0x148 then fld 21 m.baseLo.toNat
  else if o = 0x14C then m.baseHi.toNat
  else if o = 0x150 then m.status.toNat
  else if o = 0x158 then m.fault % 2 ^ 32
  else if o = 0x15C then m.fault / 2 ^ 32
  else if o = 0x200 then c.capW
  else if o = 0x204 then
    fld 29 w.throttle + bit1 28 w.limTemp + bit1 27 w.limCurrent + bit1 26 w.limPower + bit1 25 w.limRule +
      bit1 24 w.limAvs + w.pkgW
  else if 0x210 ≤ o ∧ o < 0x230 then (getVddc s ((o - 0x210) / 4)).eclk
  else if 0x1000 ≤ o ∧ o < 0x1400 then pileReg s ((o - 0x1000) / 0x40) (o % 0x40)
  else 0

/-! ## Nightcap window -/

/-- NCP_PSTATE with its BLK bits, which show while TARGET is deeper than CURRENT (R435). -/
def pstateReg (s : State) : Nat :=
  let w := s.pwr
  let deeper := decide (w.cur.toNat < w.target.toNat)
  let s2 := deeper && w.target == 2
  let work := !s.cmds.isEmpty || s.streams.any (fun x => x.2.move.isSome) || s.cores.any fun x => x.2.fault.isSome
  fld 30 w.cur.toNat + fld 28 w.target.toNat + bit1 27 (deeper && work) + bit1 26 (deeper && s.memwin.en) +
    bit1 25 (deeper && s.dom.inDomain) + bit1 24 (s2 && (List.range 4).any fun p => (getAp s p).en) +
    bit1 23 (s2 && s.bead.refsel != 0) + bit1 22 (s2 && (!quietMail s || !s.mail.replies.isEmpty || !s.sec.held.isEmpty)) +
    w.idleMs

def vddcReg (x : Vddc) : Nat := bit1 31 x.avsFault + fld 16 x.targetMv + x.measMv

def ruleReg (x : Rule) (w : Nat) : Nat :=
  if w = 0 then bit1 31 x.en + bit1 30 x.below + fld 16 x.channel + x.persist
  else if w = 1 then x.thresh.toNat
  else if w = 2 then x.hyst.toNat
  else
    bit1 31 x.irq + bit1 30 x.fault + bit1 29 x.trip + bit1 28 x.reset + bit1 27 x.wake + bit1 26 x.shut +
      fld 16 x.domain + x.throttle

def chanReg (x : Chan) (w : Nat) : Nat :=
  if w = 0 then bit1 31 x.en + fld 20 x.sel + fld 16 x.k + x.period
  else if w = 1 then (chanValue x).toNat
  else if w = 2 then x.raw.toNat
  else 0

def ncpRead (s : State) (o : Nat) : Nat :=
  let r := s.rst
  let x := s.sec
  if o = 0 then r.cause.toNat
  else if o = 4 then b2n r.stWarm
  else if o = 8 then
    bit1 31 r.ran + bit1 30 r.notRun + bit1 29 r.refOut + bit1 28 r.supplyOut + fld 16 (r.faults.headD 0) + r.stMs
  else if o = 0xC then bit1 31 r.clkEarly + r.clkBlock.toNat
  else if o = 0x10 then bit1 31 s.pwr.refLost + bit1 30 s.pwr.onOsc + r.clksel.toNat
  else if o = 0x400 then fld 29 x.bootsel.toNat + fld 26 x.source.toNat + bit1 25 x.fellBack + fld 8 x.firstCode.toNat
  else if o = 0x404 then bit1 31 x.ownerSet + fld 16 x.rollback
  else if o = 0x408 then x.nextLeaf
  else if o = 0x40C then bit1 31 s.dbg.attached + bit1 30 s.dbg.isOpen + s.dbg.sessions
  else if o = 0x800 then pstateReg s
  else if o = 0x804 then s.pwr.seq.toNat
  else if 0x840 ≤ o ∧ o < 0x860 then vddcReg (getVddc s ((o - 0x840) / 4))
  else if o = 0xB00 then sumN ((List.range 32).map fun i => bit1 i ((getRule s i).en && (getRule s i).active))
  else if o = 0xB04 then s.mon.fired.toNat
  else if 0xC00 ≤ o ∧ o < 0xE00 then ruleReg (getRule s ((o - 0xC00) / 16)) (o % 16 / 4)
  else if 0x1000 ≤ o ∧ o < 0x1400 then chanReg (getChan s ((o - 0x1000) / 16)) (o % 16 / 4)
  else 0

/-! ## Mailboxes -/

def mailRead (s : State) (o : Nat) : Nat :=
  let m := o % 0x400 / 0x80
  let r := o % 0x80
  if o < 0x400 then
    let x := getH2f s m
    if r < 0x40 then (tget (0 : W32) x.data (r / 4)).toNat
    else if r = 0x44 then bit1 1 x.reject + b2n x.full
    else 0
  else if o < 0x800 then
    let x := getF2h s m
    if r < 0x40 then fieldLE x.data r 4
    else if r = 0x44 then fld 8 x.data.length + b2n x.full
    else 0
  else 0

/-! ## Partitions, links, audio, telemetry -/

/-- The partition holds more pile memory than QUOTA (R315). -/
def overQuota (s : State) (n : Nat) : Bool :=
  (getPart s n).quota != 0 && decide ((getPart s n).quota * 2 ^ 30 < heldBytes s n)

def partRead (s : State) (o : Nat) : Nat :=
  let n := o / 0x20
  let r := o % 0x20
  let p := getPart s n
  if o < 0x200 then
    if r = 0 then bit1 31 p.en + bit1 28 p.mode + p.hold
    else if r = 4 then p.diesLo.toNat
    else if r = 8 then p.diesHi.toNat
    else if r = 0xC then p.quota
    else if r = 0x10 then
      bit1 31 p.reject + bit1 30 p.sliceValid + bit1 29 (overQuota s n) + fld 16 p.sliceClient + p.sliceLeft
    else 0
  else if 0x1000 ≤ o ∧ o < 0x5000 then
    let x := getSched s ((o - 0x1000) / 4)
    fld 28 x.weight + fld 12 x.slice + x.part
  else 0

def portReg (s : State) (p r : Nat) : Nat :=
  let x := getPort s p
  if !portThere s p then 0
  else if r = 0 then bit1 31 x.en + bit1 8 x.adapt + x.medium.toNat
  else if r = 4 then fld 30 x.state.toNat + bit1 29 x.wentDown + bit1 28 x.uncorr + peerBits x
  else if r = 8 then fld 16 x.replays + fld 8 x.margin
  else 0

def linkRead (s : State) (o : Nat) : Nat :=
  let d := s.dom
  if o < 0x480 then portReg s (o / 16) (o % 16)
  else if o = 0x1000 then bit1 31 d.inDomain + bit1 30 d.keeper + bit1 29 d.aligned + bit1 15 d.pair + d.pkg
  else if o = 0x1004 then (if d.inDomain then d.members else 0)
  else if o = 0x1010 then bit1 31 d.badMirror + d.waitUs
  else if 0x2000 ≤ o ∧ o < 0x2400 then
    let a := tget {} d.announce ((o - 0x2000) / 4)
    bit1 31 a.en + fld 2 a.client + a.ring
  else if 0x4000 ≤ o ∧ o < 0x4800 then (tget (0 : W32) d.mirror ((o - 0x4000) / 4)).toNat
  else 0

def audStatusReg (x : APort) : Nat :=
  fld 30 x.state.toNat + bit1 4 x.badConfig + bit1 3 x.slip + bit1 2 x.rateChange + bit1 1 x.clockLost

/-- RATE_MHZ, 0 while no frame clock is present (R384). -/
def rateReg (s : State) (x : APort) : Nat := if !x.master && clockLate s x then 0 else x.rate

/-- AUD_MASK as last written. -/
def maskReg (x : APort) : Nat := ((x.maskNext.getLast?.map Prod.snd).getD x.mask).toNat

def audRead (s : State) (o : Nat) : Nat :=
  let x := getAp s (o / 0x40)
  let r := o % 0x40
  if !audUp s then 0
  else if o < 0x100 then
    if r = 0 then
      bit1 31 x.en + bit1 30 x.thru + bit1 29 x.master + bit1 28 x.tdmDelay + fld 26 x.format.toNat +
        fld 24 x.width.toNat + fld 16 x.slotsM1 + fld 8 x.clksrc.toNat + x.mdivM1
    else if r = 4 then x.nominal
    else if r = 8 then x.tol
    else if r = 0xC then maskReg x
    else if r = 0x10 then rateReg s x
    else if r = 0x14 then audStatusReg x
    else if r = 0x18 then x.resyncs
    else 0
  else if o < 0x110 then
    if r = 0 then x.nominal else if r = 4 then x.tol else if r = 8 then rateReg s x else audStatusReg x
  else 0

/-- The sequence number of the newest record, 0 when there is none. -/
def newestSeq (t : Tally) : Nat :=
  ((tallyRecs t).foldl (fun (best : Option Rec) x =>
    match best with
    | none => some x.2
    | some y => if (t.nextSeq - x.2.seq).toNat < (t.nextSeq - y.seq).toNat then some x.2 else best) none).elim 0
      fun r => r.seq.toNat

def tallyRead (s : State) (o : Nat) : Nat :=
  let t := s.tally
  if o = 0 then fld 16 t.windowMs + t.gapUs
  else if o = 4 then bit1 31 t.pendingIrq + fld 16 (tallyRecs t).length
  else if o = 8 then newestSeq t
  else if o = 0xC then fld 16 t.lost + t.overflow
  else if o = 0x20 then t.en0.toNat
  else if o = 0x24 then t.en1.toNat
  else if o = 0x30 then s.health.warnDays
  else 0

/-- HDM decoder 0 (notes/assumptions/22.md); bit 10 of its control shows that it is committed. -/
def hdmRead (s : State) (o : Nat) : Nat :=
  let m := s.memwin
  if o = 0x1020 then m.hdmBase.toNat % 2 ^ 32
  else if o = 0x1024 then m.hdmBase.toNat / 2 ^ 32
  else if o = 0x1028 then m.hdmSize.toNat % 2 ^ 32
  else if o = 0x102C then m.hdmSize.toNat / 2 ^ 32
  else if o = 0x1030 then bit1 9 m.hdm + bit1 10 m.hdm
  else 0

/-- A 32-bit read of BAR0; an offset that no register occupies reads 0. -/
def regRead (s : State) (off : Nat) : W32 :=
  BitVec.ofNat 32
    (if off % 4 ≠ 0 then 0
     else if off < 0x10000 then crnRead s off
     else if off < 0x20000 then ncpRead s (off - 0x10000)
     else if off < 0x40000 then mailRead s (off - 0x20000)
     else if off < 0x80000 then partRead s (off - 0x40000)
     else if off < 0xC0000 then linkRead s (off - 0x80000)
     else if off < 0xE0000 then audRead s (off - 0xC0000)
     else if off < 0xF0000 then tallyRead s (off - 0xE0000)
     else hdmRead s (off - 0xF0000))

/-- A 32-bit access that reads BAR0: the low half of CRN_BEAD_COUNT latches its high half (R42). -/
def wordRead (s : State) (off : Nat) : State × W32 :=
  (if off = 0x108 then { s with bead := { s.bead with hiLatch := (s.bead.count >>> 32).setWidth 32 } } else s,
   regRead s off)

/-- A read of BAR0 of a width (R371): 64 bits are two 32-bit accesses, the lower address first; any other width reads 0.
The state after it differs only by what the read latches. -/
def barRead (s : State) (off width : Nat) : State × W64 :=
  if width = 4 then
    let a := wordRead s off
    (a.1, a.2.setWidth 64)
  else if width = 8 then
    let a := wordRead s off
    let b := wordRead a.1 (off + 4)
    (b.1, a.2.setWidth 64 ||| (b.2.setWidth 64 <<< 32))
  else (s, 0)

/-- A read of a client's doorbell page of a width (R483): only 32 bits read a register. -/
def pageRead (s : State) (c off width : Nat) : W32 :=
  let x := getClient s c
  let r := getRing s c (off % 0x40 / 8)
  if width ≠ 4 || !x.reg || off % 4 ≠ 0 then 0
  else if off < 0x20 ∧ off % 8 = 0 then (if r.en then r.tail else 0)
  else if 0x40 ≤ off ∧ off < 0x60 ∧ off % 8 = 0 then (if r.en then r.head else 0)
  else if off = 0x188 then
    BitVec.ofNat 32 (bit1 16 x.stopped + fld 12 x.faultSt.toNat + fld 4 x.badHead.toNat + x.badTail.toNat)
  else 0

/-- A read of counter `k` of client `c`'s accounting block (R333): 64 bits are one atomic read; 32 bits of the low half
latch the high half, which the next read of that half gives. -/
def acctRead (s : State) (c k : Nat) (high : Bool) (width : Nat) : State × W64 :=
  let x := getClient s c
  let v := acctCounter x.acct k
  if width = 8 then (s, v)
  else if width ≠ 4 then (s, 0)
  else if high then (s, x.acct.latch.setWidth 64)
  else (setClient s c { x with acct := { x.acct with latch := (v >>> 32).setWidth 32 } }, (v.setWidth 32).setWidth 64)

end Sys2Proof.Machine
end

