-- ==== Sys2Proof/Certificates/Slice0/Obligations.lean ====
section
/-! DEFINITION. What is claimed of the model, for the provers: one proposition each. -/

open Sys2Proof Sys2Proof.Machine

namespace Sys2Proof.Ob

/-- The Crown is out of reset and its domain is on, so that host accesses reach it (R421, R436). -/
abbrev awake (s : State) : Prop := crownUp s = true ∧ s.pwr.cur ≠ 2

/-- A registered client's page and one of its ring pairs (R44). -/
abbrev paged (s : State) (c ring : Nat) : Prop := awake s ∧ clientOk c = true ∧ ringOk ring = true ∧ (getClient s c).reg = true

/-- The doorbell rings of a client. -/
abbrev ringOn (s : State) (c ring : Nat) : Prop := paged s c ring ∧ (getRing s c ring).en = true

/-- The read of the descriptor of sequence number `q` from its slot (R45). -/
def slotRead (s : State) (c ring : Nat) (q : W32) : DmaRead :=
  { addr := (getRing s c ring).sqBase.toNat + 64 * (q.toNat % 2 ^ (getRing s c ring).log2), bytes := 64 }

/-- A core runs dispatch `d`, and the word at its code index is `w`, of opcode `op` (R166, R170). -/
abbrev atWord (s : State) (core : Nat) (d : Disp) (w op : Nat) : Prop :=
  getDisp s core = some d ∧ running s d = true ∧ codeWord (getCore s core) d d.pc = some w ∧ fOp w = op

/-- The code window holds a word at an index, not an invalid-code mark (R171). -/
abbrev codeHeld (s : State) (core : Nat) (d : Disp) (pc : Nat) : Prop := (codeWord (getCore s core) d pc).isSome = true

/-- The core runs a word of the opcode and a further word follows it. -/
abbrev ready (s : State) (core : Nat) (d : Disp) (w op : Nat) : Prop := atWord s core d w op ∧ codeHeld s core d (d.pc + 1)

/-- The dispatch at another code index, with no stall. -/
def gone (d : Disp) (pc : Nat) : Disp := { d with pc := pc, stallOn := none, blockedAt := none }

/-- The state in which only the dispatch of one core has changed, to `d` at the index after `pc`. -/
def nextOf (s : State) (core : Nat) (d : Disp) (pc : Nat) : State := setDisp s core (gone d (pc + 1))

/-- An engine instruction can launch: its token is not pending and the engine's queue has room (R134, R135). -/
abbrev launchable (s : State) (core : Nat) (d : Disp) (w op eng : Nat) : Prop :=
  ready s core d w op ∧ tokPending d (fT w) = false ∧ (tget [] d.launches eng).length < 4

/-- The dispatch as an engine's operation finds it: no flag of its own set yet. -/
def blank (d : Disp) : Disp := { d with flags := 0 }

/-- The dispatch `d` after the launch of an operation whose effect on `blank d` is `e`: its token is pending and stands in the
engine's queue, with the flags that the engine sets as it ends (R106); until then the dispatch keeps its own. -/
def launched (d e : Disp) (eng t : Nat) : Disp :=
  tokSet { e with launches := tput [] d.launches eng (tget [] d.launches eng ++ [(t, e.flags)]), flags := d.flags } t

/-- The command is being killed and will end with the status and address. -/
def ending (s : State) (id status addr : Nat) : Prop :=
  ∃ c k, getCmd s id = some c ∧ c.stage = .killing ∧ c.kill = some k ∧ k.kind = .ends status addr

/-- A started dispatch of a core and its command, of one current generation. -/
abbrev onCore (s : State) (core : Nat) (d : Disp) (c : Cmd) : Prop :=
  getDisp s core = some d ∧ getCmd s d.cmd = some c ∧ d.started = true ∧ genCurrent s d.gen = true ∧ c.gen = d.gen

/-- The command runs. -/
def runs (s : State) (id : Nat) : Prop := ∃ c, getCmd s id = some c ∧ c.stage = .running

/-- Channel `m` is served, its firmware-to-host mailbox is empty, and its oldest request is `b`, of type `ty`, well formed,
with nothing before it unanswered (R377, R378). -/
def asks (s : State) (m ty : Nat) (b : Bytes) (rest : List Req) : Prop :=
  takesNext s m = true ∧ (∃ at_, getReqs s m = { msg := b, at_ := at_ } :: rest) ∧
    fieldLE b 0 1 = ty ∧ ∃ x, typeOf s b = some x ∧ resvZero x b = true

/-- The request has left channel `m`; its reply, with the status and the results, is in the mailbox, and vector m is raised. -/
def answered (s t : State) (m : Nat) (b : Bytes) (rest : List Req) (st : Nat) (res : Bytes) : Prop :=
  getReqs t m = rest ∧ getF2h t m = { data := replyBytes b st res, full := true } ∧ m ∈ t.io.msix ∧
    getReplies t m = getReplies s m ∧ t.mail.slow = s.mail.slow

/-- The bytes that a command reads: what the host answers, or what device memory holds (R51). -/
def gives (s : State) (c : Cmd) (h : HostAns) (b : Bytes) : Prop :=
  if isDev c.desc.arg then devRead s c.part (devAddr c.desc.arg) c.desc.lenA.toNat = .data b
  else h = .data b ∧ b.length = c.desc.lenA.toNat

/-- The state after the command's read of them: the read of the host, or the corrected lines of device memory. -/
def afterRead (s : State) (c : Cmd) : State :=
  if isDev c.desc.arg then noteDev s c.part (devAddr c.desc.arg) c.desc.lenA.toNat
  else dmaRead s (some c.pasid.toNat) c.desc.arg.toNat c.desc.lenA.toNat

/-- The Crown may send `n` flits of FL0 at once, and nothing waits before them (R341). -/
abbrev fl0Free (s : State) (n : Nat) : Prop := s.crown.fl0Wait = [] ∧ n ≤ s.crown.fl0

/-- In `t` a control message to `dst` has been sent, or waits for the Crown's allowance, and is kept until it is acknowledged
(R341, R343). -/
def sends (t : State) (dst : Nat) (m : Ctl) : Prop :=
  ∃ n, (∃ y ∈ t.dom.ctl, y.seq = n ∧ y.dst = dst ∧ y.m = m) ∧
    (.ctl dst n m ∈ t.io.wire ∨ (dst, .ctl dst n m) ∈ t.crown.fl0Wait)

/-- The reply of a channel's request is in its mailbox, with its vector raised, or waits for it (R377). -/
def replied (s t : State) (m : Nat) (b : Bytes) : Prop :=
  (mailFree s m = true → getF2h t m = { data := b, full := true } ∧ m ∈ t.io.msix) ∧
    (mailFree s m = false → getReplies t m = getReplies s m ++ [b])

/-- What a reset of the package scope leaves (R415): the release sequence at step 2, everything in the scope as at first, and
the fuses, the repair OTP, the fences and the Nightcap's monitor as they were. -/
def cleared (s t : State) : Prop :=
  t.rst.resetting.isSome = true ∧ t.rst.step = min s.rst.step 1 ∧ t.cmds = [] ∧ t.clients = [] ∧ t.sets = [] ∧
    t.streams = [] ∧ t.parts = [] ∧ t.cores = [] ∧ t.pile = {} ∧ t.ports = [] ∧ t.dom = {} ∧ t.mail = {} ∧ t.tally = {} ∧
    t.bead = {} ∧ t.crown.ready = false ∧ t.crown.fenceLo = s.crown.fenceLo ∧ t.crown.fencePlb = s.crown.fencePlb ∧
    t.sec.uds = s.sec.uds ∧ t.sec.serial = s.sec.serial ∧ t.sec.rollback = s.sec.rollback ∧
    t.sec.ownerSet = s.sec.ownerSet ∧ t.sec.nextLeaf = s.sec.nextLeaf ∧ t.sec.bootsel = s.sec.bootsel

/-- What a firmware restart leaves (R412, R418): not ready, one restart more, no request unanswered, every running command being
killed uncounted, and no join, stop, move or unmapping half done (R378, R301); the sets and the registers of clients stand, and so
do memory and the streams where no move and no unmapping was under way. -/
def restarted (s t : State) : Prop :=
  t.crown.ready = false ∧ t.crown.restarts = min (s.crown.restarts + 1) 255 ∧ (∀ m, m < 8 → getReqs t m = []) ∧
    (∀ x ∈ t.mail.slow, 8 ≤ x.1) ∧ (∀ id c, getCmd s id = some c → c.stage = .running →
      ∃ x k, getCmd t id = some x ∧ x.stage = .killing ∧ x.kill = some k ∧ k.kind = .rerun) ∧ t.sec.held = [] ∧ t.dom.join = none ∧
    t.sets = s.sets ∧ t.clients = s.clients.map (fun x => (x.1, { x.2 with stopping := false })) ∧ t.rst.kickAt = s.time ∧
    (∀ v ∈ t.inval, v.chan = none) ∧
    ((∀ v ∈ s.inval, v.chan = none) → (∀ x ∈ s.streams, x.2.was = none) → t.pile = s.pile ∧ t.streams = s.streams)

end Sys2Proof.Ob

open Sys2Proof.Ob


/-! ## The queue, decoding, reset -/

/-- A step takes the command at the front of the queue and runs it on the state with the queue's rest. On an empty
queue one nanosecond passes: the time advances by one, and so does the clock of the tally while the Crown is out of
reset and die D1 on; the bead, clients, commands, streams, pile memory, the security block and the local stores of the
cores stand, no DMA is done and no vector raised (the model's choice, notes/assumptions/2.md). The table of operations
gives no row any bits: no word spells a command (notes/assumptions/15.md). -/
def Obligations.StepRunsTheFrontCommand : Prop :=
  (
    ∀ (s : State) (c : Instr) (rest : List Instr),
      step { s with pending := c :: rest } = exec c { s with pending := rest }) ∧
  (
    ∀ s : State, s.pending = [] →
      ∃ t, step s = .next t ∧ t.time = s.time + 1 ∧ t.pending = [] ∧ t.bead = s.bead ∧ t.clients = s.clients ∧ t.cmds = s.cmds ∧
        (crownUp s = true → d1Off s = false → t.tally.clock = s.tally.clock + 1) ∧ t.streams = s.streams ∧ t.pile = s.pile ∧
        t.io.dma = s.io.dma ∧ t.io.msix = s.io.msix ∧ t.sec = s.sec ∧ ∀ n, (getCore t n).ls = (getCore s n).ls) ∧
  (
    ∀ (s : State) (nbits w : Nat), decodeTableWord nbits w = none ∧ State.withFetchWord s nbits w = s)

/-- What reset leaves, as the register tables give it: the bead at 480 samples of the internal reference with its
counter at 0, no fallback and nothing pending; the deadlock limit at 1,000 µs; no client registered, no partition
enabled, no tally record with the first number 1, every event class enabled, a window of 1,000 ms and a gap of 1,000
µs. The three invariants hold at reset. -/
def Obligations.ResetLeavesTheRegisterTables : Prop :=
  (
    State.reset.bead.period = 480 ∧ State.reset.bead.refsel = 0 ∧ State.reset.bead.activeRef = 0 ∧
      State.reset.bead.count = 0 ∧ State.reset.bead.en = false ∧ State.reset.bead.fallback = false ∧
      State.reset.bead.pendingWr = false ∧ State.reset.bead.badWrite = false ∧
      State.reset.crown.dlLimit = 1000 ∧ State.reset.crown.ready = false ∧
      (∀ c, (getClient State.reset c).reg = false) ∧ (∀ p, (getPart State.reset p).en = false) ∧
      State.reset.tally.slots = [] ∧ State.reset.tally.nextSeq = 1 ∧ State.reset.tally.en0 = 0xFFFFFFFF ∧
      State.reset.tally.en1 = 0xFFFFFFFF ∧ State.reset.tally.windowMs = 1000 ∧ State.reset.tally.gapUs = 1000 ∧
      State.reset.pending = []) ∧
  (
    Memory.wf State.reset.pile.mem = true ∧ State.reset.pwr.cur < 3 ∧ State.reset.bead.refsel.toNat < 7 ∧
      State.reset.bead.activeRef.toNat < 7)

/-! ## What every step keeps -/

/-- Pile memory keeps its canonical form: addresses rise strictly and no listed byte is what an unlisted one reads as. -/
def Obligations.EveryStepKeepsPileMemoryCanonical : Prop :=
  ∀ s t : State, Memory.wf s.pile.mem = true → step s = .next t → Memory.wf t.pile.mem = true

/-- Nothing a step does changes the fused secrets and the identity of a package, and what is programmed later is never
cleared: the rollback count and the next leaf never fall, and the owner keys stand once they are set. -/
def Obligations.NoStepClearsFuses : Prop :=
  ∀ s t : State, step s = .next t →
    t.sec.uds = s.sec.uds ∧ t.sec.serial = s.sec.serial ∧ t.sec.vendorDigest = s.sec.vendorDigest ∧
      t.sec.vendorLms = s.sec.vendorLms ∧ t.sec.topTree = s.sec.topTree ∧ s.sec.rollback ≤ t.sec.rollback ∧
      s.sec.nextLeaf ≤ t.sec.nextLeaf ∧
      (s.sec.ownerSet = true → t.sec.ownerSet = true ∧ t.sec.ownerDigest = s.sec.ownerDigest ∧
        t.sec.ownerLms = s.sec.ownerLms)

/-- The power state stays one of S0, S1 and S2, and the bead's references stay encodings that REFSEL has: 0b111 is
never selected nor active. -/
def Obligations.EveryStepKeepsLegalModes : Prop :=
  ∀ s t : State, s.pwr.cur < 3 ∧ s.bead.refsel.toNat < 7 ∧ s.bead.activeRef.toNat < 7 → step s = .next t →
    t.pwr.cur < 3 ∧ t.bead.refsel.toNat < 7 ∧ t.bead.activeRef.toNat < 7

/-- The queue is first in, first out, and time never turns back: a step with a command removes that command and
nothing else from the queue. -/
def Obligations.EveryStepKeepsTheQueueInOrder : Prop :=
  ∀ (s t : State) (c : Instr) (rest : List Instr), s.pending = c :: rest → step s = .next t →
    t.pending = rest ∧ s.time ≤ t.time

/-- R420: no step but a power-on reset that PWROK ends changes the straps as sampled, and that one takes those of the
board. -/
def Obligations.OnlyPowerOnSamplesStraps : Prop :=
  (∀ (s t : State) (c : Instr) (rest : List Instr), s.pending = c :: rest → step s = .next t →
    (∀ vaon w, c ≠ .por vaon true w) →
    t.sec.bootsel = s.sec.bootsel ∧ t.rst.clksel = s.rst.clksel ∧ t.rst.stmand = s.rst.stmand) ∧
  (∀ s t : State, s.pending = [] → step s = .next t →
    t.sec.bootsel = s.sec.bootsel ∧ t.rst.clksel = s.rst.clksel ∧ t.rst.stmand = s.rst.stmand) ∧
  (∀ (s : State) (vaon : Bool) (w : Straps), ∃ t, exec (.por vaon true w) s = .next t ∧
    t.sec.bootsel = w.bootsel ∧ t.rst.clksel = w.clksel ∧ t.rst.stmand = w.stmand)

/-! ## The bead (01) and register writes (14) -/

/-- A write of CRN_BEAD_CTRL: PERIOD below 16, REFSEL 0b111, the domain bead outside a domain, or a change of PERIOD
under the domain bead is rejected, sets BAD_WRITE and changes nothing else; any other write sets the two fields and
waits for the next boundary. -/
def Obligations.BeadControlWrites : Prop :=
  (∀ (s : State) (v : W32), awake s →
    (v.toNat % 2 ^ 16 < 16 ∨ bits v.toNat 18 16 = 7 ∨ (bits v.toNat 18 16 = 6 ∧ s.dom.inDomain = false) ∨
      (s.bead.refsel = 6 ∧ (v.setWidth 16 : W16) ≠ s.bead.period)) →
    exec (.beadCtrlWrite v) s = .next { s with bead := { s.bead with badWrite := true } }) ∧
  (∀ (s : State) (v : W32), awake s → 16 ≤ v.toNat % 2 ^ 16 → bits v.toNat 18 16 ≠ 7 →
    (bits v.toNat 18 16 = 6 → s.dom.inDomain = true) → (s.bead.refsel = 6 → (v.setWidth 16 : W16) = s.bead.period) →
    exec (.beadCtrlWrite v) s = .next { s with bead := { s.bead with
      refsel := BitVec.ofNat 3 (bits v.toNat 18 16), period := v.setWidth 16, pendingWr := true } })

/-- A bead boundary while the counter runs: the count rises by one, a new bead with no sample counted starts now, and
a pending write of PERIOD and REFSEL takes effect when its reference runs and the domain is not waited for; the fields
stand, and so do the clients, streams, pile memory, records and local stores. A bead of the internal reference ends no
earlier than PERIOD samples of 48 kHz after it began; one of an audio reference not before PERIOD frames are counted.
A read of CRN_BEAD_COUNT_LO returns bits [31:0] of the counter and latches bits [63:32]; the loss of the active
external reference falls back to the internal one, sets FALLBACK and keeps REFSEL; a 32-bit write of
CRN_DEADLOCK_LIMIT stores its low 20 bits, at most 1,000,000. Nothing else changes. -/
def Obligations.BeadBoundariesAndReads : Prop :=
  (
    (∀ s : State, s.bead.en = true → (refClocked s.bead.activeRef = true → s.bead.curPeriod.toNat ≤ s.bead.samples) →
      ∃ t, exec (.beadBoundary false) s = .next t ∧ t.bead.count = s.bead.count + 1 ∧ t.bead.edge = t.time ∧ t.bead.samples = 0 ∧
        (refClocked s.bead.activeRef = true → t.time = s.time) ∧
        (s.bead.activeRef = 0 → s.bead.from3 + (s.bead.curPeriod.toNat - s.bead.samples) * 62500 ≤ 3 * t.time) ∧
        (s.bead.pendingWr = false → t.bead.curPeriod = s.bead.curPeriod ∧ t.bead.activeRef = s.bead.activeRef) ∧
        (s.bead.pendingWr = true → refRuns s s.bead.refsel = true → awaitsDomain s = false →
          t.bead.curPeriod = s.bead.period ∧ t.bead.activeRef = s.bead.refsel ∧ t.bead.pendingWr = false) ∧
        t.bead.en = true ∧ t.bead.period = s.bead.period ∧ t.bead.refsel = s.bead.refsel ∧
        t.clients = s.clients ∧ t.streams = s.streams ∧ t.pile = s.pile ∧ t.tally.slots = s.tally.slots ∧
        ∀ n, (getCore t n).ls = (getCore s n).ls) ∧
    (∀ (s : State) (lost : Bool), s.bead.en = true → refClocked s.bead.activeRef = true → s.bead.samples < s.bead.curPeriod.toNat →
      exec (.beadBoundary lost) s = .next s)) ∧
  (
    (∀ s : State, awake s → exec .beadCountLoRead s = .next { s with
      bead := { s.bead with hiLatch := BitVec.ofNat 32 (s.bead.count.toNat / 2 ^ 32) }
      io := { s.io with rdata := BitVec.ofNat 64 (s.bead.count.toNat % 2 ^ 32) } }) ∧
    (∀ s : State, s.bead.en = true → s.bead.activeRef ≠ 0 → exec .beadRefFallback s = .next { s with
      bead := { s.bead with activeRef := 0, fallback := true,
                            from3 := if refClocked s.bead.activeRef then 3 * s.time else s.bead.from3 }
      dom := { s.dom with aligned := false } }) ∧
    (∀ (s : State) (v : W64), awake s → exec (.registerWrite 0x120 4 v) s = .next { s with
      crown := { s.crown with dlLimit := min (v.toNat % 2 ^ 20) 1000000 } }))

/-! ## Doorbells and rings (02, 12) -/

/-- R49: a write of H to CQ_HEADn is accepted only if it passes no entry that has not been written; any other write is
ignored and sets BAD_HEAD bit n. -/
def Obligations.CqHeadPassesNoUnwrittenEntry : Prop :=
  ∀ (s : State) (c ring : Nat) (v : W32), ringOn s c ring →
    ((v - (getRing s c ring).head).toNat ≤ ((getRing s c ring).written - (getRing s c ring).head).toNat →
      exec (.cqHeadWrite c ring v) s = .next (setRing (wakeCall s) c ring { getRing s c ring with head := v })) ∧
    (((getRing s c ring).written - (getRing s c ring).head).toNat < (v - (getRing s c ring).head).toNat →
      ∃ t, exec (.cqHeadWrite c ring v) s = .next t ∧ (getClient t c).badHead.getLsbD ring = true ∧
        (∀ n, n ≠ ring → (getClient t c).badHead.getLsbD n = (getClient s c).badHead.getLsbD n) ∧
        (getClient t c).rings = (getClient s c).rings ∧ (∀ n, n ≠ c → getClient t n = getClient s n) ∧
        t.cmds = s.cmds ∧ t.tally = s.tally ∧ t.io = s.io ∧ t.pile = s.pile)

/-- Writes of SQ_TAIL of a registered client: a TAIL that fits both rings is stored and nothing else changes; any
other value, or a ring that is not enabled, leaves the ring, sets its BAD_TAIL bit and raises DOORBELL_BAD. Every
write to a doorbell page asks an entry into S1 or S2 that is in progress to be aborted (R436). The other writes to a
doorbell page. A CANCEL from the first descriptor not yet fetched covers what is left up to TAIL; one further from
TAIL than the ring is long sets BAD_TAIL. STOP stops the client, RESUME clears that and nothing else, both together do
nothing, and so does any write to a page with no client, of another width, or where no register is; but every one of
them asks an entry into S1 or S2 that is in progress to be aborted (R436). -/
def Obligations.DoorbellPageWrites : Prop :=
  (
    (∀ (s : State) (c ring : Nat) (v : W32), ringOn s c ring →
      (v - (getRing s c ring).tail).toNat ≤ 2 ^ (getRing s c ring).log2 →
      (v - (getRing s c ring).head).toNat ≤ 2 ^ (getRing s c ring).log2 →
      exec (.sqTailWrite c ring v) s = .next (setRing (wakeCall s) c ring { getRing s c ring with tail := v })) ∧
    (∀ (s : State) (c ring : Nat) (v : W32), paged s c ring →
      (getRing s c ring).en = false ∨ 2 ^ (getRing s c ring).log2 < (v - (getRing s c ring).tail).toNat ∨
        2 ^ (getRing s c ring).log2 < (v - (getRing s c ring).head).toNat →
      ∃ t, exec (.sqTailWrite c ring v) s = .next t ∧ (getClient t c).badTail.getLsbD ring = true ∧
        getRing t c ring = getRing s c ring ∧
        (s.tally.slots = [] → ∃ r, tget none t.tally.slots 0 = some r ∧ r.cls = 1 ∧ r.d0 = BitVec.ofNat 64 ring) ∧
        t.cmds = s.cmds ∧ t.streams = s.streams ∧ t.cores = s.cores ∧ t.pile = s.pile ∧ t.bead = s.bead)) ∧
  (
    (∀ (s : State) (c ring : Nat), ringOn s c ring →
      (∀ x ∈ s.cmds, ¬ (x.client = c ∧ x.ring = ring)) →
      0 < ((getRing s c ring).tail - (getRing s c ring).fetched).toNat →
      ((getRing s c ring).tail - (getRing s c ring).fetched).toNat ≤ 2 ^ (getRing s c ring).log2 →
      exec (.cancelWrite c ring (getRing s c ring).fetched) s = .next (setRing (wakeCall s) c ring { getRing s c ring with
        cover := (getRing s c ring).cover ++
          [((getRing s c ring).fetched, ((getRing s c ring).tail - (getRing s c ring).fetched).toNat)] })) ∧
    (∀ (s : State) (c ring : Nat) (v : W32), ringOn s c ring → 2 ^ (getRing s c ring).log2 < ((getRing s c ring).tail - v).toNat →
      ∃ t, exec (.cancelWrite c ring v) s = .next t ∧ (getClient t c).badTail.getLsbD ring = true ∧ t.cmds = s.cmds) ∧
    (∀ (s : State) (c : Nat) (v : W32), awake s → clientOk c = true → (getClient s c).reg = true →
      v.getLsbD 0 = true → v.getLsbD 1 = false →
      ∃ t, exec (.dbCtrlStop c v) s = .next t ∧ (getClient t c).stopped = true ∧ t.bead = s.bead ∧ t.sets = s.sets ∧
        t.parts = s.parts) ∧
    (∀ (s : State) (c : Nat) (v : W32), awake s → clientOk c = true → (getClient s c).reg = true →
      v.getLsbD 0 = false → v.getLsbD 1 = true →
      exec (.dbCtrlResume c v) s = .next (setClient (wakeCall s) c { getClient s c with stopped := false })) ∧
    (∀ (s : State) (c : Nat) (v : W32), awake s → v.getLsbD 0 = true → v.getLsbD 1 = true →
      exec (.dbCtrlStop c v) s = .next (wakeCall s) ∧ exec (.dbCtrlResume c v) s = .next (wakeCall s)) ∧
    (∀ (s : State) (c off width : Nat) (v : W64), awake s → (getClient s c).reg = false ∨ width ≠ 4 ∨ off % 8 ≠ 0 ∨ 0x190 ≤ off →
      exec (.doorbellUnmappedWrite c off width v) s = .next (wakeCall s)))

/-- A DMA access of a ring that the host refuses faults the pair: FAULT of the ring is set, the completions of its
fetched commands are lost, and no other ring and no command otherwise changes. It is what a refused read of a
descriptor does. A fetched FENCE without a token that breaks no check is queued after every unretired command, as the
next of its ring: it carries the ring's PASID and the client's partition, waits from now, and nothing completes. The
descriptor is read from slot q mod 2^n of the ring (R45). A fetched descriptor that breaks the first check completes
at once with BAD_OPCODE: one completion entry is written, at the ring's place for it, with that status, and the
client's retired count rises; no command is added and none dispatched. -/
def Obligations.RingFaultsAndFetches : Prop :=
  (
    (∀ (s : State) (c ring : Nat) (a : W64), clientOk c = true → ringOk ring = true →
      (getRing s c ring).en = true → (getRing s c ring).fault = false →
      ∃ t, exec (.ringFault c ring a) s = .next t ∧ getRing t c ring = { getRing s c ring with fault := true } ∧
        (getClient t c).faultSt.getLsbD ring = true ∧ (∀ n, n ≠ ring → getRing t c n = getRing s c n) ∧
        (∀ d, d ≠ c → getClient t d = getClient s d) ∧
        t.cmds = s.cmds.map (fun q => if q.client == c && q.ring == ring then { q with lost := true } else q) ∧
        t.streams = s.streams ∧ t.pile = s.pile ∧ t.cores = s.cores) ∧
    (∀ (s : State) (f : FetchAns) (a : W64) (c left ring : Nat) (q : W32), awake s → f.desc = .refused a →
      nextClient s = some (c, left) → nextRing s c = some ring → fetchAt s c ring = some q →
      ∃ t, exec (.descriptorFetch f) s = .next t ∧ (getRing t c ring).fault = true ∧
        (getRing t c ring).fetched = (getRing s c ring).fetched ∧ t.crown.nextId = s.crown.nextId ∧
        t.io.reads = s.io.reads ++ [slotRead s c ring q])) ∧
  (
    ∀ (s : State) (f : FetchAns) (b : Bytes) (c left ring : Nat) (q : W32), awake s → f.desc = .data b →
      nextClient s = some (c, left) → nextRing s c = some ring → fetchAt s c ring = some q →
      covered (getRing s c ring) q = false → (parseDesc b).opcode = 0x0A → (parseDesc b).token = 0 → (parseDesc b).bead = 0 →
      step1 (getRing s c ring) ring q (parseDesc b) = true →
      ∃ t x, exec (.descriptorFetch f) s = .next t ∧ t.cmds = s.cmds ++ [x] ∧ x.id = s.crown.nextId ∧ x.client = c ∧
        x.ring = ring ∧ x.seq = q ∧ x.pasid = (getRing s c ring).pasid ∧ x.part = (getClient s c).part ∧
        x.desc = parseDesc b ∧ x.stage = .queued ∧ x.dep = none ∧ x.dispatches = 0 ∧ x.waitFrom = s.time ∧
        t.crown.nextId = s.crown.nextId + 1 ∧ t.crown.fetchClient = c ∧ t.crown.fetchLeft = left ∧
        (getClient t c).ringPos = (ring + 1) % 4 ∧ t.io.reads = s.io.reads ++ [slotRead s c ring q] ∧
        t.io.dma = s.io.dma ∧ t.io.msix = s.io.msix ∧ t.streams = s.streams ∧ t.pile = s.pile ∧ t.cores = s.cores) ∧
  (
    ∀ (s : State) (f : FetchAns) (b : Bytes) (c left ring : Nat) (q : W32), awake s → f.desc = .data b →
      nextClient s = some (c, left) → nextRing s c = some ring → fetchAt s c ring = some q → s.cmds = [] →
      covered (getRing s c ring) q = false → wantsArg (parseDesc b) = false →
      step1 (getRing s c ring) ring q (parseDesc b) = false →
      ∃ t e, exec (.descriptorFetch f) s = .next t ∧ t.cmds = [] ∧ t.io.reads = s.io.reads ++ [slotRead s c ring q] ∧
        t.io.dma = s.io.dma ++ [e] ∧
        e.addr = (getRing s c ring).cqBase.toNat + 32 * ((getRing s c ring).written.toNat % 2 ^ (getRing s c ring).log2) ∧
        e.data.length = 32 ∧ fieldLE e.data 0 8 = (parseDesc b).cookie.toNat ∧ fieldLE e.data 8 2 = 0x0001 ∧
        (getRing t c ring).written = (getRing s c ring).written + 1 ∧
        (getClient t c).acct.retired = (getClient s c).acct.retired + 1 ∧ t.streams = s.streams ∧ t.cores = s.cores)

/-! ## The instructions of a core (06) -/

/-- The arithmetic and logic instructions, by their integer meaning: s[D] takes the value, the core goes on at the
next word, and nothing else of the core or of the state changes. X is IMM or s[B]; s0 reads 0 and ignores the write.
The bitwise instructions and shifts, bit by bit: the shift count is X[5:0], SAR copies the sign bit in, and LIH joins
the low half of s[A] below the low half of X. The address registers and NOP: AADD adds modulo 2^32, AMOV takes the low
half of a scalar plus IMM, ARD widens with zeros; only the destination register and the code index change. -/
def Obligations.ScalarInstructions : Prop :=
  (
    ∀ (s : State) (core : Nat) (d : Disp) (w : Nat), ∀ a x : W64, a = sreg d (fA w) → x = opX d w →
      (ready s core d w 0x10 → exec (.opAdd core) s =
        .next (nextOf s core (setSreg d (fD w) (BitVec.ofNat 64 (a.toNat + x.toNat))) d.pc)) ∧
      (ready s core d w 0x11 → exec (.opSub core) s =
        .next (nextOf s core (setSreg d (fD w) (BitVec.ofInt 64 ((a.toNat : Int) - x.toNat))) d.pc)) ∧
      (ready s core d w 0x12 → exec (.opMul core) s =
        .next (nextOf s core (setSreg d (fD w) (BitVec.ofNat 64 (a.toNat * x.toNat))) d.pc)) ∧
      (ready s core d w 0x1B → exec (.opMin core) s =
        .next (nextOf s core (setSreg d (fD w) (BitVec.ofInt 64 (min a.toInt x.toInt))) d.pc)) ∧
      (ready s core d w 0x1C → exec (.opMax core) s =
        .next (nextOf s core (setSreg d (fD w) (BitVec.ofInt 64 (max a.toInt x.toInt))) d.pc)) ∧
      (ready s core d w 0x19 → exec (.opSlt core) s =
        .next (nextOf s core (setSreg d (fD w) (if a.toInt < x.toInt then 1 else 0)) d.pc)) ∧
      (ready s core d w 0x1A → exec (.opSltu core) s =
        .next (nextOf s core (setSreg d (fD w) (if a.toNat < x.toNat then 1 else 0)) d.pc)) ∧
      (ready s core d w 0x1E → exec (.opDivu core) s =
        .next (nextOf s core (setSreg d (fD w)
          (BitVec.ofNat 64 (if x.toNat = 0 then 2 ^ 64 - 1 else a.toNat / x.toNat))) d.pc)) ∧
      (ready s core d w 0x1F → exec (.opRemu core) s =
        .next (nextOf s core (setSreg d (fD w) (BitVec.ofNat 64 (a.toNat % x.toNat))) d.pc))) ∧
  (
    ∀ (s : State) (core : Nat) (d : Disp) (w : Nat), ∀ a x : W64, a = sreg d (fA w) → x = opX d w →
      (ready s core d w 0x13 → ∃ v : W64, (∀ i, i < 64 → v.getLsbD i = (a.getLsbD i && x.getLsbD i)) ∧
        exec (.opAnd core) s = .next (nextOf s core (setSreg d (fD w) v) d.pc)) ∧
      (ready s core d w 0x14 → ∃ v : W64, (∀ i, i < 64 → v.getLsbD i = (a.getLsbD i || x.getLsbD i)) ∧
        exec (.opOr core) s = .next (nextOf s core (setSreg d (fD w) v) d.pc)) ∧
      (ready s core d w 0x15 → ∃ v : W64, (∀ i, i < 64 → v.getLsbD i = (a.getLsbD i != x.getLsbD i)) ∧
        exec (.opXor core) s = .next (nextOf s core (setSreg d (fD w) v) d.pc)) ∧
      (ready s core d w 0x16 → exec (.opShl core) s =
        .next (nextOf s core (setSreg d (fD w) (BitVec.ofNat 64 (a.toNat * 2 ^ (x.toNat % 64)))) d.pc)) ∧
      (ready s core d w 0x17 → exec (.opShr core) s =
        .next (nextOf s core (setSreg d (fD w) (BitVec.ofNat 64 (a.toNat / 2 ^ (x.toNat % 64)))) d.pc)) ∧
      (ready s core d w 0x18 → exec (.opSar core) s =
        .next (nextOf s core (setSreg d (fD w) (BitVec.ofInt 64 (a.toInt / 2 ^ (x.toNat % 64)))) d.pc)) ∧
      (ready s core d w 0x1D → exec (.opLih core) s =
        .next (nextOf s core (setSreg d (fD w) (BitVec.ofNat 64 (x.toNat % 2 ^ 32 * 2 ^ 32 + a.toNat % 2 ^ 32))) d.pc))) ∧
  (
    ∀ (s : State) (core : Nat) (d : Disp) (w : Nat),
      (ready s core d w 0x20 → exec (.opAadd core) s = .next (nextOf s core
        (setAreg d (fD w) (BitVec.ofNat 32 ((areg d (fA w)).toNat + (opX d w).toNat))) d.pc)) ∧
      (ready s core d w 0x21 → exec (.opAmov core) s = .next (nextOf s core
        (setAreg d (fD w) (BitVec.ofNat 32 ((sreg d (fA w)).toNat + fImm w))) d.pc)) ∧
      (ready s core d w 0x22 → exec (.opArd core) s = .next (nextOf s core
        (setSreg d (fD w) (BitVec.ofNat 64 (areg d (fA w)).toNat)) d.pc)) ∧
      (ready s core d w 0x00 → exec (.opNop core) s = .next (nextOf s core d d.pc)) ∧
      (∀ v : W64, sreg (setSreg d 0 v) 0 = 0 ∧ setSreg d 0 v = d) ∧
      (∀ (i : Nat) (v : W64), i ≠ 0 → sreg (setSreg d i v) i = v ∧ ∀ j, j ≠ i → sreg (setSreg d i v) j = sreg d j))

/-- Branches: each goes to its TARGET where its condition holds of s[A] and s[B], as signed or unsigned numbers, and
to the next word elsewhere, and changes nothing but the code index. JAL leaves the index after it in s[A] and goes to
TARGET; JR goes to s[A] plus the sign-extended IMM; LOOP takes 1 off s[A] and goes to TARGET until it reaches 0. A
core that would reach an invalid-code mark ends its command with OUT_OF_BOUNDS instead. WAIT goes on once no token of
IMM is pending and otherwise stalls; RECKON joins a barrier; END joins the last one once no token at all is pending,
and stalls before. Nothing but the dispatch's own standing changes. -/
def Obligations.ControlFlowInstructions : Prop :=
  (
    ∀ (s : State) (core : Nat) (d : Disp) (w : Nat), ∀ a b : W64, a = sreg d (fA w) → b = sreg d (fB w) →
      (∀ pc, pc = (if a = b then fTarget w else d.pc + 1) → atWord s core d w 0x06 → codeHeld s core d pc →
        exec (.opBeq core) s = .next (setDisp s core (gone d pc))) ∧
      (∀ pc, pc = (if a = b then d.pc + 1 else fTarget w) → atWord s core d w 0x07 → codeHeld s core d pc →
        exec (.opBne core) s = .next (setDisp s core (gone d pc))) ∧
      (∀ pc, pc = (if a.toInt < b.toInt then fTarget w else d.pc + 1) → atWord s core d w 0x08 → codeHeld s core d pc →
        exec (.opBlt core) s = .next (setDisp s core (gone d pc))) ∧
      (∀ pc, pc = (if b.toInt ≤ a.toInt then fTarget w else d.pc + 1) → atWord s core d w 0x09 → codeHeld s core d pc →
        exec (.opBge core) s = .next (setDisp s core (gone d pc))) ∧
      (∀ pc, pc = (if a.toNat < b.toNat then fTarget w else d.pc + 1) → atWord s core d w 0x0A → codeHeld s core d pc →
        exec (.opBltu core) s = .next (setDisp s core (gone d pc))) ∧
      (∀ pc, pc = (if b.toNat ≤ a.toNat then fTarget w else d.pc + 1) → atWord s core d w 0x0B → codeHeld s core d pc →
        exec (.opBgeu core) s = .next (setDisp s core (gone d pc)))) ∧
  (
    ∀ (s : State) (core : Nat) (d : Disp) (w : Nat),
      (atWord s core d w 0x04 → codeHeld s core d (fTarget w) → exec (.opJal core) s =
        .next (setDisp s core (gone (setSreg d (fA w) (BitVec.ofNat 64 (d.pc + 1))) (fTarget w)))) ∧
      (∀ pc, pc = (sreg d (fA w) + fSext w).toNat → atWord s core d w 0x05 → codeHeld s core d pc →
        exec (.opJr core) s = .next (setDisp s core (gone d pc))) ∧
      (∀ v pc, v = sreg d (fA w) - 1 → pc = (if v = 0 then d.pc + 1 else fTarget w) → atWord s core d w 0x0C →
        codeHeld s core d pc → exec (.opLoop core) s = .next (setDisp s core (gone (setSreg d (fA w) v) pc))) ∧
      (atWord s core d w 0x00 → codeWord (getCore s core) d (d.pc + 1) = none → runs s d.cmd →
        ∃ t, exec (.opNop core) s = .next t ∧ ending t d.cmd 0x0003 0)) ∧
  (
    ∀ (s : State) (core : Nat) (d : Disp) (w : Nat),
      (ready s core d w 0x02 → (∀ i, i < 32 → fImm w / 2 ^ i % 2 = 1 → tokPending d i = false) →
        exec (.opWait core) s = .next (nextOf s core d d.pc)) ∧
      (∀ i, i < 32 → fImm w / 2 ^ i % 2 = 1 → tokPending d i = true → atWord s core d w 0x02 →
        exec (.opWait core) s = .next (setDisp s core { d with stallOn := some 0 })) ∧
      (atWord s core d w 0x03 → exec (.opReckon core) s =
        .next (setDisp s core { d with arrived := .reckon, stallOn := none, blockedAt := none })) ∧
      (atWord s core d w 0x01 → d.tokens = 0 → exec (.opEnd core) s =
        .next (setDisp s core { d with arrived := .final, stallOn := none, blockedAt := none })) ∧
      (atWord s core d w 0x01 → d.tokens ≠ 0 → exec (.opEnd core) s =
        .next (setDisp s core { d with stallOn := some 0 })))

/-- Local-store accesses: an aligned load inside a window gives the bytes there, zero-extended, an aligned store
inside the scratch window puts the low bytes of s[B] there and leaves every other byte of the window; a store to the
resident window, or an access that is not aligned or leaves its window, ends the command with OUT_OF_BOUNDS. SRD reads
the arithmetic flags, the bead counter, the core's health, its run cycles and its stall counters; SWC clears the flags
whose bits are 1 in s[B] and keeps the others. RKEY puts the 32 bytes at a[P] into the key slot that IMM names and
leaves the other slots. SITEPUT adds the report at a[P] to its command: stream, site, rank and the four words; one
that names no stream of the group or no site of the set ends the command with OUT_OF_BOUNDS. -/
def Obligations.StoreStatusAndKeyInstructions : Prop :=
  (
    ∀ (s : State) (core : Nat) (d : Disp) (w : Nat), ∀ a : Nat, a = (areg d (fA w) + BitVec.ofNat 32 (fImm w)).toNat →
      (ready s core d w 0x28 → a % 8 = 0 → winOk d a 8 = true → exec (.opLd64 core) s = .next (nextOf s core
        (setSreg d (fD w) (BitVec.ofNat 64 (ofLE (winRead (getCore s core).ls d a 8)))) d.pc)) ∧
      (ready s core d w 0x2A → a % 4 = 0 → winOk d a 4 = true → exec (.opLd32 core) s = .next (nextOf s core
        (setSreg d (fD w) (BitVec.ofNat 64 (ofLE (winRead (getCore s core).ls d a 4)))) d.pc)) ∧
      (ready s core d w 0x29 → a % 8 = 0 → winWritable d a 8 = true → ∃ e : Disp,
        exec (.opSt64 core) s = .next (nextOf s core e d.pc) ∧
          ofLE (winRead (getCore s core).ls e a 8) = (sreg d (fB w)).toNat ∧ e = { d with scr := e.scr } ∧
          ∀ b, winScratch b = true → (winOff b < winOff a ∨ winOff a + 8 ≤ winOff b) →
            winByte (getCore s core).ls e b = winByte (getCore s core).ls d b) ∧
      (ready s core d w 0x2B → a % 4 = 0 → winWritable d a 4 = true → ∃ e : Disp,
        exec (.opSt32 core) s = .next (nextOf s core e d.pc) ∧
          ofLE (winRead (getCore s core).ls e a 4) = (sreg d (fB w)).toNat % 2 ^ 32 ∧ e = { d with scr := e.scr } ∧
          ∀ b, winScratch b = true → (winOff b < winOff a ∨ winOff a + 4 ≤ winOff b) →
            winByte (getCore s core).ls e b = winByte (getCore s core).ls d b) ∧
      (atWord s core d w 0x29 → (a % 8 ≠ 0 ∨ winScratch a = false ∨ winOk d a 8 = false) → runs s d.cmd →
        ∃ t, exec (.opSt64 core) s = .next t ∧ ending t d.cmd 0x0003 0) ∧
      (atWord s core d w 0x28 → (a % 8 ≠ 0 ∨ winOk d a 8 = false) → runs s d.cmd →
        ∃ t, exec (.opLd64 core) s = .next t ∧ ending t d.cmd 0x0003 0)) ∧
  (
    ∀ (s : State) (core : Nat) (d : Disp) (w : Nat),
      (∀ v : W64, ready s core d w 0x30 →
        (fImm w = 0x000 ∧ v = BitVec.ofNat 64 d.flags.toNat) ∨ (fImm w = 0x008 ∧ v = s.bead.count) ∨
          (fImm w = 0x0E0 ∧ v = BitVec.ofNat 64 (b2n (getCore s core).oos * 2 ^ 31 + sparesUsed s core * 2 ^ 16 +
            min (getCore s core).ceCount 0xFFFF)) ∨
          (fImm w = 0x0F8 ∧ v = (getCore s core).runCycles) ∨
          (∃ n, n < 10 ∧ fImm w = 0x100 + 8 * n ∧ v = tget 0 (getCore s core).stall n) →
        exec (.opSrd core) s = .next (nextOf s core (setSreg d (fD w) v) d.pc)) ∧
      (ready s core d w 0x31 → ∃ f : BitVec 4, exec (.opSwc core) s = .next (nextOf s core { d with flags := f } d.pc) ∧
        ∀ i, i < 4 → f.getLsbD i = (d.flags.getLsbD i && !(sreg d (fB w)).getLsbD i))) ∧
  (
    (∀ (s : State) (core : Nat) (d : Disp) (w : Nat), ready s core d w 0x7C → winOk d (areg d (fP w)).toNat 32 = true →
      ∃ e : Disp, exec (.opRkey core) s = .next (nextOf s core e d.pc) ∧ e = { d with keys := e.keys } ∧
        (tget 0 e.keys (fImm w % 16)).toNat = ofLE (winRead (getCore s core).ls d (areg d (fP w)).toNat 32) ∧
        ∀ k, k ≠ fImm w % 16 → tget 0 e.keys k = tget 0 d.keys k) ∧
    (∀ (s : State) (core : Nat) (d : Disp) (w : Nat) (c : Cmd) (x : WSet) (b : Bytes), ready s core d w 0x7D →
      getCmd s d.cmd = some c → findSet s d.part d.handle = some x → winOk d (areg d (fP w)).toNat 16 = true →
      b = winRead (getCore s core).ls d (areg d (fP w)).toNat 16 → (sreg d (fS w)).toNat < d.count →
      fImm w % 64 < x.sites.length → 0 < d.lenC → c.reports = [] →
      ∃ t c1, exec (.opSiteput core) s = .next t ∧ getDisp t core = some (gone d (d.pc + 1)) ∧ getCmd t d.cmd = some c1 ∧
        c1 = { c with
          reports := [{
          idx := (sreg d (fS w)).toNat, site := fImm w % 64, rank := d.rank,
          maxAbs := BitVec.ofNat 32 (fieldLE b 0 4), max := BitVec.ofNat 32 (fieldLE b 4 4),
          min := BitVec.ofNat 32 (fieldLE b 8 4), sat := fieldLE b 12 4 }] } ∧
        t.streams = s.streams ∧ t.pile = s.pile ∧ t.io = s.io) ∧
    (∀ (s : State) (core : Nat) (d : Disp) (w : Nat) (x : WSet), atWord s core d w 0x7D → findSet s d.part d.handle = some x →
      d.count ≤ (sreg d (fS w)).toNat ∨ x.sites.length ≤ fImm w % 64 → runs s d.cmd →
      ∃ t, exec (.opSiteput core) s = .next t ∧ ending t d.cmd 0x0003 0))

/-! ## The engines (05, 06, 08, 09) -/

/-- An engine instruction whose token is pending, or whose engine has four operations queued, stalls and changes
nothing else; a parameter block that is not at a multiple of 64 ends the command with OUT_OF_BOUNDS; the end of an
operation takes it from the head of its engine's queue, clears its token and sets its flags (R106). The tile
instructions. CBLD fills the buffer IMM[0] with the block's 16 or 256 entries; TLB fills the shadow tile with one
group of a block through a buffer, +0 past DEPTH and at the escape, with the rows that are no padding and the channels
of the block; TLD fills it with 1,024 words of 13 bits; TSWP exchanges the tiles. Each queues its token and changes
nothing else. MROW: each of the M rows meets the active tile in one exact group sum per column of a channel, rounded
once, from +0 or, with CHAIN, from what the row held; a padding row of the group adds +0 whatever the activation is
(R94), and the columns of padding channels stand (R109); the accumulator rows outside the M, and everything but the
accumulator and the flags, stand. -/
def Obligations.LaunchesAndMatrixEngine : Prop :=
  (
    (∀ (s : State) (core : Nat) (d : Disp) (w : Nat),
      (atWord s core d w 0x50 → tokPending d (fT w) = true ∨ 4 ≤ (tget [] d.launches 1).length →
        exec (.opVop core) s = .next (setDisp s core { d with stallOn := some 0 })) ∧
      (atWord s core d w 0x44 → tokPending d (fT w) = true ∨ 4 ≤ (tget [] d.launches 0).length →
        exec (.opMrow core) s = .next (setDisp s core { d with stallOn := some 0 })) ∧
      (atWord s core d w 0x60 → tokPending d (fT w) = true ∨ 4 ≤ (tget [] d.launches 2).length →
        exec (.opCarry core) s = .next (setDisp s core { d with stallOn := some 0 })) ∧
      (launchable s core d w 0x50 1 → (areg d (fP w)).toNat % 64 ≠ 0 → runs s d.cmd →
        ∃ t, exec (.opVop core) s = .next t ∧ ending t d.cmd 0x0003 0) ∧
      (launchable s core d w 0x61 3 → (areg d (fP w)).toNat % 64 ≠ 0 → runs s d.cmd →
        ∃ t, exec (.opSample core) s = .next t ∧ ending t d.cmd 0x0003 0)) ∧
    (∀ (s : State) (core eng t : Nat) (f : BitVec 4) (r : List (Nat × BitVec 4)) (d : Disp) (c : Cmd), eng < 4 →
      onCore s core d c → tget [] d.launches eng = (t, f) :: r →
      ∃ e : Disp, exec (.tokenDone core eng) s = .next (setDisp s core e) ∧ tget [] e.launches eng = r ∧
        (∀ i, i < 32 → tokPending e i = (tokPending d i && i != t)) ∧
        e = { d with launches := e.launches, tokens := e.tokens, flags := d.flags ||| f })) ∧
  (
    (∀ (s : State) (core : Nat) (d : Disp) (w : Nat) (h : WBlock), ∀ a n : Nat, a = (areg d (fP w)).toNat →
      n = (if h.wide then 256 else 16) → launchable s core d w 0x40 0 → wbAt (getCore s core).ls d a = some h →
      winOk d (a + 16) (wbCbBytes h) = true →
      ∃ e : Disp, exec (.opCbld core) s = .next (nextOf s core (launched d e 0 (fT w)) d.pc) ∧
        e = { blank d with cb0 := e.cb0, cb1 := e.cb1 } ∧
        ∃ new old : Tab (BitVec 13), (if bitOf (fImm w) 0 then e.cb1 = new ∧ old = d.cb1 ∧ e.cb0 = d.cb0
            else e.cb0 = new ∧ old = d.cb0 ∧ e.cb1 = d.cb1) ∧
          (∀ i, i < n → (tget 0 new i).toNat = ofLE (winRead (getCore s core).ls d (a + 16 + 2 * i) 2) % 8192) ∧
          ∀ i, n ≤ i → tget 0 new i = tget 0 old i) ∧
    (∀ (s : State) (core : Nat) (d : Disp) (w : Nat) (h : WBlock), ∀ a g : Nat, a = (areg d (fP w)).toNat →
      g = (sreg d (fS w) + BitVec.ofNat 64 (bits (fImm w) 10 0)).toNat → launchable s core d w 0x41 0 →
      wbAt (getCore s core).ls d a = some h → g < (h.depth + 31) / 32 → winOk d a (wbRemOff h) = true →
      ∃ e : Disp, exec (.opTlb core) s = .next (nextOf s core (launched d e 0 (fT w)) d.pc) ∧ e = { blank d with shadow := e.shadow } ∧
        ∀ k j i, k < 32 → j < 32 →
          i = wbIndex h (fun o => (winByte (getCore s core).ls d (a + wbIdxOff h + o)).toNat) (32 * g + k) j →
          e.shadow.rows = min 32 (h.depth - 32 * g) ∧ e.shadow.cols = h.channels ∧ tget 0 e.shadow.w (32 * k + j) =
            if h.depth ≤ 32 * g + k ∨ (h.esc = true ∧ i = wbEscIdx h) then 0
            else tget 0 (if bitOf (fImm w) 11 then d.cb1 else d.cb0) i) ∧
    (∀ (s : State) (core : Nat) (d : Disp) (w : Nat), ∀ a : Nat, a = (areg d (fP w)).toNat → launchable s core d w 0x42 0 →
      winOk d a 2048 = true →
      ∃ e : Disp, exec (.opTld core) s = .next (nextOf s core (launched d e 0 (fT w)) d.pc) ∧ e = { blank d with shadow := e.shadow } ∧
        e.shadow.rows = 32 ∧ e.shadow.cols = 32 ∧ ∀ i, i < 1024 → (tget 0 e.shadow.w i).toNat = ofLE (winRead (getCore s core).ls d (a + 2 * i) 2) % 8192) ∧
    (∀ (s : State) (core : Nat) (d : Disp) (w : Nat), launchable s core d w 0x43 0 →
      exec (.opTswp core) s =
        .next (nextOf s core (launched d { blank d with active := d.shadow, shadow := d.active } 0 (fT w)) d.pc))) ∧
  (
    ∀ (s : State) (core : Nat) (d : Disp) (w : Nat) (b : Bytes),
      ∀ src stride m ra fmt mt : Nat, ∀ chain : Bool, launchable s core d w 0x44 0 →
      blockAt (getCore s core).ls d w 64 = some b → src = fieldLE b 0 4 → stride = fieldLE b 4 4 → m = fieldLE b 8 2 →
      ra = fieldLE b 10 2 → fmt = fieldLE b 12 1 % 16 → chain = bitOf (fieldLE b 12 1) 4 → mt = fieldLE b 16 4 →
      bits (fieldLE b 12 1) 7 5 = 0 → zeros b 13 3 = true → zeros b 20 44 = true →
      stride % 16 = 0 → m ≤ 1024 → ra ≤ 1023 → ra + m ≤ 1024 → fmt ≤ 7 →
      (m = 0 ∨ winOk d src ((m - 1) * stride + 32 * fmtBytes fmt) = true) →
      (fmt < 6 ∨ m = 0 ∨ winOk d mt (8 * m) = true) →
      ∃ e : Disp, exec (.opMrow core) s = .next (nextOf s core (launched d e 0 (fT w)) d.pc) ∧
        e = { d with acc := e.acc, flags := e.flags } ∧
        (∀ i j, i < m → j < 32 → accGet e (ra + i) j = if d.active.cols ≤ j then accGet d (ra + i) j else
          (fin32w (groupStep (if chain then dec32 (accGet d (ra + i) j) else Fp.zero)
            (((List.range 32).zip (rowOps (getCore s core).ls d fmt (src + i * stride) (mt + 8 * i))).map fun x =>
              if x.1 < d.active.rows then (decFmt fmtPf13 (tget 0 d.active.w (32 * x.1 + j)).toNat, x.2.1)
              else (Fp.zero, Fp.zero)))).1) ∧
        ∀ r j, (r < ra ∨ ra + m ≤ r) → j < 32 → accGet e r j = accGet d r j)

/-- The element-wise vector instructions. With a block whose fields and ranges are in order, VOP, VFN and VCVT write
one result for each element to the destination, all read before any is written, VRND one word or one uniform number
for each; each queues its token and changes nothing but the scratch window, the flags and, for VRND of the mixers, the
mixers. -/
def Obligations.VectorElementwise : Prop :=
  ∀ (s : State) (core : Nat) (d : Disp) (w : Nat) (blk : Bytes) (v : VBlk) (ls : Tab Byte), ls = (getCore s core).ls →
    blockAt ls d w 64 = some blk → v = vblk blk → vblkRsv blk = true →
    (launchable s core d w 0x50 1 → v.opc ≤ 10 → v.inF ≤ 5 → v.outF ≤ 5 → v.sr = false → v.mixer = false → v.alpha = 0 →
      vRanges d v (vopSrcs v.opc) (v.count * fmtBytes v.outF) = true →
      ∃ l : List (Nat × Fl), l.length = v.count ∧
        (∀ i, i < v.count → l[i]? = some (vopEl v.opc v.inF v.outF (vEl ls d v.inF v.a false i)
          (if v.opc ≤ 6 then vEl ls d v.inF v.b v.bb i else 0) (if v.opc = 3 then vEl ls d v.inF v.c v.cb i else 0))) ∧
        exec (.opVop core) s = .next (nextOf s core (launched d (vWrite (blank d) v.dst v.outF l) 1 (fT w)) d.pc)) ∧
    (launchable s core d w 0x51 1 → v.opc ≤ 13 → v.inF ≤ 5 → v.outF ≤ 5 → v.sr = false → v.mixer = false →
      (v.opc = 2 ∨ v.alpha = 0) → vRanges d v 1 (v.count * fmtBytes v.outF) = true →
      ∃ l : List (Nat × Fl), l.length = v.count ∧
        (∀ i, i < v.count → (l[i]?).map Prod.fst = some (convFp v.outF
          (dec32 (elemEval v.opc v.alpha (to32 (widen v.inF (vEl ls d v.inF v.a false i)))).1) none).1) ∧
        exec (.opVfn core) s = .next (nextOf s core (launched d (vWrite (blank d) v.dst v.outF l) 1 (fT w)) d.pc)) ∧
    (launchable s core d w 0x53 1 → v.opc = 0 → cvtFmt v.inF = true → cvtFmt v.outF = true →
      (v.sr = false ∨ (srOk v.outF = true ∧ idxOk v.rindex v.count = true)) →
      v.mixer = false → v.alpha = 0 → vRanges d v 1 (v.count * fmtBytes v.outF) = true →
      ∃ l : List (Nat × Fl), l.length = v.count ∧
        (∀ i, i < v.count → l[i]? = some (convOut v.outF (widen v.inF (vEl ls d v.inF v.a false i))
          (srBits d v.sr v.key v.rsite v.rstep (v.rindex + i)))) ∧
        exec (.opVcvt core) s = .next (nextOf s core (launched d (vWrite (blank d) v.dst v.outF l) 1 (fT w)) d.pc)) ∧
    (launchable s core d w 0x54 1 → v.opc ≤ 1 → v.inF = 0 → v.outF = (if v.opc = 0 then 10 else 0) → v.sr = false →
      v.alpha = 0 → v.mixer = false → idxOk v.rindex v.count = true → vRanges d v 0 (v.count * 4) = true →
      ∃ l : List (Nat × Fl), l.length = v.count ∧
        (∀ i x, i < v.count → x = cmWord (tget 0 d.keys v.key) 0 v.rsite v.rstep (v.rindex + i) →
          l[i]? = some (if v.opc = 0 then x.toNat else (uniform x).toNat, 0)) ∧
        exec (.opVrnd core) s = .next (nextOf s core (launched d (vWrite (blank d) v.dst 0 l) 1 (fT w)) d.pc)) ∧
    (launchable s core d w 0x54 1 → v.opc ≤ 1 → v.inF = 0 → v.outF = (if v.opc = 0 then 10 else 0) → v.sr = false →
      v.alpha = 0 → v.mixer = true → vRanges d v 0 (v.count * 4) = true →
      ∃ (l : List (Nat × Fl)) (m : Tab (BitVec 128)), l.length = v.count ∧
        (∀ i x, i < v.count → i < 64 → x = mixerWord (mixerNext (tget 0 d.mixers i)) →
          l[i]? = some (if v.opc = 0 then x.toNat else (uniform x).toNat, 0)) ∧
        exec (.opVrnd core) s = .next (nextOf s core (launched d (vWrite { blank d with mixers := m } v.dst 0 l) 1 (fT w)) d.pc))

/-- What a vector result at a scratch address is: the bytes of the elements, first element lowest, and no other byte
of the window changes; and the exact rules of VOP's sign operations within one format and of VFN's tabled results.
VRED: with COUNT 0 nothing is written; else one result. MAX and ARGMAX give an element no other exceeds, at its lowest
index; a NaN among the elements gives the canonical NaN. One element sums to itself, and two round their sum once. -/
def Obligations.VectorFunctionsAndReductions : Prop :=
  (
    (∀ (ls : Tab Byte) (d : Disp) (a : Nat) (b : Bytes), winWritable d a b.length = true →
      winRead ls (winWrite d a b) a b.length = b ∧
        ∀ x, winScratch x = true → (winOff x < winOff a ∨ winOff a + b.length ≤ winOff x) →
          winByte ls (winWrite d a b) x = winByte ls d x) ∧
    (∀ (f x y z : Nat), f ≤ 4 → x < 2 ^ (8 * fmtBytes f) →
      vopEl 8 f f x y z = (x, 0) ∧ vopEl 9 f f x y z = (x % 2 ^ (8 * fmtBytes f - 1), 0) ∧
        vopEl 10 f f x y z = ((x + 2 ^ (8 * fmtBytes f - 1)) % 2 ^ (8 * fmtBytes f), 0)) ∧
    (∀ al x : W32, isNan32 x = false →
      elemEval 0 al x = (x, 0) ∧
      elemEval 1 al x = (if fltLt 0 x then x else 0, 0) ∧
      elemEval 3 al posInf = (one32, 0) ∧ elemEval 3 al negInf = (0, 0) ∧
      elemEval 4 al posInf = (one32, 0) ∧ elemEval 4 al negInf = (0xBF800000, 0) ∧
      (fltLt 0x42B17218 x = true → elemEval 8 al x = (posInf, flOverflow)) ∧
      (isZero32 x = true → elemEval 9 al x = (negInf, 0) ∧ elemEval 10 al x = (x ||| posInf, 0)) ∧
      (isZero32 x = false → x.getLsbD 31 = true → elemEval 9 al x = (nan32, flInvalid))) ∧
    (∀ (fn : Nat) (al x : W32), isNan32 x = true → elemEval fn al x = (nan32, 0))) ∧
  (
    (∀ (s : State) (core : Nat) (d : Disp) (w : Nat) (blk : Bytes) (v : VBlk) (l : List W32),
      launchable s core d w 0x52 1 → blockAt (getCore s core).ls d w 64 = some blk → v = vblk blk → vblkRsv blk = true →
      v.opc ≤ 6 → v.inF ≤ 5 → v.outF = 0 → v.sr = false → v.mixer = false → v.alpha = 0 →
      vRanges d v 1 (if v.count = 0 then 0 else if v.opc = 4 ∨ v.opc = 5 then 8 else 4) = true →
      l = (List.range v.count).map (fun i => to32 (widen v.inF (vEl (getCore s core).ls d v.inF v.a false i))) →
      (v.count = 0 → exec (.opVred core) s = .next (nextOf s core (launched d (blank d) 1 (fT w)) d.pc)) ∧
      (∀ (big : Bool) (m : List W32), big = (v.opc == 2 || v.opc == 4 || v.opc == 6) →
        m = (if v.opc = 6 then l.map absW else l) →
        (v.count ≠ 0 → v.opc = 2 ∨ v.opc = 3 ∨ v.opc = 6 → exec (.opVred core) s =
          .next (nextOf s core (launched d (vWrite (blank d) v.dst 0 [((argBest big 0 m).1.toNat, 0)]) 1 (fT w)) d.pc)) ∧
        (v.count ≠ 0 → v.opc = 4 ∨ v.opc = 5 → ∃ ix : Nat,
          (v.rindex + (argBest big 0 m).2 < 2 ^ 32 → ix = v.rindex + (argBest big 0 m).2) ∧ exec (.opVred core) s =
            .next (nextOf s core (launched d (vWrite (blank d) v.dst 0 [((argBest big 0 m).1.toNat, 0), (ix, 0)]) 1 (fT w)) d.pc))) ∧
      (v.count ≠ 0 → v.opc = 0 → ∃ f, exec (.opVred core) s = .next (nextOf s core (launched d (vWrite (blank d) v.dst 0
          [((if isNan32 (pairwise l.length l).1 then nan32 else (pairwise l.length l).1).toNat, f)]) 1 (fT w)) d.pc)) ∧
      (v.count ≠ 0 → v.opc = 1 → ∃ f, exec (.opVred core) s = .next (nextOf s core (launched d (vWrite (blank d) v.dst 0
          [((pairwise l.length (l.map fun x => (fmul x x).1)).1.toNat, f)]) 1 (fT w)) d.pc))) ∧
    (∀ (l : List W32) (v : W32) (i : Nat), l ≠ [] → (∀ x ∈ l, isNan32 x = false) → argBest true 0 l = (v, i) →
      l[i]? = some v ∧ (∀ x ∈ l, fltLt v x = false) ∧ ∀ j x, j < i → l[j]? = some x → fltLt x v = true) ∧
    (∀ (l : List W32) (b : Bool), (∃ x ∈ l, isNan32 x = true) → (argBest b 0 l).1 = nan32) ∧
    (∀ x y : W32, pairwise 1 [x] = (x, 0) ∧ pairwise 2 [x, y] = fadd x y))

/-- VCOR adds to each accumulator element of its M rows, one rounded fused multiply-add after another, the corrections
of R129 in their order; a row of scale code 0, the columns of padding channels and the rows outside stand. VDW writes
every output element of its rows from the bias and one fused multiply-add per tap. Each queues its token and changes
nothing else but the flags. -/
def Obligations.CorrectionAndDepthwise : Prop :=
  (∀ (s : State) (core : Nat) (d : Disp) (w : Nat) (b : Bytes) (h : WBlock) (ls : Tab Byte),
    ∀ wa act ast mt rem m ra koff klen : Nat, ls = (getCore s core).ls → launchable s core d w 0x55 1 →
    blockAt ls d w 64 = some b → wa = fieldLE b 0 4 → act = fieldLE b 4 4 → ast = fieldLE b 8 4 → mt = fieldLE b 12 4 →
    rem = fieldLE b 16 4 → m = fieldLE b 20 2 → ra = fieldLE b 22 2 → koff = fieldLE b 24 4 → klen = fieldLE b 28 4 →
    wbAt ls d wa = some h → zeros b 32 32 = true → m ≤ 1024 → ra ≤ 1023 → ra + m ≤ 1024 → 1 ≤ klen → klen ≤ 65536 →
    koff + klen ≤ h.depth → winOk d wa (wbLen h) = true → (m = 0 ∨ winOk d act ((m - 1) * ast + klen) = true) →
    rngOk d mt (8 * m) = true → rngOk d rem (256 * m) = true →
    ∃ e : Disp, exec (.opVcor core) s = .next (nextOf s core (launched d e 1 (fT w)) d.pc) ∧
      e = { d with acc := e.acc, flags := e.flags } ∧
      (∀ i j md, i < m → j < 32 → md = winRead ls d (mt + 8 * i) 8 → accGet e (ra + i) j =
        if fieldLE md 0 1 = 0 ∨ h.channels ≤ j then accGet d (ra + i) j
        else (vcorTerms ls d wa h (wbRems h (winRead ls d wa (wbLen h))) (act + i * ast) (fieldLE md 1 1) koff klen
          (actRems ls d (rem + 256 * i) (min (fieldLE md 2 1) 32)) j).foldl
            (fun a c => (fin32w (fmaX c.x c.y (dec32 a))).1) (accGet d (ra + i) j)) ∧
      ∀ r j, (r < ra ∨ ra + m ≤ r) → j < 32 → accGet e r j = accGet d r j) ∧
  (∀ (s : State) (core : Nat) (d : Disp) (w : Nat) (b : Bytes) (x : DwBlk) (ls : Tab Byte), ∀ n : Nat,
    ls = (getCore s core).ls → launchable s core d w 0x56 1 → blockAt ls d w 64 = some b → x = dwBlk b →
    dwFields b x = true → n = (if x.orows = 0 then 0 else (x.orows - 1) * x.drs + dwOw x * x.ch * fmtBytes x.outF) →
    dwRowsHeld x = true → winOk d x.src ((x.irows - 1) * x.srs + x.iw * x.ch * fmtBytes x.inF) = true → rngW d x.dst n = true →
    winOk d x.filt (4 * x.ch * x.g * x.t) = true → winOk d x.bias (4 * x.ch) = true →
    (n = 0 ∨ overlap x.src ((x.irows - 1) * x.srs + x.iw * x.ch * fmtBytes x.inF) x.dst n = false) →
    ∃ e : Disp, exec (.opVdw core) s = .next (nextOf s core (launched d e 1 (fT w)) d.pc) ∧
      e = { d with scr := e.scr, flags := e.flags } ∧
      ∀ r ox j, r < x.orows → ox < dwOw x → j < x.ch →
        winRead ls e (x.dst + r * x.drs + (ox * x.ch + j) * fmtBytes x.outF) (fmtBytes x.outF) =
          leN (fmtBytes x.outF) (dwElem ls d x (x.oy0 + r) ox j).1)

/-- CARRY of one row, without a template, a coded output, row scales and stochastic rounding, writes for each channel
the function of the rescaled gate value, converted to the output format; every CARRY whose fields and ranges are in
order completes, and one with no channel or no row does nothing; one with a bad field ends its command with
OUT_OF_BOUNDS whatever its counts. SAMPLE of greedy temperature without a mask and without a top-k writes the lowest
index of a largest score, LOGP +0 and the score; of no entry, nothing. -/
def Obligations.CarryAndSample : Prop :=
  (∀ (s : State) (core : Nat) (d : Disp) (w : Nat) (b : Bytes) (x : CBlk) (ls : Tab Byte), ls = (getCore s core).ls →
    launchable s core d w 0x60 2 → blockAt ls d w 128 = some b → x = cblk b → carryFields (sitesOf s core) b x = true →
    (x.ch = 0 ∨ x.rows = 0 → carryRanges ls d x = true → exec (.opCarry core) s = .next (nextOf s core (launched d (blank d) 2 (fT w)) d.pc)) ∧
    (0 < x.ch → 0 < x.rows → carryRanges ls d x = true → coding x = false → isTpl x.func = false → x.sr = false →
      x.rowScale = false → x.rows = 1 →
      ∃ (l : List (Nat × Fl)) (f : Fl), l.length = x.ch ∧
        (∀ j, j < x.ch → (l[j]?).map Prod.fst = some (convOut x.outF
          (dec32 (elemEval x.func x.alpha (gateVal ls d x one32 0 0 j).1).1) none).1) ∧
        exec (.opCarry core) s = .next (nextOf s core (launched d (vWrite (orFlags (blank d) f) x.out x.outF l) 2 (fT w)) d.pc)) ∧
    (0 < x.ch → 0 < x.rows → carryRanges ls d x = true →
      (coding x = true → ∀ i, i < x.rows → (histAt ls d (x.hist + 128 * i)).isSome = true) →
      ∃ e : Disp, exec (.opCarry core) s = .next (nextOf s core (launched d e 2 (fT w)) d.pc) ∧
        e = { d with scr := e.scr, flags := e.flags })) ∧
  (∀ (s : State) (core : Nat) (d : Disp) (w : Nat) (b : Bytes), launchable s core d w 0x60 2 → runs s d.cmd →
    blockAt (getCore s core).ls d w 128 = some b → carryFields (sitesOf s core) b (cblk b) = false →
    ∃ t, exec (.opCarry core) s = .next t ∧ ending t d.cmd 0x0003 0) ∧
  (∀ (s : State) (core : Nat) (d : Disp) (w : Nat) (b : Bytes) (x : SBlk) (ls : Tab Byte), ls = (getCore s core).ls →
    launchable s core d w 0x61 3 → blockAt ls d w 64 = some b → x = sblk b → sampleOk d b x = true →
    (x.v = 0 → exec (.opSample core) s = .next (nextOf s core (launched d (blank d) 3 (fT w)) d.pc)) ∧
    (∃ e : Disp, exec (.opSample core) s = .next (nextOf s core (launched d e 3 (fT w)) d.pc) ∧
      e = { d with scr := e.scr, flags := e.flags }) ∧
    (∀ (l : List W32) (v : W32) (i : Nat), l = (List.range x.v).map (fun k => winW32 ls d (x.scores + 4 * k)) → l ≠ [] →
      (∀ y ∈ l, isFin32 y = true) → x.temp = 0 → x.maskEn = false → x.topk = 0 → argBest true 0 l = (v, i) →
      exec (.opSample core) s = .next (nextOf s core (launched d
        (winWrite (blank d) x.dst (leN 4 (x.rindex + i) ++ leN 4 0 ++ leN 4 v.toNat)) 3 (fT w)) d.pc)))

/-! ## The stream unit (10, 11) -/

/-- SQGO with a transfer descriptor that passes its checks and moves something: the arming joins the queue named by
IMM with the token, the address MESH + s[S], the half the queue points at, and the rows of the descriptor; a HALF
descriptor turns the queue to its other half; the sequencer goes on. A descriptor in flight stalls it, a failed check
ends the command. QUEUE_SETUP puts the ceiling, rate, burst and age of the set-up descriptor at the head of a queue
into force, its bucket full; a refill adds RATE to the bucket, up to BURST, of that queue alone; a queue over its age
limit puts the unit in priority mode. -/
def Obligations.StreamQueues : Prop :=
  (
    ∀ (s : State) (core : Nat) (d : Disp) (w : Nat) (b : Bytes), ∀ a q : Nat, ∀ add : W64, a = (areg d (fP w)).toNat →
      q = fImm w % 8 → add = sreg d (fS w) → blockAt (getCore s core).ls d w 64 = some b →
      tokPending d (fT w) = false → (getQ d q).arms.length < 4 →
      (ready s core d w 0x70 → inFlight d a = false → fieldLE b 40 1 = 0 → sdescOk d b add = true →
        fieldLE b 16 4 ≠ 0 → fieldLE b 20 4 ≠ 0 →
        ∃ (t : State) (e : Disp) (pre : List Arming) (x : Arming), exec (.opSqgo core) s = .next t ∧
          getDisp t core = some e ∧ e.pc = d.pc + 1 ∧ (getQ e q).arms = pre ++ [x] ∧ x.token = fT w ∧ x.addr = a ∧
          x.mesh = BitVec.ofNat 64 (fieldLE b 0 8) + add ∧ x.rowBytes = fieldLE b 16 4 ∧ x.count = fieldLE b 20 4 ∧
          x.lstride = fieldLE b 12 4 ∧ x.mstride = BitVec.ofNat 64 (fieldLE b 24 8) ∧ x.row = 0 ∧ x.off = 0 ∧
          x.write = bitOf (fieldLE b 41 1) 3 ∧ x.xfer = 64 * 2 ^ bits (fieldLE b 41 1) 2 0 ∧
          x.loc = fieldLE b 8 4 + (if bitOf (fieldLE b 41 1) 5 && (getQ d q).half then fieldLE b 36 4 else 0) ∧
          (getQ e q).half = ((getQ d q).half != bitOf (fieldLE b 41 1) 5) ∧
          e.s = d.s ∧ e.a = d.a ∧ e.scr = d.scr ∧ e.xfers = d.xfers ∧ t.cmds = s.cmds ∧ t.pile = s.pile ∧ t.io = s.io) ∧
      (atWord s core d w 0x70 → inFlight d a = true →
        exec (.opSqgo core) s = .next (setDisp s core { d with stallOn := some 6 })) ∧
      (atWord s core d w 0x70 → inFlight d a = false → sdescOk d b add = false → setupOk b = false → runs s d.cmd →
        ∃ t, exec (.opSqgo core) s = .next t ∧ ending t d.cmd 0x0003 0)) ∧
  (
    ∀ (s : State) (core q : Nat) (d : Disp) (c : Cmd), onCore s core d c →
      (∀ x r ceil rate burst age, (getQ d q).arms = x :: r → x.setup = some (ceil, rate, burst, age) → q < 8 →
        ∃ (t : State) (e : Disp), exec (.queueSetup core q) s = .next t ∧ getDisp t core = some e ∧
          (getQ e q).ceiling = ceil ∧ (getQ e q).rate = rate ∧ (getQ e q).burst = burst ∧ (getQ e q).age = age ∧
          (getQ e q).bucket = burst ∧ e.xfers = d.xfers ∧ e.scr = d.scr ∧ t.cmds = s.cmds ∧ t.pile = s.pile) ∧
      (q < 8 → (getQ d q).rate ≠ 0 →
        ∃ (t : State) (e : Disp), exec (.regulatorRefill core q) s = .next t ∧ getDisp t core = some e ∧
          (getQ e q).bucket = min ((getQ d q).bucket + (getQ d q).rate) (getQ d q).burst ∧
          (∀ p, p ≠ q → (getQ e p).bucket = (getQ d p).bucket) ∧ e.xfers = d.xfers ∧ t.cmds = s.cmds) ∧
      (overAge s.time d q = true → exec (.ageLimitExceeded core q) s = .next (setDisp s core { d with prio := true })))

/-- The next transfer of a queue: with one arming of a host read queued, a tag free and no limit reached, the transfer
takes the next number, the row's mesh address and local address and at most XFER bytes, asks the host for them with
the command's PASID, and the arming steps past it. When the host answers, its bytes stand in the scratch window at
that address and the tag is free. A fault report kills its command by its cause: a refused host read, an address
outside its encoding, and a device page that is not mapped end it with PAGE_FAULT at the address; an uncorrectable
line re-runs it, counted, the first time. -/
def Obligations.TransfersServeOrFault : Prop :=
  (
    (∀ (s : State) (core q : Nat) (d : Disp) (c : Cmd) (x : Queue) (a : Arming), onCore s core d c → q < 8 →
      d.queues = [(q, x)] → x.arms = [a] → x.out = [] → d.xfers = [] → x.rate = 0 → 0 < x.ceiling → x.age = 0 →
      a.setup = none → a.offload = false → a.idx = false → a.write = false → a.row < a.count → a.off < a.rowBytes →
      0 < a.xfer → meshKind a.mesh = 0 → meshRange 0 (a.mesh + BitVec.ofNat 64 a.row * a.mstride) 1 = true →
      meshRange 0 (a.mesh + BitVec.ofNat 64 a.row * a.mstride + BitVec.ofNat 64 a.off) (min a.xfer (a.rowBytes - a.off)) = true →
      ∃ (t : State) (e : Disp) (y : Xfer), exec (.transferIssue core) s = .next t ∧ getDisp t core = some e ∧
        e.xfers = [y] ∧ y.xid = d.nextX ∧ e.nextX = d.nextX + 1 ∧ y.queue = q ∧ y.token = a.token ∧ y.write = false ∧
        y.mesh = a.mesh + BitVec.ofNat 64 a.row * a.mstride + BitVec.ofNat 64 a.off ∧
        y.loc = a.loc + a.row * a.lstride + a.off ∧ y.bytes = min a.xfer (a.rowBytes - a.off) ∧ y.stat = .host ∧
        e.scr = d.scr ∧ t.cmds = s.cmds ∧ t.pile = s.pile ∧
        t.io.reads = s.io.reads ++ [{ pasid := some c.pasid.toNat, addr := bits y.mesh.toNat 61 0, bytes := y.bytes }] ∧
        t.io.dma = s.io.dma) ∧
    (∀ (s : State) (core xid : Nat) (d : Disp) (c : Cmd) (x : Xfer) (b : Bytes), onCore s core d c →
      d.xfers.find? (fun y => y.xid == xid) = some x → x.stat = .host → c.wrote = [] → b.length = x.bytes →
      winWritable d x.loc x.bytes = true →
      ∃ (t : State) (e : Disp), exec (.transferComplete core xid b) s = .next t ∧ getDisp t core = some e ∧
        winRead (getCore s core).ls e x.loc x.bytes = b ∧ e.xfers = d.xfers.filter (fun y => y.xid != x.xid) ∧
        (∀ z, winScratch z = true → (winOff z < winOff x.loc ∨ winOff x.loc + x.bytes ≤ winOff z) →
          winByte (getCore s core).ls e z = winByte (getCore s core).ls d z) ∧
        e.s = d.s ∧ e.a = d.a ∧ e.acc = d.acc ∧ t.cmds = s.cmds ∧ t.pile = s.pile ∧ t.io = s.io)) ∧
  (
    ∀ (s : State) (core xid : Nat) (d : Disp) (c : Cmd) (x : Xfer) (r : Option W64), onCore s core d c →
      d.xfers.find? (fun y => y.xid == xid) = some x → c.stage = .running →
      (∀ a, x.stat = .host → r = some a →
        ∃ t, exec (.transferFault core xid r) s = .next t ∧ ending t c.id 0x0012 a.toNat) ∧
      (∀ a, x.stat = .badAddr a → ∃ t, exec (.transferFault core xid r) s = .next t ∧ ending t c.id 0x0012 a) ∧
      (∀ a e, x.stat = .badPage a → walk s c.part a = .none_ e →
        ∃ t, exec (.transferFault core xid r) s = .next t ∧ ending t c.id 0x0012 a) ∧
      (∀ pa, x.stat = .badLine pa → c.lastUe = none →
        ∃ t c1 k, exec (.transferFault core xid r) s = .next t ∧ getCmd t c.id = some c1 ∧ c1.stage = .killing ∧
          c1.kill = some k ∧ k.kind = .counted ∧ c1.lastUe = some (pa, c.dispatches)))

/-- THIM queues a thimble of the block at a[P] with its token; THIMBLE_ISSUE takes the oldest: one of no bytes is
done, a host read takes a tag of the thimble path and asks the host for its bytes. Offloaded gathers: an index stream
that heads its class on its way to its base die takes one of 64 contexts there, or stays on the mesh while all are
taken; one of an old generation is dropped. A grant gives its transfer where its bytes are to come from. -/
def Obligations.ThimblesAndGathers : Prop :=
  (
    (∀ (s : State) (core : Nat) (d : Disp) (w : Nat) (b : Bytes), ∀ a : Nat, a = (areg d (fP w)).toNat →
      ready s core d w 0x71 → tokPending d (fT w) = false → d.thims.length < 4 → a % 32 = 0 → winOk d a 32 = true →
      b = winRead (getCore s core).ls d a 32 → thimOk d b (sreg d (fS w)) = true →
      exec (.opThim core) s = .next (nextOf s core (tokSet { d with thims := d.thims ++
        [{ token := fT w, mesh := BitVec.ofNat 64 (fieldLE b 0 8) + sreg d (fS w), loc := fieldLE b 8 4
           write := bitOf (fieldLE b 12 1) 7, bytes := fieldLE b 12 1 % 128 }] } (fT w)) d.pc)) ∧
    (∀ (s : State) (core : Nat) (d : Disp) (c : Cmd) (x : Thimble) (r : List Thimble), onCore s core d c → d.thims = x :: r →
      (x.bytes = 0 → exec (.thimbleIssue core) s = .next (setDisp s core (tokDone { d with thims := r } x.token))) ∧
      (x.bytes ≠ 0 → thimTags d < 16 → x.write = false → meshKind x.mesh = 0 → meshRange 0 x.mesh x.bytes = true →
        exec (.thimbleIssue core) s = .next (setDisp (dmaRead s (some c.pasid.toNat) (bits x.mesh.toNat 61 0) x.bytes) core { d with
          thims := r, nextX := d.nextX + 1, xfers := d.xfers ++
            [{ xid := d.nextX, queue := 8, aid := 0, token := x.token, write := false, mesh := x.mesh, loc := x.loc
               bytes := x.bytes, stat := .host }] })))) ∧
  (
    (∀ (s : State) (core aid pile : Nat) (g : W32) (pre post : List Packet), s.net = pre ++ .gather core g aid pile :: post →
      (∀ p ∈ pre, ∀ g' p', p ≠ .gather core g' aid p') → meshOn s = true →
      headOf s 2 core (pileLoc pile) = some (.gather core g aid pile) →
      (∀ d, getDisp s core = some d → d.gen = g → armAlive d aid = true → genCurrent s g = true →
        (getPile s pile).gathers.length < 64 →
        ∃ t, exec (.gatherIndexStream core aid) s = .next t ∧ t.net = pre ++ post ∧
          (getPile t pile).gathers = (getPile s pile).gathers ++ [{ core := core, aid := aid, gen := g }] ∧
          (∀ p, p ≠ pile → getPile t p = getPile s p) ∧ t.cores = s.cores ∧ t.cmds = s.cmds) ∧
      (∀ d, getDisp s core = some d → d.gen = g → armAlive d aid = true → genCurrent s g = true →
        64 ≤ (getPile s pile).gathers.length → exec (.gatherIndexStream core aid) s = .next s) ∧
      (genCurrent s g = false → exec (.gatherIndexStream core aid) s = .next { s with net := pre ++ post })) ∧
    (∀ (s : State) (core aid p : Nat) (d : Disp) (c : Cmd) (x : Xfer) (l : List (Nat × Nat)) (b : Bytes)
        (e : Option (Nat × Nat × Nat × Bool)), onCore s core d c →
      gatherAt s core d.gen aid = some p → d.xfers.find? (fun y => y.queue < 8 && y.aid == aid && y.stat == .granted) = some x →
      route s core d c (translatePile s p d.part) (meshKind x.mesh) false x.mesh x.bytes = some (.lines l, b, e) →
      exec (.gatherGrant core aid) s =
        .next (setDisp s core (setXfer d { x with stat := .lines l, data := b, entry := e }))))

/-- A base die serves the next line piece of a transfer. A read of a line without errors adds its bytes and leaves
pile memory; a write of a whole line puts its 64 bytes there and leaves every other byte; an address of no pile stops
the machine. -/
def Obligations.PileReadsAndWrites : Prop :=
  ∀ (s : State) (core xid : Nat) (j : LineJob),
    (∀ e1 e2, lineJob s core xid false = some j → paOk s j.pa = false →
      exec (.pileRead core xid e1 e2) s = .fault (.noSuchLine j.pa)) ∧
    (∀ e1 e2, lineJob s core xid true = some j → paOk s j.pa = false →
      exec (.pileWrite core xid e1 e2) s = .fault (.noSuchLine j.pa)) ∧
    (lineJob s core xid false = some j → paOk s j.pa = true → lineErrs s (j.pa / 64 * 64) = [] →
      correctable s (j.pa / 64 * 64) [] = true → j.x.entry = none →
      ∃ t e, exec (.pileRead core xid [] []) s = .next t ∧ getDisp t core = some e ∧
        (∀ y ∈ e.xfers, y.xid = j.x.xid → y.data = j.x.data ++ memGet s.pile.mem j.pa j.n ∧
          y.stat = if j.rest.isEmpty then .served else .lines j.rest) ∧
        t.pile = s.pile ∧ t.cmds = s.cmds ∧ t.streams = s.streams) ∧
    (lineJob s core xid true = some j → paOk s j.pa = true → channelBusy j = false → slotUnwritten s j.d.gen j.x = none →
      pieceOf j.c j.pa = none → j.n = 64 → j.rest = [] → j.x.bytes = 64 → j.x.data.length = 64 → j.pa % 64 = 0 →
      ∃ t e, exec (.pileWrite core xid [] []) s = .next t ∧ getDisp t core = some e ∧
        memGet t.pile.mem j.pa 64 = j.x.data ∧
        (∀ a, a < j.pa ∨ j.pa + 64 ≤ a → tget 0 t.pile.mem a = tget 0 s.pile.mem a) ∧
        (∀ y ∈ e.xfers, y.xid = j.x.xid → y.stat = .served) ∧ t.streams = s.streams ∧ t.cmds = s.cmds)

/-! ## The message unit (10, 13) -/

/-- With nothing else waiting in the message unit: a SEND to a rank asks that core for space and waits with its token
pending, one to another package is held until the command commits, a halo SEND carries its side and the next tag of
that side, and a remote read with room for its reply leaves at once by the link die of the core's side, its space
reserved. The sequencer goes on. -/
def Obligations.SendsAskForSpaceOrAreHeld : Prop :=
  ∀ (s : State) (core : Nat) (d : Disp) (w : Nat), ∀ a n : Nat, a = (areg d (fP w)).toNat → n = immFlits w →
    ready s core d w 0x78 → tokPending d (fT w) = false → d.sendQ = [] → d.recvQ = [] → d.requests = [] → fT w < 32 →
    1 ≤ n → n ≤ 64 → winOk d a (64 * n) = true →
    (∀ dst, imm29 w = false → imm31 w = false → imm30 w = false → bits w 28 7 = 0 →
      d.gang[(sreg d (fS w)).toNat]? = some dst →
      ∃ (t : State) (e : Disp), exec (.opSend core) s = .next t ∧ getDisp t core = some e ∧ e.pc = d.pc + 1 ∧
        tokPending e (fT w) = true ∧ t.net = s.net ++ [.request core dst d.gen n] ∧
        e.sendQ = [{ token := fT w, dst := dst, addr := a, flits := n, asked := true }] ∧
        e.rx = d.rx ∧ e.scr = d.scr ∧ t.cmds = s.cmds ∧ t.io = s.io) ∧
    (∀ dst c, imm29 w = false → imm31 w = false → imm30 w = true → bits w 28 7 = 0 →
      dst = (sreg d (fS w)).toNat % 2 ^ 28 → dst / 4096 ≠ selfPkg s → reachable s (dst / 4096) = true → dst % 4096 < 2560 →
      getCmd s d.cmd = some c → c.held = [] →
      ∃ (t : State) (e : Disp) (c1 : Cmd), exec (.opSend core) s = .next t ∧ getDisp t core = some e ∧ e.pc = d.pc + 1 ∧
        getCmd t d.cmd = some c1 ∧
        c1 = { c with held := [{ dst := dst, data := winRead (getCore s core).ls d a (64 * n) }] } ∧
        t.net = s.net ∧ t.io = s.io ∧ t.dom = s.dom) ∧
    (∀ dst rank tag side, imm29 w = true → imm31 w = false → imm30 w = false → bits w 27 7 = 0 →
      rank = (sreg d (fS w)).toNat → side = bitOf w 28 → tag = tget 0 d.hsent (b2n side) →
      haloRankOk d.haloSend side rank = true → d.gang[rank]? = some dst →
      ∃ (t : State) (e : Disp), exec (.opHaloSend core) s = .next t ∧ getDisp t core = some e ∧ e.pc = d.pc + 1 ∧
        t.net = s.net ++ [.request core dst d.gen n] ∧
        e.sendQ = [{ token := fT w, dst := dst, addr := a, flits := n, halo := some (side, tag), asked := true }] ∧
        tget 0 e.hsent (b2n side) = (tag + 1) % 2 ^ 32 ∧ tget 0 e.haloSend (b2n side) = rank + 1 ∧ t.cmds = s.cmds) ∧
    (∀ dst k b, imm29 w = false → imm31 w = true → imm30 w = true → bits w 28 7 = 0 → n = 1 →
      dst = (sreg d (fS w)).toNat % 2 ^ 28 → b = winRead (getCore s core).ls d a 64 → k = fieldLE b 12 4 →
      fieldLE b 0 2 ≤ 63 → 64 ≤ k → k ≤ 4096 → k % 64 = 0 → dst % 4096 = 3840 → dst / 4096 ≠ selfPkg s →
      reachable s (dst / 4096) = true → k / 64 ≤ rxFree d →
      ∃ (t : State) (e : Disp), exec (.opRemoteReadRequest core) s = .next t ∧ getDisp t core = some e ∧ e.pc = d.pc + 1 ∧
        t.io.wire = s.io.wire ++ [.readRequest dst core (entryDie core) d.gen b] ∧ e.sendQ = [] ∧ e.readHold = d.readHold + k / 64 ∧
        e.reads = d.reads ++ [{ bytes := k, request := b, dst := dst, at_ := s.time }] ∧
        tokPending e (fT w) = false ∧ t.cmds = s.cmds ∧ t.net = s.net)

/-- A RECV whose message has come copies it to its address, frees its space and is done; one whose message has not
come waits in the receive queue with its token pending. A halo message is taken by its side and tag and sends its
release back. -/
def Obligations.ReceivesTakeOrWait : Prop :=
  ∀ (s : State) (core : Nat) (d : Disp) (w : Nat), ∀ a n : Nat, a = (areg d (fP w)).toNat → n = immFlits w →
    ready s core d w 0x79 → tokPending d (fT w) = false → d.sendQ = [] → d.recvQ = [] → d.requests = [] → fT w < 32 →
    1 ≤ n → winWritable d a (64 * n) = true →
    (∀ m r, imm29 w = false → imm31 w = true → imm30 w = false → bits w 28 7 = 0 → d.rx = m :: r → m.halo = none →
      m.reply = false → m.data.length = 64 * n →
      ∃ (t : State) (e : Disp), exec (.opRecv core) s = .next t ∧ getDisp t core = some e ∧ e.pc = d.pc + 1 ∧ e.rx = r ∧
        e.recvQ = [] ∧ tokPending e (fT w) = false ∧ winRead (getCore s core).ls e a (64 * n) = m.data ∧
        t.cmds = s.cmds ∧ t.net = s.net) ∧
    (∀ rank, imm29 w = false → imm31 w = false → imm30 w = false → bits w 28 7 = 0 → rank = (sreg d (fS w)).toNat →
      rank < d.gang.length →
      (∀ m ∈ d.rx, m.halo ≠ none ∨ m.reply = true ∨ m.rank ≠ some rank ∨ m.fromInbox = true) →
      ∃ (t : State) (e : Disp), exec (.opRecv core) s = .next t ∧ getDisp t core = some e ∧ e.pc = d.pc + 1 ∧
        e.rx = d.rx ∧ e.recvQ = [{ token := fT w, addr := a, flits := n, rank := some rank }] ∧
        tokPending e (fT w) = true ∧ e.scr = d.scr ∧ t.cmds = s.cmds ∧ t.net = s.net) ∧
    (∀ rank side m r k, imm29 w = true → imm31 w = false → imm30 w = false → bits w 27 7 = 0 →
      rank = (sreg d (fS w)).toNat → rank < d.gang.length → side = bitOf w 28 → haloRankOk d.haloRecv side rank = true →
      d.rx = m :: r → m.halo = some (side, tget 0 d.hrecv (b2n side)) → m.data.length = 64 * n → m.rank = some k →
      ∃ (t : State) (e : Disp), exec (.opHaloRecv core) s = .next t ∧ getDisp t core = some e ∧ e.pc = d.pc + 1 ∧ e.rx = r ∧
        tget 0 e.hrecv (b2n side) = (tget 0 d.hrecv (b2n side) + 1) % 2 ^ 32 ∧ winRead (getCore s core).ls e a (64 * n) = m.data ∧
        t.net = s.net ++ [.release core ((d.gang[k]?).getD 0) d.gen side] ∧ t.cmds = s.cmds) ∧
    (imm29 w = false → imm31 w = true → imm30 w = true → bits w 28 7 = 0 → (∀ m ∈ d.rx, m.halo ≠ none ∨ m.reply = false) →
      ∃ (t : State) (e : Disp), exec (.opReplyRecv core) s = .next t ∧ getDisp t core = some e ∧ e.pc = d.pc + 1 ∧
        e.rx = d.rx ∧ e.recvQ = [{ token := fT w, addr := a, flits := n, reply := true }] ∧
        tokPending e (fT w) = true ∧ t.cmds = s.cmds ∧ t.net = s.net)

/-- What the message unit does with the oldest packet of a class for it while the mesh is on, here with nothing else
waiting: a request for which there is room is granted and the room kept; a grant sends the message from the local
store; a message enters the receive buffer and a release is counted, modulo 2^32. A packet of a generation that is not
current is dropped. Messages from other packages, here while the Crown may inject FL0 flits and none waits. One for a
core of a partition here is stored in the partition's inbox once and acknowledged, each further copy only
acknowledged; one that may not be sent there is acknowledged and refused, and the refusal ends the sender's command
with OUT_OF_BOUNDS: a running one, whose remote read was refused, is killed, and one whose held messages have left
completes so. -/
def Obligations.MessageArrivals : Prop :=
  (
    (∀ (s : State) (dst src n : Nat) (g : W32) (r : List Packet) (d : Disp), s.net = .request src dst g n :: r → meshOn s = true →
      getDisp s dst = some d → d.gen = g → genCurrent s g = true → d.sendQ = [] → d.recvQ = [] → d.requests = [] → n ≤ rxFree d →
      exec (.creditRequestArrive dst src) s = .next (setDisp { s with net := r ++ [.grant dst src g n] } dst
        { d with granted := d.granted + n, blockedAt := none })) ∧
    (∀ (s : State) (core src n : Nat) (g : W32) (r : List Packet) (d : Disp) (e : SendEnt), s.net = .grant src core g n :: r → meshOn s = true →
      getDisp s core = some d → d.gen = g → genCurrent s g = true → d.sendQ = [e] → d.recvQ = [] → d.requests = [] →
      e.dst = src → e.asked = true → e.read = none → e.halo = none → e.flits ≠ 0 →
      exec (.grantArrive core src) s = .next (setDisp { s with net := r ++ [.message core src g
        { rank := some d.rank, data := winRead (getCore s core).ls d e.addr (64 * e.flits) }] } core
        { tokDone { d with sendQ := [] } e.token with blockedAt := none })) ∧
    (∀ (s : State) (dst src : Nat) (g : W32) (m : Msg) (r : List Packet) (d : Disp), s.net = .message src dst g m :: r → meshOn s = true →
      getDisp s dst = some d → d.gen = g → genCurrent s g = true → d.sendQ = [] → d.recvQ = [] → d.requests = [] →
      exec (.messageArrive dst src) s = .next (setDisp { s with net := r } dst
        { d with rx := d.rx ++ [m], granted := d.granted - (m.data.length + 63) / 64, blockedAt := none })) ∧
    (∀ (s : State) (core src : Nat) (side : Bool) (g : W32) (r : List Packet) (d : Disp), s.net = .release src core g side :: r → meshOn s = true →
      getDisp s core = some d → d.gen = g → genCurrent s g = true → d.sendQ = [] → d.recvQ = [] → d.requests = [] →
      ∃ (t : State) (e : Disp), exec (.haloReleaseArrive core src) s = .next t ∧ t.net = r ∧ getDisp t core = some e ∧
        tget 0 e.released (b2n side) = (tget 0 d.released (b2n side) + 1) % 2 ^ 32 ∧
        tget 0 e.released (b2n (!side)) = tget 0 d.released (b2n (!side)) ∧ t.cmds = s.cmds) ∧
    (∀ (s : State) (dst src n : Nat) (g : W32) (r : List Packet), s.net = .request src dst g n :: r → meshOn s = true → genCurrent s g = false →
      exec (.creditRequestArrive dst src) s = .next { s with net := r })) ∧
  (
    (∀ (s : State) (src seq dst p : Nat) (g : W32) (b : Bytes), forUs s dst = true → inboxPart s (dst % 4096) = some p →
      s.dom.inSeen.contains (src, seq) = false → inboxFlits s p + (b.length + 63) / 64 ≤ 65536 → s.crown.fl0Wait = [] →
      0 < s.crown.fl0 →
      ∃ t, exec (.inboxMessage src seq dst { gen := g, data := b }) s = .next t ∧ exec (.remoteSendArrive src seq dst g b) s = .next t ∧
        (getPart t p).inbox = (getPart s p).inbox ++ [(dst % 4096, src, b)] ∧ (∀ q, q ≠ p → getPart t q = getPart s q) ∧
        t.io.wire = s.io.wire ++ [.ctlAck src seq] ∧ t.dom.inSeen = s.dom.inSeen ++ [(src, seq)] ∧ t.cmds = s.cmds ∧
        t.cores = s.cores) ∧
    (∀ (s : State) (src seq dst : Nat) (g : W32) (b : Bytes), forUs s dst = true → s.dom.inSeen.contains (src, seq) = true →
      s.crown.fl0Wait = [] → 0 < s.crown.fl0 →
      ∃ t, exec (.inboxMessage src seq dst { gen := g, data := b }) s = .next t ∧ t.io.wire = s.io.wire ++ [.ctlAck src seq] ∧ t.parts = s.parts ∧
        t.dom = s.dom ∧ t.cmds = s.cmds ∧ t.cores = s.cores) ∧
    (∀ (s : State) (src seq dst : Nat) (g : W32) (b : Bytes), forUs s dst = true → inboxPart s (dst % 4096) = none →
      s.dom.inSeen.contains (src, seq) = false → s.crown.fl0Wait = [] → 1 < s.crown.fl0 →
      ∃ t, exec (.remoteSendArrive src seq dst g b) s = .next t ∧ t.parts = s.parts ∧ t.cores = s.cores ∧
        t.io.wire = s.io.wire ++ [.ctlAck src seq, .ctl src s.dom.ctlSeq (.refusal g)]) ∧
    (∀ (s : State) (g : W32) (c : Cmd) (rest : List Cmd), s.cmds = c :: rest → cop c = 0x01 → c.gen = g →
      (c.stage = .running → c.gang ≠ [] → ∃ t, exec (.sendRefused g) s = .next t ∧ ending t c.id 0x0003 0) ∧
      (c.stage = .committing → c.sent = true → (∀ x ∈ rest, x.id ≠ c.id) →
        exec (.sendRefused g) s = .next { s with cmds := { c with sendRefused := true } :: rest } ∧
        commitStatus { c with sendRefused := true, digest := none, digestUe := none, pub := none, diverged := false } = (0x0003, 0))))

/-- Remote reads. A reply that fits a request enters the receive buffer on the space its request reserved; after 1 ms
the request is sent once more, after 2 ms the command ends with REMOTE_UNREACHABLE; a read is served from its exported
range, a request beyond it is refused. -/
def Obligations.RemoteReads : Prop :=
  (∀ (s : State) (core : Nat) (d : Disp) (r : RemoteRead) (b : Bytes), getDisp s core = some d → genCurrent s d.gen = true →
    d.reads = [r] → r.bytes = b.length → d.sendQ = [] → d.recvQ = [] → d.requests = [] →
    exec (.remoteReadReply core d.gen b) s = .next (setDisp s core { d with
      reads := [], readHold := d.readHold - r.bytes / 64, rx := d.rx ++ [{ reply := true, data := b }], blockedAt := none })) ∧
  (∀ (s : State) (core : Nat) (d : Disp) (c : Cmd) (r : RemoteRead), onCore s core d c → d.reads = [r] → r.retried = false →
    r.at_ + 1000000 ≤ s.time →
    ∃ t, exec (.remoteReadRetry core) s = .next t ∧ getDisp t core = some { d with reads := [{ r with retried := true }] } ∧
      t.io.wire = s.io.wire ++ [.readRequest r.dst core (entryDie core) d.gen r.request] ∧ t.cmds = s.cmds) ∧
  (∀ (s : State) (core : Nat) (d : Disp) (c : Cmd) (r : RemoteRead), onCore s core d c → r ∈ d.reads →
    r.at_ + 2000000 ≤ s.time → c.stage = .running →
    ∃ t, exec (.remoteReadTimeout core) s = .next t ∧ ending t c.id 0x0014 0) ∧
  (∀ (s : State) (src gen index offset n : Nat) (e : Export) (b : Bytes), awake s → s.dom.inDomain = true →
    tget none s.dom.exports index = some e →
    (offset + n ≤ e.bytes → devRead s e.part (e.dva + offset) n = .data b →
      ∃ t, exec (.remoteReadServe src gen index offset n) s = .next t ∧
        t.io.wire = s.io.wire ++ [.readReply (src / 4096) (src % 4096) (BitVec.ofNat 32 gen) b] ∧ t.cmds = s.cmds ∧
        t.pile.mem = s.pile.mem ∧ t.streams = s.streams) ∧
    (e.bytes < offset + n → s.crown.fl0Wait = [] → 0 < s.crown.fl0 →
      ∃ t, exec (.remoteReadServe src gen index offset n) s = .next t ∧ t.io.wire =
        s.io.wire ++ [.ctl (src / 4096) s.dom.ctlSeq (.refusal (BitVec.ofNat 32 gen))] ∧ t.cmds = s.cmds ∧ t.pile = s.pile))

/-! ## Placement, slices, kills (02, 12) -/

/-- The placer dispatches the command that is next for its partition under a new generation, with its reservation. A
command of the Crown runs at once and touches no core; of a RUN each core of the set gets the dispatch of its rank,
with the registers of R166, and waits for its start. RUN starts the program of every core of the gang that holds the
command's generation and marks the command started; a RUN that has waited HOLD beads is held from now on, after every
command that is held already; nothing else changes. -/
def Obligations.PlacementAndRuns : Prop :=
  (
    ∀ (s : State) (part cl left : Nat) (c : Cmd) (pages : List StagePage) (bases : List Nat) (s1 : State),
      placerUp s = true → partOk part = true → nextPlace s part = some (c, cl, left) →
      reserve s c = some (pages, bases, s1) → getCmd s c.id = some c → c.dispatches = 0 →
      (cop c ≠ 0x01 →
        ∃ t x, exec (.placeCommand part) s = .next t ∧ getCmd t c.id = some x ∧ x.stage = .running ∧ x.gen = s.crown.nextGen ∧
          x.gang = [] ∧ x.pages = pages ∧ x.dispatches = 1 ∧ x.dispBead = s.bead.count ∧ x.firstBead = s.bead.count ∧
          x.desc = c.desc ∧ t.crown.nextGen = s.crown.nextGen + 1 ∧ (getPart t part).plClient = cl ∧
          (getPart t part).plLeft = left ∧ t.cores = s.cores ∧ t.streams = s.streams ∧ t.pile.mem = s.pile.mem) ∧
      (∀ w p, cop c = 0x01 → findSet s c.part c.desc.set = some w → progOf s c = some p → w.cores.Nodup →
        ∃ t x, exec (.placeCommand part) s = .next t ∧ getCmd t c.id = some x ∧ x.stage = .running ∧ x.gen = s.crown.nextGen ∧
          x.gang = w.cores ∧ x.pages = pages ∧ x.dispatches = 1 ∧ x.effBead = BitVec.ofNat 64 (effBeadOf s c) ∧
          x.started = c.started ∧ t.pile.mem = s.pile.mem ∧
          (∀ r, r < w.cores.length → ∃ d, getDisp t ((w.cores[r]?).getD 0) = some d ∧ d.cmd = c.id ∧ d.gen = s.crown.nextGen ∧
            d.rank = r ∧ d.pc = p.entry ∧ d.started = false ∧ d.tokens = 0 ∧ (sreg d 1).toNat = r % 2 ^ 64 ∧
            (sreg d 2).toNat = w.cores.length % 2 ^ 64 ∧ (sreg d 3).toNat = c.desc.first.toNat ∧
            (sreg d 4).toNat = c.desc.count.toNat ∧ (sreg d 5).toNat = c.desc.lenC.toNat ∧
            (sreg d 6).toNat = effBeadOf s c % 2 ^ 64 ∧ sreg d 7 = 0 ∧ areg d 0 = 0 ∧ d.acc = [] ∧ d.cb0 = [] ∧ d.flags = 0) ∧
          ∀ core, core ∉ w.cores → getCore t core = getCore s core)) ∧
  (
    (∀ (s : State) (id : Nat) (c : Cmd), getCmd s id = some c → c.stage = .running → cop c = 0x01 → c.started = false →
      ∃ t, exec (.run id) s = .next t ∧ getCmd t id = some { c with started := true } ∧
        (∀ core d, core ∈ c.gang → getDisp s core = some d → d.gen = c.gen → getDisp t core = some { d with started := true }) ∧
        (∀ core, core ∉ c.gang → getCore t core = getCore s core) ∧ t.pile = s.pile ∧ t.streams = s.streams ∧ t.io = s.io) ∧
    (∀ (s : State) (id : Nat) (c : Cmd), getCmd s id = some c → c.stage = .queued → cop c = 0x01 →
      (getPart s c.part).hold ≠ 0 → (getPart s c.part).hold ≤ c.waitBeads → c.heldAt = none →
      ∃ t, exec (.runHeld id) s = .next t ∧ (∃ n, getCmd t id = some { c with heldAt := some n } ∧ ∀ x m, x ∈ s.cmds → x.heldAt = some m → m < n) ∧
        t.parts = s.parts ∧ t.cores = s.cores ∧ (∀ i, i ≠ id → getCmd t i = getCmd s i)))

/-- Time slices. At a bead boundary a slice that has elapsed ends: the running commands of its client are killed,
uncounted, and what is not settled drains from now; a partition without commands idles; from idle the slice goes to
the client whose command was fetched first. Once the drained commands are gone the client is charged for the time it
has taken. Limits of a run: one longer than its program's RUN_LIMIT beads ends with OUT_OF_BOUNDS, one whose cores are
all blocked longer than LIMIT with CREDIT_DEADLOCK. A fault that firmware can resolve is resolved before the re-run;
one that it cannot becomes PAGE_FAULT. A dependency not met by its timeout completes its command with
REMOTE_UNREACHABLE. -/
def Obligations.SlicesAndRunLimits : Prop :=
  (
    (∀ (s : State) (part : Nat), partOk part = true → (getPart s part).en = true → (getPart s part).mode = true →
      s.time = s.bead.edge → (getPart s part).sliceValid = true → (getPart s part).sliceLeft = 0 →
      clientBusy s part (getPart s part).sliceClient = true → (s.cmds.map Cmd.id).Nodup →
      ∃ t l, exec (.sliceEnd part) s = .next t ∧
        (∀ x ∈ t.cmds, x.part = part → x.client = (getPart s part).sliceClient → x.stage ≠ .running ∧
          (x.stage = .killing ∨ x.stage = .waiting ∨ x.stage = .committing → (x.id, x.gen) ∈ l)) ∧
        (getPart t part).drain = (getPart s part).drain ++ [((getPart s part).sliceClient, s.time, l)] ∧
        t.cores = s.cores ∧ t.streams = s.streams ∧ t.pile = s.pile) ∧
    (∀ (s : State) (part : Nat), partOk part = true → (getPart s part).en = true → (getPart s part).mode = true →
      s.time = s.bead.edge → (getPart s part).sliceValid = false → (∀ x ∈ s.cmds, x.part ≠ part) →
      exec (.sliceEnd part) s = .next (setPart s part { getPart s part with sliceValid := false, sliceLeft := 0 })) ∧
    (∀ (s : State) (part : Nat) (f : Cmd), partOk part = true → (getPart s part).en = true → (getPart s part).mode = true →
      s.time = s.bead.edge → (getPart s part).sliceValid = false → f ∈ s.cmds → f.part = part →
      (∀ x ∈ s.cmds, x.part = part → x ≠ f → f.id < x.id) → (getClient s f.client).acct.debtNs = 0 →
      ∃ t, exec (.sliceEnd part) s = .next t ∧ (getPart t part).sliceValid = true ∧ (getPart t part).sliceClient = f.client ∧
        (getPart t part).sliceLeft = (getSched s f.client).slice ∧ (getClient t f.client).weight = (getSched s f.client).weight ∧
        t.cmds.map Cmd.id = s.cmds.map Cmd.id ∧ t.cmds.map Cmd.stage = s.cmds.map Cmd.stage ∧ t.cores = s.cores) ∧
    (∀ (s : State) (part c at_ : Nat) (l : List (Nat × W32)), partOk part = true → (getPart s part).drain = [(c, at_, l)] →
      (∀ x ∈ s.cmds, (x.id, x.gen) ∉ l) →
      ∃ t, exec (.sliceOverrunCharge part) s = .next t ∧ (getPart t part).drain = [] ∧
        (getClient t c).acct.chargedNs = (getClient s c).acct.chargedNs + BitVec.ofNat 64 (s.time - at_) ∧
        (getClient t c).acct.debtNs = (getClient s c).acct.debtNs + BitVec.ofNat 64 (s.time - at_) ∧
        t.cmds = s.cmds ∧ t.cores = s.cores)) ∧
  (
    (∀ (s : State) (id : Nat) (c : Cmd) (p : Prog), getCmd s id = some c → progOf s c = some p → c.stage = .running →
      cop c = 0x01 → c.dispBead.toNat + p.runLimit ≤ s.bead.count.toNat →
      ∃ t, exec (.runLimitExpiry id) s = .next t ∧ ending t id 0x0003 0) ∧
    (∀ (s : State) (id core : Nat) (c : Cmd) (d : Disp) (b : Nat), getCmd s id = some c → c.stage = .running →
      c.gang = [core] → getDisp s core = some d → d.gen = c.gen → d.cmd = c.id → d.started = true →
      blocked (getCore s core) d = true → sendWaits d = true → d.blockedAt = some b → s.crown.dlLimit ≠ 0 →
      ∃ t, exec (.creditDeadlock id) s = .next t ∧ ending t id 0x0013 0 ∧ b + s.crown.dlLimit * 1000 < t.time) ∧
    (∀ (s : State) (id a : Nat) (c : Cmd) (k : Kill), getCmd s id = some c → c.faultAt = some a → s.crown.ready = true →
      c.stage = .killing → c.kill = some k → k.kind = .counted →
      (∀ pa sz w, walk s c.part a = .page pa sz w →
        ∃ t, exec (.faultResolve id) s = .next t ∧ getCmd t id = some { c with faultAt := none } ∧ t.pile = s.pile) ∧
      (∀ e, walk s c.part a = .moving e →
        ∃ t, exec (.faultResolve id) s = .next t ∧ getCmd t id = some { c with faultAt := none } ∧ t.streams = s.streams) ∧
      (∀ e s1, walk s c.part a = .lazy_ e → backRange s c.part a = some s1 →
        ∃ t, exec (.faultResolve id) s = .next t ∧ getCmd t id = some { c with faultAt := none } ∧ t.parts = s1.parts) ∧
      (∀ e, walk s c.part a = .none_ e ∨ (walk s c.part a = .lazy_ e ∧ backRange s c.part a = none) →
        ∃ t, exec (.faultResolve id) s = .next t ∧
          getCmd t id = some { c with faultAt := none, kill := some { k with kind := .ends 0x0012 a } } ∧ t.pile = s.pile) ∧
      (∀ l, walk s c.part a = .bad l →
        ∃ t, exec (.faultResolve id) s = .next t ∧
          getCmd t id = some { c with faultAt := none, kill := some { k with kind := .ends 0x0011 l } })) ∧
    (∀ (s : State) (id : Nat) (c : Cmd) (d : Dep), getCmd s id = some c → s.cmds = [c] → c.stage = .queued → c.dep = some d →
      depMet s c = false → d.timeout ≠ 0 → c.valBead.toNat + d.timeout ≤ s.bead.count.toNat →
      (getRing s c.client c.ring).fault = false → c.lost = false →
      ∃ t w, exec (.remoteTokenTimeout id) s = .next t ∧ t.cmds = [] ∧ t.io.dma = s.io.dma ++ [w] ∧
        fieldLE w.data 0 8 = c.desc.cookie.toNat ∧ fieldLE w.data 8 2 = 0x0014))

/-- The gang barrier. Once every core has arrived at RECKON all go on at their next instruction; once all have ended
the run has committed its results: the cores are free and the command goes to its digest or its commit; a gang of
which some have ended and some reckon ends with OUT_OF_BOUNDS; while a core is missing nothing happens. A kill reaches
its cores: the core's program is gone, its windows stay reserved, and the command no longer waits for it; one of
another generation touches no core. One that waits for the Crown's allowance enters the mesh first. Once every core
and pile has it, an uncounted command is queued again with nothing staged, a counted one too, up to eight times, and
any other completes with its status. The version directory: a flip of a command that the commit engine takes makes
every entry that the generation has written in the pile change slot, once, and forgets its written bits, after the
command's publication; the last flip of a command also makes its tables current and sends its held messages; a discard
forgets the bits and changes no slot. -/
def Obligations.BarriersKillsAndSlots : Prop :=
  (
    ∀ (s : State) (id : Nat) (c : Cmd), getCmd s id = some c → c.stage = .running → c.gang ≠ [] → c.gang.Nodup →
      (∀ core ∈ c.gang, ∃ d, getDisp s core = some d ∧ d.gen = c.gen ∧ d.cmd = c.id) →
      ((∀ core d, core ∈ c.gang → getDisp s core = some d → d.arrived = .reckon ∧ codeHeld s core d (d.pc + 1)) →
        ∃ t, exec (.gangBarrierRelease id) s = .next t ∧ t.cmds = s.cmds ∧
          ∀ core d, core ∈ c.gang → getDisp s core = some d → getDisp t core = some (gone { d with arrived := .no } (d.pc + 1))) ∧
      ((∀ core d, core ∈ c.gang → getDisp s core = some d → d.arrived = .final) →
        ∃ t x, exec (.gangBarrierRelease id) s = .next t ∧ getCmd t id = some x ∧ x.gang = [] ∧
          x.stage = (if wantsDigest s c then .waiting else .committing) ∧ x.gen = c.gen ∧ x.pages = c.pages ∧
          (∀ core ∈ c.gang, getDisp t core = none) ∧ t.pile = s.pile ∧ t.streams = s.streams ∧ t.io = s.io) ∧
      (∀ a b da db, a ∈ c.gang → b ∈ c.gang → getDisp s a = some da → getDisp s b = some db →
        da.arrived = .final → db.arrived = .reckon →
        (∀ core d, core ∈ c.gang → getDisp s core = some d → d.arrived ≠ .no) →
        ∃ t, exec (.gangBarrierRelease id) s = .next t ∧ ending t id 0x0003 0) ∧
      (∀ a d, a ∈ c.gang → getDisp s a = some d → d.arrived = .no → exec (.gangBarrierRelease id) s = .next s)) ∧
  (
    (∀ (s : State) (core : Nat) (g : W32) (r : List Packet) (d : Disp), meshOn s = true → s.net = .kill core g :: r →
      s.crown.mc0Wait = [] → getDisp s core = some d → d.gen = g →
      ∃ t e, exec (.killDeliver core) s = .next t ∧ t.net = r ∧ getDisp t core = some e ∧ e.started = false ∧ e.gen = g ∧
        e.cmd = d.cmd ∧ e.xfers = [] ∧ e.rx = [] ∧ e.resBase = d.resBase ∧ e.scrBase = d.scrBase ∧ e.scrSpan = d.scrSpan ∧
        (∀ n, n ≠ core → getCore t n = getCore s n) ∧
        (∀ c ∈ t.cmds, c.stage = .killing → c.gen = g → ∀ k, c.kill = some k → core ∉ k.cores) ∧
        t.pile = s.pile ∧ t.streams = s.streams) ∧
    (∀ (s : State) (core : Nat) (g : W32) (d : Disp), meshOn s = true → s.net = [] → s.crown.mc0Wait = [.kill core g] →
      getDisp s core = some d → d.gen = g →
      ∃ t e, exec (.killDeliver core) s = .next t ∧ t.net = [] ∧ t.crown.mc0Wait = [] ∧ s.time ≤ t.time ∧
        getDisp t core = some e ∧ e.started = false ∧ e.gen = g ∧ e.cmd = d.cmd ∧ e.xfers = [] ∧ e.rx = []) ∧
    (∀ (s : State) (core part : Nat) (g : W32) (d : Disp), meshOn s = true → getDisp s core = some d → d.gen = g → partOfCore s core = some part →
      (s.cmds.any fun c => c.stage == .killing && c.gen == g && c.part == part) = true →
      ∃ t e, exec (.mc0BroadcastArrive core part g) s = .next t ∧ getDisp t core = some e ∧ e.started = false ∧
        (∀ n, n ≠ core → getCore t n = getCore s n)) ∧
    (∀ (s : State) (core part : Nat) (g : W32) (d : Disp), getDisp s core = some d → d.gen ≠ g →
      ∃ t, exec (.mc0BroadcastArrive core part g) s = .next t ∧ t.cores = s.cores ∧ t.pile = s.pile) ∧
    (∀ (s : State) (id : Nat) (c : Cmd) (k : Kill), getCmd s id = some c → c.kill = some k → c.stage = .killing →
      k.cores = [] → k.piles = [] → c.faultAt = none → earlierCancel s c = false →
      (k.kind = .rerun ∨ k.kind = .stop ∨ (k.kind = .counted ∧ c.reruns < 8) →
        ∃ t x, exec (.killQuiescent id) s = .next t ∧ getCmd t id = some x ∧ x.stage = .queued ∧ x.pages = [] ∧ x.held = [] ∧
          x.reports = [] ∧ x.started = false ∧ x.kill = none ∧ x.news = c.news ∧ x.desc = c.desc ∧
          x.reruns = c.reruns + (if k.kind = .counted then 1 else 0) ∧ t.io = s.io ∧ t.streams = s.streams ∧
          t.pile.mem = s.pile.mem ∧
          ∀ core d, core ∈ c.gang → getDisp s core = some d → d.gen = c.gen → d.cmd = c.id → getDisp t core = none) ∧
      (∀ st a e, (k.kind = .ends st a ∧ st ≠ 0x0011 ∧ e = (st, a)) ∨ (k.kind = .counted ∧ 8 ≤ c.reruns ∧ e = (0x0010, 0)) →
        s.cmds = [c] → (getRing s c.client c.ring).fault = false → c.lost = false → c.dep = none → e.1 ≠ 0 → e.1 < 2 ^ 16 →
        e.2 < 2 ^ 64 →
        ∃ t w, exec (.killQuiescent id) s = .next t ∧ t.cmds = [] ∧ t.io.dma = s.io.dma ++ [w] ∧
          fieldLE w.data 0 8 = c.desc.cookie.toNat ∧ fieldLE w.data 8 2 = e.1 ∧ fieldLE w.data 24 8 = e.2 ∧
          t.streams = s.streams ∧ t.pile.mem = s.pile.mem))) ∧
  (
    (∀ (s : State) (pile : Nat) (g : W32) (refused : Option W64) (c : Cmd), pile < 16 →
      (s.cmds.find? fun x => cop x == 0x01 && x.stage == .committing && x.gen == g) = some c → acceptable s c = true →
      (∃ st ∈ groupStreams c, (getStream s st).home = pile) → getCmd s c.id = some c →
      ∃ t x, exec (.slotFlip pile { gen := g, refused := refused }) s = .next t ∧ getCmd t c.id = some x ∧ x.pub.isSome = true ∧ x.gen = g ∧
        (∀ st ∈ groupStreams c, (getStream s st).home = pile →
          (getStream t st).objs = (getStream s st).objs.map (objAfter g)) ∧
        (c.pub.isSome = true → flipped (modHomed s pile (objAfter g)) c = false →
          t = modHomed s pile (objAfter g)) ∧
        (c.pub.isSome = true → c.sent = false → flipped (modHomed s pile (objAfter g)) c = true →
          x.sent = true ∧ ∀ st ∈ groupStreams c, (getStream t st).position = (getStream s st).position + c.desc.lenC.toNat ∧
            (getStream t st).rstep = (getStream s st).rstep + BitVec.ofNat 64 c.desc.lenC.toNat)) ∧
    (∀ (s : State) (pile : Nat) (f : Obj → Obj), (modHomed s pile f).pile = s.pile ∧ (modHomed s pile f).cmds = s.cmds ∧
      (∀ n, (getStream s n).home ≠ pile → getStream (modHomed s pile f) n = getStream s n) ∧
      (∀ n, (getStream s n).home = pile →
        getStream (modHomed s pile f) n = { getStream s n with objs := (getStream s n).objs.map f })) ∧
    (∀ (s : State) (pile : Nat) (g : W32), pile < 16 → (s.cmds.any fun c => c.stage == .killing && c.gen == g) = true →
      ∃ t, exec (.slotDiscard pile g) s = .next t ∧ t.pile = s.pile ∧ t.streams = (modHomed s pile (discardWr g)).streams ∧
        ∀ c ∈ t.cmds, c.stage = .killing → c.gen = g → ∀ k, c.kill = some k → pile ∉ k.piles) ∧
    (∀ (g : W32) (o : Obj) (e : Nat),
      ((objAfter g o).cur.contains e = (o.cur.contains e != o.wr.any fun w => w.entry == e && w.gen == g)) ∧
      (∀ w ∈ (objAfter g o).wr, w.gen ≠ g) ∧ (discardWr g o).cur = o.cur ∧ (∀ w ∈ (discardWr g o).wr, w.gen ≠ g) ∧
      (objAfter g o).base = o.base ∧ (objAfter g o).entries = o.entries))

/-! ## Commands of the Crown and commits (02) -/

/-- A running command of the Crown whose partition's turn has come (R313) reaches its commit. EVICT_SET, STREAM_OPEN,
STREAM_CLOSE and AUDIO_BIND pass straight to it; LOAD_SET checks its image and chooses its cores, STATE_INIT and
STATE_IMPORT write the slots reserved for them, STATE_EXPORT and COPY stage their bytes, whether the bytes they read
are the host's or lie in device memory. A bad image ends with BAD_SHAPE. No table changes. FENCE completes with OK
once every command its client validated before it has retired, WAIT_REMOTE once its dependency is met; each writes one
entry and touches no stream and no memory; until then it stays queued. -/
def Obligations.CrownCommandsComplete : Prop :=
  (
    ∀ (s0 : State) (id : Nat) (c : Cmd), getCmd s0 id = some c → c.stage = .running → crownTurn s0 c = true →
      ∀ s st, s = { s0 with crown := { s0.crown with workPart := c.part } } →
      st = (if wantsDigest s0 c then Stage.waiting else Stage.committing) →
      (cop c = 0x03 → exec (.evictSet id) s0 = .next (modCmd s id fun x => { x with stage := st })) ∧
      (cop c = 0x07 → exec (.streamOpen id) s0 = .next (modCmd s id fun x => { x with stage := st })) ∧
      (cop c = 0x08 → exec (.streamClose id) s0 = .next (modCmd s id fun x => { x with stage := st })) ∧
      (cop c = 0x0D → exec (.audioBind id) s0 = .next (modCmd s id fun x => { x with stage := st })) ∧
      (∀ h b l, cop c = 0x02 → c.desc.lenA ≠ 0 → gives s c h b →
        imgOk b c.desc.lenA.toNat = true → setRoom s0 c.part (imgRanks b) (imgResSpan b) (imgCodeSpan b) = some l →
        ∃ t x w, exec (.loadSet id h) s0 = .next t ∧ getCmd t id = some x ∧ x.stage = st ∧ x.newSet = some w ∧
          w.cores = l.map (fun y => y.1) ∧ w.handle = c.desc.set ∧ w.part = c.part ∧ w.image = b ∧ t.sets = s0.sets ∧
          t.cores = s0.cores ∧ t.pile = s0.pile) ∧
      (∀ h b, cop c = 0x02 → c.desc.lenA ≠ 0 → gives s c h b →
        imgOk b c.desc.lenA.toNat = false → s0.cmds = [c] → (getRing s0 c.client c.ring).fault = false → c.lost = false →
        ∃ t w, exec (.loadSet id h) s0 = .next t ∧ t.cmds = [] ∧ t.sets = s0.sets ∧ t.io.dma = s0.io.dma ++ [w] ∧
          fieldLE w.data 8 2 = 0x0006) ∧
      (∀ ls, cop c = 0x04 → (progOf s0 c).bind (progLayout s0 c) = some ls →
        ∃ t x, exec (.stateInit id) s0 = .next t ∧ getCmd t id = some x ∧ x.stage = st ∧ x.news = c.news ∧
          t.streams = s0.streams ∧ t.io = s0.io ∧ t.cores = s0.cores ∧
          ∀ n o l, c.news = [n] → n.objs = [o] → ls = [l] → o.entries = 1 → slotPa o 0 0 % 64 = 0 → o.espan % 64 = 0 →
            (initBytes l).length ≤ o.espan →
            memGet t.pile.mem (slotPa o 0 0) (initBytes l).length = initBytes l) ∧
      (∀ h b recs, cop c = 0x06 → c.desc.lenA ≠ 0 → gives s c h b →
        recSplit (groupCount c) b = some recs → ((c.news.zip recs).all fun x => sameObjs x.1.objs (recObjs x.2)) = true →
        ∃ t x, exec (.stateImport id h) s0 = .next t ∧ getCmd t id = some x ∧ x.stage = st ∧
          x.news = (c.news.zip recs).map (fun y => newOfRec y.1.stream y.2 y.1.pile y.1.objs) ∧
          t.streams = s0.streams ∧ t.io.dma = s0.io.dma ∧
          t.pile = ((c.news.zip recs).foldl (fun u y => putPayloads u y.1.objs y.2) (afterRead s c)).pile) ∧
      (cop c = 0x05 → ((groupStreams c).findSome? fun n => (getStream s n).objs.findSome? (objBad s)) = none →
        ∀ u, u = ((groupStreams c).flatMap fun n => (getStream s n).objs).foldl noteObj s → outStop u c = none →
        exec (.stateExport id) s0 = .next (modCmd (stageWrite u c (outBase c) ((groupStreams c).flatMap (recordOf s))) id
          fun x => { x with stage := st })) ∧
      (∀ h b, cop c = 0x09 → c.desc.lenA ≠ 0 → gives s c h b → ∀ u, u = afterRead s c → outStop u c = none →
        exec (.copy id h) s0 = .next (modCmd (stageWrite u c (outBase c) b) id fun x => { x with stage := st })) ∧
      (cop c = 0x09 → c.desc.lenA = 0 → outStop s c = none → ∀ h,
        exec (.copy id h) s0 = .next (modCmd s id fun x => { x with stage := st }))) ∧
  (
    ∀ (s : State) (id : Nat) (c : Cmd), getCmd s id = some c → c.id = id →
      (∀ op : Instr, (op = .fence id ∧ cop c = 0x0A) ∨ (op = .waitRemote id ∧ cop c = 0x0B) →
        allowed s c = true → s.cmds = [c] → (getRing s c.client c.ring).fault = false → c.lost = false →
        c.desc.flags.getLsbD 2 = false →
        ∃ t w, exec op s = .next t ∧ t.cmds = [] ∧ t.io.dma = s.io.dma ++ [w] ∧
          fieldLE w.data 0 8 = c.desc.cookie.toNat ∧ fieldLE w.data 8 2 = 0 ∧ fieldLE w.data 12 4 = 1 ∧
          fieldLE w.data 16 8 = s.bead.count.toNat ∧ fieldLE w.data 24 8 = 0 ∧
          (getClient t c.client).acct.retired = (getClient s c.client).acct.retired + 1 ∧
          (getClient t c.client).acct.queueNs = (getClient s c.client).acct.queueNs +
            BitVec.ofNat 64 (c.queueNs + (s.time - c.waitFrom)) ∧
          t.streams = s.streams ∧ t.pile.mem = s.pile.mem ∧ t.cores = s.cores) ∧
      (∀ x, cop c = 0x0A → x ∈ s.cmds → x.client = c.client → x.id < id → exec (.fence id) s = .next s) ∧
      (cop c = 0x0B → depMet s c = false → exec (.waitRemote id) s = .next s))

/-- The commit step of a command that the commit engine takes, without output or held messages, ends it: its entry has
status OK or, where the digest of a mirrored pair differed, DIVERGED, and the digest; the tables take the command's
effect: a new stream is open with the default set, the client and its seed at position 0; a closed one is free; an
evicted set is gone. -/
def Obligations.CommitsTakeEffect : Prop :=
  ∀ (s : State) (id : Nat) (c : Cmd), getCmd s id = some c → s.cmds = [c] → c.held = [] → c.pub = none → c.sent = false →
    acceptable s c = true → c.sendRefused = false → (getRing s c.client c.ring).fault = false → c.lost = false → c.digestUe = none →
    (∀ n, cop c = 0x07 → n < groupCount c → c.diverged = false →
      ∃ t w x, exec (.commitStep id none) s = .next t ∧ t.cmds = [] ∧ t.io.dma = s.io.dma ++ [w] ∧
        fieldLE w.data 0 8 = c.desc.cookie.toNat ∧ fieldLE w.data 8 2 = 0 ∧
        getStream t (groupFirst c + n) = x ∧ x.isOpen = true ∧ x.client = c.client ∧ x.part = c.part ∧
        x.defaultSet = c.desc.set ∧ x.position = 0 ∧ x.rstep = 0 ∧ x.home = 0x1F ∧ x.objs = [] ∧ x.hist = [] ∧
        x.seed.toNat = fieldLE c.arg (32 * n) 32 ∧
        (∀ m, m < groupFirst c ∨ groupFirst c + groupCount c ≤ m → getStream t m = getStream s m) ∧
        t.sets = s.sets ∧ t.pile.mem = s.pile.mem) ∧
    (∀ n, cop c = 0x08 → n < groupCount c →
      ∃ t, exec (.commitStep id none) s = .next t ∧ getStream t (groupFirst c + n) = {} ∧
        getBind t (groupFirst c + n) = none ∧ t.pile.mem = s.pile.mem ∧
        (∀ m, m < groupFirst c ∨ groupFirst c + groupCount c ≤ m → getStream t m = getStream s m)) ∧
    (cop c = 0x03 →
      ∃ t, exec (.commitStep id none) s = .next t ∧
        (∀ w ∈ t.sets, ¬ (w.part = c.part ∧ w.handle = c.desc.set)) ∧ t.streams = s.streams ∧
        (∀ w ∈ s.sets, ¬ (w.part = c.part ∧ w.handle = c.desc.set) → w ∈ t.sets)) ∧
    (∀ w, cop c = 0x02 → c.newSet = some w →
      ∃ t, exec (.commitStep id none) s = .next t ∧ w ∈ t.sets ∧ (∀ x ∈ s.sets, x ∈ t.sets) ∧ t.streams = s.streams) ∧
    (cop c = 0x01 → outLen c.desc = 0 → c.reports = [] → c.digest = none → c.diverged = false →
      c.desc.bead = 0 → (∀ n, getBind s n = none) →
      ∃ t w, exec (.commitStep id none) s = .next t ∧ t.cmds = [] ∧ t.io.dma = s.io.dma ++ [w] ∧ fieldLE w.data 8 2 = 0 ∧
        fieldLE w.data 24 8 = 0 ∧ ∀ n, n < groupCount c →
          (getStream t (groupFirst c + n)).position = (getStream s (groupFirst c + n)).position + c.desc.lenC.toNat ∧
          (getStream t (groupFirst c + n)).rstep = (getStream s (groupFirst c + n)).rstep + BitVec.ofNat 64 c.desc.lenC.toNat ∧
          (getStream t (groupFirst c + n)).lastBead = s.bead.count ∧
          (getStream t (groupFirst c + n)).lastSet = c.desc.set ∧
          (getStream t (groupFirst c + n)).objs = (getStream s (groupFirst c + n)).objs.map (objAfter c.gen)) ∧
    (∀ n o, cop c = 0x04 ∨ cop c = 0x06 → outLen c.desc = 0 ∨ usesOut (cop c) = false → c.news = [n] → n.objs = [o] →
      ∃ t, exec (.commitStep id none) s = .next t ∧ (getStream t n.stream).objs = [o] ∧
        (getStream t n.stream).home = n.pile ∧ (getStream t n.stream).position = n.position ∧
        (getStream t n.stream).damaged = false ∧ (getStream t n.stream).hist = [] ∧ t.pile.mem = s.pile.mem)

/-- Digests. A command outside a mirrored pair is accepted with its digest, unless a line of what the digest covers
cannot be corrected; a mirrored one waits for its twin, is accepted when the digests agree, diverges when they differ,
and goes on alone once the wait has run out. Stored twin digests older than the wait are discarded. -/
def Obligations.DigestsAndTwins : Prop :=
  (∀ (s : State) (id : Nat) (c : Cmd), getCmd s id = some c → c.id = id → c.stage = .waiting → c.digestDone = false →
    (∀ pa, (digestObjs s c).findSome? (objBad s) = some pa →
      ∃ t x, exec (.digestCompute id) s = .next t ∧ getCmd t id = some x ∧ x.stage = .committing ∧ x.digestUe = some pa ∧
        x.digest = c.digest ∧ t.streams = s.streams) ∧
    ((digestObjs s c).findSome? (objBad s) = none → exchanges s c = false →
      ∃ t x, exec (.digestCompute id) s = .next t ∧ getCmd t id = some x ∧ x.stage = .committing ∧
        x.digest = some (digestOf s (digestObjs s c)) ∧ t.io.dma = s.io.dma ∧ t.streams = s.streams)) ∧
  (∀ (s : State) (src first count pos : Nat) (d : W64) (r : List (Nat × Ctl)) (c : Cmd),
    s.dom.got = (src, .digest first count pos d) :: r → s.cmds = [c] → c.stage = .waiting → c.digestDone = true →
    groupFirst c = first → groupCount c = count → posAfter s c = pos →
    (c.digest = some d → ∃ t, exec .twinDigestArrive s = .next t ∧
      t.cmds = [{ c with stage := .committing }] ∧ t.dom.got = r ∧ t.tally = s.tally ∧ t.streams = s.streams) ∧
    (c.digest ≠ some d → ∃ t, exec .twinDigestArrive s = .next t ∧
      t.cmds = [{ c with stage := .committing, diverged := true }] ∧ t.dom.got = r ∧ t.streams = s.streams)) ∧
  (∀ (s : State) (src first count pos : Nat) (d : W64) (r : List (Nat × Ctl)), s.cmds = [] →
    s.dom.got = (src, .digest first count pos d) :: r →
    exec .twinDigestArrive s = .next { s with dom := { s.dom with
      got := r, digests := s.dom.digests ++ [{ first := first, count := count, pos := pos, d := d, at_ := s.time }] } }) ∧
  (∀ (s : State) (id at_ : Nat) (c : Cmd), getCmd s id = some c → c.id = id → c.stage = .waiting → c.digestDone = true →
    c.twinFrom = some at_ → at_ + s.dom.waitUs * 1000 ≤ s.time →
    ∃ t, exec (.twinWaitTimeout id) s = .next t ∧ getCmd t id = some { c with stage := .committing } ∧
      t.streams = s.streams ∧ t.pile = s.pile) ∧
  (∀ s : State, ∃ t, exec .twinDigestDiscard s = .next t ∧
    (∀ x, x ∈ t.dom.digests ↔ x ∈ s.dom.digests ∧ s.time < x.at_ + s.dom.waitUs * 1000) ∧ t.cmds = s.cmds ∧ t.pile = s.pile)

/-! ## Core health (05, 12) -/

/-- Faults of a core. One bad bit of a scrubbed word only counts; two take the core out of service, as does a residue
error: its command is killed, counted, its fault is kept with kind and address, and its ranks are lost from now. A
clean word changes nothing, and so does an event of a core that is fenced or off. Repair. A core whose fault was a
memory error and whose test passes is back in service with its ranks; one that fails stays out; either way the fault
is over. A lost rank moves to the first core in order that its windows fit; a set with a rank lost for 100 ms and no
core to take it is evicted and the commands queued for it complete with OUT_OF_BOUNDS. -/
def Obligations.CoreHealth : Prop :=
  (
    (∀ (s : State) (core mem word : Nat), coreUp s core = true → mem ≤ 2 →
      exec (.coreScrub core mem word 0) s = .next s ∧
      exec (.coreScrub core mem word 1) s =
        .next (setCore s core { getCore s core with ceCount := min ((getCore s core).ceCount + 1) 0xFFFF }) ∧
      exec (.coreScrub core mem word 2) s = exec (.coreFault core 0 (BitVec.ofNat 64 word)) s) ∧
    (∀ (s : State) (core kind : Nat) (a : W64), coreUp s core = true → kind < 4 →
      ∃ t, exec (.coreFault core kind a) s = .next t ∧ (getCore t core).oos = true ∧ (getCore t core).fault = some (kind, a) ∧
        (∀ n, n ≠ core → getCore t n = getCore s n) ∧ t.sets = s.sets.map (loseRanks s.time core) ∧
        (∀ d c, getDisp s core = some d → getCmd s d.cmd = some c → c.stage = .running → genCurrent s d.gen = true →
          ∃ x k, getCmd t d.cmd = some x ∧ x.stage = .killing ∧ x.kill = some k ∧ k.kind = .counted) ∧
        t.pile = s.pile ∧ t.streams = s.streams) ∧
    (∀ (s : State) (core mem word kind : Nat) (a : W64), coreUp s core = false →
      exec (.coreScrub core mem word kind) s = .next s ∧ exec (.coreFault core kind a) s = .next s)) ∧
  (
    (∀ (s : State) (core : Nat) (a : W64) (pass : Bool), (getCore s core).fault = some (0, a) → s.crown.ready = true →
      getDisp s core = none →
      ∃ t, exec (.coreRestore core pass) s = .next t ∧ (getCore t core).oos = !pass ∧ (getCore t core).fault = none ∧
        (pass = false → t.cmds = s.cmds) ∧ t.cmds.map Cmd.stage = s.cmds.map Cmd.stage ∧ t.pile = s.pile ∧
        (pass = true → ∀ w ∈ t.sets, ∀ y ∈ w.lost, (w.cores[y.1]?).getD 0 ≠ core)) ∧
    (∀ (s : State) (core : Nat) (a : W64), (getCore s core).fault = some (1, a) → s.crown.ready = true →
      getDisp s core = none → sparesUsed s core < 4 →
      ∃ t, exec (.coreRestore core true) s = .next t ∧ (getCore t core).oos = false ∧
        (getCore t core).spares = (getCore s core).spares + 1 ∧ (getCore t core).fault = none) ∧
    (∀ (s : State) (part rank core : Nat) (h : W32) (w : WSet), findSet s part h = some w → relocTarget s w rank = some core →
      placerUp s = true → (w.lost.any fun x => x.1 == rank) = true →
      ∃ t x, exec (.rankRelocate part h rank) s = .next t ∧ findSet t part h = some x ∧
        x.cores = w.cores.set rank core ∧ (x.lost.any fun y => y.1 == rank) = false ∧ x.resBase = w.resBase ∧
        x.image = w.image ∧ t.cmds = s.cmds ∧ t.pile = s.pile) ∧
    (∀ (s : State) (part rank at_ : Nat) (h : W32) (w : WSet), findSet s part h = some w → s.crown.ready = true →
      (rank, at_) ∈ w.lost → at_ + 100000000 ≤ s.time → relocTarget s w rank = none → s.cmds = [] →
      ∃ t, exec (.setLost part h) s = .next t ∧ findSet t part h = none ∧ t.streams = s.streams ∧ t.pile = s.pile) ∧
    (∀ (s : State) (part rank at_ : Nat) (h : W32) (w : WSet) (c : Cmd), findSet s part h = some w → s.crown.ready = true →
      (rank, at_) ∈ w.lost → at_ + 100000000 ≤ s.time → relocTarget s w rank = none → s.cmds = [c] → c.part = part →
      usesSet (cop c) = true → c.desc.set = h → c.stage = .queued → (getRing s c.client c.ring).fault = false → c.lost = false →
      ∃ t x, exec (.setLost part h) s = .next t ∧ findSet t part h = none ∧ t.cmds = [] ∧ t.io.dma = s.io.dma ++ [x] ∧
        fieldLE x.data 0 8 = c.desc.cookie.toNat ∧ fieldLE x.data 8 2 = 0x0003))

/-! ## Piles, residency, translation (11) -/

/-- The patrol scrub of a line without errors only steps on; a refresh is due when its interval has passed and notes
the time; a directory word whose copy is good harms nothing, one whose copy is bad damages the streams named there.
Translations. A miss of a TLB takes the entry that the page tables give, in place of another where its set is full; an
address with no page leaves the TLBs. An invalidation makes a TLB forget the range, and its die's with it; the last,
which waits for the firmware, frees the old pages. A move of a page begins with the invalidation of it. -/
def Obligations.PileUpkeepAndTranslation : Prop :=
  (
    (∀ (s : State) (pile : Nat), pile < 16 → pileFenced s pile = false → (getPile s pile).scrubEn = true →
      (getPile s pile).selfRefresh = false → (getPile s pile).scrubPos + 1 < pileLines →
      lineErrs s (pile * 2 ^ 36 + 64 * (getPile s pile).scrubPos) = [] →
      correctable s (pile * 2 ^ 36 + 64 * (getPile s pile).scrubPos) [] = true →
      ∃ t, exec (.patrolScrub pile [] [] []) s = .next t ∧ (getPile t pile).scrubPos = (getPile s pile).scrubPos + 1 ∧
        (getPile t pile).ceCount = (getPile s pile).ceCount ∧ (getPile t pile).ueCount = (getPile s pile).ueCount ∧
        (∀ n, n ≠ pile → getPile t n = getPile s n) ∧ t.pile.mem = s.pile.mem ∧ t.streams = s.streams ∧ t.tally = s.tally) ∧
    (∀ (s : State) (pile ch : Nat), pile < 16 → ch < 32 → pileFenced s pile = false → (getPile s pile).selfRefresh = false →
      tget 0 (getPile s pile).refreshed ch + (if (getPile s pile).hot then 1950 else 3900) ≤ s.time →
      ∃ t, exec (.pileRefresh pile ch) s = .next t ∧ tget 0 (getPile t pile).refreshed ch = s.time ∧
        (∀ n, n ≠ ch → tget 0 (getPile t pile).refreshed n = tget 0 (getPile s pile).refreshed n) ∧ t.pile = s.pile ∧
        t.cmds = s.cmds) ∧
    (∀ (s : State) (pile st : Nat), (getStream s st).home = pile → (getStream s st).objs ≠ [] →
      exec (.directoryEccError pile [st] true) s = .next (setStream s st { getStream s st with damaged := true }) ∧
      exec (.directoryEccError pile [st] false) s = .next s)) ∧
  (
    (∀ (s : State) (tlb part : Nat) (a : W64), 2560 ≤ tlb → tlb < 2617 → tlbHit (getTlb s tlb) part a.toNat = none →
      (∀ e, walkEnt s part a.toNat = some e →
        ∃ t, exec (.tlbWalk tlb part a) s = .next t ∧ (∀ n, n ≠ tlb → getTlb t n = getTlb s n) ∧ t.parts = s.parts ∧
          t.pile = s.pile ∧
          (((getTlb s tlb).filter fun x => setIndex tlb x == setIndex tlb e).length < 8 →
            getTlb t tlb = getTlb s tlb ++ [e]) ∧
          (8 ≤ ((getTlb s tlb).filter fun x => setIndex tlb x == setIndex tlb e).length →
            ∃ x ∈ getTlb s tlb, setIndex tlb x = setIndex tlb e ∧ getTlb t tlb = (getTlb s tlb).erase x ++ [e])) ∧
      (walkEnt s part a.toNat = none → exec (.tlbWalk tlb part a) s = .next s)) ∧
    (∀ (s : State) (core part : Nat) (a : W64) (e : TlbEnt), core < 2560 → tlbHit (getTlb s core) part a.toNat = none →
      tlbHit (getTlb s (2560 + dieOf core)) part a.toNat = some e → (getTlb s core).length < 64 →
      ∃ t, exec (.tlbWalk core part a) s = .next t ∧ getTlb t core = getTlb s core ++ [e] ∧
        (∀ n, n ≠ core → getTlb t n = getTlb s n) ∧ t.pile = s.pile) ∧
    (∀ (s : State) (tlb : Nat) (v : Inval) (r : List Inval), s.inval = v :: r → v ∉ r → tlb < 2617 → tlb ∈ v.tlbs →
      v.moveTo = none → s.crown.ready = true →
      ∃ t, exec (.tlbInvalidate { tlb := tlb }) s = .next t ∧
        (∀ e ∈ getTlb t tlb, ¬ (e.part = v.part ∧ e.dva < v.dva + v.size ∧ v.dva < e.dva + e.size ∧ 0 < e.size ∧ 0 < v.size)) ∧
        ((∃ n ∈ v.tlbs, n ≠ tlb) → t.inval = { v with tlbs := v.tlbs.filter fun n => n != tlb } :: r ∧ t.pile = s.pile) ∧
        ((∀ n ∈ v.tlbs, n = tlb) → t.inval = r ∧ t.pile.alloc = s.pile.alloc.filter fun x => !v.free.contains x) ∧
        t.parts = s.parts ∧ t.cmds = s.cmds) ∧
    (∀ (s : State) (tlb : Nat) (v : Inval) (r : List Inval), s.inval = v :: r → tlb ∈ v.tlbs → (∀ n ∈ v.tlbs, n = tlb) →
      s.crown.ready = false → exec (.tlbInvalidate { tlb := tlb }) s = .next s) ∧
    (∀ (s : State) (tlb p dva pile size pa : Nat) (e : W64) (s1 : State), s.inval = [] → tlb < 2617 →
      s.crown.ready = true → partOk p = true → dva < 2 ^ 48 → pile < 16 → (pteAt s p dva).1 = e → (pteAt s p dva).2.1 = size →
      pteP e = true → inWindow s p (dva / size * size) size = false →
      physAlloc s pile size size (.page p) = some (pa, s1) →
      ∃ t, exec (.tlbInvalidate { tlb := tlb, move := some (p, dva, pile) }) s = .next t ∧ t.cmds = s.cmds ∧ t.streams = s.streams ∧
        t.inval = [{ part := p, dva := dva / size * size, size := size, tlbs := (List.range 2617).filter fun n => n != tlb,
                     free := [], moveTo := some pa }]))

/-- Residency. A swap-out writes the image to the swap area, frees the stream's regions and marks it swapped; a
refused write ends it and leaves the state where it is. A swap-in reads the image there and puts the stream in one
pile; a bad image, or none, damages it, and a command that waits for it completes with STATE_DAMAGED. A move copies
the state, changes the home and tells every core, once the Crown may inject the broadcast; the last core that hears of
it ends the move. -/
def Obligations.SwapsAndMoves : Prop :=
  (∀ (s : State) (st a p : Nat) (refused : Bool), s.crown.ready = true → homed s st = true → streamQuiet s st = true →
    swapWanted s st = true → (getStream s st).objs.findSome? (objBad s) = none →
    swapPlace s (getStream s st).part (swapBytes (getStream s st).objs) = some (a, p) →
    (refused = true → ∃ t, exec (.swapOut st refused) s = .next t ∧
      t.streams = (setStream s st { getStream s st with move := none }).streams ∧ t.pile = s.pile ∧ t.io = s.io ∧
      t.cmds.map Cmd.stage = s.cmds.map Cmd.stage) ∧
    (refused = false → ∃ t w, exec (.swapOut st refused) s = .next t ∧ t.io.dma = s.io.dma ++ [w] ∧ w.addr = a ∧
      w.pasid = some p ∧ fieldLE w.data 0 8 = (siphash (Config.bootKey s.sec.boots)
        ((getStream s st).objs.flatMap (objBytes s))).toNat ∧
      w.data.drop 64 = (getStream s st).objs.flatMap (objBytes s) ∧ (getStream t st).home = 0x1E ∧
      (getStream t st).swapAt = a ∧ (getStream t st).move = none ∧
      (getStream t st).position = (getStream s st).position ∧ (∀ n, n ≠ st → getStream t n = getStream s n) ∧
      t.pile.mem = s.pile.mem)) ∧
  (∀ (s : State) (st p : Nat), s.crown.ready = true → (getStream s st).home = 0x1E →
    chooseHome s (getStream s st).part st (getStream s st).defaultSet (getStream s st).objs = some p →
    ∀ u, u = swapRead s (getStream s st) →
    (∀ img, ((∃ v, img = .refused v) ∨ ∃ b, img = .data b ∧ swapGood s (getStream s st).objs b = false) →
      (waitingFor s st = none →
        exec (.swapIn st img) s = .next (setStream u st { getStream s st with damaged := true })) ∧
      (∀ c, s.cmds = [c] → c.stage = .queued → namesStream c st = true → waitsState c = true →
        (getRing s c.client c.ring).fault = false → c.lost = false →
        ∃ t w, exec (.swapIn st img) s = .next t ∧ t.cmds = [] ∧ t.io.dma = s.io.dma ++ [w] ∧
          fieldLE w.data 0 8 = c.desc.cookie.toNat ∧ fieldLE w.data 8 2 = 0x0015 ∧ (getStream t st).damaged = true)) ∧
    (∀ b o s1, swapGood s (getStream s st).objs b = true →
      placeObjs u p (getStream s st).part st (getStream s st).objs = some (o, s1) →
      ∃ t, exec (.swapIn st (.data b)) s = .next t ∧
        getStream t st = { getStream s st with objs := o, home := p, swapAt := 0 } ∧
        (∀ n, n ≠ st → getStream t n = getStream s n) ∧ t.cmds = s.cmds ∧ t.io = u.io)) ∧
  (∀ (s : State) (st pile : Nat) (o : List Obj) (s1 : State), s.crown.ready = true → homed s st = true →
    pileFenced s pile = false → pile < 16 → (getStream s st).home ≠ pile → streamQuiet s st = true → moveSent s st = false →
    moveWanted s st pile = true → (getStream s st).objs.findSome? (objBad s) = none →
    objsFit s pile (getStream s st).part st (getStream s st).objs = true → s.crown.mc0Wait = [] →
    placeObjs s pile (getStream s st).part st (getStream s st).objs = some (o, s1) →
    ∃ t, exec (.stateMove st pile) s = .next t ∧ (getStream t st).home = pile ∧
      (getStream t st).objs = o.map (fun y => { y with cur := [], wr := [] }) ∧
      (getStream t st).was = some ((getStream s st).home, (getStream s st).objs) ∧
      (0 < mc0Left s 0 → t.net = s.net ++ [.home (List.range 2560) st (getStream s st).home] ∧ t.crown.mc0Wait = []) ∧
      (mc0Left s 0 = 0 → t.net = s.net ∧ t.crown.mc0Wait = [.home (List.range 2560) st (getStream s st).home]) ∧
      (∀ n, n ≠ st → getStream t n = getStream s n)) ∧
  (∀ (s : State) (core st old other : Nat) (r : List Packet), meshOn s = true → s.net = .home [core, other] st old :: r →
    core ≠ other → r.all (fun p => match p with | .home _ _ _ => false | _ => true) = true →
    exec (.homeTableUpdate core) s = .next { s with net := .home [other] st old :: r }) ∧
  (∀ (s : State) (core st old : Nat) (r : List Packet), meshOn s = true → s.net = .home [core] st old :: r →
    ∃ t, exec (.homeTableUpdate core) s = .next t ∧ t.net = r ∧ (getStream t st).move = none ∧
      (getStream t st).home = (getStream s st).home ∧ t.pile.mem = s.pile.mem ∧
      ∀ e ∈ t.pile.alloc, e ∈ s.pile.alloc ∧ ¬ ((∃ p, e.owner = .state p st) ∧ e.base / 2 ^ 36 = old ∧
        e.base ∉ basesInUse s st))

/-- The CXL.mem window. While it is served, a read gives the line of its page and a write puts 64 bytes there; an
offset past SIZE reads ones, sets BOUNDS and keeps its offset; a line that cannot be corrected reads ones, takes no
write and sets UNCORR; while the window is not served, reads give ones and writes are dropped. Its registers take a
write while EN is 0: EN follows only for an enabled partition and a window inside device space. The registers of
partitions and clients. A write of dies that takes in no die of another partition and lets go of no die that holds a
rank is stored, any other sets REJECT alone; CTRL sets EN, MODE and HOLD; QUOTA keeps at most 768 GiB; the schedule of
a client keeps its weight and slice in their ranges, and its partition once it is registered. -/
def Obligations.WindowAndPartitionRegisters : Prop :=
  (
    (∀ (s : State) (off pa sz : Nat) (w : Bool), awake s → winLive s.memwin = true → off % 64 = 0 → off < winSize s.memwin →
      winTrans s off = .page pa sz w →
      (lineErrs s pa = [] → lineBad s pa = false → pa % 64 = 0 →
        ∃ t, exec (.cxlmemRead off) s = .next t ∧ t.io.line = memGet s.pile.mem pa 64 ∧ t.pile = s.pile ∧
          t.memwin = s.memwin ∧ t.io.dma = s.io.dma) ∧
      (∀ b : Bytes, b.length = 64 → w = true → pa % 64 = 0 → lineBad s pa = false →
        ∃ t, exec (.cxlmemWrite off b) s = .next t ∧ memGet t.pile.mem pa 64 = b ∧
          (∀ a, a < pa ∨ pa + 64 ≤ a → tget 0 t.pile.mem a = tget 0 s.pile.mem a) ∧ t.memwin = s.memwin ∧ t.io = s.io) ∧
      (∀ b : Bytes, w = false → ∃ t, exec (.cxlmemWrite off b) s = .next t ∧ t.memwin.status.getLsbD 2 = true ∧
        t.pile = s.pile) ∧
      (∀ b : Bytes, lineBad s pa = true → w = true → ∃ t u, exec (.cxlmemWrite off b) s = .next t ∧
        t.memwin.status.getLsbD 3 = true ∧ t.pile = s.pile ∧ exec (.cxlmemRead off) s = .next u ∧
        u.io.line = List.replicate 64 0xFF ∧ u.memwin.status.getLsbD 3 = true)) ∧
    (∀ (s : State) (off : Nat) (b : Bytes), awake s → winLive s.memwin = true → off % 64 = 0 → winSize s.memwin ≤ off →
      ∃ t u, exec (.cxlmemRead off) s = .next t ∧ t.io.line = List.replicate 64 0xFF ∧ t.memwin.status.getLsbD 0 = true ∧
        (s.memwin.status = 0 → t.memwin.fault = off) ∧ t.pile = s.pile ∧
        exec (.cxlmemWrite off b) s = .next u ∧ u.memwin.status.getLsbD 0 = true ∧ u.pile = s.pile) ∧
    (∀ (s : State) (off : Nat) (b : Bytes), awake s → winLive s.memwin = false →
      exec (.cxlmemRead off) s = .next { s with io := { s.io with line := List.replicate 64 0xFF } } ∧
        exec (.cxlmemWrite off b) s = .next s) ∧
    (∀ (s : State) (v : W32), awake s →
      (s.memwin.en = false → exec (.memwinCtrlWrite v) s = .next { s with memwin := { s.memwin with
        part := BitVec.ofNat 4 (bits v.toNat 19 16), size2m := BitVec.ofNat 16 (bits v.toNat 15 0)
        en := v.getLsbD 31 && ((getPart s (bits v.toNat 19 16)).en && decide (bits v.toNat 15 0 ≤ 32768) &&
          decide (s.memwin.baseHi.toNat * 2 ^ 32 + s.memwin.baseLo.toNat * 2 ^ 21 + bits v.toNat 15 0 * 2 ^ 21 ≤ 2 ^ 48)) } }) ∧
      (s.memwin.en = false → exec (.memwinBaseWrite true v) s =
          .next { s with memwin := { s.memwin with baseHi := BitVec.ofNat 16 (v.toNat % 2 ^ 16) } } ∧
        exec (.memwinBaseWrite false v) s =
          .next { s with memwin := { s.memwin with baseLo := BitVec.ofNat 11 (v.toNat / 2 ^ 21) } }) ∧
      (s.memwin.en = true → (∀ hi, exec (.memwinBaseWrite hi v) s = .next s) ∧
        (v.getLsbD 31 = true → exec (.memwinCtrlWrite v) s = .next s)))) ∧
  (
    (∀ (s : State) (n : Nat) (hi : Bool) (v : W32) (t : State), awake s → n < 16 →
      t = setPart s n (if hi then { getPart s n with diesHi := v.setWidth 8 } else { getPart s n with diesLo := v }) →
      ((∀ d, d < 40 → partHasDie t n d = true → partHasDie s n d = false →
          dieFenced s d = false ∧ ∀ p, p < 16 → p ≠ n → partHasDie s p d = false) →
        (∀ d, d < 40 → partHasDie t n d = false → partHasDie s n d = true → dieHolds s d = false) →
        exec (.partDiesWrite n hi v) s = .next t) ∧
      (∀ d, d < 40 → partHasDie t n d = true → partHasDie s n d = false → dieFenced s d = true →
        exec (.partDiesWrite n hi v) s = .next (setPart s n { getPart s n with reject := true }))) ∧
    (∀ (s : State) (n : Nat) (v : W32), awake s → n < 16 → (getPart s n).en = false →
      ((getPart s n).diesLo ≠ 0 ∨ (getPart s n).diesHi ≠ 0 →
        exec (.partCtrlWrite n v) s = .next (setPart s n { getPart s n with
          en := v.getLsbD 31, mode := v.getLsbD 28, hold := v.toNat % 16 })) ∧
      ((getPart s n).diesLo = 0 → (getPart s n).diesHi = 0 → v.getLsbD 31 = true →
        exec (.partCtrlWrite n v) s = .next (setPart s n { getPart s n with reject := true }))) ∧
    (∀ (s : State) (n : Nat) (v : W32), awake s → n < 16 →
      exec (.partQuotaWrite n v) s = .next (setPart s n { getPart s n with quota := min (v.toNat % 1024) 768 })) ∧
    (∀ (s : State) (c : Nat) (v : W32), awake s → clientOk c = true →
      exec (.clientSchedWrite c v) s = .next (setSched s c {
        weight := max (v.toNat / 2 ^ 28) 1, slice := min (max (bits v.toNat 24 12) 1) 4096
        part := if (getClient s c).reg then (getSched s c).part else v.toNat % 16 })))

/-! ## Floine ports and frames (13) -/

/-- Ports. Setting EN starts training, a write while EN stays 1 changes ADAPT alone, clearing EN takes the port down;
training that locks with a round trip of at most 3.0 µs brings the port up with every number, credit and buffer as at
first, a longer round trip fails it, and no lock is tried again after 1 s. A port that is up goes down for one of the
causes of R365, when it holds, and raises LINK_DOWN. A pair with no enabled port is switched off 10 ms after the last
EN was cleared. -/
def Obligations.PortsTrainAndFall : Prop :=
  (∀ (s : State) (p : Nat) (v : W32), awake s → portThere s p = true →
    ((getPort s p).en = false → v.getLsbD 31 = true →
      ∃ t, exec (.portCtrlWrite p v) s = .next t ∧ (getPort t p).en = true ∧ (getPort t p).state = 1 ∧
        (getPort t p).adapt = v.getLsbD 8 ∧
        (getPort t p).medium = (if bits v.toNat 1 0 < 2 then BitVec.ofNat 2 (bits v.toNat 1 0) else (getPort s p).medium) ∧
        (∀ q, q ≠ p → getPort t q = getPort s q) ∧ (15 + portPair p ∉ s.pwr.shut → 15 + portPair p ∉ t.pwr.domOff) ∧
        t.dom = s.dom ∧ t.cmds = s.cmds) ∧
    ((getPort s p).en = true → v.getLsbD 31 = true →
      exec (.portCtrlWrite p v) s = .next (setPort s p { getPort s p with adapt := v.getLsbD 8 })) ∧
    ((getPort s p).en = true → v.getLsbD 31 = false →
      ∃ t, exec (.portCtrlWrite p v) s = .next t ∧ (getPort t p).en = false ∧ (getPort t p).state = 0 ∧
        ((getPort s p).state = 2 → (getPort t p).wentDown = true) ∧
        (p ≠ 0 ∨ s.rst.clksel ≠ 2 → s.dom.inDomain = false → ∀ q, q ≠ p → getPort t q = getPort s q) ∧
        t.cmds = s.cmds)) ∧
  (∀ (s : State) (p : Nat) (a : TrainAns), portThere s p = true → portPowered s p = true → (getPort s p).en = true →
    (getPort s p).state ≠ 2 → 6 ≤ s.rst.step → (getPort s p).trainAt ≤ s.time →
    (a.locked = false → exec (.portTraining p a) s =
      .next (setPort s p { getPort s p with state := 1, trainAt := s.time + 1000000000 })) ∧
    (a.locked = true → s.pwr.onOsc = false →
      ∃ t, exec (.portTraining p a) s = .next t ∧ (getPort t p).state = (if 3000 < a.rttNs then 3 else 2) ∧
        (3000 < a.rttNs → (getPort t p).trainAt = s.time + 1000000000) ∧
        (getPort t p).rttNs = a.rttNs ∧ (getPort t p).delayNs = a.rttNs / 2 ∧ (getPort t p).peerPkg = a.peerPkg ∧
        (getPort t p).peerPair = a.peerPair ∧ (getPort t p).peerPort = a.peerPort ∧
        (getPort t p).txSeq = 0 ∧ (getPort t p).rxSeq = 0xFFFF ∧ (getPort t p).credit0 = 32 ∧
        (getPort t p).credit1 = 1024 ∧ (getPort t p).credit2 = 1024 ∧ (getPort t p).replay = [] ∧ (getPort t p).rx = [] ∧
        (getPort t p).routed = false ∧ (getPort t p).en = true ∧
        (s.dom.inDomain = false → ∀ q, q ≠ p → getPort t q = getPort s q) ∧ t.cmds = s.cmds)) ∧
  (∀ (s : State) (p cause : Nat), awake s → portThere s p = true → (getPort s p).state = 2 →
    (cause = 0 ∨ (cause = 1 ∧ 8 ≤ (getPort s p).replayRuns) ∨
      (cause = 2 ∧ 16 ≤ ((getPort s p).badAt.filter fun b => decide (s.time < b + 1000000)).length)) →
    ∃ t, exec (.portDown p cause) s = .next t ∧ (getPort t p).state = 0 ∧ (getPort t p).wentDown = true ∧
      (getPort t p).replay = [] ∧ (getPort t p).resend = [] ∧ (getPort t p).en = (getPort s p).en ∧
      (getPort t p).trainAt = s.time + 1000000000 ∧
      (s.tally.slots = [] → ∃ r, tget none t.tally.slots 0 = some r ∧ r.cls = 0x21 ∧ r.d1 = BitVec.ofNat 64 cause) ∧
      (p ≠ 0 ∨ s.rst.clksel ≠ 2 → s.dom.inDomain = false → ∀ q, q ≠ p → getPort t q = getPort s q) ∧
      t.cmds = s.cmds ∧ t.pile = s.pile) ∧
  (∀ (s : State) (p : Nat), ((getPort s p).replayRuns < 8 → exec (.portDown p 1) s = .next s) ∧
    (((getPort s p).badAt.filter fun b => decide (s.time < b + 1000000)).length < 16 → exec (.portDown p 2) s = .next s)) ∧
  (∀ (s : State) (k : Nat), tget 0 s.pwr.pairOffAt k ≠ 0 → tget 0 s.pwr.pairOffAt k ≤ s.time → pairEn s k = false →
    ∃ t, exec (.linkPairOff k) s = .next t ∧ 15 + k ∈ t.pwr.domOff ∧ tget 0 t.pwr.pairOffAt k = 0 ∧ t.ports = s.ports)

/-- Frames. A frame to be replayed goes first; a new one fills its 23 slots with FL0 before FL1 before FL2 within the
credits, and with FL0 alone until the keeper has routed the port; it takes the next sequence number and stays in the
replay buffer, which holds 256. A good image next in order is taken: its acknowledgement empties the replay buffer,
its credits are added up to the buffers' sizes, and a flit for this package leaves its input buffer and returns its
credit. A gap or a bad image is discarded and asks for a replay; a repeated frame changes nothing. A replay sends
every unacknowledged frame again. What a port that is up measures: the equaliser asks, in the next new frame, for each
lane that has asked for nothing for 1 ms; the eye height is kept up to 255 with the least of the day beside it, and
the delay is half the round trip of the last echo. -/
def Obligations.FramesAndPortMeasurements : Prop :=
  (
    (∀ (s : State) (p : Nat), portThere s p = true → (getPort s p).state = 2 → (getPort s p).rx = [] →
      (∀ f r, (getPort s p).resend = f :: r →
        ∃ t, exec (.frameSend p) s = .next t ∧ (getPort t p).resend = r ∧ (getPort t p).txSeq = (getPort s p).txSeq ∧
          t.io.wire = s.io.wire ++ [.frame p (frameBytes f (getPort s p).rxSeq
            (BitVec.ofNat 64 (linkTime s)) (echoOf s (getPort s p)))]) ∧
      ((getPort s p).resend = [] → (getPort s p).replay.length < 256 →
        ∃ t f a b c, exec (.frameSend p) s = .next t ∧
          t.io.wire = s.io.wire ++ [.frame p (frameBytes f (getPort s p).rxSeq
            (BitVec.ofNat 64 (linkTime s)) (echoOf s (getPort s p)))] ∧
          f.seq = (getPort s p).txSeq ∧ f.replay = (getPort s p).wantReplay ∧ f.slots = a ++ b ++ c ∧
          f.cr = [min (getPort s p).ret0 255, min ((getPort s p).ret1 / 8) 255, min ((getPort s p).ret2 / 8) 255] ∧
          (getPort t p).txSeq = (getPort s p).txSeq + 1 ∧ (getPort t p).wantReplay = false ∧
          (getPort t p).replay = (getPort s p).replay ++ [f] ∧
          a.length + b.length + c.length ≤ 23 ∧ ((getPort s p).routed = false → b = [] ∧ c = []) ∧
          (getPort s p).tx0 = a ++ (getPort t p).tx0 ∧ (getPort s p).tx1 = b ++ (getPort t p).tx1 ∧
          (getPort s p).tx2 = c ++ (getPort t p).tx2 ∧
          (getPort s p).credit0 = (getPort t p).credit0 + a.length ∧ (getPort s p).credit1 = (getPort t p).credit1 + b.length ∧
          (getPort s p).credit2 = (getPort t p).credit2 + c.length ∧
          (b ≠ [] → (getPort t p).tx0 = [] ∨ (getPort t p).credit0 = 0) ∧
          (c ≠ [] → (getPort t p).tx1 = [] ∨ (getPort t p).credit1 = 0) ∧
          (∀ n, n ≠ p → getPort t n = getPort s n) ∧ t.cmds = s.cmds) ∧
      ((getPort s p).resend = [] → 256 ≤ (getPort s p).replay.length →
        exec (.frameSend p) s = .next (moveOn s p) ∧ (moveOn s p).io = s.io ∧ ∀ n, getPort (moveOn s p) n = getPort s n)) ∧
    (∀ (s : State) (p : Nat) (f : FrameIn) (q : W16), portThere s p = true → (getPort s p).state = 2 →
      q = BitVec.ofNat 16 (fieldLE f.image 0 2) →
      (frameGood f.image = true → (∀ e ∈ f.fec, codewordBad e = false) →
        (q = (getPort s p).rxSeq + 1 → (getPort s p).rx = [] → (∀ y ∈ frameFlits f, y.dst = selfPkg s) →
          ∃ t, exec (.frameReceive p f) s = .next t ∧ (getPort t p).rxSeq = q ∧ (getPort t p).discarding = false ∧
            (getPort t p).replay = ackFrames (BitVec.ofNat 16 (fieldLE f.image 2 2)) (getPort s p).replay ∧
            (getPort t p).credit0 = min ((getPort s p).credit0 + fieldLE f.image 10 1) 32 ∧
            (getPort t p).credit1 = min ((getPort s p).credit1 + 8 * fieldLE f.image 11 1) 1024 ∧
            (getPort t p).credit2 = min ((getPort s p).credit2 + 8 * fieldLE f.image 12 1) 1024 ∧
            (getPort t p).rx = [] ∧
            (getPort t p).ret0 = (getPort s p).ret0 + ((frameFlits f).filter fun y => y.cls == 0).length ∧
            (getPort t p).ret1 = (getPort s p).ret1 + ((frameFlits f).filter fun y => y.cls == 1).length ∧
            (getPort t p).txSeq = (getPort s p).txSeq ∧ (∀ n, n ≠ p → getPort t n = getPort s n) ∧ t.dom = s.dom) ∧
        (∀ n, n = (q - (getPort s p).rxSeq).toNat → 1 < n → n < 0x8000 →
          exec (.frameReceive p f) s = .next (setPort s p { getPort s p with
            wantReplay := (getPort s p).wantReplay || !(getPort s p).discarding || decide (n ≤ (getPort s p).gapAt)
            discarding := true, gapAt := n })) ∧
        (q = (getPort s p).rxSeq ∨ 0x8000 ≤ (q - (getPort s p).rxSeq).toNat →
          exec (.frameReceive p f) s = .next (setPort s p (getPort s p)))) ∧
      (frameGood f.image = false ∨ (∃ e ∈ f.fec, codewordBad e = true) →
        ∃ t, exec (.frameReceive p f) s = .next t ∧ (getPort t p).wantReplay = true ∧ (getPort t p).discarding = true ∧
          ((∃ e ∈ f.fec, codewordBad e = true) → (getPort t p).uncorr = true) ∧
          (getPort t p).rxSeq = (getPort s p).rxSeq ∧ (getPort t p).replay = (getPort s p).replay ∧
          (getPort t p).credit0 = (getPort s p).credit0 ∧ (getPort t p).rx = (getPort s p).rx ∧
          (∀ n, n ≠ p → getPort t n = getPort s n) ∧ t.dom = s.dom)) ∧
    (∀ (s : State) (p : Nat), portThere s p = true → (getPort s p).state = 2 → (getPort s p).peerReplay = true →
      ∃ t, exec (.frameReplay p) s = .next t ∧ (getPort t p).peerReplay = false ∧
        (getPort t p).resend = (getPort s p).replay ∧ (getPort t p).replays = min ((getPort s p).replays + 1) 0xFFFF ∧
        (∀ f r, (getPort s p).replay = f :: r → (getPort s p).replayHead = f.seq → (getPort s p).replayRuns ≠ 0 →
          (getPort t p).replayRuns = (getPort s p).replayRuns + 1) ∧
        (∀ f r, (getPort s p).replay = f :: r → (getPort s p).replayHead ≠ f.seq → (getPort t p).replayRuns = 1) ∧
        (getPort t p).txSeq = (getPort s p).txSeq ∧ (getPort t p).replay = (getPort s p).replay ∧
        (∀ n, n ≠ p → getPort t n = getPort s n))) ∧
  (
    ∀ (s : State) (p : Nat), portThere s p = true → (getPort s p).state = 2 →
      (∀ req : List W16, (getPort s p).adapt = true → req.length = 4 →
        ∃ t, exec (.eqAdapt p req) s = .next t ∧ (∀ q, q ≠ p → getPort t q = getPort s q) ∧ t.io = s.io ∧
          (getPort t p).txSeq = (getPort s p).txSeq ∧
          ∀ l r, l < 4 → req[l]? = some r →
            (r ≠ 0 → tget 0 (getPort s p).eqAt l = 0 ∨ tget 0 (getPort s p).eqAt l + 1000000 ≤ s.time + 1 →
              tget 0 (getPort t p).eqOut l = r ∧ tget 0 (getPort t p).eqAt l = s.time + 1) ∧
            (r = 0 ∨ (tget 0 (getPort s p).eqAt l ≠ 0 ∧ s.time + 1 < tget 0 (getPort s p).eqAt l + 1000000) →
              tget 0 (getPort t p).eqOut l = tget 0 (getPort s p).eqOut l)) ∧
      (∀ mv : Nat, ∃ t, exec (.marginMeasure p mv) s = .next t ∧
        getPort t p = { getPort s p with margin := min mv 255 } ∧
        tget 0 t.health.dayMin p =
          (if tget 0 s.health.dayMin p = 0 then min mv 255 + 1 else min (tget 0 s.health.dayMin p) (min mv 255 + 1)) ∧
        (∀ q, q ≠ p → getPort t q = getPort s q ∧ tget 0 t.health.dayMin q = tget 0 s.health.dayMin q)) ∧
      (∀ (x : W64) (at_ : Nat), (getPort s p).echo = some (x, at_) →
        exec (.linkDelayMeasure p) s = .next (setPort s p { getPort s p with
          rttNs := (at_ - x.toNat) * 5 / 8, delayNs := (at_ - x.toNat) * 5 / 8 / 2 })))

/-! ## The domain (13) -/

/-- Control messages act once. An acknowledgement ends what it names; a new message is acknowledged and kept; one that
has been seen is only acknowledged again. Without an acknowledgement a message goes again after 50 µs, and after 2 ms
its destination counts as gone: it leaves the keeper's roster, or the keeper is told. Members go. Who hears of a
departure drops the member from roster and routes; the keeper also keeps its number, and frees it 1 s later. -/
def Obligations.ControlMessagesAndMembers : Prop :=
  (
    (∀ (s : State) (src seq : Nat) (m : Ctl), awake s → s.dom.leaving = none →
      exec (.controlMessageArrive src seq true m) s = .next { s with dom := { s.dom with
        ctl := s.dom.ctl.filter fun x => !(x.seq == seq && x.dst == src)
        resend := s.dom.resend.filter fun u => !(u.seq == seq && u.dst / 4096 == src) } } ∧
      (s.dom.seen.contains (src, seq) = true →
        ∃ t, exec (.controlMessageArrive src seq false m) s = .next t ∧ t.dom = s.dom ∧ t.cmds = s.cmds ∧
          (fl0Free s 1 → t.io.wire = s.io.wire ++ [.ctlAck src seq])) ∧
      (s.dom.seen.contains (src, seq) = false →
        (∃ n, m = .departure n ∨ (∃ d, m = .timeMark n d) ∨ m = .claim n ∨ (∃ q, m = .route n q) ∨
          (∃ a b c, m = .subscribe n a b c)) →
        ∃ t, exec (.controlMessageArrive src seq false m) s = .next t ∧ t.dom.got = s.dom.got ++ [(src, m)] ∧
          t.dom.seen = s.dom.seen ++ [(src, seq)] ∧ (fl0Free s 1 → t.io.wire = s.io.wire ++ [.ctlAck src seq]) ∧
          t.dom.roster = s.dom.roster ∧ t.dom.routes = s.dom.routes ∧ t.cmds = s.cmds) ∧
      (∀ l, s.dom.seen.contains (src, seq) = false → m = .roster l →
        ∃ t, exec (.controlMessageArrive src seq false m) s = .next t ∧ t.dom.roster = l ∧ t.dom.members = l.length ∧
          t.dom.got = s.dom.got)) ∧
    (∀ (s : State) (x : CtlOut), x ∈ s.dom.ctl → (∀ y ∈ s.dom.ctl, y.seq = x.seq → y = x) → x.sentAt + 50000 ≤ s.time →
      ∃ t, exec (.controlResend x.seq) s = .next t ∧ (fl0Free s 1 → t.io.wire = s.io.wire ++ [.ctl x.dst x.seq x.m]) ∧
        t.dom.ctl = s.dom.ctl.map (fun y => if y.seq == x.seq then { y with sentAt := s.time } else y) ∧ t.cmds = s.cmds) ∧
    (∀ (s : State) (seq : Nat), (∀ x ∈ s.dom.ctl, x.seq = seq → s.time < x.sentAt + 50000) →
      (∀ u ∈ s.dom.resend, u.seq = seq → s.time < u.sentAt + 50000) → exec (.controlResend seq) s = .next s) ∧
    (∀ (s : State) (x : CtlOut), x ∈ s.dom.ctl → (∀ y ∈ s.dom.ctl, y.seq = x.seq → y = x) → x.firstAt + 2000000 ≤ s.time →
      s.dom.leaving = none → s.dom.inDomain = true → s.dom.roster.contains x.dst = true →
      ∃ t, exec (.ackTimeout x.seq) s = .next t ∧ x ∉ t.dom.ctl ∧
        (s.dom.keeper = true → x.dst ∉ t.dom.roster) ∧
        (s.dom.keeper = false → x.dst ≠ s.dom.keeperPkg → fl0Free s 1 →
          t.io.wire = s.io.wire ++ [.ctl s.dom.keeperPkg s.dom.ctlSeq (.departure x.dst)]) ∧
        t.sets = s.sets)) ∧
  (
    (∀ (s : State) (src pkg : Nat) (r : List (Nat × Ctl)), s.dom.got = (src, .departure pkg) :: r → s.dom.inDomain = true →
      pkg ≠ selfPkg s →
      (s.dom.keeper = false → ∃ t, exec .memberGone s = .next t ∧ t.dom.roster = (s.dom.roster.filter fun m => m != pkg) ∧
        t.dom.members = t.dom.roster.length ∧ tget none t.dom.routes pkg = none ∧ t.dom.got = r ∧
        t.dom.inDomain = true ∧ t.sets = s.sets) ∧
      (s.dom.keeper = true → s.dom.roster.contains pkg = true →
        ∃ t, exec .memberGone s = .next t ∧ pkg ∉ t.dom.roster ∧ tget none t.dom.routes pkg = none ∧
          tget 0 t.dom.freeing pkg = s.time + 1 ∧ t.dom.got = r ∧ t.sets = s.sets)) ∧
    (∀ (s : State) (pkg : Nat), tget 0 s.dom.freeing pkg ≠ 0 →
      (tget 0 s.dom.freeing pkg + 1000000000 ≤ s.time + 1 → exec (.packageNumberFree pkg) s =
        .next { s with dom := { s.dom with freeing := tput 0 s.dom.freeing pkg 0 } }) ∧
      (s.time + 1 < tget 0 s.dom.freeing pkg + 1000000000 → exec (.packageNumberFree pkg) s = .next s)))

/-- Routes and joins. A member writes the routes its keeper sends and no others; the keeper's own routes are the first
hops of its tree, and its place in it the ports to its children. A join reaches the keeper through a member, is
challenged with a nonce of its own, and is granted a free number for a right proof of it, refused for a wrong one.
Joins end. A refusal is answered REFUSED; a grant takes effect with the domain's next bead mark, whose count the bead
takes, and the neighbours hear of it; with no answer for 1 s a package that may found the domain becomes its keeper,
and one that may not is answered REFUSED. -/
def Obligations.RoutesAndJoins : Prop :=
  (
    (∀ (s : State) (src d : Nat) (p : Option Nat) (r : List (Nat × Ctl)), s.crown.ready = true → s.dom.inDomain = true →
      s.dom.keeper = false → s.dom.got = (src, .route d p) :: r →
      (src = s.dom.keeperPkg → ∃ t, exec .routeUpdate s = .next t ∧ tget none t.dom.routes d = p ∧
        (∀ n, n ≠ d → tget none t.dom.routes n = tget none s.dom.routes n) ∧
        (∀ q, p = some q → (getPort t q).routed = true) ∧ t.dom.got = r ∧ t.cmds = s.cmds) ∧
      (src ≠ s.dom.keeperPkg → exec .routeUpdate s = .next { s with dom := { s.dom with got := r } })) ∧
    (∀ s : State, s.crown.ready = true → s.dom.inDomain = true → s.dom.keeper = true → s.dom.got = [] →
      ∃ t, exec .routeUpdate s = .next t ∧ t.dom.roster = s.dom.roster ∧ t.dom.edges = s.dom.edges ∧
        (selfPkg s ∈ s.dom.roster → t.dom.children = childPorts (treeOf s.dom.edges (selfPkg s)) (selfPkg s) ∧
          ∀ d ∈ s.dom.roster, d ≠ selfPkg s →
            tget none t.dom.routes d = hop (treeOf s.dom.edges (selfPkg s)) (selfPkg s) (selfPkg s) d)) ∧
    (∀ (s : State) (src want via : Nat) (demand pair : Bool) (id proof nonce : W64) (r : List (Nat × Ctl)),
      s.dom.got = (src, .joinRequest want demand pair id proof nonce via) :: r → s.dom.inDomain = true → id = s.dom.domId →
      (s.dom.keeper = false → 65536 ≤ src → ∃ t, exec (.joinRequest src) s = .next t ∧ t.dom.got = r ∧
        sends t s.dom.keeperPkg (.joinRequest want demand pair id proof nonce (src - 65536 + 1)) ∧
        t.dom.roster = s.dom.roster) ∧
      (s.dom.keeper = true → nonce = 0 → ∃ t n, exec (.joinRequest src) s = .next t ∧
        t.dom.nonces = s.dom.nonces ++ [(src, via, n)] ∧ sends t src (.challenge n via) ∧ t.dom.roster = s.dom.roster) ∧
      (s.dom.keeper = true → nonce ≠ 0 →
        (src, via, nonce) ∉ s.dom.nonces ∨ proof ≠ siphash s.dom.key (leN 8 nonce.toNat) →
        ∃ t, exec (.joinRequest src) s = .next t ∧ sends t src (.joinRefuse via) ∧
          t.dom.roster = s.dom.roster ∧ t.dom.members = s.dom.members) ∧
      (∀ n, s.dom.keeper = true → nonce ≠ 0 → (src, via, nonce) ∈ s.dom.nonces → proof = siphash s.dom.key (leN 8 nonce.toNat) →
        s.dom.members < 32768 → assignNumber s want pair = some n → (demand = true → n = want) →
        ∃ t, exec (.joinRequest src) s = .next t ∧ t.dom.roster = s.dom.roster ++ [b2n pair * 32768 + n] ∧
          t.dom.members = s.dom.members + 1 ∧ (∀ x ∈ t.dom.nonces, x.1 = src → x.2.1 ≠ via) ∧
          sends t src (.joinGrant (b2n pair * 32768 + n) s.bead.count s.bead.curPeriod (selfPkg s) via) ∧
          t.cmds = s.cmds ∧ t.streams = s.streams))) ∧
  (
    ∀ (s : State) (j : Join) (q : Req), s.dom.join = some j → s.mail.slow.find? (fun x => x.1 == j.chan) = some (j.chan, q) →
      (∀ src via r, s.dom.got = (src, .joinRefuse via) :: r →
        ∃ t, exec .joinComplete s = .next t ∧ t.dom.join = none ∧ t.dom.inDomain = s.dom.inDomain ∧
          replied s t j.chan (replyBytes q.msg 6 []) ∧ t.bead = s.bead) ∧
      (∀ src via k keeper c0 count p0 p d r,
        s.dom.got = (src, .joinGrant k c0 p0 keeper via) :: (src, .beadMark count p d) :: r → k ≠ keeper →
        (∀ x ∈ r, ∀ v, x.2 ≠ .joinRefuse v) →
        ∃ t, exec .joinComplete s = .next t ∧ t.dom.join = none ∧ t.dom.inDomain = true ∧ t.dom.pkg = k % 32768 ∧
          t.dom.pair = decide (32768 ≤ k) ∧ t.dom.keeperPkg = keeper ∧ t.dom.keeper = false ∧ t.bead.count = count ∧
          t.bead.edge = s.time ∧ replied s t j.chan (replyBytes q.msg 0 (leN 2 (k % 32768))) ∧
          (∀ n, n < 72 → (getPort s n).state = 2 → sends t (nearby n) (.neighbour k)) ∧
          t.cmds = s.cmds ∧ t.streams = s.streams) ∧
      ((∀ x ∈ s.dom.got, (∀ v, x.2 ≠ .joinRefuse v) ∧ ∀ a b c e f, x.2 ≠ .joinGrant a b c e f) →
        j.at_ + 1000000000 ≤ s.time →
        (j.found = true → ∃ t k, exec .domainFound s = .next t ∧
          k = b2n s.dom.cfgPair * 32768 + (if j.want < 32768 then j.want else 0) ∧ t.dom.inDomain = true ∧
          t.dom.keeper = true ∧ t.dom.keeperPkg = k ∧ t.dom.roster = [k] ∧ t.dom.members = 1 ∧ t.dom.join = none ∧
          replied s t j.chan (replyBytes q.msg 0 (leN 2 (k % 32768))) ∧ t.bead = s.bead) ∧
        (j.found = false → ∃ t, exec .domainFound s = .next t ∧ t.dom.join = none ∧ t.dom.inDomain = s.dom.inDomain ∧
          replied s t j.chan (replyBytes q.msg 6 []))))

/-- Keepers. After 4 ms without a time mark a member claims over every port that is up, yields to a lower number and
passes it on over the other ports; 1 ms later the lowest claim is the keeper. The fragment with the higher keeper
dissolves when two meet. Marks. The keeper sends a time mark every 125 µs and a bead mark at every boundary to its
children in the tree, and a member sends both on with the delay of its link added. A member takes from a time mark the
difference of the clocks, which moves the boundaries of a domain bead as it grows, and from a bead mark the period and
the boundary; a selection of the domain bead applies there. 4 ms without a time mark end alignment. That a bead mark's
period holds for the bead in progress is the model's choice (notes/assumptions/48.md). -/
def Obligations.KeepersAndMarks : Prop :=
  (
    (∀ s : State, s.dom.inDomain = true → s.dom.keeper = false → s.dom.lastMark + 4000000 ≤ s.time →
      (s.dom.claim = none → ∃ t, exec (.keeperClaim none) s = .next t ∧ t.dom.claim = some (selfPkg s, s.time) ∧
        (∀ p, p < 72 → (getPort s p).state = 2 → sends t (nearby p) (.claim (selfPkg s))) ∧
        t.dom.keeper = false ∧ t.dom.roster = s.dom.roster ∧ t.cmds = s.cmds) ∧
      (∀ k t0 n src r, s.dom.claim = some (k, t0) → s.dom.got = (src, .claim n) :: r →
        (n < k → ∃ t, exec (.keeperClaim (some n)) s = .next t ∧ t.dom.claim = some (n, s.time) ∧ t.dom.got = r ∧
          (∀ p, p < 72 → (getPort s p).state = 2 → nearby p ≠ src → sends t (nearby p) (.claim n)) ∧ t.cmds = s.cmds) ∧
        (k ≤ n → exec (.keeperClaim (some n)) s = .next { s with dom := { s.dom with got := r } }))) ∧
    (∀ (s : State) (k t0 : Nat), s.dom.inDomain = true → s.dom.claim = some (k, t0) →
      (t0 + 1000000 ≤ s.time → ∃ t, exec .keeperElect s = .next t ∧ t.dom.keeperPkg = k ∧
        t.dom.keeper = (k == selfPkg s) ∧ t.dom.claim = none ∧ t.dom.lastMark = s.time ∧ t.dom.inDomain = true ∧
        t.cmds = s.cmds) ∧
      (s.time < t0 + 1000000 → exec .keeperElect s = .next s)) ∧
    (∀ (s : State) (p k : Nat), s.dom.inDomain = true → (getPort s p).state = 2 →
      (k < s.dom.keeperPkg → ∃ t, exec (.domainSplit p k) s = .next t ∧ t.dom.inDomain = false ∧ t.dom.keeper = false ∧
        t.dom.pkg = 0 ∧ t.dom.pair = false ∧ t.dom.roster = [] ∧ t.dom.routes = [] ∧ t.sets = s.sets) ∧
      (s.dom.keeperPkg ≤ k → exec (.domainSplit p k) s = .next s))) ∧
  (
    (∀ s : State, s.dom.inDomain = true → s.dom.keeper = true →
      (s.dom.lastMark + 125000 ≤ s.time → ∃ t, exec .timeMark s = .next t ∧ t.dom.lastMark = s.time ∧
        (∀ p ∈ s.dom.children, sends t (nearby p) (.timeMark s.time 0)) ∧ t.bead = s.bead ∧ t.cmds = s.cmds) ∧
      (s.time < s.dom.lastMark + 125000 → exec .timeMark s = .next s) ∧
      (s.bead.en = true → s.time = s.bead.edge → ∃ t, exec .beadMark s = .next t ∧ t.bead = s.bead ∧
        (∀ p ∈ s.dom.children, sends t (nearby p) (.beadMark s.bead.count s.bead.curPeriod 0)) ∧
        t.dom.lastMark = s.dom.lastMark)) ∧
    (∀ (s : State) (src t0 d delay : Nat) (ph : Int) (r : List (Nat × Ctl)), s.dom.inDomain = true → s.dom.keeper = false →
      s.dom.got = (src, .timeMark t0 d) :: r → delay = d + (getPort s (src - 65536)).delayNs →
      ph = (s.time : Int) - (t0 + delay : Nat) →
      ∃ t, exec .timeMark s = .next t ∧ t.dom.got = r ∧ t.dom.lastMark = s.time ∧ t.dom.phase = some ph ∧
        t.dom.aligned = (s.bead.activeRef == 6) ∧ (∀ p ∈ s.dom.children, sends t (nearby p) (.timeMark t0 delay)) ∧
        (s.bead.activeRef ≠ 6 ∨ s.dom.phase = none → t.bead = s.bead) ∧
        (∀ old, s.bead.activeRef = 6 → s.dom.phase = some old →
          t.bead = { s.bead with from3 := ((s.bead.from3 : Int) + 3 * (ph - old)).toNat })) ∧
    (∀ (s : State) (src d delay : Nat) (count : W64) (p : W16) (r : List (Nat × Ctl)), s.dom.inDomain = true →
      s.dom.keeper = false → s.dom.got = (src, .beadMark count p d) :: r → delay = d + (getPort s (src - 65536)).delayNs →
      ∃ t, exec .beadMark s = .next t ∧ t.dom.got = r ∧
        (∀ q ∈ s.dom.children, sends t (nearby q) (.beadMark count p delay)) ∧
        (s.bead.refsel ≠ 6 → t.bead = s.bead) ∧
        (s.bead.refsel = 6 → t.bead.period = p) ∧
        (s.bead.refsel = 6 → s.bead.activeRef ≠ 6 → s.bead.pendingWr = false → t.bead = { s.bead with period := p }) ∧
        (s.bead.refsel = 6 → s.bead.activeRef ≠ 6 → s.bead.pendingWr = true →
          t.bead.activeRef = 6 ∧ t.bead.pendingWr = false ∧ t.bead.curPeriod = p ∧ t.bead.count = s.bead.count + 1 ∧
          t.bead.edge = s.time ∧ t.bead.from3 = 3 * (s.time - delay)) ∧
        (s.bead.refsel = 6 → s.bead.activeRef = 6 → t.bead.curPeriod = p ∧ t.bead.from3 = 3 * (s.time - delay) ∧
          (s.bead.en = true → s.bead.edge + p.toNat * 62500 / 6 ≤ s.time →
            t.bead.count = s.bead.count + 1 ∧ t.bead.edge = s.time) ∧
          (s.time < s.bead.edge + p.toNat * 62500 / 6 → t.bead.count = s.bead.count ∧ t.bead.edge = s.bead.edge))) ∧
    (∀ s : State, s.dom.inDomain = true → s.bead.activeRef = 6 →
      (s.dom.lastMark + 4000000 ≤ s.time → ∃ t, exec .beadAlignLost s = .next t ∧
        t.bead = { s.bead with activeRef := 0, fallback := true } ∧ t.dom.aligned = false ∧ t.dom.roster = s.dom.roster ∧
        t.cmds = s.cmds) ∧
      (s.time < s.dom.lastMark + 4000000 → exec .beadAlignLost s = .next s)))

/-- Commit reports. A subscription of another package that is met, unreachable or asked once is answered at once,
another is held until it is met, and one beyond 8,192 is answered busy; a withdrawal ends it. The answer meets the
command's dependency, has it ask again after 100 µs, or ends it with REMOTE_UNREACHABLE. The registers of announce
slots and mirroring. A slot takes a write while its EN is 0 or the write clears it; the bits of open streams in a
mirror word keep their value, and a write that would change one sets BAD_MIRROR. -/
def Obligations.CommitReportsAndDomainRegisters : Prop :=
  (
    (∀ (s : State) (src slot seq cmd : Nat) (once : Bool) (r : List (Nat × Ctl)),
      s.dom.got = (src, .subscribe slot seq once cmd) :: r →
      (localDep s slot seq ≠ .unmet ∨ once = true → ∃ t, exec .subscription s = .next t ∧ t.dom.subs = s.dom.subs ∧
        t.dom.got = r ∧ sends t src (.report cmd (depCode (localDep s slot seq)))) ∧
      (localDep s slot seq = .unmet → once = false → s.dom.subs.length < 8192 →
        exec .subscription s = .next { s with dom := { s.dom with
          got := r, subs := s.dom.subs ++ [{ src := src, cmd := cmd, slot := slot, seq := seq }] } }) ∧
      (localDep s slot seq = .unmet → once = false → 8192 ≤ s.dom.subs.length → ∃ t, exec .subscription s = .next t ∧
        t.dom.subs = s.dom.subs ∧ sends t src (.report cmd 3))) ∧
    (∀ (s : State) (src cmd : Nat) (r : List (Nat × Ctl)), s.dom.got = (src, .withdraw cmd) :: r →
      exec .subscription s = .next { s with dom := { s.dom with
        got := r, subs := s.dom.subs.filter fun x => !(x.src == src && x.cmd == cmd) } }) ∧
    (∀ (s : State) (x : Sub) (r : List Sub), s.dom.got = [] → s.dom.subs = x :: r → x ∉ r → localDep s x.slot x.seq = .met →
      ∃ t, exec .subscription s = .next t ∧ t.dom.subs = r ∧
        (x.src ≠ 65536 → sends t x.src (.report x.cmd 1)) ∧
        (∀ c d, x.src = 65536 → getCmd s x.cmd = some c → c.dep = some d →
          getCmd t x.cmd = some { c with dep := some { d with met := true } })) ∧
    (∀ (s : State) (src cmd a : Nat) (c : Cmd) (d : Dep) (r : List (Nat × Ctl)), s.dom.got = (src, .report cmd a) :: r →
      getCmd s cmd = some c → c.stage = .queued → c.dep = some d → d.pkg = src → d.own = false → d.met = false →
      (a = 1 → exec .subscriptionReply s = .next (modCmd { s with dom := { s.dom with got := r } } cmd
        fun x => { x with dep := some { d with met := true } })) ∧
      (a = 3 → exec .subscriptionReply s = .next (modCmd { s with dom := { s.dom with got := r } } cmd
        fun x => { x with dep := some { d with busyAt := some s.time } })) ∧
      (a = 2 → ∃ t, exec .subscriptionReply s = .next t ∧ getCmd t cmd = none ∧ t.sets = s.sets)) ∧
    (∀ (s : State) (id t0 : Nat) (c : Cmd) (d : Dep), getCmd s id = some c → c.stage = .queued → c.dep = some d →
      d.busyAt = some t0 →
      (t0 + 100000 ≤ s.time → d.own = false → exec (.subscriptionRetry id) s = .next (sendCtl
        (modCmd s id fun x => { x with dep := some { d with busyAt := none } }) d.pkg (.subscribe d.slot d.seq false id))) ∧
      (t0 + 100000 ≤ s.time → d.own = true → s.dom.subs.length < 8192 → ∃ t, exec (.subscriptionRetry id) s = .next t ∧
        getCmd t id = some { c with dep := some { d with busyAt := none } } ∧
        t.dom.subs = s.dom.subs ++ [{ src := 65536, cmd := id, slot := d.slot, seq := d.seq }]) ∧
      (s.time < t0 + 100000 → exec (.subscriptionRetry id) s = .next s))) ∧
  (
    (∀ (s : State) (n : Nat) (v : W32), awake s → n < 256 →
      ((tget {} s.dom.announce n).en = false ∨ v.getLsbD 31 = false → exec (.announceWrite n v) s =
        .next { s with dom := { s.dom with
          announce := tput {} s.dom.announce n
            { en := v.getLsbD 31, client := bits v.toNat 13 2, ring := bits v.toNat 1 0 } } }) ∧
      ((tget {} s.dom.announce n).en = true → v.getLsbD 31 = true → exec (.announceWrite n v) s = .next s)) ∧
    (∀ (s : State) (w : Nat) (v : W32), awake s → w < 512 →
      ∃ t, exec (.mirrorWrite w v) s = .next t ∧
        (∀ i, i < 32 → (tget (0 : W32) t.dom.mirror w).getLsbD i =
          if (getStream s (32 * w + i)).isOpen then (tget (0 : W32) s.dom.mirror w).getLsbD i else v.getLsbD i) ∧
        (∀ n, n ≠ w → tget (0 : W32) t.dom.mirror n = tget 0 s.dom.mirror n) ∧
        ((∃ i, i < 32 ∧ (getStream s (32 * w + i)).isOpen = true ∧
          (tget (0 : W32) s.dom.mirror w).getLsbD i ≠ v.getLsbD i) → t.dom.badMirror = true) ∧
        ((∀ i, i < 32 → (getStream s (32 * w + i)).isOpen = true →
          (tget (0 : W32) s.dom.mirror w).getLsbD i = v.getLsbD i) → t.dom.badMirror = s.dom.badMirror) ∧
        t.streams = s.streams ∧ t.cmds = s.cmds))

/-! ## Host link and mailboxes (14) -/

/-- The host link and the mailbox registers. The link comes up on the pairs of modules that train. A DATA word or a
SEND of 1 to 64 bytes enters an empty mailbox, one to a full mailbox or of another length sets REJECT and reports the
error, advisory or fatal; the firmware takes the message; a reply that waits enters an empty mailbox and raises the
channel's vector, and a message of no known type is answered BAD_TYPE there; CLEAR empties it. A request with a byte
that its type keeps at 0 is answered BAD_FIELD and does nothing else. -/
def Obligations.HostLinkAndMailboxes : Prop :=
  (
    (∀ (s : State) (m01 m23 : Bool), crownUp s = true → 2 ∉ s.pwr.domOff →
      ∃ t, exec (.hostLinkTrain m01 m23) s = .next t ∧ t.crown.linkUp = (m01 || m23) ∧
        t.crown.degraded = (m01 != m23) ∧ t.crown.modules.getLsbD 0 = m01 ∧ t.crown.modules.getLsbD 1 = m01 ∧
        t.crown.modules.getLsbD 2 = m23 ∧ t.crown.modules.getLsbD 3 = m23 ∧ t.crown.ready = s.crown.ready ∧
        t.mail = s.mail ∧ t.cmds = s.cmds) ∧
    (∀ (s : State) (m w : Nat) (v : W32), awake s → mailOk m = true → w < 16 →
      ((getH2f s m).full = false → exec (.mailboxDataWrite m w v) s =
        .next (setH2f s m { getH2f s m with data := tput 0 (getH2f s m).data w v })) ∧
      ((getH2f s m).full = true → ∃ t, exec (.mailboxDataWrite m w v) s = .next t ∧
        getH2f t m = { getH2f s m with reject := true } ∧ t.io.aerAbort = true ∧
        t.io.aerLog = some (0x20000 + 0x80 * m + 4 * w) ∧
        (s.io.aerFatal = false → t.io.aerAdvisory = true ∧
          t.io.errs = (if s.io.corEn then s.io.errs ++ [.cor] else s.io.errs)) ∧
        (s.io.aerFatal = true → t.io.errs = s.io.errs ++ [.fatal]) ∧ t.cmds = s.cmds)) ∧
    (∀ (s : State) (m : Nat) (v : W32), awake s → mailOk m = true →
      ((getH2f s m).full = false → 1 ≤ bits v.toNat 6 0 → bits v.toNat 6 0 ≤ 64 → exec (.mailboxSend m v) s =
        .next (wakeCall (setH2f s m { getH2f s m with
          full := true, len := bits v.toNat 6 0, msg := (dataBytes (getH2f s m).data).take (bits v.toNat 6 0) }))) ∧
      ((getH2f s m).full = true ∨ bits v.toNat 6 0 = 0 ∨ 64 < bits v.toNat 6 0 →
        ∃ t, exec (.mailboxSend m v) s = .next t ∧ getH2f t m = { getH2f s m with reject := true } ∧
          t.io.aerAbort = true ∧ t.io.aerLog = some (0x20000 + 0x80 * m + 0x40) ∧ t.cmds = s.cmds) ∧
      (v.getLsbD 0 = true → exec (.mailboxClear m v) s = .next (setF2h s m {})) ∧
      (v.getLsbD 0 = false → exec (.mailboxClear m v) s = .next s)) ∧
    (∀ (s : State) (m : Nat), served s m = true →
      ((getH2f s m).full = true → ∃ t, exec (.mailboxTake m) s = .next t ∧
        getReqs t m = getReqs s m ++ [{ msg := (getH2f s m).msg, at_ := s.time }] ∧
        getH2f t m = { getH2f s m with data := [], full := false, len := 0, msg := [] } ∧ t.cmds = s.cmds) ∧
      (∀ b r, getReplies s m = b :: r → (getF2h s m).full = false →
        ∃ t, exec (.mailboxReply m) s = .next t ∧ getF2h t m = { data := b, full := true } ∧ getReplies t m = r ∧
          getReqs t m = getReqs s m ∧ t.io.msix = s.io.msix ++ [m]) ∧
      (∀ q l, (s.mail.slow.any fun x => x.1 == m) = false → getReplies s m = [] → (getF2h s m).full = false →
        getReqs s m = q :: l → typeOf s q.msg = none →
        ∃ t, exec (.mailboxReply m) s = .next t ∧ getF2h t m = { data := replyBytes q.msg 1 [], full := true } ∧
          getReqs t m = l ∧ t.io.msix = s.io.msix ++ [m]))) ∧
  (
    ∀ (s : State) (m ty : Nat) (f : Nat → Instr) (b : Bytes) (q : Req) (rest : List Req) (x : ReqType),
      (ty, f) ∈ [(0x01, Instr.clientRegister), (0x02, Instr.clientUnregister), (0x03, Instr.ringSet), (0x04, Instr.stop),
        (0x05, Instr.resume), (0x06, Instr.map), (0x07, Instr.unmap), (0x08, Instr.back), (0x09, Instr.swapArea),
        (0x0A, Instr.exportSet), (0x0B, Instr.streamRead), (0x0C, Instr.streamPlace), (0x10, Instr.domainSet),
        (0x11, Instr.domainJoin), (0x12, Instr.domainLeave), (0x20, Instr.attest), (0x22, Instr.rollbackAdvance)] →
      takesNext s m = true → getReqs s m = q :: rest → q.msg = b →
      fieldLE b 0 1 = ty → typeOf s b = some x → resvZero x b = false →
      exec (f m) s = .next (giveReply (setReqs s m rest) m (replyBytes b 2 [])))

/-- Clients and rings. CLIENT_REGISTER registers a client of an enabled partition, CLIENT_UNREGISTER closes its
streams and disables its pairs, RING_SET enables a pair at sequence number 0 or disables it, STOP kills the running
commands of the clients in scope and takes effect, with its reply, when they are quiescent; RESUME lets them go on. -/
def Obligations.ClientRequests : Prop :=
  (∀ (s : State) (m c : Nat) (b : Bytes) (rest : List Req), asks s m 0x01 b rest → c = fieldLE b 4 2 → clientOk c = true →
    ((getClient s c).reg = false → (getPart s (getSched s c).part).en = true →
      ∃ t, exec (.clientRegister m) s = .next t ∧ answered s t m b rest 0 [] ∧
        getClient t c = { reg := true, part := (getSched s c).part, weight := (getSched s c).weight } ∧ (∀ n, n ≠ c → getClient t n = getClient s n) ∧
        t.streams = s.streams ∧ t.cmds = s.cmds) ∧
    ((getClient s c).reg = true → ∃ t, exec (.clientRegister m) s = .next t ∧ answered s t m b rest 3 [] ∧
      t.clients = s.clients)) ∧
  (∀ (s : State) (m c : Nat) (b : Bytes) (rest : List Req), asks s m 0x02 b rest → c = fieldLE b 4 2 → clientOk c = true →
    (getClient s c).reg = true →
    ((∀ x ∈ s.cmds, x.client ≠ c) → ∃ t, exec (.clientUnregister m) s = .next t ∧ answered s t m b rest 0 [] ∧
      (getClient t c).reg = false ∧ (getClient t c).rings = [] ∧ (getClient t c).acct.debtNs = 0 ∧
      (∀ st, (getStream s st).isOpen = true → (getStream s st).client = c → (getStream t st).isOpen = false) ∧
      (∀ n, n ≠ c → getClient t n = getClient s n) ∧ t.cmds = s.cmds) ∧
    ((∃ x ∈ s.cmds, x.client = c) → ∃ t, exec (.clientUnregister m) s = .next t ∧ answered s t m b rest 3 [] ∧
      t.clients = s.clients ∧ t.streams = s.streams)) ∧
  (∀ (s : State) (m c n : Nat) (b : Bytes) (rest : List Req), asks s m 0x03 b rest → c = fieldLE b 4 2 →
    n = fieldLE b 6 1 → clientOk c = true → (getClient s c).reg = true → ringOk n = true →
    ((getRing s c n).en = false ∨ (getRing s c n).fault = true ∨ ∀ x ∈ s.cmds, ¬ (x.client = c ∧ x.ring = n)) →
    (ringFieldsOk b = true → ∃ t, exec (.ringSet m) s = .next t ∧ answered s t m b rest 0 [] ∧
      getRing t c n = { en := true, log2 := fieldLE b 7 1, sqBase := BitVec.ofNat 64 (fieldLE b 8 8),
                        cqBase := BitVec.ofNat 64 (fieldLE b 16 8), pasid := BitVec.ofNat 20 (fieldLE b 24 4),
                        vector := fieldLE b 28 2 } ∧
      (∀ k, k ≠ n → getRing t c k = getRing s c k) ∧ (∀ k, k ≠ c → getClient t k = getClient s k) ∧ t.cmds = s.cmds) ∧
    (fieldLE b 7 1 = 0 → ∃ t, exec (.ringSet m) s = .next t ∧ answered s t m b rest 0 [] ∧ getRing t c n = {} ∧
      (∀ k, k ≠ n → getRing t c k = getRing s c k)) ∧
    (fieldLE b 7 1 ≠ 0 → ringFieldsOk b = false → ∃ t, exec (.ringSet m) s = .next t ∧ answered s t m b rest 2 [] ∧
      t.clients = s.clients)) ∧
  (∀ (s : State) (m c : Nat) (b : Bytes) (rest : List Req), fieldLE b 4 1 = 0 → c = fieldLE b 6 2 → clientOk c = true →
    (asks s m 0x04 b rest → (getClient s c).reg = true → s.cmds = [] → ∃ t, exec (.stop m) s = .next t ∧
      answered s t m b rest 0 [] ∧ (getClient t c).stopped = true ∧ (∀ n, n ≠ c → getClient t n = getClient s n)) ∧
    (asks s m 0x05 b rest → (getClient s c).reg = true → ∃ t, exec (.resume m) s = .next t ∧ answered s t m b rest 0 [] ∧
      (getClient t c).stopped = false ∧ (∀ n, n ≠ c → getClient t n = getClient s n) ∧ t.cmds = s.cmds) ∧
    (asks s m 0x04 b rest → (getClient s c).reg = true → (getClient s c).stopped = false → (s.cmds.map Cmd.id).Nodup →
      (∃ x ∈ s.cmds, x.client = c ∧ x.stage = .running) → ∃ t q, exec (.stop m) s = .next t ∧
      t.mail.slow = s.mail.slow ++ [(m, q)] ∧ q.msg = b ∧ getReqs t m = rest ∧ getF2h t m = getF2h s m ∧
      (getClient t c).stopping = true ∧ (getClient t c).stopped = false ∧
      (∀ x ∈ t.cmds, x.client = c → x.stage ≠ .running) ∧ (∀ n, n ≠ c → getClient t n = getClient s n)) ∧
    (asks s m 0x04 b rest → (getClient s c).reg = false → ∃ t, exec (.stop m) s = .next t ∧
      answered s t m b rest 2 [] ∧ t.clients = s.clients)) ∧
  (∀ (s : State) (m c : Nat) (q : Req), served s m = true → mailFree s m = true →
    s.mail.slow.find? (fun x => x.1 == m) = some (m, q) → fieldLE q.msg 0 1 = 4 → fieldLE q.msg 4 1 = 0 →
    c = fieldLE q.msg 6 2 → (getClient s c).reg = true → (getClient s c).stopping = true → (getClient s c).stopped = false →
    scopeQuiet s q.msg = true →
    ∃ t, exec (.mailboxReply m) s = .next t ∧ (getClient t c).stopped = true ∧ (getClient t c).stopping = false ∧
      getF2h t m = { data := replyBytes q.msg 0 [], full := true } ∧ m ∈ t.io.msix)

/-- Device memory. MAP writes an entry for every page, lazy or with memory behind it, or is answered NO_ROOM, and a
range with a mapped page is answered BUSY; UNMAP of lazy pages clears their entries at once, of others when every TLB
has acknowledged; BACK gives lazy pages memory. An entry is 8 bytes of a table in pile memory. SWAP_AREA and
EXPORT_SET store what they carry. -/
def Obligations.DeviceMemoryRequests : Prop :=
  (∀ (s : State) (m size : Nat) (b : Bytes) (rest : List Req), asks s m 0x06 b rest → fieldLE b 25 1 ≤ 3 →
    (fieldLE b 24 1 = 0 ∧ size = 4096) ∨ (fieldLE b 24 1 = 1 ∧ size = 65536) ∨ (fieldLE b 24 1 = 2 ∧ size = 2 ^ 21) →
    rangeFits b size = true →
    (((pagesOf s (rPart b) (rDva b) (rBytes b)).any fun a => pteMapped (pteAt s (rPart b) a).1) = false →
      ∀ r, r = (if bitOf (fieldLE b 25 1) 1 then
          mapLazy (setReqs s m rest) (rPart b) size (bitOf (fieldLE b 25 1) 0) (pageList (rDva b) (rBytes b) size)
        else mapBacked (rPart b) size (bitOf (fieldLE b 25 1) 0) (setReqs s m rest) (pageList (rDva b) (rBytes b) size)) →
      (r = none → ∃ t, exec (.map m) s = .next t ∧ answered s t m b rest 4 [] ∧ t.parts = s.parts ∧ t.pile = s.pile) ∧
      (∀ u, r = some u → exec (.map m) s = .next (giveReply u m (replyBytes b 0 [])))) ∧
    (((pagesOf s (rPart b) (rDva b) (rBytes b)).any fun a => pteMapped (pteAt s (rPart b) a).1) = true →
      ∃ t, exec (.map m) s = .next t ∧ answered s t m b rest 3 [] ∧ t.parts = s.parts ∧ t.pile = s.pile)) ∧
  (∀ (s : State) (p key tbl a : Nat) (e : W64), s.pile.errs = [] → e ≠ 0 →
    tableAt s p (keyDva key) (3 - keyUp key) = some tbl → a = pteAddr tbl (keyDva key) (keyUp key) →
    pteTable (readPte s a) = false →
    ∃ t, putPte s p key e = some t ∧ memGet t.pile.mem a 8 = leN 8 e.toNat ∧ readPte t a = e ∧
      t.pile.alloc = s.pile.alloc ∧
      ∀ x, x < a ∨ a + 8 ≤ x → tget 0 t.pile.mem x = tget 0 s.pile.mem x) ∧
  (∀ (s : State) (m : Nat) (b : Bytes) (rest : List Req), asks s m 0x07 b rest → rangeFits b 4096 = true →
    pagesWhole (rDva b) (rBytes b) (mappedPages s (rPart b) (rDva b) (rBytes b)) = true →
    (rangeBusy s (rPart b) (rDva b) (rBytes b) = true → ∃ t, exec (.unmap m) s = .next t ∧ answered s t m b rest 3 [] ∧
      t.parts = s.parts ∧ t.inval = s.inval ∧ t.pile = s.pile) ∧
    (rangeBusy s (rPart b) (rDva b) (rBytes b) = false →
      ((∀ x ∈ mappedPages s (rPart b) (rDva b) (rBytes b), pteP x.2.1 = false ∧ pteSw x.2.1 = 2) →
        ∃ t, exec (.unmap m) s = .next t ∧ answered s t m b rest 0 [] ∧ t.inval = s.inval ∧
          t.pile = (((mappedPages s (rPart b) (rDva b) (rBytes b)).flatMap fun x => leafKeys x.1 x.2.2).foldl
            (fun u k => setPte u (rPart b) k 0) s).pile) ∧
      ((∃ x ∈ mappedPages s (rPart b) (rDva b) (rBytes b), pteP x.2.1 = true) → (∀ v ∈ s.inval, v.moveTo = none) →
        ∃ t v q, exec (.unmap m) s = .next t ∧ t.inval = s.inval ++ [v] ∧ v.part = rPart b ∧ v.dva = rDva b ∧
          v.size = rBytes b ∧ v.tlbs = List.range 2617 ∧ v.chan = some m ∧ v.moveTo = none ∧
          (∀ e ∈ v.free, e ∈ s.pile.alloc ∧ e.owner = .page (rPart b)) ∧
          t.mail.slow = s.mail.slow ++ [(m, q)] ∧ q.msg = b ∧ getF2h t m = getF2h s m ∧ t.pile.alloc = s.pile.alloc ∧
          t.pile = (((mappedPages s (rPart b) (rDva b) (rBytes b)).flatMap fun x => leafKeys x.1 x.2.2).foldl
            (fun u k => setPte u (rPart b) k 0) s).pile))) ∧
  (∀ (s : State) (m : Nat) (b : Bytes) (rest : List Req) (l : List (Nat × W64 × Nat)), asks s m 0x08 b rest →
    rangeFits b 4096 = true →
    l = (mappedPages s (rPart b) (rDva b) (rBytes b)).filter (fun x => !pteP x.2.1 && pteSw x.2.1 == 2) →
    pagesWhole (rDva b) (rBytes b) l = true →
    (∀ u, backPages (rPart b) (setReqs s m rest) l = some u →
      exec (.back m) s = .next (giveReply u m (replyBytes b 0 []))) ∧
    (backPages (rPart b) (setReqs s m rest) l = none → ∃ t, exec (.back m) s = .next t ∧ answered s t m b rest 4 [] ∧
      t.parts = s.parts)) ∧
  (∀ (s : State) (m : Nat) (b : Bytes) (rest : List Req), asks s m 0x09 b rest → partOk (rPart b) = true →
    rBytes b % 2 ^ 21 = 0 → fieldLE b 24 4 < 2 ^ 20 →
    ((∀ x ∈ s.streams, ¬ (x.2.part = rPart b ∧ x.2.home = 0x1E)) → ∃ t, exec (.swapArea m) s = .next t ∧
      answered s t m b rest 0 [] ∧
      getPart t (rPart b) = { getPart s (rPart b) with swap := some (rDva b, rBytes b, fieldLE b 24 4) } ∧
      (∀ p, p ≠ rPart b → getPart t p = getPart s p) ∧ t.streams = s.streams) ∧
    ((∃ x ∈ s.streams, x.2.part = rPart b ∧ x.2.home = 0x1E) → ∃ t, exec (.swapArea m) s = .next t ∧
      answered s t m b rest 3 [] ∧ t.parts = s.parts)) ∧
  (∀ (s : State) (m i : Nat) (b : Bytes) (rest : List Req), asks s m 0x0A b rest → partOk (rPart b) = true →
    i = fieldLE b 5 1 → i < 64 → rDva b + rBytes b ≤ 2 ^ 48 →
    ((∀ e, tget none s.dom.exports i = some e → e.part = rPart b) → ∃ t, exec (.exportSet m) s = .next t ∧
      answered s t m b rest 0 [] ∧ tget none t.dom.exports i =
        (if rBytes b = 0 then none else some { part := rPart b, dva := rDva b, bytes := rBytes b }) ∧
      (∀ k, k ≠ i → tget none t.dom.exports k = tget none s.dom.exports k) ∧ t.parts = s.parts) ∧
    (∀ e, tget none s.dom.exports i = some e → e.part ≠ rPart b → ∃ t, exec (.exportSet m) s = .next t ∧
      answered s t m b rest 3 [] ∧ t.dom = s.dom))

/-- Streams and domains. STREAM_READ gives a stream's fields; STREAM_PLACE queues a swap-out or a move; DOMAIN_SET
stores the identity of the domain outside one; DOMAIN_JOIN asks on every port that is up; DOMAIN_LEAVE tells the
keeper and leaves, with its reply, when that is acknowledged, unless a command, a read or a mirrored stream holds it. -/
def Obligations.StreamAndDomainRequests : Prop :=
  (∀ (s : State) (m : Nat) (b : Bytes) (rest : List Req), asks s m 0x0B b rest →
    (fieldLE b 4 2 < 16384 → ∃ t, exec (.streamRead m) s = .next t ∧
      answered s t m b rest 0 (streamResult (getStream s (fieldLE b 4 2))) ∧ t.streams = s.streams ∧ t.cmds = s.cmds) ∧
    (16384 ≤ fieldLE b 4 2 → ∃ t, exec (.streamRead m) s = .next t ∧ answered s t m b rest 2 [])) ∧
  (∀ (s : State) (m st : Nat) (b : Bytes) (rest : List Req), asks s m 0x0C b rest → st = fieldLE b 4 2 → st < 16384 →
    (getStream s st).isOpen = true → (getStream s st).move = none → (getStream s st).home < 16 →
    (fieldLE b 6 1 = 0 → ∃ t, exec (.streamPlace m) s = .next t ∧ answered s t m b rest 0 [] ∧
      getStream t st = { getStream s st with move := some none } ∧ (∀ n, n ≠ st → getStream t n = getStream s n) ∧
      t.pile = s.pile) ∧
    (fieldLE b 6 1 = 1 → pileOk (fieldLE b 7 1) = true → pileFenced s (fieldLE b 7 1) = false →
      (getStream s st).home ≠ fieldLE b 7 1 → ∃ t, exec (.streamPlace m) s = .next t ∧ answered s t m b rest 0 [] ∧
      getStream t st = { getStream s st with move := some (some (fieldLE b 7 1)) } ∧
      (∀ n, n ≠ st → getStream t n = getStream s n) ∧ t.pile = s.pile)) ∧
  (∀ (s : State) (m : Nat) (b : Bytes) (rest : List Req), asks s m 0x10 b rest → fieldLE b 32 1 ≤ 1 →
    (s.dom.inDomain = false → ∃ t, exec (.domainSet m) s = .next t ∧ answered s t m b rest 0 [] ∧
      t.dom = { s.dom with
        domId := BitVec.ofNat 64 (fieldLE b 8 8), key := BitVec.ofNat 128 (fieldLE b 16 16)
        cfgPair := bitOf (fieldLE b 32 1) 0 } ∧ t.ports = s.ports) ∧
    (s.dom.inDomain = true → ∃ t, exec (.domainSet m) s = .next t ∧ answered s t m b rest 3 [] ∧ t.dom = s.dom)) ∧
  (∀ (s : State) (m : Nat) (b : Bytes) (rest : List Req), asks s m 0x11 b rest → fieldLE b 4 2 < 32768 →
    fieldLE b 6 1 ≤ 3 → s.dom.inDomain = false → s.dom.join = none →
    (∀ c ∈ s.cmds, ¬ (cop c = opRUN ∧ c.desc.bead ≠ 0)) →
    ∃ t q, exec (.domainJoin m) s = .next t ∧ t.dom.join = some {
        chan := m, want := fieldLE b 4 2, demand := bitOf (fieldLE b 6 1) 0, found := bitOf (fieldLE b 6 1) 1, at_ := s.time } ∧
      t.mail.slow = s.mail.slow ++ [(m, q)] ∧ q.msg = b ∧ getReqs t m = rest ∧
      (∀ p, p < 72 → (getPort s p).state = 2 → sends t (nearby p)
        (.joinRequest (fieldLE b 4 2) (bitOf (fieldLE b 6 1) 0) s.dom.cfgPair s.dom.domId 0 0 0)) ∧
      t.dom.inDomain = false ∧ t.cmds = s.cmds) ∧
  (∀ (s : State) (m : Nat) (b : Bytes) (rest : List Req), asks s m 0x12 b rest →
    (leaveBusy s = false → s.dom.leaving = none → s.dom.inDomain = true → s.dom.keeper = false →
      ∃ t q, exec (.domainLeave m) s = .next t ∧ t.dom.leaving = some (some m) ∧ t.dom.inDomain = true ∧
        sends t s.dom.keeperPkg (.departure (selfPkg s)) ∧ t.mail.slow = s.mail.slow ++ [(m, q)] ∧ q.msg = b ∧
        t.cmds = s.cmds ∧ t.streams = s.streams) ∧
    (leaveBusy s = false → s.dom.leaving = none →
      s.dom.inDomain = false ∨ (s.dom.keeper = true ∧ ∀ k ∈ s.dom.roster, k = selfPkg s) →
      ∃ t, exec (.domainLeave m) s = .next t ∧ answered s t m b rest 0 [] ∧ t.dom.inDomain = false ∧
        t.dom.keeper = false ∧ t.dom.pkg = 0 ∧ t.dom.roster = [] ∧ t.cmds = s.cmds ∧ t.streams = s.streams) ∧
    (leaveBusy s = true ∨ s.dom.leaving ≠ none → ∃ t, exec (.domainLeave m) s = .next t ∧ answered s t m b rest 3 [] ∧
      t.dom = s.dom)) ∧
  (∀ (s : State) (m src seq : Nat) (x : CtlOut) (q : Req) (y : Ctl), awake s → s.dom.leaving = some (some m) →
    s.mail.slow.find? (fun z => z.1 == m) = some (m, q) → s.dom.ctl = [x] → x.seq = seq → x.dst = src →
    ∃ t, exec (.controlMessageArrive src seq true y) s = .next t ∧ t.dom.inDomain = false ∧ t.dom.keeper = false ∧
      t.dom.pkg = 0 ∧ t.dom.roster = [] ∧ t.dom.leaving = none ∧ replied s t m (replyBytes q.msg 0 []) ∧ t.cmds = s.cmds)

/-! ## Boot, identity, debug (16, 20) -/

/-- The boot sources. An image from flash is as long as its header says and is read with what the device's tables
list; a device without valid tables counts as absent. An image that passes every check of R404 boots; a source that
fails records its code and hands over to the second source of BOOTSEL, or stops the ROM with FAULT_N 7, or leaves it
waiting for a further push. A peer's request is served on its port once the firmware is ready. Host push and the end
of a boot. The window and BOOT_CHUNK collect the image, BOOT_GO checks it; FIRMWARE_READY makes the package ready and
starts the bead counter. -/
def Obligations.BootSources : Prop :=
  (
    (∀ (s : State) (second : Bool), crownUp s = true → s.sec.rom = .trying 0 second →
      (∀ sfdp mem b tbl, flashTable sfdp = some tbl → b = mem.take (imgTotal (slice mem 0 128)) →
        ∃ t, exec (.flashRead (.device sfdp false mem)) s = .next t ∧
        t.crown.bootCode = BitVec.ofNat 8 (imageCode s.sec b) ∧
        (imageCode s.sec b = 0 → t.sec.rom = .booted ∧ t.sec.booted = b ∧
          t.sec.measure = imgMeasure b ∧ t.sec.svn = imgSvn b ∧ t.sec.source = 0 ∧ t.sec.fellBack = second ∧
          t.crown.fwVersion = BitVec.ofNat 32 (fieldLE b 16 4) ∧ t.crown.ready = s.crown.ready ∧
          t.sec.rollback = s.sec.rollback ∧ t.rst = s.rst ∧ t.cmds = s.cmds) ∧
        (imageCode s.sec b ≠ 0 → s.sec.bootsel = 0 → t.sec.rom = .stopped ∧ 7 ∈ t.rst.faults ∧
          t.sec.booted = s.sec.booted)) ∧
      (∀ tbl sfdp mem bad fails, flashTable sfdp = some tbl → flashTable bad = none → s.sec.bootsel = 3 → second = false →
        ∃ t u, exec (.flashRead .absent) s = .next t ∧ exec (.flashRead (.device bad fails mem)) s = .next t ∧
        t.sec.rom = .trying 1 true ∧ t.crown.bootCode = 1 ∧ t.sec.firstCode = 1 ∧ t.rst = s.rst ∧ t.io = s.io ∧
        exec (.flashRead (.device sfdp true mem)) s = .next u ∧ u.sec.rom = .trying 1 true ∧ u.crown.bootCode = 2 ∧
        u.sec.firstCode = 2)) ∧
    (∀ (s : State) (b : Bytes) (second : Bool), crownUp s = true → s.sec.rom = .trying 2 second → (getPort s 0).state = 2 →
      ∃ t, exec (.peerImageArrive b) s = .next t ∧ t.crown.bootCode = BitVec.ofNat 8 (imageCode s.sec b) ∧
        (imageCode s.sec b = 0 → t.sec.rom = .booted ∧ t.sec.booted = b ∧ t.sec.measure = imgMeasure b ∧
          t.sec.source = 2 ∧ t.sec.fellBack = second) ∧
        (imageCode s.sec b ≠ 0 → s.sec.bootsel = 2 → t.sec.rom = .stopped ∧ 7 ∈ t.rst.faults)) ∧
    (∀ (s : State) (second : Bool), crownUp s = true → s.sec.rom = .trying 2 second → s.sec.romAt + 10000000000 ≤ s.time →
      s.sec.bootsel = 2 → ∃ t, exec .bootPeerTimeout s = .next t ∧ t.sec.rom = .stopped ∧ t.crown.bootCode = 1 ∧
        7 ∈ t.rst.faults ∧ t.ports = s.ports) ∧
    (∀ (s : State) (second : Bool), crownUp s = true → s.sec.rom = .trying 2 second → (getPort s 0).state ≠ 2 →
      s.sec.mediumAt + 500000000 ≤ s.time → portThere s 0 = true →
      ∃ t, exec .bootMediumSwitch s = .next t ∧ t.sec.medium = BitVec.ofNat 2 (1 - s.sec.medium.toNat) ∧
        t.sec.mediumAt = s.time ∧ (getPort t 0).medium = t.sec.medium ∧ (getPort t 0).en = true ∧
        (getPort t 0).state = 1 ∧ t.sec.rom = s.sec.rom) ∧
    (∀ (s : State) (src : Nat) (r : List (Nat × Ctl)), s.dom.got = (src, .bootFetch) :: r → awake s →
      (s.crown.ready = true → portUpTo s src = true → exec .bootFetch s =
        .next (queueFlits (wire { s with dom := { s.dom with got := r } } (.image src s.sec.booted)) 1 src
          (flitsOf s.sec.booted))) ∧
      (s.crown.ready = true → portUpTo s src = false → exec .bootFetch s = .next { s with dom := { s.dom with got := r } }) ∧
      (s.crown.ready = false → exec .bootFetch s = .next s))) ∧
  (
    (∀ (s : State) (off : Nat) (b : Bytes), awake s → s.crown.ready = false →
      (off + b.length ≤ 0x100000 → exec (.imageWindowWrite off b) s =
        .next { s with sec := { s.sec with win := memPut s.sec.win off b } }) ∧
      (0x100000 < off + b.length → exec (.imageWindowWrite off b) s = .next s)) ∧
    (∀ (s : State) (off : Nat) (b : Bytes), awake s → s.crown.ready = true → exec (.imageWindowWrite off b) s = .next s) ∧
    (∀ (s : State) (m : Nat) (b : Bytes) (rest : List Req), asks s m 0x28 b rest →
      (1 ≤ fieldLE b 8 4 → fieldLE b 8 4 ≤ 1048576 → fieldLE b 4 4 + fieldLE b 8 4 ≤ 8392664 →
        ∃ t, exec (.bootChunk m) s = .next t ∧ answered s t m b rest 0 [] ∧
          t.sec = { s.sec with image := memPut s.sec.image (fieldLE b 4 4) (memGet s.sec.win 0 (fieldLE b 8 4)) } ∧
          t.crown = s.crown) ∧
      (fieldLE b 8 4 = 0 → ∃ t, exec (.bootChunk m) s = .next t ∧ answered s t m b rest 2 [] ∧ t.sec = s.sec)) ∧
    (∀ (s : State) (m : Nat) (b img : Bytes) (rest : List Req), asks s m 0x29 b rest →
      img = memGet s.sec.image 0 (min (fieldLE b 4 4) 8392665) →
      (∀ second, s.sec.rom = .trying 1 second → ∃ t, exec (.bootGo m) s = .next t ∧ answered s t m b rest 0 [] ∧
        t.crown.bootCode = BitVec.ofNat 8 (imageCode s.sec img) ∧
        (imageCode s.sec img = 0 → t.sec.rom = .booted ∧ t.sec.booted = img ∧ t.sec.source = 1 ∧ t.sec.fellBack = second) ∧
        (imageCode s.sec img ≠ 0 → s.sec.bootsel = 1 → t.sec.rom = .push ∧ t.sec.booted = s.sec.booted)) ∧
      (s.sec.rom = .push → ∃ t, exec (.bootGo m) s = .next t ∧ answered s t m b rest 0 [] ∧
        t.crown.bootCode = BitVec.ofNat 8 (imageCode s.sec img) ∧
        (imageCode s.sec img = 0 → t.sec.rom = .booted ∧ t.sec.booted = img ∧ t.sec.source = 1) ∧
        (imageCode s.sec img ≠ 0 → t.sec.rom = .push)) ∧
      ((∀ i x, s.sec.rom ≠ .trying i x) → s.sec.rom ≠ .push →
        ∃ t, exec (.bootGo m) s = .next t ∧ answered s t m b rest 3 [] ∧ t.sec = s.sec)) ∧
    (∀ s : State, awake s → s.sec.rom = .booted → s.rst.resetting = none →
      ∃ t, exec .firmwareReady s = .next t ∧ t.crown = { s.crown with ready := true } ∧ t.bead.en = true ∧
        t.bead.count = s.bead.count ∧ (s.bead.en = true → t.bead = s.bead) ∧ t.sec = s.sec ∧ t.cmds = s.cmds))

/-- R405: the first check of R404 that an image fails sets BOOT_CODE, whichever source delivered it, and the code of
the first source is also kept; BOOT_CODE returns to 0 when an image is accepted. -/
def Obligations.BootCodeIsTheFirstFailedCheck : Prop :=
  ∀ (s : State) (src : Nat) (second : Bool) (b : Bytes), crownUp s = true → s.sec.rom = .trying src second → src < 3 →
    (src = 2 → (getPort s 0).state = 2) →
    (∀ m q rest, src = 1 → asks s m 0x29 q rest → b = memGet s.sec.image 0 (min (fieldLE q 4 4) 8392665) →
      ∃ t, exec (.bootGo m) s = .next t ∧ t.crown.bootCode = BitVec.ofNat 8 (imageCode s.sec b) ∧
        (imageCode s.sec b ≠ 0 → second = false → t.sec.firstCode = BitVec.ofNat 8 (imageCode s.sec b)) ∧
        (imageCode s.sec b ≠ 0 → second = true → t.sec.firstCode = s.sec.firstCode)) ∧
    (∀ c, (src = 0 ∧ ∃ sfdp mem tbl, flashTable sfdp = some tbl ∧ b = flashImage mem ∧ c = .flashRead (.device sfdp false mem)) ∨
        (c = .peerImageArrive b ∧ src = 2) →
      ∃ t, exec c s = .next t ∧ t.crown.bootCode = BitVec.ofNat 8 (imageCode s.sec b) ∧
        (imageCode s.sec b ≠ 0 → second = false → t.sec.firstCode = BitVec.ofNat 8 (imageCode s.sec b)) ∧
        (imageCode s.sec b ≠ 0 → second = true → t.sec.firstCode = s.sec.firstCode))

/-- The fuses and the identity. ROLLBACK_ADVANCE raises the counter up to the image's SVN and never lowers it;
OWNER_PROVISION takes one owner block that verifies, once; IDENTITY_READ writes the identity block of 512 bytes.
Reports. ATTEST and the board's request are held under the next number, up to 64, while the lower tree has a leaf
left; each signed report spends the next leaf, and its bytes 8 to 3,667 are written before bytes 0 to 7; the board's
go out on its port. -/
def Obligations.FusesIdentityAndReports : Prop :=
  (
    (∀ (s : State) (m : Nat) (b : Bytes) (rest : List Req), asks s m 0x22 b rest →
      (fieldLE b 4 1 ≤ s.sec.svn → ∃ t, exec (.rollbackAdvance m) s = .next t ∧ answered s t m b rest 0 [] ∧
        t.sec = { s.sec with rollback := max s.sec.rollback (fieldLE b 4 1) } ∧ t.cmds = s.cmds) ∧
      (s.sec.svn < fieldLE b 4 1 → ∃ t, exec (.rollbackAdvance m) s = .next t ∧ answered s t m b rest 2 [] ∧
        t.sec = s.sec)) ∧
    (∀ (s : State) (m : Nat) (b d : Bytes) (rest : List Req), asks s m 0x23 b rest →
      (s.sec.ownerSet = false → dmaFieldsOk b 1 2020 2020 = true → ∀ x : Sec, x = { s.sec with
          ownerDigest := sha384 (slice d 0 96), ownerLms := slice d 96 56, ownerSet := true } →
        ∃ t, exec (.ownerProvision m (.data d)) s = .next t ∧
          answered s t m b rest (if ownerBlockOk s.sec d then 0 else 2) [] ∧
          t.sec = (if ownerBlockOk s.sec d then x else s.sec) ∧ t.cmds = s.cmds) ∧
      (s.sec.ownerSet = true → ∃ t, exec (.ownerProvision m (.data d)) s = .next t ∧ answered s t m b rest 3 [] ∧
        t.sec = s.sec)) ∧
    (∀ (s : State) (m : Nat) (b : Bytes) (rest : List Req), asks s m 0x21 b rest → dmaFieldsOk b 1 512 (2 ^ 32) = true →
      ∃ t, exec (.identityRead m false) s = .next t ∧ answered s t m b rest 0 [] ∧ t.io.dma = s.io.dma ++
        [{ pasid := some (fieldLE b 4 4), addr := fieldLE b 8 8, data := identityBlock s }] ∧ t.sec = s.sec ∧
        t.cmds = s.cmds) ∧
    (∀ (s : State) (m : Nat) (b : Bytes) (rest : List Req), asks s m 0x21 b rest → dmaFieldsOk b 1 512 (2 ^ 32) = false →
      ∃ t, exec (.identityRead m false) s = .next t ∧ answered s t m b rest 2 [] ∧ t.io.dma = s.io.dma ∧ t.sec = s.sec)) ∧
  (
    (∀ (s : State) (m : Nat) (b : Bytes) (rest : List Req), asks s m 0x20 b rest → dmaFieldsOk b 64 3668 (2 ^ 32) = true →
      (s.sec.lmsSpent = false → (s.sec.treeBuilt = true → s.sec.held.length < s.sec.sigsLeft) → s.sec.held.length < 64 →
        ∃ t, exec (.attest m) s = .next t ∧ answered s t m b rest 0 (leN 4 s.sec.repSeq) ∧ t.sec = { s.sec with
          held := s.sec.held ++ [{ dma := some (fieldLE b 4 4, fieldLE b 8 8), nonce := slice b 20 32 }]
          repSeq := s.sec.repSeq + 1 } ∧ t.io.dma = s.io.dma) ∧
      (s.sec.lmsSpent = true ∨ (s.sec.treeBuilt = true ∧ s.sec.sigsLeft ≤ s.sec.held.length) → ∃ t, exec (.attest m) s = .next t ∧ answered s t m b rest 4 [] ∧ t.sec = s.sec) ∧
      (s.sec.lmsSpent = false → (s.sec.treeBuilt = true → s.sec.held.length < s.sec.sigsLeft) → 64 ≤ s.sec.held.length →
        ∃ t, exec (.attest m) s = .next t ∧ answered s t m b rest 3 [] ∧ t.sec = s.sec)) ∧
    (∀ (s : State) (r : HeldReport) (rest : List HeldReport), s.sec.held = r :: rest → s.crown.ready = true →
      s.pwr.cur ≠ 2 → s.sec.lmsReady = true → 0 < s.sec.sigsLeft →
      (∀ pasid a, r.dma = some (pasid, a) →
        (∃ t, exec (.reportSign false) s = .next t ∧ t.io.dma = s.io.dma ++
          [{ pasid := some pasid, addr := a + 8, data := (reportOf s (32768 - s.sec.sigsLeft) r.nonce).drop 8 },
           { pasid := some pasid, addr := a, data := (reportOf s (32768 - s.sec.sigsLeft) r.nonce).take 8 }] ∧
          t.sec = { s.sec with held := rest, sigsLeft := s.sec.sigsLeft - 1 } ∧ t.cmds = s.cmds) ∧
        (∃ t, exec (.reportSign true) s = .next t ∧ t.io = s.io ∧
          t.sec = { s.sec with held := rest, sigsLeft := s.sec.sigsLeft - 1, dmaFault := true })) ∧
      (r.dma = none → ∀ refused, ∃ t, exec (.reportSign refused) s = .next t ∧
        t.io.wire = s.io.wire ++ [.mctp (some 0) (reportOf s (32768 - s.sec.sigsLeft) r.nonce)] ∧ t.io.dma = s.io.dma ∧
        t.sec = { s.sec with held := rest, sigsLeft := s.sec.sigsLeft - 1 })) ∧
    (∀ s : State, awake s → s.sec.engineOn = true → s.sec.lmsSpent = false → s.sec.lmsReady = false →
      exec .lmsTreeReady s = .next { s with sec := { s.sec with
        lmsReady := true, treeBuilt := true, sigsLeft := if s.sec.treeBuilt then s.sec.sigsLeft else 32768 } }) ∧
    (∀ (s : State) (nonce : Bytes), (s.dbg.dynAddr.isSome = true) →
      (s.crown.ready = true → s.pwr.cur ≠ 2 → s.sec.lmsSpent = false →
        (s.sec.treeBuilt = true → s.sec.held.length < s.sec.sigsLeft) → s.sec.held.length < 64 →
        exec (.mctpAttest nonce) s = .next { s with sec := { s.sec with
          held := s.sec.held ++ [{ dma := none, nonce := slice nonce 0 32 }], repSeq := s.sec.repSeq + 1 } }) ∧
      (s.crown.ready = true → s.pwr.cur ≠ 2 → exec .mctpIdentity s = .next (wire s (.mctp (some 0) (identityBlock s)))) ∧
      (s.crown.ready = false ∨ s.pwr.cur = 2 → exec .mctpIdentity s = .next (wire s (.mctp (some 3) [])) ∧
        exec (.mctpAttest nonce) s = .next (wire s (.mctp (some 3) [])))))

/-- The TAP instructions. IDCODE gives the code of the package; EXTEST, RESET_PKG, FORCE_REL, the Eotas codes and
codes not listed open a session and count it; leaving for Test-Logic-Reset closes it and keeps the counts. -/
def Obligations.DebugPort : Prop :=
  ∀ s : State, tapUp s = true →
    exec .idcode s = .next (wire { s with dbg := { s.dbg with ir := 1, extest := false } } (.tdo 0x24B6455F)) ∧
    (∀ b, exec (.samplePreload b) s = .next { s with dbg := { s.dbg with ir := 2, extest := false, bsr := b } }) ∧
    (s.dbg.isOpen = false → exec .extest s = .next { s with dbg := { s.dbg with
      ir := 3, extest := true, isOpen := true, attached := true, sessions := min (s.dbg.sessions + 1) 0xFFFF } }) ∧
    (s.dbg.isOpen = true → exec .extest s = .next { s with dbg := { s.dbg with ir := 3, extest := true } }) ∧
    (∀ c : Byte, 0x80 ≤ c.toNat → c.toNat ≤ 0x9F → s.dbg.isOpen = false →
      exec (.eotasDebugAccess c) s = .next { s with dbg := { s.dbg with
        ir := c, extest := false, isOpen := true, attached := true, sessions := min (s.dbg.sessions + 1) 0xFFFF } }) ∧
    exec (.bypass 0xFF) s = .next { s with dbg := { s.dbg with ir := 0xFF, extest := false } } ∧
    (∀ c : Byte, tapCode c.toNat = false → c ≠ 0xFF → ∃ t, exec (.bypass c) s = .next t ∧ t.dbg.isOpen = true ∧
      t.dbg.ir = c ∧ t.rst = s.rst) ∧
    exec .tapReset s = .next { s with dbg := { s.dbg with isOpen := false, ir := 1, extest := false, bsr := [] } } ∧
    (∃ t, exec .resetPkg s = .next t ∧ cleared s t ∧ t.rst.cause.getLsbD 9 = true ∧ t.dbg.isOpen = true) ∧
    (∀ b : Byte, blockOk b.toNat = true → blockUp s b = false → ∃ t, exec (.forceRel b) s = .next t ∧ t.dbg.isOpen = true ∧
      (b ∈ s.rst.clkBad → b ∈ t.rst.forced) ∧ (b ∉ s.rst.clkBad → t.rst.clkEarly = true ∧ t.rst.clkBlock = b) ∧
      t.cmds = s.cmds) ∧
    (∀ a, exec (.setdasa a) s = .next { s with dbg := { s.dbg with dynAddr := some a } })

/-! ## Resets (17) -/

/-- Resets of the package scope leave the same state and their own cause: the pin, the host, the supplies, the thermal
trip, which also holds the package until POR, the keeper's message with its proof, and the watchdog before the
firmware is ready. Power-on reset and firmware restarts. POR restarts the release sequence at step 1 with the causes
of VAON's standing kept, samples the straps with PWROK and keeps the fuses; a firmware restart answers every request
RETRY and kills what runs, uncounted; during a reset it leaves only its cause. -/
def Obligations.Resets : Prop :=
  (
    (∀ s : State, ∃ t, exec .pinReset s = .next t ∧ cleared s t ∧ t.rst.cause.getLsbD 1 = true ∧ t.rst.runTest = true ∧
      (s.rst.holdPor = false → t.rst.hold = none)) ∧
    (∀ (s : State) (loss : Bool), crownUp s = true → s.crown.linkUp = true →
      (loss = true → s.rst.resetting = none ∧ s.pwr.cur ≠ 2) →
      ∃ t, exec (.hostReset loss) s = .next t ∧ cleared s t ∧ t.rst.cause.getLsbD 2 = true) ∧
    (∀ s : State, ∃ t, exec .supplyReset s = .next t ∧ cleared s t ∧ t.rst.cause.getLsbD 6 = true ∧ t.rst.runTest = true) ∧
    (∀ s : State, ∃ t, exec .thermReset s = .next t ∧ cleared s t ∧ t.rst.cause.getLsbD 5 = true ∧ t.rst.thermTrip = true ∧
      t.rst.hold.isSome = true ∧ t.rst.holdPor = true) ∧
    (∀ (s : State) (src : Nat) (proof : W64) (r : List (Nat × Ctl)), s.dom.got = (src, .reset proof) :: r →
      s.dom.inDomain = true → src = s.dom.keeperPkg →
      (proof = siphash s.dom.key (leN 2 (selfPkg s)) → ∃ t, exec .linkReset s = .next t ∧ cleared s t ∧
        t.rst.cause.getLsbD 8 = true) ∧
      (proof ≠ siphash s.dom.key (leN 2 (selfPkg s)) → exec .linkReset s =
        .next { s with dom := { s.dom with got := r } })) ∧
    (∀ s : State, awake s → s.rst.kickAt + 500000000 ≤ s.time → s.rst.resetting = none → s.crown.ready = false →
      ∃ t, exec .wdogExpiry s = .next t ∧ cleared s t ∧ t.rst.cause.getLsbD 4 = true) ∧
    (∀ (s : State) (b : BitVec 6), (b.getLsbD 5 = true → ∃ t, exec (.seqBreach b) s = .next t ∧ cleared s t ∧
        t.pwr.seq = s.pwr.seq ||| b ∧ t.rst.cause.getLsbD 6 = true) ∧
      (b.getLsbD 5 = false → exec (.seqBreach b) s = .next { s with
        pwr := { s.pwr with seq := s.pwr.seq ||| b }
        sec := { s.sec with
          overstress := if b.getLsbD 1 then min (s.sec.overstress + 1) 64 else s.sec.overstress } }))) ∧
  (
    (∀ (s : State) (vaon pwrok : Bool) (w : Straps), ∃ t, exec (.por vaon pwrok w) s = .next t ∧ t.rst.step = 0 ∧
      t.rst.resetting = some .alwaysOn ∧ t.rst.runTest = true ∧ t.rst.hold = none ∧ t.rst.cause.getLsbD 0 = true ∧
      t.rst.cause.getLsbD 5 = (vaon && s.rst.cause.getLsbD 5) ∧ t.rst.cause.getLsbD 6 = (vaon && s.rst.cause.getLsbD 6) ∧
      t.pwr.seq = (if vaon then s.pwr.seq else 0) ∧ t.crown = {} ∧ t.dbg = {} ∧ t.mon = {} ∧ t.cmds = [] ∧ t.clients = [] ∧
      t.streams = [] ∧ t.pile = {} ∧ t.sec.uds = s.sec.uds ∧ t.sec.serial = s.sec.serial ∧
      t.sec.rollback = s.sec.rollback ∧ t.sec.ownerDigest = s.sec.ownerDigest ∧ t.sec.nextLeaf = s.sec.nextLeaf ∧
      t.sec.age = s.sec.age ∧
      (pwrok = true → t.sec.bootsel = w.bootsel ∧ t.rst.clksel = w.clksel ∧ t.rst.stmand = w.stmand) ∧
      (pwrok = false → t.sec.bootsel = s.sec.bootsel ∧ t.rst.clksel = s.rst.clksel ∧ t.rst.stmand = s.rst.stmand)) ∧
    (∀ s : State, crownUp s = true → s.sec.rom = .booted →
      (s.rst.resetting = none → ∃ t, exec .fwRestart s = .next t ∧ restarted s t ∧ t.rst.cause.getLsbD 3 = true) ∧
      (s.rst.resetting.isSome = true → exec .fwRestart s = .next { s with rst := { s.rst with cause := s.rst.cause ||| 8 } })) ∧
    (∀ s : State, awake s → s.rst.kickAt + 500000000 ≤ s.time → s.rst.resetting = none → s.crown.ready = true →
      ∃ t, exec .wdogExpiry s = .next t ∧ restarted s t ∧ t.rst.cause.getLsbD 4 = true))

/-- The release sequence and the clock-good interlock. Each step of R421 follows the one before: the clocks, the
self-test with its fences or its hold, the Crown with the boot ROM, the bases with the piles, the links, the eight
column groups, the end. A block that loses its clock is reset, and one force-released without a clock is caught as its
clock returns. -/
def Obligations.ReleaseSequence : Prop :=
  (∀ (s : State) (x : SelfTest), s.rst.resetting.isSome = true → s.rst.hold = none →
    (s.rst.step = 0 → exec (.resetReleaseStep x) s = .next { s with rst := { s.rst with step := 1 } }) ∧
    (s.rst.step = 1 → x.pllOk = true → ∃ t, exec (.resetReleaseStep x) s = .next t ∧ t.rst.step = 2 ∧
      t.pwr.onOsc = (s.pwr.onOsc || s.rst.clksel == 3) ∧ t.crown = s.crown) ∧
    (s.rst.step = 1 → x.pllOk = false → ∃ t, exec (.resetReleaseStep x) s = .next t ∧ t.rst.hold = some 5 ∧
      t.rst.step = 1 ∧ 5 ∈ t.rst.faults) ∧
    (s.rst.step = 2 → s.rst.runTest = false → exec (.resetReleaseStep x) s =
      .next { s with rst := { s.rst with step := 3 } }) ∧
    (s.rst.step = 2 → s.rst.runTest = true → testRuns s x = true → x.crownOk = true → x.nightcapOk = true →
      x.ringsOk = true → allFail x.cmpFail 40 = false → allFail x.pileFail 16 = false →
      ∃ t, exec (.resetReleaseStep x) s = .next t ∧ t.rst.step = 3 ∧ t.rst.ran = true ∧ t.rst.runTest = false ∧
        (∀ i, i < 40 → dieFenced t i = x.cmpFail.contains i) ∧ (∀ i, i < 16 → pileFenced t i = x.pileFail.contains i) ∧
        (∀ i, i < 6 → linkFenced t i = x.linkFail.contains i) ∧ t.rst.hold = none ∧
        (∀ core n, x.lanes = [(core, n)] → core < 2560 → tget 0 t.rst.testLanes core = n)) ∧
    (s.rst.step = 2 → s.rst.runTest = true → testRuns s x = true → x.crownOk = false →
      ∃ t, exec (.resetReleaseStep x) s = .next t ∧ t.rst.hold = some 1 ∧ t.rst.cause.getLsbD 7 = true ∧
        t.rst.step = 2) ∧
    (s.rst.step = 2 → s.rst.runTest = true → testRuns s x = false → ∃ t, exec (.resetReleaseStep x) s = .next t ∧
      t.rst.notRun = true ∧ t.rst.ran = false ∧ (s.rst.stmand = true → t.rst.hold = some 3 ∧ t.rst.step = 2) ∧
      (s.rst.stmand = false → t.rst.step = 3 ∧ t.crown.fenceLo = 0 ∧ t.crown.fencePlb = 0)) ∧
    (s.rst.step = 3 → 0x60 ∉ s.rst.clkBad → s.sec.bootsel = 0 → ∃ t, exec (.resetReleaseStep x) s = .next t ∧
      t.rst.step = 4 ∧ t.sec.boots = s.sec.boots + 1 ∧ t.tally.clock = 0 ∧
      (x.fusesOk = true → t.sec.rom = .trying 0 false ∧
        (s.sec.nextLeaf < 65536 → t.sec.leaf = s.sec.nextLeaf ∧ t.sec.nextLeaf = s.sec.nextLeaf + 1) ∧
        (65536 ≤ s.sec.nextLeaf → t.sec.lmsSpent = true)) ∧
      (x.fusesOk = false → t.sec.rom = .stopped ∧ t.crown.bootCode = 0x0B ∧ 7 ∈ t.rst.faults)) ∧
    (s.rst.step = 3 → 0x60 ∈ s.rst.clkBad → exec (.resetReleaseStep x) s = .next s) ∧
    (s.rst.step = 4 → (∃ i, i < 16 ∧ pileFenced s i = false ∧ x.pileFail.contains i = false) →
      ∃ t, exec (.resetReleaseStep x) s = .next t ∧ t.rst.step = 5 ∧ t.rst.hold = none ∧
        (∀ i, i < 16 → pileFenced t i = (pileFenced s i || x.pileFail.contains i)) ∧
        (∀ i, i < 40 → dieFenced t i = dieFenced s i)) ∧
    (s.rst.step = 4 → (∀ i, i < 16 → pileFenced s i = true ∨ x.pileFail.contains i = true) →
      ∃ t, exec (.resetReleaseStep x) s = .next t ∧ t.rst.step = 4 ∧ t.rst.hold = some 4 ∧
        t.rst.cause.getLsbD 7 = true ∧ 4 ∈ t.rst.faults) ∧
    (5 ≤ s.rst.step → s.rst.step ≤ 12 → exec (.resetReleaseStep x) s =
      .next { s with rst := { s.rst with step := s.rst.step + 1 } }) ∧
    (s.rst.step = 13 → ∃ t, exec (.resetReleaseStep x) s = .next t ∧ t.rst.step = 14 ∧ t.rst.resetting = none ∧
      t.dbg.attached = (s.dbg.attached || s.dbg.isOpen) ∧ t.crown = s.crown)) ∧
  (∀ (s : State) (x : SelfTest), s.rst.resetting.isSome = true → s.rst.hold.isSome = true →
    exec (.resetReleaseStep x) s = .next s) ∧
  (∀ s : State, s.rst.resetting.isSome = true → s.rst.clksel = 2 → s.rst.step = 1 → s.rst.relAt + 500000000 ≤ s.time →
    exec .refRecoveryTimeout s = .next { s with pwr := { s.pwr with onOsc := true } }) ∧
  (∀ (s : State) (b : Byte), blockOk b.toNat = true →
    (b ∉ s.rst.clkBad → blockUp s b = false → exec (.clockGoodChange b false) s =
      .next { s with rst := { s.rst with clkBad := s.rst.clkBad ++ [b] } }) ∧
    (b ∉ s.rst.clkBad → blockUp s b = true → b.toNat < 40 → ∃ t, exec (.clockGoodChange b false) s = .next t ∧
      b ∈ t.rst.clkBad ∧ (∀ x ∈ t.cores, dieOf x.1 = b.toNat → x.2 = { ls := x.2.ls, imem := x.2.imem }) ∧
      t.rst.step = s.rst.step ∧ t.streams = s.streams) ∧
    (b ∉ s.rst.clkBad → blockUp s b = true → b = 0x60 → ∃ t, exec (.clockGoodChange b false) s = .next t ∧
      b ∈ t.rst.clkBad ∧ t.rst.step = 3 ∧ t.rst.resetting = some .package ∧ t.cmds = [] ∧ t.crown.ready = false ∧
      7 ∉ t.rst.faults ∧ t.mon = s.mon) ∧
    (b ∈ s.rst.forced → ∃ t, exec (.clockGoodChange b true) s = .next t ∧ b ∉ t.rst.clkBad ∧ b ∉ t.rst.forced ∧
      t.rst.clkEarly = true ∧ t.rst.clkBlock = b) ∧
    (b ∉ s.rst.forced → exec (.clockGoodChange b true) s =
      .next { s with rst := { s.rst with clkBad := s.rst.clkBad.filter fun x => x != b } }))

/-! ## Power and the monitor (18) -/

/-- The power states, one domain at a time. An entry into S1 switches the cores off from D10 down to D3, 100 µs apart,
and keeps only what the Crown's repair records hold of a core; the exit goes up again, 250 µs apart, and then writes
the loaded sets anew. An entry into S2 saves the tables, lets the piles refresh themselves with D11 to D18 off, takes
the fabrics off and last the Crown. An abort turns an entry back; a wake leads from S2 to S1. The compute supplies. A
read-back keeps a group's voltage and current until its port fails; a fault is kept until a 1 is written; a droop
stretches one die's clock until it recovers and is counted. A period of the governor. Every powered group ends within
its cap; its clock rises only once the measured voltage has reached the target, and its target rises by at most 25 mV;
a group that is off, and every other part of the state, stands. -/
def Obligations.PowerAndSupplies : Prop :=
  (
    (∀ s : State, s.crown.ready = true → s.pwr.cur = 0 → s.pwr.coresOff = [] → s.pwr.target ≠ 0 → quietS1 s = true →
      quietMail s = true → wakeHeld s = false →
      (idleLong s = true → ∃ t, exec .s1Entry s = .next t ∧ t.pwr.cur = 0 ∧ t.pwr.coresOff = [7] ∧ t.pwr.stepAt = s.time ∧
        (∀ n, groupOf n = 7 → (getCore t n).disp = none ∧ (getCore t n).ls = [] ∧ (getCore t n).imem = [] ∧
          (getCore t n).tlb = []) ∧
        (tabWf {} 0 s.cores = true → ∀ n, (getCore t n).oos = (getCore s n).oos ∧ (getCore t n).spares = (getCore s n).spares ∧
          (groupOf n ≠ 7 → getCore t n = getCore s n)) ∧
        t.sets = s.sets ∧ t.streams = s.streams ∧ t.pile = s.pile ∧ t.crown = s.crown) ∧
      (idleLong s = false → exec .s1Entry s = .next s)) ∧
    (∀ s : State, s.crown.ready = true → s.pwr.cur = 0 → s.pwr.coresOff ≠ [] →
      (aborts s = false → ∃ t, exec .s1Entry s = .next t ∧ s.pwr.stepAt + 100000 ≤ t.time ∧
        t.pwr.coresOff = s.pwr.coresOff ++ [topOn s.pwr.coresOff] ∧
        t.pwr.cur = (if s.pwr.coresOff.length = 7 then 1 else 0) ∧
        (∀ n, groupOf n = topOn s.pwr.coresOff → (getCore t n).disp = none ∧ (getCore t n).ls = [] ∧ (getCore t n).imem = [] ∧
          (getCore t n).tlb = []) ∧
        t.sets = s.sets ∧ t.streams = s.streams ∧ t.pile = s.pile ∧ t.cmds = s.cmds) ∧
      (aborts s = true → (s.pwr.coresOff.filter fun g => g != lowOff s.pwr.coresOff) ≠ [] →
        ∃ t, exec .s1Entry s = .next t ∧ s.pwr.stepAt + 250000 ≤ t.time ∧ t.pwr.cur = 0 ∧
          t.pwr.coresOff = (s.pwr.coresOff.filter fun g => g != lowOff s.pwr.coresOff) ∧ t.sets = s.sets ∧ t.cmds = s.cmds)) ∧
    (∀ s : State, s.crown.ready = true → s.pwr.cur = 1 → s.pwr.s2Steps = 0 →
      s.cmds ≠ [] ∨ quietMail s = false ∨ wakeHeld s = true →
      ((s.pwr.coresOff.filter fun g => g != lowOff s.pwr.coresOff) ≠ [] → ∃ t, exec .s1Exit s = .next t ∧ t.pwr.cur = 1 ∧
        t.pwr.coresOff = (s.pwr.coresOff.filter fun g => g != lowOff s.pwr.coresOff) ∧
        (s.pwr.coresOff.length ≠ 8 → s.pwr.stepAt + 250000 ≤ t.time) ∧ (s.pwr.coresOff.length = 8 → t.time = s.time) ∧
        t.cmds = s.cmds ∧ t.sets = s.sets ∧ t.streams = s.streams ∧ t.pile = s.pile) ∧
      ((s.pwr.coresOff.filter fun g => g != lowOff s.pwr.coresOff) = [] → ∃ u, exec .s1Exit s = .next (s.sets.foldl loadRanks u) ∧
        u.pwr.cur = 0 ∧ u.pwr.coresOff = [] ∧ u.pwr.abort = false ∧ u.cmds = s.cmds ∧ u.streams = s.streams ∧
        u.pile = s.pile ∧ ∀ k, (getCore u k).ls = (getCore s k).ls ∧ (getCore u k).imem = (getCore s k).imem)) ∧
    (∀ s : State, s.crown.ready = true → s.pwr.cur = 1 → s.pwr.coresOff.length = 8 → s.pwr.s2Steps = 0 → s.pwr.target = 2 →
      quietS1 s = true → quietS2 s = true → idleLong s = true → wakeHeld s = false → exec .s2Entry s =
        .next { s with pwr := { s.pwr with
          s2Steps := 1, stepAt := s.time, tablesIn := (List.range 16).find? fun p => !pileFenced s p } }) ∧
    (∀ s : State, s.crown.ready = true → s.pwr.cur = 1 → s.pwr.coresOff.length = 8 → aborts s = false →
      (s.pwr.s2Steps = 1 → ∃ t, exec .s2Entry s = .next t ∧ t.pwr.s2Steps = 2 ∧ t.pwr.cur = 1 ∧
        (∀ d ∈ s2Domains, d ≠ 1 → d ∈ t.pwr.domOff) ∧
        (∀ n, n < 16 → pileFenced s n = false → (getPile t n).selfRefresh = true) ∧ (∀ p, p < 72 → (getPort t p).state ≠ 2) ∧
        t.pile = s.pile ∧ t.streams = s.streams ∧ t.sets = s.sets) ∧
      (2 ≤ s.pwr.s2Steps → s.pwr.s2Steps < 10 → ∃ t, exec .s2Entry s = .next t ∧ t.pwr.s2Steps = s.pwr.s2Steps + 1 ∧
        t.pwr.fabricOff = s.pwr.fabricOff ++ [topOn s.pwr.fabricOff] ∧ t.pwr.cur = 1 ∧
        (2 < s.pwr.s2Steps → s.pwr.stepAt + 100000 ≤ t.time) ∧ t.pile = s.pile ∧ t.streams = s.streams ∧ t.sets = s.sets) ∧
      (10 ≤ s.pwr.s2Steps → exec .s2Entry s = .next { s with
        sec := { s.sec with lmsReady := false }
        dieTlb := []
        pwr := { s.pwr with
          s2Steps := s.pwr.s2Steps + 1, stepAt := s.time, cur := 2, abort := false
          domOff := (s.pwr.domOff ++ [1]).eraseDups } })) ∧
    (∀ s : State, s.crown.ready = true → s.pwr.cur = 1 → s.pwr.coresOff.length = 8 → aborts s = true →
      (s.pwr.s2Steps = 1 → exec .s2Entry s = .next { s with pwr := { s.pwr with
        s2Steps := 0, stepAt := s.time, tablesIn := none, abort := false, idleFrom := s.time } }) ∧
      (s.pwr.s2Steps = 2 → ∃ t, exec .s2Entry s = .next t ∧ t.pwr.s2Steps = 1 ∧ t.pwr.cur = 1 ∧
        (∀ n, (getPile t n).selfRefresh = false) ∧ t.pile = s.pile ∧ t.streams = s.streams) ∧
      (3 ≤ s.pwr.s2Steps → exec .s2Entry s = .next { s with pwr := { s.pwr with
        s2Steps := s.pwr.s2Steps - 1, stepAt := s.time
        fabricOff := s.pwr.fabricOff.filter fun g => g != lowOff s.pwr.fabricOff } })) ∧
    (∀ s : State, s.pwr.cur = 2 → ∃ t, exec .s2Wake s = .next t ∧ t.pwr.cur = 1 ∧ t.pwr.s2Steps = 0 ∧ t.pwr.fabricOff = [] ∧
      (∀ n, (getPile t n).selfRefresh = false) ∧ t.ap = [] ∧ t.tally.held = [] ∧
      (1 ∉ s.pwr.shut → 1 ∉ t.pwr.domOff) ∧ t.pile = s.pile ∧ t.streams = s.streams) ∧
    (∀ s : State, s.pwr.cur ≠ 2 → exec .s2Wake s = .next s) ∧
    (∀ s : State, 2 ≤ s.rst.step → s.pwr.onOsc = false → ∃ t, exec .refLost s = .next t ∧ t.pwr.refLost = true ∧
      t.pwr.onOsc = true ∧ (∀ p, p < 72 → (getPort t p).state ≠ 2) ∧ t.cmds = s.cmds)) ∧
  (
    (∀ (s : State) (g mv amps : Nat), groupOk g = true → groupUp s g = true → (getVddc s g).avsFault = false →
      exec (.avsReadback g mv amps) s = .next (setVddc s g { getVddc s g with measMv := mv % 1024, amps := amps }) ∧
      (∀ kind, kind < 2 → ∃ t, exec (.avsFault g kind) s = .next t ∧ getVddc t g = { getVddc s g with avsFault := true } ∧
        (∀ n, n ≠ g → getVddc t n = getVddc s n) ∧ t.cmds = s.cmds)) ∧
    (∀ (s : State) (g mv amps : Nat), groupOk g = true → (getVddc s g).avsFault = true →
      exec (.avsReadback g mv amps) s = .next s) ∧
    (∀ (s : State) (g : Nat) (v : W32), awake s → groupOk g = true →
      (v.getLsbD 31 = true → exec (.avsFaultClear g v) s = .next (setVddc s g { getVddc s g with avsFault := false })) ∧
      (v.getLsbD 31 = false → exec (.avsFaultClear g v) s = .next s)) ∧
    (∀ (s : State) (die : Nat), die < 40 → groupUp s (die % 8) = true → dieFenced s die = false → die % 8 ∉ s.pwr.coresOff →
      die ∉ s.pwr.droop → exec (.droopTrip die) s =
        .next { s with pwr := { s.pwr with droop := s.pwr.droop ++ [die], droops := s.pwr.droops + 1 } }) ∧
    (∀ (s : State) (die : Nat), exec (.droopRecover die) s =
      .next { s with pwr := { s.pwr with droop := s.pwr.droop.filter fun d => d != die } })) ∧
  (
    ∀ (s : State) (need ci cp ca : List Nat) (hot cool : List Bool), s.crown.ready = true → s.pwr.cur ≠ 2 →
      ∃ t, exec (.governorTick need hot cool ci cp ca) s = .next t ∧
        (∀ g, g < 8 → g ∉ s.pwr.coresOff →
          (getVddc t g).eclk ≤ groupCap s.pwr.throttle (getVddc s g).avsFault (nthN ci g) (nthN cp g) (nthN ca g) ∧
          (getVddc t g).targetMv ≤ (getVddc s g).targetMv + 25 ∧
          ((getVddc s g).eclk < (getVddc t g).eclk →
            (getVddc s g).avsFault = true ∨ (getVddc t g).targetMv ≤ (getVddc s g).measMv) ∧
          (getVddc t g).measMv = (getVddc s g).measMv ∧ (getVddc t g).avsFault = (getVddc s g).avsFault) ∧
        (∀ g, 8 ≤ g ∨ g ∈ s.pwr.coresOff → getVddc t g = getVddc s g) ∧
        t.pwr.limRule = (s.pwr.throttle != 0) ∧ t.pwr.cur = s.pwr.cur ∧ t.pwr.throttle = s.pwr.throttle ∧
        t.cmds = s.cmds ∧ t.streams = s.streams ∧ t.mon = s.mon)

/-- A tick of the monitor, 10 µs after the one before. Every channel that is due filters its sample and no other
channel changes: what its sensor gives, a supply's read-back, or a counter's increase; every enabled rule on a channel
that was due counts it. A flow edge keeps the interval since the one before. Rules act. Every rule that has counted
PERSIST samples changes in the same tick. Of one that becomes active the throttle level holds at least, FAULT_N shows
code 6, its domain is shut, its interrupt bit is set; a trip holds the package, a reset clears it, a wake leads out of
S2 or aborts an entry. As the last active rule becomes inactive, no level, no code 6 and no shut domain is left. -/
def Obligations.MonitorAndRules : Prop :=
  (
    (∀ (s : State) (l : List (Nat × W32)), 1 ≤ s.rst.step → (∀ r, r < 32 → ruleDue (getRule s r) = false) →
      ∃ t, exec (.monitorTick l) s = .next t ∧ t.mon.tick = s.mon.tick + 1 ∧ s.mon.tickAt + 10000 ≤ t.mon.tickAt ∧
      (∀ c, c < 64 → (getChan s c).en = true → chanOff s c = false → s.mon.tick % (getChan s c).period = 0 →
        (∀ x, c < 32 ∨ (50 ≤ c ∧ c < 55) → l.find? (fun y => y.1 == c) = some (c, x) →
          getChan t c = filterChan (getChan s c) x) ∧
        (34 ≤ c → c < 42 → getChan t c = filterChan (getChan s c) (BitVec.ofNat 32 (256 * (getVddc s (c - 34)).measMv))) ∧
        (42 ≤ c → c < 50 → getChan t c = filterChan (getChan s c) (BitVec.ofNat 32 (256 * (getVddc s (c - 42)).amps))) ∧
        (55 ≤ c → (getChan t c).raw = BitVec.ofNat 32 (256 * (counterOf s (getChan s c).sel - (getChan s c).last)) ∧
          (getChan t c).last = counterOf s (getChan s c).sel)) ∧
      (∀ c, (getChan s c).en = false ∨ chanOff s c = true ∨ s.mon.tick % (getChan s c).period ≠ 0 ∨ 64 ≤ c →
        getChan t c = getChan s c) ∧
      (∀ i, i < 32 → (getRule s i).channel < 64 → (getChan s (getRule s i).channel).en = true →
        chanOff s (getRule s i).channel = false → s.mon.tick % (getChan s (getRule s i).channel).period = 0 →
        (getRule s i).en = true → getRule t i = countRule (getRule s i) (getChan t (getRule s i).channel).y) ∧
      t.cmds = s.cmds ∧ t.streams = s.streams) ∧
    (∀ (k : Chan) (x : W32), (filterChan k x).raw = x ∧ (filterChan k x).primed = true ∧
      (k.primed = false → (filterChan k x).y = x.toInt * 256)) ∧
    (∀ (s : State) (f : Nat), f < 2 → exec (.flowPulse f) s = .next { s with mon := { s.mon with
      flowGap := tput 0 s.mon.flowGap f (s.time / 1000 - tget 0 s.mon.flowLast f)
      flowLast := tput 0 s.mon.flowLast f (s.time / 1000) } })) ∧
  (
    (∀ (s : State) (r : Nat), r < 32 → ruleDue (getRule s r) = true → (getRule s r).active = false →
      ∃ t, exec (.ruleActivate r) s = .next t ∧
        (∀ n, n < 32 → ruleDue (getRule s n) = true →
          getRule t n = { getRule s n with active := !(getRule s n).active, count := 0 }) ∧
        (∀ n, 32 ≤ n ∨ ruleDue (getRule s n) = false → getRule t n = getRule s n) ∧
        (getRule s r).throttle ≤ t.pwr.throttle ∧
        ((getRule s r).fault = true → 6 ∈ t.rst.faults) ∧
        ((getRule s r).irq = true → t.mon.fired.getLsbD r = true) ∧
        ((getRule s r).shut = true → 15 ≤ (getRule s r).domain → (getRule s r).domain ≤ 19 →
          (getRule s r).domain ∈ t.pwr.shut ∧
          ((getRule s r).domain ∉ s.pwr.shut → (getRule s r).domain ∈ t.pwr.domOff)) ∧
        ((getRule s r).trip = true → t.rst.thermTrip = true ∧ t.rst.hold.isSome = true ∧ t.cmds = []) ∧
        ((getRule s r).trip = false → (getRule s r).reset = true → t.rst.resetting.isSome = true ∧ t.cmds = []) ∧
        ((∀ n, n < 32 → ruleDue (getRule s n) = true → (getRule s n).active = false →
            (getRule s n).trip = false ∧ (getRule s n).reset = false) →
          t.cmds = s.cmds ∧ t.streams = s.streams ∧
          ((getRule s r).wake = true → (s.pwr.cur = 2 → t.pwr.cur = 1) ∧ (s.pwr.cur ≠ 2 → entering s = true →
            t.pwr.abort = true)))) ∧
    (∀ (s : State) (r : Nat), r < 32 → ruleDue (getRule s r) = true → (getRule s r).active = true →
      ∃ t, exec (.ruleDeactivate r) s = .next t ∧ getRule t r = { getRule s r with active := false, count := 0 } ∧
        ((∀ n, n ≠ r → (getRule s n).active = false ∧ ruleDue (getRule s n) = false) →
          (∀ n, n ≠ r → getRule t n = getRule s n) ∧ t.cmds = s.cmds ∧ t.streams = s.streams ∧
          (tabWf {} 0 s.mon.rules = true → t.pwr.throttle = 0 ∧ 6 ∉ t.rst.faults ∧ t.pwr.shut = []))) ∧
    (∀ (s : State) (r : Nat), (getRule s r).count < (getRule s r).persist →
      exec (.ruleActivate r) s = .next s ∧ exec (.ruleDeactivate r) s = .next s))

/-! ## Tally, life, telemetry, accounting (12, 19) -/

/-- The fault tally. A report of an open record's subject and class counts there; another opens the lowest free slot
with the next number, and with every slot open it only adds to OVERFLOW; in S2 the Nightcap holds it. A record closes
as its window passes, an acknowledgement releases closed records up to its number, and the end of the gap raises the
delayed interrupt. -/
def Obligations.TallyRecordsEvents : Prop :=
  (∀ (s : State) (reporter subject : W32) (cls : Nat) (d0 d1 : W64), eventClass cls = true → awake s →
    (∀ i q, (tallyRecs s.tally).find? (fun x => recOpen s.tally.clock x.2 && x.2.subject == subject && x.2.cls == cls) =
        some (i, q) → exec (.tallyReport reporter subject cls d0 d1) s = .next { s with tally := { s.tally with
          slots := tput none s.tally.slots i
            (some { q with count := min (q.count + 1) 0xFFFFFFFF, lastNs := s.tally.clock }) } }) ∧
    ((tallyRecs s.tally).find? (fun x => recOpen s.tally.clock x.2 && x.2.subject == subject && x.2.cls == cls) = none →
      (∀ i, tallyFree s.tally = some i → ∃ t, exec (.tallyReport reporter subject cls d0 d1) s = .next t ∧
        tget none t.tally.slots i = some { subject := subject, cls := cls, isOpen := true, count := 1,
                                           reporter := reporter &&& 0x0FFFFFFF, firstNs := s.tally.clock,
                                           lastNs := s.tally.clock, firstBead := s.bead.count, d0 := d0, d1 := d1,
                                           seq := s.tally.nextSeq, window := s.tally.windowMs * 1000000 } ∧
        (∀ n, n ≠ i → tget none t.tally.slots n = tget none s.tally.slots n) ∧
        t.tally.nextSeq = (if s.tally.nextSeq = 0xFFFFFFFF then 1 else s.tally.nextSeq + 1) ∧
        t.cmds = s.cmds ∧ t.crown = s.crown ∧ t.pile = s.pile) ∧
      (tallyFree s.tally = none → tallyOldest s.tally = none →
        exec (.tallyReport reporter subject cls d0 d1) s = .next { s with tally := { s.tally with
          overflow := min (s.tally.overflow + 1) 0xFFFF } }))) ∧
  (∀ (s : State) (reporter subject : W32) (cls : Nat) (d0 d1 : W64), eventClass cls = true → s.pwr.cur = 2 →
    s.tally.held.length < 16 → exec (.tallyReport reporter subject cls d0 d1) s = .next { s with tally := { s.tally with
      held := s.tally.held ++
        [{ reporter := reporter &&& 0x0FFFFFFF, subject := subject, cls := cls, d0 := d0, d1 := d1 }] } }) ∧
  (∀ (s : State) (slot : Nat) (r : Rec), tget none s.tally.slots slot = some r → r.isOpen = true →
    (r.firstNs + r.window ≤ s.tally.clock → ∃ t, exec (.tallyRecordClose slot) s = .next t ∧
      tget none t.tally.slots slot = some { r with isOpen := false } ∧
      (∀ n, n ≠ slot → tget none t.tally.slots n = tget none s.tally.slots n) ∧ t.cmds = s.cmds) ∧
    (s.tally.clock < r.firstNs + r.window → exec (.tallyRecordClose slot) s = .next s)) ∧
  (∀ s : State, s.tally.pendingIrq = true → (∀ x, s.tally.lastIrq = some x → x + s.tally.gapUs * 1000 ≤ s.time) →
    exec .tallyIrqGapEnd s = .next { s with
      tally := { s.tally with pendingIrq := false, lastIrq := some s.time }
      io := { s.io with msix := s.io.msix ++ [8] } }) ∧
  (∀ (s : State) (v : W32), awake s → tabWf none 0 s.tally.slots = true → ∃ t, exec (.tallyAck v) s = .next t ∧
    (∀ i r, tget none s.tally.slots i = some r → tget none t.tally.slots i =
      (if recOpen s.tally.clock r = true ∨ 2 ^ 31 ≤ (v - r.seq).toNat then some r else none)) ∧
    t.tally.nextSeq = s.tally.nextSeq ∧ t.cmds = s.cmds)

/-- R457: the tally raises vector 8 when a record of an enabled class opens, at most once per gap; a record that opens
within the gap sets PENDING, and the vector is raised once at the end of the gap; a report added to an open record
raises nothing. -/
def Obligations.TallyRaisesVectorEight : Prop :=
  (∀ (s : State) (r x : W32) (cls : Nat) (d0 d1 : W64), eventClass cls = true → awake s →
    ((tallyRecs s.tally).find? (fun y => recOpen s.tally.clock y.2 && y.2.subject == x && y.2.cls == cls) = none →
      (tallyFree s.tally).isSome = true ∨ (tallyOldest s.tally).isSome = true →
      ∃ t, exec (.tallyReport r x cls d0 d1) s = .next t ∧
        (irqEnabled s.tally cls = false → t.io.msix = s.io.msix ∧ t.tally.pendingIrq = s.tally.pendingIrq) ∧
        (irqEnabled s.tally cls = true → (∀ u, s.tally.lastIrq = some u → u + s.tally.gapUs * 1000 ≤ s.time) →
          t.io.msix = s.io.msix ++ [8] ∧ t.tally.lastIrq = some s.time) ∧
        (∀ u, irqEnabled s.tally cls = true → s.tally.lastIrq = some u → s.time < u + s.tally.gapUs * 1000 →
          t.io.msix = s.io.msix ∧ t.tally.pendingIrq = true)) ∧
    ((tallyRecs s.tally).find? (fun y => recOpen s.tally.clock y.2 && y.2.subject == x && y.2.cls == cls) ≠ none →
      ∃ t, exec (.tallyReport r x cls d0 d1) s = .next t ∧ t.io = s.io ∧ t.tally.pendingIrq = s.tally.pendingIrq)) ∧
  (∀ s : State, s.tally.pendingIrq = true →
    ((∀ u, s.tally.lastIrq = some u → u + s.tally.gapUs * 1000 ≤ s.time) →
      exec .tallyIrqGapEnd s = .next { s with
        tally := { s.tally with pendingIrq := false, lastIrq := some s.time }
        io := { s.io with msix := s.io.msix ++ [8] } }) ∧
    (∀ u, s.tally.lastIrq = some u → s.time < u + s.tally.gapUs * 1000 → exec .tallyIrqGapEnd s = .next s)) ∧
  (∀ s : State, s.tally.pendingIrq = false → exec .tallyIrqGapEnd s = .next s)

/-- Remaining life and telemetry. A day adds 1 to AGE and moves the day's margins into the history of 90; a
measurement rewrites the entry of every die that is not fenced, clears the others, and leaves the package the least of
the days; the copy shows every channel. A read of the low half of an accounting counter gives it and latches the high
half; the counter stands. -/
def Obligations.WearTelemetryAndAccounting : Prop :=
  (
    (∀ s : State, ∃ t, exec .ageDay s = .next t ∧ s.sec.dayAt + 86400000000000 ≤ t.sec.dayAt ∧ t.sec.dayAt = t.time ∧ t.sec.age = min (s.sec.age + 1) 8192 ∧ t.health.dayMin = [] ∧
      (tabWf 0 0 s.health.dayMin = true → ∀ p, tget [] t.health.margins p =
        if tget 0 s.health.dayMin p = 0 then tget [] s.health.margins p
        else ((tget 0 s.health.dayMin p - 1) :: tget [] s.health.margins p).take 90) ∧
      t.health.entries = s.health.entries ∧ t.cmds = s.cmds) ∧
    (∀ (s : State) (l : List (Nat × List (Nat × Nat))), s.crown.ready = true → s.pwr.cur ≠ 2 →
      ∃ t, exec (.wearMeasure l) s = .next t ∧
        (∀ e x, e < 64 → entryFenced s e = false → l.find? (fun y => y.1 == e) = some (e, x) →
          (getEnt t e).dPpm = diePpm e x ∧ (getEnt t e).days = (critOf s e (diePpm e x)).days ∧
          (getEnt t e).limit = (critOf s e (diePpm e x)).limit ∧
          (getEnt t e).age = s.sec.age ∧ (getEnt t e).updates = (getEnt s e).updates + 2 ∧
          (getEnt t e).low = warnLow s (critOf s e (diePpm e x)).days) ∧
        (∀ e, e < 64 → entryFenced s e = true → (getEnt t e).days = 0 ∧ (getEnt t e).limit = 0 ∧ (getEnt t e).dPpm = 0) ∧
        (∃ e, e < 64 ∧ entryFenced s e = false ∧ (getEnt t 64).days = (getEnt t e).days ∧ (getEnt t 64).limitDie = e ∧
          ∀ n, n < 64 → entryFenced s n = false → (getEnt t e).days ≤ (getEnt t n).days) ∧
        t.cmds = s.cmds ∧ t.sec = s.sec) ∧
    (∀ s : State, awake s → ∃ t, exec .telemetryCopy s = .next t ∧
      (∀ c, c < 64 → tget (0, 0) t.health.chanCopy c = (chanValue (getChan s c), (getChan s c).raw)) ∧
      t.mon = s.mon ∧ t.tally = s.tally ∧ t.health.entries = s.health.entries) ∧
    (∀ (s : State) (off len : Nat), s.dbg.dynAddr.isSome = true →
      (s.crown.ready = true → s.pwr.cur ≠ 2 → len % 4 = 0 → len ≤ 1024 → off + len ≤ 0x100000 →
        exec (.mctpTelemetryRead off len) s =
          .next (wire s (.mctp (some 0) ((List.range len).map fun i => teleByte s (off + i))))) ∧
      (s.crown.ready = true → s.pwr.cur ≠ 2 → len % 4 ≠ 0 ∨ 1024 < len →
        exec (.mctpTelemetryRead off len) s = .next (wire s (.mctp (some 1) []))) ∧
      exec .mctpMonitorRead s = .next (wire s (.mctp (some 0)
        ((List.range 64).flatMap fun c => leN 4 (chanValue (getChan s c)).toNat))))) ∧
  (
    ∀ (s : State) (c k : Nat), awake s → clientOk c = true → k < 8 →
      ∃ t, exec (.accountingLoRead c k) s = .next t ∧
        t.io.rdata.toNat = (acctCounter (getClient s c).acct k).toNat % 2 ^ 32 ∧
        (getClient t c).acct.latch.toNat = (acctCounter (getClient s c).acct k).toNat / 2 ^ 32 ∧
        (∀ n, n < 8 → acctCounter (getClient t c).acct n = acctCounter (getClient s c).acct n) ∧
        (getClient t c).rings = (getClient s c).rings ∧ (∀ n, n ≠ c → getClient t n = getClient s n) ∧ t.cmds = s.cmds)

/-! ## Audio (15) -/

/-- The audio ports' control. A good start sets the fields and runs the port with its bindings' buffers empty; a bad
one, or a change of a running port's setting, sets BAD_CONFIG alone; a stop stops it with its pins low, and the bead
falls back if it followed it; a mask write of 32 bits waits for the next frame, or for the one after if the last slot
has begun; a narrower one is dropped. With D18 off a write is dropped. Frames and slots. A frame starts where the last
one is over and its clock is there: it counts, also for the bead that follows the port, takes the mask that is due and
starts the bindings that hold PREFILL frames. Each slot sends its binding's next word, 0 with SLIP if there is none,
with THRU and no binding what was heard one frame before, 0 if masked. A frame-start edge that comes early counts as a
resync, discards the words of the slots not sent and starts the next frame; so does an early edge of I2S for its slot.
Rates and clocks. Every 1,024 frames the mean rate is kept, rounded down or up (which, R393 leaves open: log entry
131), and one outside the tolerance raises RATE_CHANGE; a slave that sees no edge for two nominal periods, a master
whose source fails, or the word clock with the masters locked to it, stops with its pins at rest, and the bead falls
back if it followed it; an edge brings the word clock back. -/
def Obligations.AudioPorts : Prop :=
  (
    (∀ (s : State) (p : Nat) (v : W32) (mclk : Nat) (y : APort), awake s → apOk p = true → 18 ∉ s.pwr.domOff →
      y = ctrlFields { getAp s p with mclk := mclk } (v ||| 0x80000000) →
      ((getAp s p).en = false → startBad y = false → ∃ t, exec (.audPortStart p v mclk) s = .next t ∧
        getAp t p = { y with
          state := 1, resyncs := 0, frames := 0, marks := [], rateDue := false, lastEdge := s.time, startAt := s.time
          slotTime := s.time, slotAt := none, wordBase := (getAp s 4).frames, din := [] } ∧
        (∀ st b, getBind t st = some b → b.port = p → b.buf = [] ∧ b.started = false) ∧
        (∀ q, q ≠ p → getAp t q = getAp s q) ∧ t.bead = s.bead ∧ t.cmds = s.cmds) ∧
      ((getAp s p).en = false → startBad y = true → exec (.audPortStart p v mclk) s =
        .next (setAp s p { getAp s p with mclk := mclk, badConfig := true })) ∧
      ((getAp s p).en = true → sameSetup { getAp s p with mclk := mclk } y = false →
        exec (.audPortStart p v mclk) s = .next (setAp s p { getAp s p with mclk := mclk, badConfig := true })) ∧
      ((getAp s p).en = true → sameSetup { getAp s p with mclk := mclk } y = true → startBad y = false →
        exec (.audPortStart p v mclk) s = .next (setAp s p y))) ∧
    (∀ (s : State) (p : Nat) (v : W32), awake s → apOk p = true → 18 ∉ s.pwr.domOff → (getAp s p).en = true →
      sameSetup (getAp s p) (ctrlFields (getAp s p) (v &&& 0x7FFFFFFF)) = true →
      ∃ t, exec (.audPortStop p v) s = .next t ∧ (getAp t p).en = false ∧ (getAp t p).state = 0 ∧ (getAp t p).slotAt = none ∧
        ((getAp s p).master = true → (getAp t p).rate = 0) ∧
        (∀ st b, getBind t st = some b → b.port = p → b.buf = [] ∧ b.started = false) ∧
        t.io.wire = s.io.wire ++ [.audioLow p (getAp s p).master] ∧ (∀ q, q ≠ p → getAp t q = getAp s q) ∧
        (s.bead.activeRef = refOfPort p → t.bead = { s.bead with activeRef := 0, fallback := true, from3 := 3 * s.time }) ∧
        (s.bead.activeRef ≠ refOfPort p → t.bead = s.bead) ∧ t.cmds = s.cmds) ∧
    (∀ (s : State) (p : Nat) (v : W32), awake s → apOk p = true → 18 ∉ s.pwr.domOff →
      exec (.audMaskWrite p v 4) s = .next (setAp s p { getAp s p with
        maskNext := (getAp s p).maskNext ++ [(if lastSlotBegun (getAp s p) then 2 else 1, v)] }) ∧
      ∀ w, w ≠ 4 → exec (.audMaskWrite p v w) s = .next s) ∧
    (∀ (s : State) (p mclk w : Nat) (v : W32), awake s → 18 ∈ s.pwr.domOff → exec (.audPortStart p v mclk) s = .next s ∧
      exec (.audPortStop p v) s = .next s ∧ exec (.audMaskWrite p v w) s = .next s)) ∧
  (
    (∀ (s : State) (p : Nat), apRuns s p = true → frameOver (getAp s p) = true →
      ((getAp s p).slotAt.isSome && !(getAp s p).master && clockLate s (getAp s p)) = false → clockThere s (getAp s p) = true →
      ∃ t, exec (.audFrame p []) s = .next t ∧ (getAp t p).frames = (getAp s p).frames + 1 ∧ (getAp t p).slotAt = some 0 ∧
        slotDue (getAp s p) (getAp s p).frames 0 ≤ t.time ∧ (getAp t p).lastEdge = t.time ∧
        (getAp t p).mask = (takeMask (getAp s p)).mask ∧ (getAp t p).maskNext = (takeMask (getAp s p)).maskNext ∧
        (∀ st b, getBind s st = some b → b.port = p → b.started = false → bindLive s b = true →
          b.prefill * b.chans ≤ b.buf.length → getBind t st = some { b with started := true }) ∧
        (s.bead.en = true → s.bead.activeRef = refOfPort p → t.bead = { s.bead with samples := s.bead.samples + 1 }) ∧
        (s.bead.activeRef ≠ refOfPort p → t.bead = s.bead) ∧ (∀ q, q ≠ p → getAp t q = getAp s q) ∧ t.cmds = s.cmds) ∧
    (∀ (s : State) (p k : Nat) (v : W32), apRuns s p = true → (getAp s p).slotAt = some k → k ≤ (getAp s p).slotsM1 →
      ∃ t w, exec (.audFrame p [v]) s = .next t ∧ t.io.wire.getLast? = some (.audio p k (slotBits (getAp s p) k w)) ∧
        (getAp t p).slotAt = some (k + 1) ∧ (getAp t p).frames = (getAp s p).frames ∧
        slotDue (getAp s p) ((getAp s p).frames - 1) k ≤ t.time ∧
        tget none (getAp t p).din k = some (BitVec.ofNat 32 (v.toNat % 2 ^ slotWidth (getAp s p).width.toNat)) ∧
        (slotBind s p k = none → t.binds = s.binds ∧
          ((getAp s p).mask.getLsbD k = false ∨ (getAp s p).thru = false → w = 0) ∧
          (∀ u, (getAp s p).mask.getLsbD k = true → (getAp s p).thru = true → tget none (getAp s p).din k = some u → w = u)) ∧
        (∀ st b, slotBind s p k = some (st, b) →
          (∀ u r, b.buf = u :: r → getBind t st = some { b with buf := r } ∧
            w = if (getAp s p).mask.getLsbD k then slotWord b.fmt (slotWidth (getAp s p).width.toNat) u else 0) ∧
          (b.buf = [] → w = 0 ∧ (getAp t p).slip = true ∧ t.binds = s.binds)) ∧
        t.bead = s.bead ∧ (∀ q, q ≠ p → getAp t q = getAp s q) ∧ t.cmds = s.cmds) ∧
    (∀ (s : State) (p k : Nat), apRuns s p = true → (getAp s p).master = false → (getAp s p).slotAt = some k →
      (clockLate s (getAp s p) = false → ∃ t, exec (.audResync p false []) s = .next t ∧
        (getAp t p).resyncs = min ((getAp s p).resyncs + 1) 0xFFFFFFFF ∧ (getAp t p).frames = (getAp s p).frames + 1 ∧
        (getAp t p).slotAt = some 0 ∧ (getAp t p).lastEdge = s.time ∧
        (∀ st b u r, s.binds = [(st, some b)] → b.started = true → b.port = p → b.chans = 1 → k ≤ b.slot →
          b.slot ≤ (getAp s p).slotsM1 → b.buf = u :: r → getBind t st = some { b with buf := r }) ∧ t.cmds = s.cmds) ∧
      ((getAp s p).format = 0 → k ≤ 1 → ∃ t, exec (.audResync p true []) s = .next t ∧
        (getAp t p).resyncs = min ((getAp s p).resyncs + 1) 0xFFFFFFFF ∧ (getAp t p).frames = (getAp s p).frames ∧
        (getAp t p).slotAt = some 1 ∧ t.bead = s.bead ∧ t.cmds = s.cmds)) ∧
    (∀ (s : State) (p : Nat) (l : List W32) (mid : Bool), (getAp s p).en = false →
      exec (.audResync p mid l) s = .next s ∧ ((getAp s p).master = true → p ≠ 4 → exec (.audFrame p l) s = .next s)) ∧
    (∀ (s : State) (l : List W32), crownUp s = true → 18 ∉ s.pwr.domOff →
      ((getAp s 4).state = 0 → exec (.audFrame 4 l) s = .next s) ∧
      ((getAp s 4).state = 1 → clockLate s (getAp s 4) = false → ∃ t, exec (.audFrame 4 l) s = .next t ∧
        (getAp t 4).frames = (getAp s 4).frames + 1 ∧ (getAp t 4).lastEdge = s.time ∧ (getAp t 4).state = 1 ∧
        (s.bead.en = true → s.bead.activeRef = 1 → t.bead = { s.bead with samples := s.bead.samples + 1 }) ∧
        (∀ q, q < 4 → getAp t q = getAp s q) ∧ t.cmds = s.cmds))) ∧
  (
    (∀ (s : State) (p : Nat) (up : Bool), p < 5 → crownUp s = true → 18 ∉ s.pwr.domOff →
      ((getAp s p).rateDue = true → ∃ t, exec (.audRateUpdate p up) s = .next t ∧
        (getAp t p).rate = meanRate (getAp s p) up ∧
        (∀ a b, (getAp s p).marks = [a, b] → b < a → (getAp t p).rate =
          min ((1024 * 10 ^ 12 + if up then a - b - 1 else 0) / (a - b)) 0xFFFFFFFF) ∧
        (getAp t p).rateChange = ((getAp s p).rateChange || rateOut (getAp s p) (meanRate (getAp s p) up)) ∧
        (getAp t p).rateDue = false ∧ (getAp t p).state = (getAp s p).state ∧
        (rateFar (getAp s p) (meanRate (getAp s p) up) = true → s.bead.activeRef = refOfPort p →
          t.bead = { s.bead with activeRef := 0, fallback := true, from3 := 3 * s.time }) ∧
        (rateFar (getAp s p) (meanRate (getAp s p) up) = false → t.bead = s.bead) ∧ (∀ q, q ≠ p → getAp t q = getAp s q) ∧
        t.cmds = s.cmds) ∧
      ((getAp s p).rateDue = false → exec (.audRateUpdate p up) s = .next s)) ∧
    (∀ (s : State) (p : Nat), p < 4 → crownUp s = true → 18 ∉ s.pwr.domOff → (getAp s p).state = 1 →
      ((getAp s p).master = false ∧ (getAp s p).nominal ≠ 0 ∨ (getAp s p).master = true ∧ (getAp s p).clksrc = 0 ∨
        (getAp s p).master = true ∧ (getAp s p).clksrc = 2 ∧ (getAp s 4).state = 0) →
      ∃ t, exec (.audClockLost p) s = .next t ∧ (getAp t p).state = 2 ∧ (getAp t p).clockLost = true ∧
        (getAp t p).rate = 0 ∧ (getAp t p).frames = 0 ∧ (getAp t p).en = (getAp s p).en ∧
        .audioLow p (getAp s p).master ∈ t.io.wire ∧ (∀ q, q ≠ p → getAp t q = getAp s q) ∧
        ((getAp s p).master = false →
          (getAp s p).lastEdge + (2 * 10 ^ 12 + (getAp s p).nominal - 1) / (getAp s p).nominal ≤ t.time) ∧
        (s.bead.activeRef = refOfPort p → t.bead = { s.bead with activeRef := 0, fallback := true, from3 := 3 * t.time }) ∧
        (s.bead.activeRef ≠ refOfPort p → t.bead = s.bead) ∧ t.cmds = s.cmds) ∧
    (∀ (s : State) (p : Nat), p < 4 → (getAp s p).master = true →
      (getAp s p).clksrc = 1 ∨ ((getAp s p).clksrc = 2 ∧ (getAp s 4).state = 1) → exec (.audClockLost p) s = .next s) ∧
    (∀ s : State, crownUp s = true → 18 ∉ s.pwr.domOff → (getAp s 4).state = 1 → (getAp s 4).master = false →
      (getAp s 4).nominal ≠ 0 →
      ∃ t, exec (.audClockLost 4) s = .next t ∧ (getAp t 4).state = 0 ∧ (getAp t 4).clockLost = true ∧
        (∀ q, q < 4 → (getAp s q).state = 1 → (getAp s q).master = true → (getAp s q).clksrc = 2 → (getAp t q).state = 2) ∧
        (∀ q, q < 4 → (getAp s q).master = false ∨ (getAp s q).clksrc ≠ 2 → getAp t q = getAp s q) ∧ t.cmds = s.cmds) ∧
    (∀ s : State, crownUp s = true → 18 ∉ s.pwr.domOff →
      ((getAp s 4).state = 0 → ∃ t, exec .wordClockReturn s = .next t ∧ (getAp t 4).state = 1 ∧
        (getAp t 4).frames = (getAp s 4).frames + 1 ∧ (getAp t 4).lastEdge = s.time ∧
        (∀ q, q < 4 → getAp t q = getAp s q) ∧ t.cmds = s.cmds) ∧
      ((getAp s 4).state ≠ 0 → exec .wordClockReturn s = .next s)))
end

