-- ==== Sys2Proof/Laws/Bytes.lean ====
section
/-! SUPPORT. What the little-endian codec gives back: bytes of a number, the number of bytes, and a field at the head of bytes. -/

namespace Sys2Proof.Machine

open Sys2Proof

@[simp] theorem length_leN : ∀ n v : Nat, (leN n v).length = n
  | 0, _ => rfl
  | n + 1, v => by simp [leN, length_leN n]

theorem ofLE_leN : ∀ n v : Nat, v < 256 ^ n → ofLE (leN n v) = v
  | 0, v, h => by simp at h; simp [leN, ofLE, h]
  | n + 1, v, h => by
    have : v / 256 < 256 ^ n := Nat.div_lt_of_lt_mul (by simpa [Nat.pow_succ, Nat.mul_comm] using h)
    simp only [leN, ofLE, ofLE_leN n _ this, BitVec.toNat_ofNat]
    omega

@[simp] theorem length_slice (b : Bytes) (o n : Nat) : (slice b o n).length = n := by simp [slice]

theorem slice_append_mid (a b c : Bytes) : slice (a ++ b ++ c) a.length b.length = b := by
  apply List.ext_getElem (by simp)
  intro i _ h2
  have : (a ++ b ++ c)[a.length + i]? = some b[i] := by
    rw [List.append_assoc, List.getElem?_append_right (by omega), List.getElem?_append_left (by simpa using h2)]
    simp [List.getElem?_eq_getElem h2]
  simp only [slice, List.getElem_map, List.getElem_range, this, Option.getD_some]

theorem slice_append_left (a b : Bytes) : slice (a ++ b) 0 a.length = a := slice_append_mid [] a b

theorem fieldLE_leN_append (n v : Nat) (b : Bytes) (h : v < 256 ^ n) : fieldLE (leN n v ++ b) 0 n = v := by
  have := slice_append_left (leN n v) b
  rw [length_leN] at this
  rw [fieldLE, this, ofLE_leN n v h]

end Sys2Proof.Machine
end

