-- ==== Sys2Proof/Laws/Table.lean ====
section
/-! SUPPORT. Reads and writes of sparse tables and of byte memories. -/

namespace Sys2Proof.Machine

open Sys2Proof

variable {α : Type} [DecidableEq α]

omit [DecidableEq α] in
@[simp] theorem tget_nil (d : α) (k : Nat) : tget d [] k = d := rfl

omit [DecidableEq α] in
/-- A map over the values of a table that keeps the default maps every value it reads as. -/
theorem tget_map (d : α) (f : α → α) (h : f d = d) (k : Nat) :
    ∀ t : Tab α, tget d (t.map fun x => (x.1, f x.2)) k = f (tget d t k)
  | [] => by simp [tget, h]
  | (j, v) :: t => by
    simp only [List.map_cons, tget]
    split
    · rfl
    · exact tget_map d f h k t

theorem tabWf_weaken (d : α) : ∀ (t : Tab α) (lo hi : Nat), lo ≤ hi → tabWf d hi t = true → tabWf d lo t = true
  | [], _, _, _, _ => rfl
  | (j, v) :: t, lo, hi, h, w => by
    simp only [tabWf, Bool.and_eq_true, decide_eq_true_eq] at w ⊢
    exact ⟨⟨by omega, w.1.2⟩, w.2⟩

/-- Every key of a well-formed table from `lo` is at least `lo`, so a smaller key reads the default. -/
theorem tget_below (d : α) : ∀ (t : Tab α) (lo k : Nat), k < lo → tabWf d lo t = true → tget d t k = d
  | [], _, _, _, _ => rfl
  | (j, v) :: t, lo, k, h, w => by
    simp only [tabWf, Bool.and_eq_true, decide_eq_true_eq] at w
    simp only [tget, show ¬ j = k by omega, if_false]
    exact tget_below d t (j + 1) k (by omega) w.2

/-- Writing the default removes every entry of the key. -/
theorem tget_tput_default (d : α) : ∀ (t : Tab α) (k : Nat), tget d (tput d t k d) k = d
  | [], k => by simp [tput]
  | (j, w) :: t, k => by
    simp only [tput, if_true]
    split
    · exact tget_tput_default d t k
    · next h => simp only [tget, if_neg h]; exact tget_tput_default d t k

/-- A write gives the value written back. -/
@[simp] theorem tget_tput_same (d : α) : ∀ (t : Tab α) (k : Nat) (v : α), tget d (tput d t k v) k = v
  | [], k, v => by by_cases h : v = d <;> simp [tput, tget, h]
  | (j, w) :: t, k, v => by
    by_cases h : v = d
    · subst h; exact tget_tput_default v ((j, w) :: t) k
    · simp only [tput, if_neg h]
      split
      · simp [tget]
      · split
        · simp [tget]
        · next hk => simp only [tget, if_neg (Ne.symm hk)]; exact tget_tput_same d t k v

/-- A write leaves every other key alone. -/
theorem tget_tput_ne (d : α) : ∀ (t : Tab α) (k i : Nat) (v : α), i ≠ k → tget d (tput d t k v) i = tget d t i
  | [], k, i, v, h => by by_cases hv : v = d <;> simp [tput, tget, hv, Ne.symm h]
  | (j, w) :: t, k, i, v, h => by
    have ih := tget_tput_ne d t k i v h
    simp only [tput]
    split
    · split
      · next hk => subst hk; simp only [tget, if_neg (Ne.symm h)]; exact ih
      · simp only [tget, ih]
    · split
      · simp [tget, Ne.symm h]
      · split
        · next hk => subst hk; simp [tget, Ne.symm h]
        · simp only [tget, ih]

/-- Writing the default changes no table that lists no such key. -/
theorem tput_default_absent (d : α) : ∀ (t : Tab α) (lo k : Nat), k < lo → tabWf d lo t = true → tput d t k d = t
  | [], _, _, _, _ => by simp [tput]
  | (j, w) :: t, lo, k, h, hw => by
    simp only [tabWf, Bool.and_eq_true, decide_eq_true_eq] at hw
    simp only [tput, if_true, show ¬ j = k by omega, if_false]
    rw [tput_default_absent d t (j + 1) k (by omega) hw.2]

/-- A write keeps the canonical form. -/
theorem tput_wf (d : α) : ∀ (t : Tab α) (lo k : Nat) (v : α), lo ≤ k → tabWf d lo t = true →
    tabWf d lo (tput d t k v) = true
  | [], lo, k, v, h, _ => by
    by_cases hv : v = d <;> simp [tput, tabWf, hv, h]
  | (j, w) :: t, lo, k, v, h, hw => by
    have hw' := hw
    simp only [tabWf, Bool.and_eq_true, decide_eq_true_eq] at hw
    simp only [tput]
    split
    · next hv =>
      subst hv
      split
      · next hk =>
        subst hk
        rw [tput_default_absent v t (j + 1) j (by omega) hw.2]
        exact tabWf_weaken v t lo (j + 1) (by omega) hw.2
      · by_cases hk : k ≤ j
        · rw [tput_default_absent v t (j + 1) k (by omega) hw.2]
          exact hw'
        · simp only [tabWf, Bool.and_eq_true, decide_eq_true_eq]
          exact ⟨hw.1, tput_wf v t (j + 1) k v (by omega) hw.2⟩
    · next hv =>
      split
      · simp only [tabWf, Bool.and_eq_true, decide_eq_true_eq]
        exact ⟨⟨h, hv⟩, ⟨by omega, hw.1.2⟩, hw.2⟩
      · split
        · next hk =>
          subst hk
          simp only [tabWf, Bool.and_eq_true, decide_eq_true_eq]
          exact ⟨⟨h, hv⟩, hw.2⟩
        · simp only [tabWf, Bool.and_eq_true, decide_eq_true_eq]
          exact ⟨hw.1, tput_wf d t (j + 1) k v (by omega) hw.2⟩

/-- Writing bytes keeps the canonical form of a memory. -/
theorem memPut_wf : ∀ (b : Bytes) (m : Tab Byte) (a : Nat), Memory.wf m = true → Memory.wf (memPut m a b) = true
  | [], _, _, h => h
  | x :: t, m, a, h => memPut_wf t (tput 0 m a x) (a + 1) (tput_wf 0 m 0 a x (Nat.zero_le a) h)

/-- Writing bytes leaves every byte outside them alone. -/
theorem memPut_outside : ∀ (b : Bytes) (m : Tab Byte) (a i : Nat), (i < a ∨ a + b.length ≤ i) →
    tget 0 (memPut m a b) i = tget 0 m i
  | [], _, _, _, _ => rfl
  | x :: t, m, a, i, hi => by
    have hl : (x :: t).length = t.length + 1 := rfl
    rw [memPut, memPut_outside t _ (a + 1) i (by omega)]
    exact tget_tput_ne 0 m a i x (by omega)

/-- The bytes written read back. -/
theorem memPut_inside : ∀ (b : Bytes) (m : Tab Byte) (a i : Nat), i < b.length →
    tget 0 (memPut m a b) (a + i) = (b[i]?).getD 0
  | [], _, _, _, h => by simp at h
  | x :: t, m, a, 0, _ => by
    rw [memPut, memPut_outside t _ (a + 1) (a + 0) (by omega)]
    exact tget_tput_same 0 m a x
  | x :: t, m, a, i + 1, hi => by
    have hl : (x :: t).length = t.length + 1 := rfl
    rw [memPut, show a + (i + 1) = a + 1 + i by omega,
      memPut_inside t _ (a + 1) i (by omega)]
    rfl

/-- A read of `n` bytes gives `n` bytes. -/
@[simp] theorem memGet_length (m : Tab Byte) (a n : Nat) : (memGet m a n).length = n := by simp [memGet]

end Sys2Proof.Machine
end

