-- ==== Sys2Proof/Laws/Parts.lean ====
section
/-! SUPPORT. Reading a part of the state by number after writing one. -/

namespace Sys2Proof.Machine

open Sys2Proof

/-- What `setCore` writes is read back. -/
@[simp] theorem getCore_setCore_same (s : State) (n : Nat) (x : Core) : getCore (setCore s n x) n = x := by
  simp [getCore, setCore]
/-- No other number is changed. -/
theorem getCore_setCore_ne (s : State) (n k : Nat) (x : Core) (h : k ≠ n) : getCore (setCore s n x) k = getCore s k :=
  tget_tput_ne _ _ _ _ _ h

/-- What `setClient` writes is read back. -/
@[simp] theorem getClient_setClient_same (s : State) (n : Nat) (x : Client) : getClient (setClient s n x) n = x := by
  simp [getClient, setClient]
/-- No other number is changed. -/
theorem getClient_setClient_ne (s : State) (n k : Nat) (x : Client) (h : k ≠ n) : getClient (setClient s n x) k = getClient s k :=
  tget_tput_ne _ _ _ _ _ h

/-- What `setSched` writes is read back. -/
@[simp] theorem getSched_setSched_same (s : State) (n : Nat) (x : Sched) : getSched (setSched s n x) n = x := by
  simp [getSched, setSched]
/-- No other number is changed. -/
theorem getSched_setSched_ne (s : State) (n k : Nat) (x : Sched) (h : k ≠ n) : getSched (setSched s n x) k = getSched s k :=
  tget_tput_ne _ _ _ _ _ h

/-- What `setPart` writes is read back. -/
@[simp] theorem getPart_setPart_same (s : State) (n : Nat) (x : Part) : getPart (setPart s n x) n = x := by
  simp [getPart, setPart]
/-- No other number is changed. -/
theorem getPart_setPart_ne (s : State) (n k : Nat) (x : Part) (h : k ≠ n) : getPart (setPart s n x) k = getPart s k :=
  tget_tput_ne _ _ _ _ _ h

/-- What `setStream` writes is read back. -/
@[simp] theorem getStream_setStream_same (s : State) (n : Nat) (x : Stream) : getStream (setStream s n x) n = x := by
  simp [getStream, setStream]
/-- No other number is changed. -/
theorem getStream_setStream_ne (s : State) (n k : Nat) (x : Stream) (h : k ≠ n) : getStream (setStream s n x) k = getStream s k :=
  tget_tput_ne _ _ _ _ _ h

/-- What `setPile` writes is read back. -/
@[simp] theorem getPile_setPile_same (s : State) (n : Nat) (x : Pile) : getPile (setPile s n x) n = x := by
  simp [getPile, setPile]
/-- No other number is changed. -/
theorem getPile_setPile_ne (s : State) (n k : Nat) (x : Pile) (h : k ≠ n) : getPile (setPile s n x) k = getPile s k :=
  tget_tput_ne _ _ _ _ _ h

/-- What `setPort` writes is read back. -/
@[simp] theorem getPort_setPort_same (s : State) (n : Nat) (x : Port) : getPort (setPort s n x) n = x := by
  simp [getPort, setPort]
/-- No other number is changed. -/
theorem getPort_setPort_ne (s : State) (n k : Nat) (x : Port) (h : k ≠ n) : getPort (setPort s n x) k = getPort s k :=
  tget_tput_ne _ _ _ _ _ h

/-- What `setAp` writes is read back. -/
@[simp] theorem getAp_setAp_same (s : State) (n : Nat) (x : APort) : getAp (setAp s n x) n = x := by
  simp [getAp, setAp]
/-- No other number is changed. -/
theorem getAp_setAp_ne (s : State) (n k : Nat) (x : APort) (h : k ≠ n) : getAp (setAp s n x) k = getAp s k :=
  tget_tput_ne _ _ _ _ _ h

/-- What `setVddc` writes is read back. -/
@[simp] theorem getVddc_setVddc_same (s : State) (n : Nat) (x : Vddc) : getVddc (setVddc s n x) n = x := by
  simp [getVddc, setVddc]
/-- No other number is changed. -/
theorem getVddc_setVddc_ne (s : State) (n k : Nat) (x : Vddc) (h : k ≠ n) : getVddc (setVddc s n x) k = getVddc s k :=
  tget_tput_ne _ _ _ _ _ h

/-- What `setBind` writes is read back. -/
@[simp] theorem getBind_setBind_same (s : State) (n : Nat) (x : Option Bind) : getBind (setBind s n x) n = x := by
  simp [getBind, setBind]
/-- No other number is changed. -/
theorem getBind_setBind_ne (s : State) (n k : Nat) (x : Option Bind) (h : k ≠ n) : getBind (setBind s n x) k = getBind s k :=
  tget_tput_ne _ _ _ _ _ h

/-- What `setH2f` writes is read back. -/
@[simp] theorem getH2f_setH2f_same (s : State) (n : Nat) (x : H2F) : getH2f (setH2f s n x) n = x := by
  simp [getH2f, setH2f]
/-- No other number is changed. -/
theorem getH2f_setH2f_ne (s : State) (n k : Nat) (x : H2F) (h : k ≠ n) : getH2f (setH2f s n x) k = getH2f s k :=
  tget_tput_ne _ _ _ _ _ h

/-- What `setF2h` writes is read back. -/
@[simp] theorem getF2h_setF2h_same (s : State) (n : Nat) (x : F2H) : getF2h (setF2h s n x) n = x := by
  simp [getF2h, setF2h]
/-- No other number is changed. -/
theorem getF2h_setF2h_ne (s : State) (n k : Nat) (x : F2H) (h : k ≠ n) : getF2h (setF2h s n x) k = getF2h s k :=
  tget_tput_ne _ _ _ _ _ h

/-- What `setReqs` writes is read back. -/
@[simp] theorem getReqs_setReqs_same (s : State) (n : Nat) (x : List Req) : getReqs (setReqs s n x) n = x := by
  simp [getReqs, setReqs]
/-- No other number is changed. -/
theorem getReqs_setReqs_ne (s : State) (n k : Nat) (x : List Req) (h : k ≠ n) : getReqs (setReqs s n x) k = getReqs s k :=
  tget_tput_ne _ _ _ _ _ h

/-- What `setReplies` writes is read back. -/
@[simp] theorem getReplies_setReplies_same (s : State) (n : Nat) (x : List Bytes) : getReplies (setReplies s n x) n = x := by
  simp [getReplies, setReplies]
/-- No other number is changed. -/
theorem getReplies_setReplies_ne (s : State) (n k : Nat) (x : List Bytes) (h : k ≠ n) : getReplies (setReplies s n x) k = getReplies s k :=
  tget_tput_ne _ _ _ _ _ h

/-- What `setRule` writes is read back. -/
@[simp] theorem getRule_setRule_same (s : State) (n : Nat) (x : Rule) : getRule (setRule s n x) n = x := by
  simp [getRule, setRule]
/-- No other number is changed. -/
theorem getRule_setRule_ne (s : State) (n k : Nat) (x : Rule) (h : k ≠ n) : getRule (setRule s n x) k = getRule s k :=
  tget_tput_ne _ _ _ _ _ h

/-- What `setChan` writes is read back. -/
@[simp] theorem getChan_setChan_same (s : State) (n : Nat) (x : Chan) : getChan (setChan s n x) n = x := by
  simp [getChan, setChan]
/-- No other number is changed. -/
theorem getChan_setChan_ne (s : State) (n k : Nat) (x : Chan) (h : k ≠ n) : getChan (setChan s n x) k = getChan s k :=
  tget_tput_ne _ _ _ _ _ h

/-- A ring pair written is read back. -/
@[simp] theorem getRing_setRing_same (s : State) (c n : Nat) (r : Ring) : getRing (setRing s c n r) c n = r := by
  simp [getRing, setRing]
/-- No other pair of the client is changed. -/
theorem getRing_setRing_ne (s : State) (c n k : Nat) (r : Ring) (h : k ≠ n) :
    getRing (setRing s c n r) c k = getRing s c k := by
  simp [getRing, setRing, tget_tput_ne _ _ _ _ _ h]
/-- No other client is changed. -/
theorem getClient_setRing_ne (s : State) (c n k : Nat) (r : Ring) (h : k ≠ c) :
    getClient (setRing s c n r) k = getClient s k := tget_tput_ne _ _ _ _ _ h

/-- The dispatch of a core written is read back. -/
@[simp] theorem getDisp_setDisp_same (s : State) (core : Nat) (d : Disp) : getDisp (setDisp s core d) core = some d := by
  simp [getDisp, setDisp]
/-- No other core's dispatch is changed. -/
theorem getDisp_setDisp_ne (s : State) (core k : Nat) (d : Disp) (h : k ≠ core) :
    getDisp (setDisp s core d) k = getDisp s k := by
  simp [getDisp, setDisp, getCore_setCore_ne _ _ _ _ h]
/-- Writing a dispatch leaves the rest of the core. -/
@[simp] theorem getCore_setDisp_same (s : State) (core : Nat) (d : Disp) :
    getCore (setDisp s core d) core = { getCore s core with disp := some d } := by simp [setDisp]
/-- Writing a dispatch leaves the other cores. -/
theorem getCore_setDisp_ne (s : State) (core k : Nat) (d : Disp) (h : k ≠ core) :
    getCore (setDisp s core d) k = getCore s k := getCore_setCore_ne _ _ _ _ h

/-- A command changed by a function that keeps its number is found, changed. -/
theorem getCmd_modCmd_same (s : State) (id : Nat) (f : Cmd → Cmd) (c : Cmd) (h : getCmd s id = some c)
    (hf : ∀ x, (f x).id = x.id) : getCmd (modCmd s id f) id = some (f c) := by
  have key : ∀ l : List Cmd, (l.find? fun x => x.id == id) = some c →
      ((l.map fun x => if x.id == id then f x else x).find? fun x => x.id == id) = some (f c) := by
    intro l
    induction l with
    | nil => intro h; simp at h
    | cons a t ih =>
      intro h
      by_cases ha : a.id = id
      · simp [ha] at h; subst h; simp [ha, hf]
      · have ha' : (a.id == id) = false := by simpa using ha
        rw [List.find?_cons, ha'] at h
        rw [List.map_cons, List.find?_cons]
        simp only [ha', Bool.false_eq_true, if_false]
        exact ih h
  exact key s.cmds h
/-- No command of another number is changed. -/
theorem getCmd_modCmd_ne (s : State) (id k : Nat) (f : Cmd → Cmd) (hk : k ≠ id) (hf : ∀ x, (f x).id = x.id) :
    getCmd (modCmd s id f) k = getCmd s k := by
  have key : ∀ l : List Cmd, ((l.map fun x => if x.id == id then f x else x).find? fun x => x.id == k) =
      l.find? fun x => x.id == k := by
    intro l
    induction l with
    | nil => rfl
    | cons a t ih =>
      rw [List.map_cons, List.find?_cons, List.find?_cons, ih]
      by_cases ha : a.id = id
      · have h1 : (a.id == id) = true := by simpa using ha
        have h2 : (a.id == k) = false := by simp [ha, Ne.symm hk]
        simp [h1, hf, h2]
      · have h1 : (a.id == id) = false := by simpa using ha
        simp [h1]
  exact key s.cmds

end Sys2Proof.Machine
end

