-- ==== Sys2Proof/Laws/State.lean ====
section
/-! SUPPORT. What each named update of the state leaves in each field. -/

namespace Sys2Proof.Machine

open Sys2Proof

@[simp] theorem setCore_time (s : State) (n : Nat) (x : Core) : (setCore s n x).time = s.time := rfl
@[simp] theorem setCore_free (s : State) (n : Nat) (x : Core) : (setCore s n x).free = s.free := rfl
@[simp] theorem setCore_pending (s : State) (n : Nat) (x : Core) : (setCore s n x).pending = s.pending := rfl
@[simp] theorem setCore_io (s : State) (n : Nat) (x : Core) : (setCore s n x).io = s.io := rfl
@[simp] theorem setCore_bead (s : State) (n : Nat) (x : Core) : (setCore s n x).bead = s.bead := rfl
@[simp] theorem setCore_crown (s : State) (n : Nat) (x : Core) : (setCore s n x).crown = s.crown := rfl
@[simp] theorem setCore_clients (s : State) (n : Nat) (x : Core) : (setCore s n x).clients = s.clients := rfl
@[simp] theorem setCore_sched (s : State) (n : Nat) (x : Core) : (setCore s n x).sched = s.sched := rfl
@[simp] theorem setCore_cmds (s : State) (n : Nat) (x : Core) : (setCore s n x).cmds = s.cmds := rfl
@[simp] theorem setCore_parts (s : State) (n : Nat) (x : Core) : (setCore s n x).parts = s.parts := rfl
@[simp] theorem setCore_streams (s : State) (n : Nat) (x : Core) : (setCore s n x).streams = s.streams := rfl
@[simp] theorem setCore_sets (s : State) (n : Nat) (x : Core) : (setCore s n x).sets = s.sets := rfl
@[simp] theorem setCore_cores (s : State) (n : Nat) (x : Core) : (setCore s n x).cores = tput {} s.cores n x := rfl
@[simp] theorem setCore_dieTlb (s : State) (n : Nat) (x : Core) : (setCore s n x).dieTlb = s.dieTlb := rfl
@[simp] theorem setCore_net (s : State) (n : Nat) (x : Core) : (setCore s n x).net = s.net := rfl
@[simp] theorem setCore_pile (s : State) (n : Nat) (x : Core) : (setCore s n x).pile = s.pile := rfl
@[simp] theorem setCore_piles (s : State) (n : Nat) (x : Core) : (setCore s n x).piles = s.piles := rfl
@[simp] theorem setCore_memwin (s : State) (n : Nat) (x : Core) : (setCore s n x).memwin = s.memwin := rfl
@[simp] theorem setCore_inval (s : State) (n : Nat) (x : Core) : (setCore s n x).inval = s.inval := rfl
@[simp] theorem setCore_ports (s : State) (n : Nat) (x : Core) : (setCore s n x).ports = s.ports := rfl
@[simp] theorem setCore_dom (s : State) (n : Nat) (x : Core) : (setCore s n x).dom = s.dom := rfl
@[simp] theorem setCore_mail (s : State) (n : Nat) (x : Core) : (setCore s n x).mail = s.mail := rfl
@[simp] theorem setCore_ap (s : State) (n : Nat) (x : Core) : (setCore s n x).ap = s.ap := rfl
@[simp] theorem setCore_binds (s : State) (n : Nat) (x : Core) : (setCore s n x).binds = s.binds := rfl
@[simp] theorem setCore_sec (s : State) (n : Nat) (x : Core) : (setCore s n x).sec = s.sec := rfl
@[simp] theorem setCore_dbg (s : State) (n : Nat) (x : Core) : (setCore s n x).dbg = s.dbg := rfl
@[simp] theorem setCore_rst (s : State) (n : Nat) (x : Core) : (setCore s n x).rst = s.rst := rfl
@[simp] theorem setCore_pwr (s : State) (n : Nat) (x : Core) : (setCore s n x).pwr = s.pwr := rfl
@[simp] theorem setCore_mon (s : State) (n : Nat) (x : Core) : (setCore s n x).mon = s.mon := rfl
@[simp] theorem setCore_tally (s : State) (n : Nat) (x : Core) : (setCore s n x).tally = s.tally := rfl
@[simp] theorem setCore_health (s : State) (n : Nat) (x : Core) : (setCore s n x).health = s.health := rfl

@[simp] theorem setClient_time (s : State) (n : Nat) (x : Client) : (setClient s n x).time = s.time := rfl
@[simp] theorem setClient_free (s : State) (n : Nat) (x : Client) : (setClient s n x).free = s.free := rfl
@[simp] theorem setClient_pending (s : State) (n : Nat) (x : Client) : (setClient s n x).pending = s.pending := rfl
@[simp] theorem setClient_io (s : State) (n : Nat) (x : Client) : (setClient s n x).io = s.io := rfl
@[simp] theorem setClient_bead (s : State) (n : Nat) (x : Client) : (setClient s n x).bead = s.bead := rfl
@[simp] theorem setClient_crown (s : State) (n : Nat) (x : Client) : (setClient s n x).crown = s.crown := rfl
@[simp] theorem setClient_clients (s : State) (n : Nat) (x : Client) : (setClient s n x).clients = tput {} s.clients n x := rfl
@[simp] theorem setClient_sched (s : State) (n : Nat) (x : Client) : (setClient s n x).sched = s.sched := rfl
@[simp] theorem setClient_cmds (s : State) (n : Nat) (x : Client) : (setClient s n x).cmds = s.cmds := rfl
@[simp] theorem setClient_parts (s : State) (n : Nat) (x : Client) : (setClient s n x).parts = s.parts := rfl
@[simp] theorem setClient_streams (s : State) (n : Nat) (x : Client) : (setClient s n x).streams = s.streams := rfl
@[simp] theorem setClient_sets (s : State) (n : Nat) (x : Client) : (setClient s n x).sets = s.sets := rfl
@[simp] theorem setClient_cores (s : State) (n : Nat) (x : Client) : (setClient s n x).cores = s.cores := rfl
@[simp] theorem setClient_dieTlb (s : State) (n : Nat) (x : Client) : (setClient s n x).dieTlb = s.dieTlb := rfl
@[simp] theorem setClient_net (s : State) (n : Nat) (x : Client) : (setClient s n x).net = s.net := rfl
@[simp] theorem setClient_pile (s : State) (n : Nat) (x : Client) : (setClient s n x).pile = s.pile := rfl
@[simp] theorem setClient_piles (s : State) (n : Nat) (x : Client) : (setClient s n x).piles = s.piles := rfl
@[simp] theorem setClient_memwin (s : State) (n : Nat) (x : Client) : (setClient s n x).memwin = s.memwin := rfl
@[simp] theorem setClient_inval (s : State) (n : Nat) (x : Client) : (setClient s n x).inval = s.inval := rfl
@[simp] theorem setClient_ports (s : State) (n : Nat) (x : Client) : (setClient s n x).ports = s.ports := rfl
@[simp] theorem setClient_dom (s : State) (n : Nat) (x : Client) : (setClient s n x).dom = s.dom := rfl
@[simp] theorem setClient_mail (s : State) (n : Nat) (x : Client) : (setClient s n x).mail = s.mail := rfl
@[simp] theorem setClient_ap (s : State) (n : Nat) (x : Client) : (setClient s n x).ap = s.ap := rfl
@[simp] theorem setClient_binds (s : State) (n : Nat) (x : Client) : (setClient s n x).binds = s.binds := rfl
@[simp] theorem setClient_sec (s : State) (n : Nat) (x : Client) : (setClient s n x).sec = s.sec := rfl
@[simp] theorem setClient_dbg (s : State) (n : Nat) (x : Client) : (setClient s n x).dbg = s.dbg := rfl
@[simp] theorem setClient_rst (s : State) (n : Nat) (x : Client) : (setClient s n x).rst = s.rst := rfl
@[simp] theorem setClient_pwr (s : State) (n : Nat) (x : Client) : (setClient s n x).pwr = s.pwr := rfl
@[simp] theorem setClient_mon (s : State) (n : Nat) (x : Client) : (setClient s n x).mon = s.mon := rfl
@[simp] theorem setClient_tally (s : State) (n : Nat) (x : Client) : (setClient s n x).tally = s.tally := rfl
@[simp] theorem setClient_health (s : State) (n : Nat) (x : Client) : (setClient s n x).health = s.health := rfl

@[simp] theorem setSched_time (s : State) (n : Nat) (x : Sched) : (setSched s n x).time = s.time := rfl
@[simp] theorem setSched_free (s : State) (n : Nat) (x : Sched) : (setSched s n x).free = s.free := rfl
@[simp] theorem setSched_pending (s : State) (n : Nat) (x : Sched) : (setSched s n x).pending = s.pending := rfl
@[simp] theorem setSched_io (s : State) (n : Nat) (x : Sched) : (setSched s n x).io = s.io := rfl
@[simp] theorem setSched_bead (s : State) (n : Nat) (x : Sched) : (setSched s n x).bead = s.bead := rfl
@[simp] theorem setSched_crown (s : State) (n : Nat) (x : Sched) : (setSched s n x).crown = s.crown := rfl
@[simp] theorem setSched_clients (s : State) (n : Nat) (x : Sched) : (setSched s n x).clients = s.clients := rfl
@[simp] theorem setSched_sched (s : State) (n : Nat) (x : Sched) : (setSched s n x).sched = tput {} s.sched n x := rfl
@[simp] theorem setSched_cmds (s : State) (n : Nat) (x : Sched) : (setSched s n x).cmds = s.cmds := rfl
@[simp] theorem setSched_parts (s : State) (n : Nat) (x : Sched) : (setSched s n x).parts = s.parts := rfl
@[simp] theorem setSched_streams (s : State) (n : Nat) (x : Sched) : (setSched s n x).streams = s.streams := rfl
@[simp] theorem setSched_sets (s : State) (n : Nat) (x : Sched) : (setSched s n x).sets = s.sets := rfl
@[simp] theorem setSched_cores (s : State) (n : Nat) (x : Sched) : (setSched s n x).cores = s.cores := rfl
@[simp] theorem setSched_dieTlb (s : State) (n : Nat) (x : Sched) : (setSched s n x).dieTlb = s.dieTlb := rfl
@[simp] theorem setSched_net (s : State) (n : Nat) (x : Sched) : (setSched s n x).net = s.net := rfl
@[simp] theorem setSched_pile (s : State) (n : Nat) (x : Sched) : (setSched s n x).pile = s.pile := rfl
@[simp] theorem setSched_piles (s : State) (n : Nat) (x : Sched) : (setSched s n x).piles = s.piles := rfl
@[simp] theorem setSched_memwin (s : State) (n : Nat) (x : Sched) : (setSched s n x).memwin = s.memwin := rfl
@[simp] theorem setSched_inval (s : State) (n : Nat) (x : Sched) : (setSched s n x).inval = s.inval := rfl
@[simp] theorem setSched_ports (s : State) (n : Nat) (x : Sched) : (setSched s n x).ports = s.ports := rfl
@[simp] theorem setSched_dom (s : State) (n : Nat) (x : Sched) : (setSched s n x).dom = s.dom := rfl
@[simp] theorem setSched_mail (s : State) (n : Nat) (x : Sched) : (setSched s n x).mail = s.mail := rfl
@[simp] theorem setSched_ap (s : State) (n : Nat) (x : Sched) : (setSched s n x).ap = s.ap := rfl
@[simp] theorem setSched_binds (s : State) (n : Nat) (x : Sched) : (setSched s n x).binds = s.binds := rfl
@[simp] theorem setSched_sec (s : State) (n : Nat) (x : Sched) : (setSched s n x).sec = s.sec := rfl
@[simp] theorem setSched_dbg (s : State) (n : Nat) (x : Sched) : (setSched s n x).dbg = s.dbg := rfl
@[simp] theorem setSched_rst (s : State) (n : Nat) (x : Sched) : (setSched s n x).rst = s.rst := rfl
@[simp] theorem setSched_pwr (s : State) (n : Nat) (x : Sched) : (setSched s n x).pwr = s.pwr := rfl
@[simp] theorem setSched_mon (s : State) (n : Nat) (x : Sched) : (setSched s n x).mon = s.mon := rfl
@[simp] theorem setSched_tally (s : State) (n : Nat) (x : Sched) : (setSched s n x).tally = s.tally := rfl
@[simp] theorem setSched_health (s : State) (n : Nat) (x : Sched) : (setSched s n x).health = s.health := rfl

@[simp] theorem setPart_time (s : State) (n : Nat) (x : Part) : (setPart s n x).time = s.time := rfl
@[simp] theorem setPart_free (s : State) (n : Nat) (x : Part) : (setPart s n x).free = s.free := rfl
@[simp] theorem setPart_pending (s : State) (n : Nat) (x : Part) : (setPart s n x).pending = s.pending := rfl
@[simp] theorem setPart_io (s : State) (n : Nat) (x : Part) : (setPart s n x).io = s.io := rfl
@[simp] theorem setPart_bead (s : State) (n : Nat) (x : Part) : (setPart s n x).bead = s.bead := rfl
@[simp] theorem setPart_crown (s : State) (n : Nat) (x : Part) : (setPart s n x).crown = s.crown := rfl
@[simp] theorem setPart_clients (s : State) (n : Nat) (x : Part) : (setPart s n x).clients = s.clients := rfl
@[simp] theorem setPart_sched (s : State) (n : Nat) (x : Part) : (setPart s n x).sched = s.sched := rfl
@[simp] theorem setPart_cmds (s : State) (n : Nat) (x : Part) : (setPart s n x).cmds = s.cmds := rfl
@[simp] theorem setPart_parts (s : State) (n : Nat) (x : Part) : (setPart s n x).parts = tput {} s.parts n x := rfl
@[simp] theorem setPart_streams (s : State) (n : Nat) (x : Part) : (setPart s n x).streams = s.streams := rfl
@[simp] theorem setPart_sets (s : State) (n : Nat) (x : Part) : (setPart s n x).sets = s.sets := rfl
@[simp] theorem setPart_cores (s : State) (n : Nat) (x : Part) : (setPart s n x).cores = s.cores := rfl
@[simp] theorem setPart_dieTlb (s : State) (n : Nat) (x : Part) : (setPart s n x).dieTlb = s.dieTlb := rfl
@[simp] theorem setPart_net (s : State) (n : Nat) (x : Part) : (setPart s n x).net = s.net := rfl
@[simp] theorem setPart_pile (s : State) (n : Nat) (x : Part) : (setPart s n x).pile = s.pile := rfl
@[simp] theorem setPart_piles (s : State) (n : Nat) (x : Part) : (setPart s n x).piles = s.piles := rfl
@[simp] theorem setPart_memwin (s : State) (n : Nat) (x : Part) : (setPart s n x).memwin = s.memwin := rfl
@[simp] theorem setPart_inval (s : State) (n : Nat) (x : Part) : (setPart s n x).inval = s.inval := rfl
@[simp] theorem setPart_ports (s : State) (n : Nat) (x : Part) : (setPart s n x).ports = s.ports := rfl
@[simp] theorem setPart_dom (s : State) (n : Nat) (x : Part) : (setPart s n x).dom = s.dom := rfl
@[simp] theorem setPart_mail (s : State) (n : Nat) (x : Part) : (setPart s n x).mail = s.mail := rfl
@[simp] theorem setPart_ap (s : State) (n : Nat) (x : Part) : (setPart s n x).ap = s.ap := rfl
@[simp] theorem setPart_binds (s : State) (n : Nat) (x : Part) : (setPart s n x).binds = s.binds := rfl
@[simp] theorem setPart_sec (s : State) (n : Nat) (x : Part) : (setPart s n x).sec = s.sec := rfl
@[simp] theorem setPart_dbg (s : State) (n : Nat) (x : Part) : (setPart s n x).dbg = s.dbg := rfl
@[simp] theorem setPart_rst (s : State) (n : Nat) (x : Part) : (setPart s n x).rst = s.rst := rfl
@[simp] theorem setPart_pwr (s : State) (n : Nat) (x : Part) : (setPart s n x).pwr = s.pwr := rfl
@[simp] theorem setPart_mon (s : State) (n : Nat) (x : Part) : (setPart s n x).mon = s.mon := rfl
@[simp] theorem setPart_tally (s : State) (n : Nat) (x : Part) : (setPart s n x).tally = s.tally := rfl
@[simp] theorem setPart_health (s : State) (n : Nat) (x : Part) : (setPart s n x).health = s.health := rfl

@[simp] theorem setStream_time (s : State) (n : Nat) (x : Stream) : (setStream s n x).time = s.time := rfl
@[simp] theorem setStream_free (s : State) (n : Nat) (x : Stream) : (setStream s n x).free = s.free := rfl
@[simp] theorem setStream_pending (s : State) (n : Nat) (x : Stream) : (setStream s n x).pending = s.pending := rfl
@[simp] theorem setStream_io (s : State) (n : Nat) (x : Stream) : (setStream s n x).io = s.io := rfl
@[simp] theorem setStream_bead (s : State) (n : Nat) (x : Stream) : (setStream s n x).bead = s.bead := rfl
@[simp] theorem setStream_crown (s : State) (n : Nat) (x : Stream) : (setStream s n x).crown = s.crown := rfl
@[simp] theorem setStream_clients (s : State) (n : Nat) (x : Stream) : (setStream s n x).clients = s.clients := rfl
@[simp] theorem setStream_sched (s : State) (n : Nat) (x : Stream) : (setStream s n x).sched = s.sched := rfl
@[simp] theorem setStream_cmds (s : State) (n : Nat) (x : Stream) : (setStream s n x).cmds = s.cmds := rfl
@[simp] theorem setStream_parts (s : State) (n : Nat) (x : Stream) : (setStream s n x).parts = s.parts := rfl
@[simp] theorem setStream_streams (s : State) (n : Nat) (x : Stream) : (setStream s n x).streams = tput {} s.streams n x := rfl
@[simp] theorem setStream_sets (s : State) (n : Nat) (x : Stream) : (setStream s n x).sets = s.sets := rfl
@[simp] theorem setStream_cores (s : State) (n : Nat) (x : Stream) : (setStream s n x).cores = s.cores := rfl
@[simp] theorem setStream_dieTlb (s : State) (n : Nat) (x : Stream) : (setStream s n x).dieTlb = s.dieTlb := rfl
@[simp] theorem setStream_net (s : State) (n : Nat) (x : Stream) : (setStream s n x).net = s.net := rfl
@[simp] theorem setStream_pile (s : State) (n : Nat) (x : Stream) : (setStream s n x).pile = s.pile := rfl
@[simp] theorem setStream_piles (s : State) (n : Nat) (x : Stream) : (setStream s n x).piles = s.piles := rfl
@[simp] theorem setStream_memwin (s : State) (n : Nat) (x : Stream) : (setStream s n x).memwin = s.memwin := rfl
@[simp] theorem setStream_inval (s : State) (n : Nat) (x : Stream) : (setStream s n x).inval = s.inval := rfl
@[simp] theorem setStream_ports (s : State) (n : Nat) (x : Stream) : (setStream s n x).ports = s.ports := rfl
@[simp] theorem setStream_dom (s : State) (n : Nat) (x : Stream) : (setStream s n x).dom = s.dom := rfl
@[simp] theorem setStream_mail (s : State) (n : Nat) (x : Stream) : (setStream s n x).mail = s.mail := rfl
@[simp] theorem setStream_ap (s : State) (n : Nat) (x : Stream) : (setStream s n x).ap = s.ap := rfl
@[simp] theorem setStream_binds (s : State) (n : Nat) (x : Stream) : (setStream s n x).binds = s.binds := rfl
@[simp] theorem setStream_sec (s : State) (n : Nat) (x : Stream) : (setStream s n x).sec = s.sec := rfl
@[simp] theorem setStream_dbg (s : State) (n : Nat) (x : Stream) : (setStream s n x).dbg = s.dbg := rfl
@[simp] theorem setStream_rst (s : State) (n : Nat) (x : Stream) : (setStream s n x).rst = s.rst := rfl
@[simp] theorem setStream_pwr (s : State) (n : Nat) (x : Stream) : (setStream s n x).pwr = s.pwr := rfl
@[simp] theorem setStream_mon (s : State) (n : Nat) (x : Stream) : (setStream s n x).mon = s.mon := rfl
@[simp] theorem setStream_tally (s : State) (n : Nat) (x : Stream) : (setStream s n x).tally = s.tally := rfl
@[simp] theorem setStream_health (s : State) (n : Nat) (x : Stream) : (setStream s n x).health = s.health := rfl

@[simp] theorem setPile_time (s : State) (n : Nat) (x : Pile) : (setPile s n x).time = s.time := rfl
@[simp] theorem setPile_free (s : State) (n : Nat) (x : Pile) : (setPile s n x).free = s.free := rfl
@[simp] theorem setPile_pending (s : State) (n : Nat) (x : Pile) : (setPile s n x).pending = s.pending := rfl
@[simp] theorem setPile_io (s : State) (n : Nat) (x : Pile) : (setPile s n x).io = s.io := rfl
@[simp] theorem setPile_bead (s : State) (n : Nat) (x : Pile) : (setPile s n x).bead = s.bead := rfl
@[simp] theorem setPile_crown (s : State) (n : Nat) (x : Pile) : (setPile s n x).crown = s.crown := rfl
@[simp] theorem setPile_clients (s : State) (n : Nat) (x : Pile) : (setPile s n x).clients = s.clients := rfl
@[simp] theorem setPile_sched (s : State) (n : Nat) (x : Pile) : (setPile s n x).sched = s.sched := rfl
@[simp] theorem setPile_cmds (s : State) (n : Nat) (x : Pile) : (setPile s n x).cmds = s.cmds := rfl
@[simp] theorem setPile_parts (s : State) (n : Nat) (x : Pile) : (setPile s n x).parts = s.parts := rfl
@[simp] theorem setPile_streams (s : State) (n : Nat) (x : Pile) : (setPile s n x).streams = s.streams := rfl
@[simp] theorem setPile_sets (s : State) (n : Nat) (x : Pile) : (setPile s n x).sets = s.sets := rfl
@[simp] theorem setPile_cores (s : State) (n : Nat) (x : Pile) : (setPile s n x).cores = s.cores := rfl
@[simp] theorem setPile_dieTlb (s : State) (n : Nat) (x : Pile) : (setPile s n x).dieTlb = s.dieTlb := rfl
@[simp] theorem setPile_net (s : State) (n : Nat) (x : Pile) : (setPile s n x).net = s.net := rfl
@[simp] theorem setPile_pile (s : State) (n : Nat) (x : Pile) : (setPile s n x).pile = s.pile := rfl
@[simp] theorem setPile_piles (s : State) (n : Nat) (x : Pile) : (setPile s n x).piles = tput {} s.piles n x := rfl
@[simp] theorem setPile_memwin (s : State) (n : Nat) (x : Pile) : (setPile s n x).memwin = s.memwin := rfl
@[simp] theorem setPile_inval (s : State) (n : Nat) (x : Pile) : (setPile s n x).inval = s.inval := rfl
@[simp] theorem setPile_ports (s : State) (n : Nat) (x : Pile) : (setPile s n x).ports = s.ports := rfl
@[simp] theorem setPile_dom (s : State) (n : Nat) (x : Pile) : (setPile s n x).dom = s.dom := rfl
@[simp] theorem setPile_mail (s : State) (n : Nat) (x : Pile) : (setPile s n x).mail = s.mail := rfl
@[simp] theorem setPile_ap (s : State) (n : Nat) (x : Pile) : (setPile s n x).ap = s.ap := rfl
@[simp] theorem setPile_binds (s : State) (n : Nat) (x : Pile) : (setPile s n x).binds = s.binds := rfl
@[simp] theorem setPile_sec (s : State) (n : Nat) (x : Pile) : (setPile s n x).sec = s.sec := rfl
@[simp] theorem setPile_dbg (s : State) (n : Nat) (x : Pile) : (setPile s n x).dbg = s.dbg := rfl
@[simp] theorem setPile_rst (s : State) (n : Nat) (x : Pile) : (setPile s n x).rst = s.rst := rfl
@[simp] theorem setPile_pwr (s : State) (n : Nat) (x : Pile) : (setPile s n x).pwr = s.pwr := rfl
@[simp] theorem setPile_mon (s : State) (n : Nat) (x : Pile) : (setPile s n x).mon = s.mon := rfl
@[simp] theorem setPile_tally (s : State) (n : Nat) (x : Pile) : (setPile s n x).tally = s.tally := rfl
@[simp] theorem setPile_health (s : State) (n : Nat) (x : Pile) : (setPile s n x).health = s.health := rfl

@[simp] theorem setPort_time (s : State) (n : Nat) (x : Port) : (setPort s n x).time = s.time := rfl
@[simp] theorem setPort_free (s : State) (n : Nat) (x : Port) : (setPort s n x).free = s.free := rfl
@[simp] theorem setPort_pending (s : State) (n : Nat) (x : Port) : (setPort s n x).pending = s.pending := rfl
@[simp] theorem setPort_io (s : State) (n : Nat) (x : Port) : (setPort s n x).io = s.io := rfl
@[simp] theorem setPort_bead (s : State) (n : Nat) (x : Port) : (setPort s n x).bead = s.bead := rfl
@[simp] theorem setPort_crown (s : State) (n : Nat) (x : Port) : (setPort s n x).crown = s.crown := rfl
@[simp] theorem setPort_clients (s : State) (n : Nat) (x : Port) : (setPort s n x).clients = s.clients := rfl
@[simp] theorem setPort_sched (s : State) (n : Nat) (x : Port) : (setPort s n x).sched = s.sched := rfl
@[simp] theorem setPort_cmds (s : State) (n : Nat) (x : Port) : (setPort s n x).cmds = s.cmds := rfl
@[simp] theorem setPort_parts (s : State) (n : Nat) (x : Port) : (setPort s n x).parts = s.parts := rfl
@[simp] theorem setPort_streams (s : State) (n : Nat) (x : Port) : (setPort s n x).streams = s.streams := rfl
@[simp] theorem setPort_sets (s : State) (n : Nat) (x : Port) : (setPort s n x).sets = s.sets := rfl
@[simp] theorem setPort_cores (s : State) (n : Nat) (x : Port) : (setPort s n x).cores = s.cores := rfl
@[simp] theorem setPort_dieTlb (s : State) (n : Nat) (x : Port) : (setPort s n x).dieTlb = s.dieTlb := rfl
@[simp] theorem setPort_net (s : State) (n : Nat) (x : Port) : (setPort s n x).net = s.net := rfl
@[simp] theorem setPort_pile (s : State) (n : Nat) (x : Port) : (setPort s n x).pile = s.pile := rfl
@[simp] theorem setPort_piles (s : State) (n : Nat) (x : Port) : (setPort s n x).piles = s.piles := rfl
@[simp] theorem setPort_memwin (s : State) (n : Nat) (x : Port) : (setPort s n x).memwin = s.memwin := rfl
@[simp] theorem setPort_inval (s : State) (n : Nat) (x : Port) : (setPort s n x).inval = s.inval := rfl
@[simp] theorem setPort_ports (s : State) (n : Nat) (x : Port) : (setPort s n x).ports = tput {} s.ports n x := rfl
@[simp] theorem setPort_dom (s : State) (n : Nat) (x : Port) : (setPort s n x).dom = s.dom := rfl
@[simp] theorem setPort_mail (s : State) (n : Nat) (x : Port) : (setPort s n x).mail = s.mail := rfl
@[simp] theorem setPort_ap (s : State) (n : Nat) (x : Port) : (setPort s n x).ap = s.ap := rfl
@[simp] theorem setPort_binds (s : State) (n : Nat) (x : Port) : (setPort s n x).binds = s.binds := rfl
@[simp] theorem setPort_sec (s : State) (n : Nat) (x : Port) : (setPort s n x).sec = s.sec := rfl
@[simp] theorem setPort_dbg (s : State) (n : Nat) (x : Port) : (setPort s n x).dbg = s.dbg := rfl
@[simp] theorem setPort_rst (s : State) (n : Nat) (x : Port) : (setPort s n x).rst = s.rst := rfl
@[simp] theorem setPort_pwr (s : State) (n : Nat) (x : Port) : (setPort s n x).pwr = s.pwr := rfl
@[simp] theorem setPort_mon (s : State) (n : Nat) (x : Port) : (setPort s n x).mon = s.mon := rfl
@[simp] theorem setPort_tally (s : State) (n : Nat) (x : Port) : (setPort s n x).tally = s.tally := rfl
@[simp] theorem setPort_health (s : State) (n : Nat) (x : Port) : (setPort s n x).health = s.health := rfl

@[simp] theorem setAp_time (s : State) (n : Nat) (x : APort) : (setAp s n x).time = s.time := rfl
@[simp] theorem setAp_free (s : State) (n : Nat) (x : APort) : (setAp s n x).free = s.free := rfl
@[simp] theorem setAp_pending (s : State) (n : Nat) (x : APort) : (setAp s n x).pending = s.pending := rfl
@[simp] theorem setAp_io (s : State) (n : Nat) (x : APort) : (setAp s n x).io = s.io := rfl
@[simp] theorem setAp_bead (s : State) (n : Nat) (x : APort) : (setAp s n x).bead = s.bead := rfl
@[simp] theorem setAp_crown (s : State) (n : Nat) (x : APort) : (setAp s n x).crown = s.crown := rfl
@[simp] theorem setAp_clients (s : State) (n : Nat) (x : APort) : (setAp s n x).clients = s.clients := rfl
@[simp] theorem setAp_sched (s : State) (n : Nat) (x : APort) : (setAp s n x).sched = s.sched := rfl
@[simp] theorem setAp_cmds (s : State) (n : Nat) (x : APort) : (setAp s n x).cmds = s.cmds := rfl
@[simp] theorem setAp_parts (s : State) (n : Nat) (x : APort) : (setAp s n x).parts = s.parts := rfl
@[simp] theorem setAp_streams (s : State) (n : Nat) (x : APort) : (setAp s n x).streams = s.streams := rfl
@[simp] theorem setAp_sets (s : State) (n : Nat) (x : APort) : (setAp s n x).sets = s.sets := rfl
@[simp] theorem setAp_cores (s : State) (n : Nat) (x : APort) : (setAp s n x).cores = s.cores := rfl
@[simp] theorem setAp_dieTlb (s : State) (n : Nat) (x : APort) : (setAp s n x).dieTlb = s.dieTlb := rfl
@[simp] theorem setAp_net (s : State) (n : Nat) (x : APort) : (setAp s n x).net = s.net := rfl
@[simp] theorem setAp_pile (s : State) (n : Nat) (x : APort) : (setAp s n x).pile = s.pile := rfl
@[simp] theorem setAp_piles (s : State) (n : Nat) (x : APort) : (setAp s n x).piles = s.piles := rfl
@[simp] theorem setAp_memwin (s : State) (n : Nat) (x : APort) : (setAp s n x).memwin = s.memwin := rfl
@[simp] theorem setAp_inval (s : State) (n : Nat) (x : APort) : (setAp s n x).inval = s.inval := rfl
@[simp] theorem setAp_ports (s : State) (n : Nat) (x : APort) : (setAp s n x).ports = s.ports := rfl
@[simp] theorem setAp_dom (s : State) (n : Nat) (x : APort) : (setAp s n x).dom = s.dom := rfl
@[simp] theorem setAp_mail (s : State) (n : Nat) (x : APort) : (setAp s n x).mail = s.mail := rfl
@[simp] theorem setAp_ap (s : State) (n : Nat) (x : APort) : (setAp s n x).ap = tput {} s.ap n x := rfl
@[simp] theorem setAp_binds (s : State) (n : Nat) (x : APort) : (setAp s n x).binds = s.binds := rfl
@[simp] theorem setAp_sec (s : State) (n : Nat) (x : APort) : (setAp s n x).sec = s.sec := rfl
@[simp] theorem setAp_dbg (s : State) (n : Nat) (x : APort) : (setAp s n x).dbg = s.dbg := rfl
@[simp] theorem setAp_rst (s : State) (n : Nat) (x : APort) : (setAp s n x).rst = s.rst := rfl
@[simp] theorem setAp_pwr (s : State) (n : Nat) (x : APort) : (setAp s n x).pwr = s.pwr := rfl
@[simp] theorem setAp_mon (s : State) (n : Nat) (x : APort) : (setAp s n x).mon = s.mon := rfl
@[simp] theorem setAp_tally (s : State) (n : Nat) (x : APort) : (setAp s n x).tally = s.tally := rfl
@[simp] theorem setAp_health (s : State) (n : Nat) (x : APort) : (setAp s n x).health = s.health := rfl

@[simp] theorem setVddc_time (s : State) (n : Nat) (x : Vddc) : (setVddc s n x).time = s.time := rfl
@[simp] theorem setVddc_free (s : State) (n : Nat) (x : Vddc) : (setVddc s n x).free = s.free := rfl
@[simp] theorem setVddc_pending (s : State) (n : Nat) (x : Vddc) : (setVddc s n x).pending = s.pending := rfl
@[simp] theorem setVddc_io (s : State) (n : Nat) (x : Vddc) : (setVddc s n x).io = s.io := rfl
@[simp] theorem setVddc_bead (s : State) (n : Nat) (x : Vddc) : (setVddc s n x).bead = s.bead := rfl
@[simp] theorem setVddc_crown (s : State) (n : Nat) (x : Vddc) : (setVddc s n x).crown = s.crown := rfl
@[simp] theorem setVddc_clients (s : State) (n : Nat) (x : Vddc) : (setVddc s n x).clients = s.clients := rfl
@[simp] theorem setVddc_sched (s : State) (n : Nat) (x : Vddc) : (setVddc s n x).sched = s.sched := rfl
@[simp] theorem setVddc_cmds (s : State) (n : Nat) (x : Vddc) : (setVddc s n x).cmds = s.cmds := rfl
@[simp] theorem setVddc_parts (s : State) (n : Nat) (x : Vddc) : (setVddc s n x).parts = s.parts := rfl
@[simp] theorem setVddc_streams (s : State) (n : Nat) (x : Vddc) : (setVddc s n x).streams = s.streams := rfl
@[simp] theorem setVddc_sets (s : State) (n : Nat) (x : Vddc) : (setVddc s n x).sets = s.sets := rfl
@[simp] theorem setVddc_cores (s : State) (n : Nat) (x : Vddc) : (setVddc s n x).cores = s.cores := rfl
@[simp] theorem setVddc_dieTlb (s : State) (n : Nat) (x : Vddc) : (setVddc s n x).dieTlb = s.dieTlb := rfl
@[simp] theorem setVddc_net (s : State) (n : Nat) (x : Vddc) : (setVddc s n x).net = s.net := rfl
@[simp] theorem setVddc_pile (s : State) (n : Nat) (x : Vddc) : (setVddc s n x).pile = s.pile := rfl
@[simp] theorem setVddc_piles (s : State) (n : Nat) (x : Vddc) : (setVddc s n x).piles = s.piles := rfl
@[simp] theorem setVddc_memwin (s : State) (n : Nat) (x : Vddc) : (setVddc s n x).memwin = s.memwin := rfl
@[simp] theorem setVddc_inval (s : State) (n : Nat) (x : Vddc) : (setVddc s n x).inval = s.inval := rfl
@[simp] theorem setVddc_ports (s : State) (n : Nat) (x : Vddc) : (setVddc s n x).ports = s.ports := rfl
@[simp] theorem setVddc_dom (s : State) (n : Nat) (x : Vddc) : (setVddc s n x).dom = s.dom := rfl
@[simp] theorem setVddc_mail (s : State) (n : Nat) (x : Vddc) : (setVddc s n x).mail = s.mail := rfl
@[simp] theorem setVddc_ap (s : State) (n : Nat) (x : Vddc) : (setVddc s n x).ap = s.ap := rfl
@[simp] theorem setVddc_binds (s : State) (n : Nat) (x : Vddc) : (setVddc s n x).binds = s.binds := rfl
@[simp] theorem setVddc_sec (s : State) (n : Nat) (x : Vddc) : (setVddc s n x).sec = s.sec := rfl
@[simp] theorem setVddc_dbg (s : State) (n : Nat) (x : Vddc) : (setVddc s n x).dbg = s.dbg := rfl
@[simp] theorem setVddc_rst (s : State) (n : Nat) (x : Vddc) : (setVddc s n x).rst = s.rst := rfl
@[simp] theorem setVddc_pwr (s : State) (n : Nat) (x : Vddc) : (setVddc s n x).pwr = { s.pwr with vddc := tput {} s.pwr.vddc n x } := rfl
@[simp] theorem setVddc_mon (s : State) (n : Nat) (x : Vddc) : (setVddc s n x).mon = s.mon := rfl
@[simp] theorem setVddc_tally (s : State) (n : Nat) (x : Vddc) : (setVddc s n x).tally = s.tally := rfl
@[simp] theorem setVddc_health (s : State) (n : Nat) (x : Vddc) : (setVddc s n x).health = s.health := rfl

@[simp] theorem setRing_time (s : State) (c n : Nat) (x : Ring) : (setRing s c n x).time = s.time := rfl
@[simp] theorem setRing_free (s : State) (c n : Nat) (x : Ring) : (setRing s c n x).free = s.free := rfl
@[simp] theorem setRing_pending (s : State) (c n : Nat) (x : Ring) : (setRing s c n x).pending = s.pending := rfl
@[simp] theorem setRing_io (s : State) (c n : Nat) (x : Ring) : (setRing s c n x).io = s.io := rfl
@[simp] theorem setRing_bead (s : State) (c n : Nat) (x : Ring) : (setRing s c n x).bead = s.bead := rfl
@[simp] theorem setRing_crown (s : State) (c n : Nat) (x : Ring) : (setRing s c n x).crown = s.crown := rfl
@[simp] theorem setRing_clients (s : State) (c n : Nat) (x : Ring) : (setRing s c n x).clients = tput {} s.clients c { getClient s c with rings := tput {} (getClient s c).rings n x } := rfl
@[simp] theorem setRing_sched (s : State) (c n : Nat) (x : Ring) : (setRing s c n x).sched = s.sched := rfl
@[simp] theorem setRing_cmds (s : State) (c n : Nat) (x : Ring) : (setRing s c n x).cmds = s.cmds := rfl
@[simp] theorem setRing_parts (s : State) (c n : Nat) (x : Ring) : (setRing s c n x).parts = s.parts := rfl
@[simp] theorem setRing_streams (s : State) (c n : Nat) (x : Ring) : (setRing s c n x).streams = s.streams := rfl
@[simp] theorem setRing_sets (s : State) (c n : Nat) (x : Ring) : (setRing s c n x).sets = s.sets := rfl
@[simp] theorem setRing_cores (s : State) (c n : Nat) (x : Ring) : (setRing s c n x).cores = s.cores := rfl
@[simp] theorem setRing_dieTlb (s : State) (c n : Nat) (x : Ring) : (setRing s c n x).dieTlb = s.dieTlb := rfl
@[simp] theorem setRing_net (s : State) (c n : Nat) (x : Ring) : (setRing s c n x).net = s.net := rfl
@[simp] theorem setRing_pile (s : State) (c n : Nat) (x : Ring) : (setRing s c n x).pile = s.pile := rfl
@[simp] theorem setRing_piles (s : State) (c n : Nat) (x : Ring) : (setRing s c n x).piles = s.piles := rfl
@[simp] theorem setRing_memwin (s : State) (c n : Nat) (x : Ring) : (setRing s c n x).memwin = s.memwin := rfl
@[simp] theorem setRing_inval (s : State) (c n : Nat) (x : Ring) : (setRing s c n x).inval = s.inval := rfl
@[simp] theorem setRing_ports (s : State) (c n : Nat) (x : Ring) : (setRing s c n x).ports = s.ports := rfl
@[simp] theorem setRing_dom (s : State) (c n : Nat) (x : Ring) : (setRing s c n x).dom = s.dom := rfl
@[simp] theorem setRing_mail (s : State) (c n : Nat) (x : Ring) : (setRing s c n x).mail = s.mail := rfl
@[simp] theorem setRing_ap (s : State) (c n : Nat) (x : Ring) : (setRing s c n x).ap = s.ap := rfl
@[simp] theorem setRing_binds (s : State) (c n : Nat) (x : Ring) : (setRing s c n x).binds = s.binds := rfl
@[simp] theorem setRing_sec (s : State) (c n : Nat) (x : Ring) : (setRing s c n x).sec = s.sec := rfl
@[simp] theorem setRing_dbg (s : State) (c n : Nat) (x : Ring) : (setRing s c n x).dbg = s.dbg := rfl
@[simp] theorem setRing_rst (s : State) (c n : Nat) (x : Ring) : (setRing s c n x).rst = s.rst := rfl
@[simp] theorem setRing_pwr (s : State) (c n : Nat) (x : Ring) : (setRing s c n x).pwr = s.pwr := rfl
@[simp] theorem setRing_mon (s : State) (c n : Nat) (x : Ring) : (setRing s c n x).mon = s.mon := rfl
@[simp] theorem setRing_tally (s : State) (c n : Nat) (x : Ring) : (setRing s c n x).tally = s.tally := rfl
@[simp] theorem setRing_health (s : State) (c n : Nat) (x : Ring) : (setRing s c n x).health = s.health := rfl

@[simp] theorem setBind_time (s : State) (n : Nat) (x : Option Bind) : (setBind s n x).time = s.time := rfl
@[simp] theorem setBind_free (s : State) (n : Nat) (x : Option Bind) : (setBind s n x).free = s.free := rfl
@[simp] theorem setBind_pending (s : State) (n : Nat) (x : Option Bind) : (setBind s n x).pending = s.pending := rfl
@[simp] theorem setBind_io (s : State) (n : Nat) (x : Option Bind) : (setBind s n x).io = s.io := rfl
@[simp] theorem setBind_bead (s : State) (n : Nat) (x : Option Bind) : (setBind s n x).bead = s.bead := rfl
@[simp] theorem setBind_crown (s : State) (n : Nat) (x : Option Bind) : (setBind s n x).crown = s.crown := rfl
@[simp] theorem setBind_clients (s : State) (n : Nat) (x : Option Bind) : (setBind s n x).clients = s.clients := rfl
@[simp] theorem setBind_sched (s : State) (n : Nat) (x : Option Bind) : (setBind s n x).sched = s.sched := rfl
@[simp] theorem setBind_cmds (s : State) (n : Nat) (x : Option Bind) : (setBind s n x).cmds = s.cmds := rfl
@[simp] theorem setBind_parts (s : State) (n : Nat) (x : Option Bind) : (setBind s n x).parts = s.parts := rfl
@[simp] theorem setBind_streams (s : State) (n : Nat) (x : Option Bind) : (setBind s n x).streams = s.streams := rfl
@[simp] theorem setBind_sets (s : State) (n : Nat) (x : Option Bind) : (setBind s n x).sets = s.sets := rfl
@[simp] theorem setBind_cores (s : State) (n : Nat) (x : Option Bind) : (setBind s n x).cores = s.cores := rfl
@[simp] theorem setBind_dieTlb (s : State) (n : Nat) (x : Option Bind) : (setBind s n x).dieTlb = s.dieTlb := rfl
@[simp] theorem setBind_net (s : State) (n : Nat) (x : Option Bind) : (setBind s n x).net = s.net := rfl
@[simp] theorem setBind_pile (s : State) (n : Nat) (x : Option Bind) : (setBind s n x).pile = s.pile := rfl
@[simp] theorem setBind_piles (s : State) (n : Nat) (x : Option Bind) : (setBind s n x).piles = s.piles := rfl
@[simp] theorem setBind_memwin (s : State) (n : Nat) (x : Option Bind) : (setBind s n x).memwin = s.memwin := rfl
@[simp] theorem setBind_inval (s : State) (n : Nat) (x : Option Bind) : (setBind s n x).inval = s.inval := rfl
@[simp] theorem setBind_ports (s : State) (n : Nat) (x : Option Bind) : (setBind s n x).ports = s.ports := rfl
@[simp] theorem setBind_dom (s : State) (n : Nat) (x : Option Bind) : (setBind s n x).dom = s.dom := rfl
@[simp] theorem setBind_mail (s : State) (n : Nat) (x : Option Bind) : (setBind s n x).mail = s.mail := rfl
@[simp] theorem setBind_ap (s : State) (n : Nat) (x : Option Bind) : (setBind s n x).ap = s.ap := rfl
@[simp] theorem setBind_binds (s : State) (n : Nat) (x : Option Bind) : (setBind s n x).binds = tput none s.binds n x := rfl
@[simp] theorem setBind_sec (s : State) (n : Nat) (x : Option Bind) : (setBind s n x).sec = s.sec := rfl
@[simp] theorem setBind_dbg (s : State) (n : Nat) (x : Option Bind) : (setBind s n x).dbg = s.dbg := rfl
@[simp] theorem setBind_rst (s : State) (n : Nat) (x : Option Bind) : (setBind s n x).rst = s.rst := rfl
@[simp] theorem setBind_pwr (s : State) (n : Nat) (x : Option Bind) : (setBind s n x).pwr = s.pwr := rfl
@[simp] theorem setBind_mon (s : State) (n : Nat) (x : Option Bind) : (setBind s n x).mon = s.mon := rfl
@[simp] theorem setBind_tally (s : State) (n : Nat) (x : Option Bind) : (setBind s n x).tally = s.tally := rfl
@[simp] theorem setBind_health (s : State) (n : Nat) (x : Option Bind) : (setBind s n x).health = s.health := rfl

@[simp] theorem modCmd_time (s : State) (id : Nat) (f : Cmd → Cmd) : (modCmd s id f).time = s.time := rfl
@[simp] theorem modCmd_free (s : State) (id : Nat) (f : Cmd → Cmd) : (modCmd s id f).free = s.free := rfl
@[simp] theorem modCmd_pending (s : State) (id : Nat) (f : Cmd → Cmd) : (modCmd s id f).pending = s.pending := rfl
@[simp] theorem modCmd_io (s : State) (id : Nat) (f : Cmd → Cmd) : (modCmd s id f).io = s.io := rfl
@[simp] theorem modCmd_bead (s : State) (id : Nat) (f : Cmd → Cmd) : (modCmd s id f).bead = s.bead := rfl
@[simp] theorem modCmd_crown (s : State) (id : Nat) (f : Cmd → Cmd) : (modCmd s id f).crown = s.crown := rfl
@[simp] theorem modCmd_clients (s : State) (id : Nat) (f : Cmd → Cmd) : (modCmd s id f).clients = s.clients := rfl
@[simp] theorem modCmd_sched (s : State) (id : Nat) (f : Cmd → Cmd) : (modCmd s id f).sched = s.sched := rfl
@[simp] theorem modCmd_cmds (s : State) (id : Nat) (f : Cmd → Cmd) : (modCmd s id f).cmds = s.cmds.map fun c => if c.id == id then f c else c := rfl
@[simp] theorem modCmd_parts (s : State) (id : Nat) (f : Cmd → Cmd) : (modCmd s id f).parts = s.parts := rfl
@[simp] theorem modCmd_streams (s : State) (id : Nat) (f : Cmd → Cmd) : (modCmd s id f).streams = s.streams := rfl
@[simp] theorem modCmd_sets (s : State) (id : Nat) (f : Cmd → Cmd) : (modCmd s id f).sets = s.sets := rfl
@[simp] theorem modCmd_cores (s : State) (id : Nat) (f : Cmd → Cmd) : (modCmd s id f).cores = s.cores := rfl
@[simp] theorem modCmd_dieTlb (s : State) (id : Nat) (f : Cmd → Cmd) : (modCmd s id f).dieTlb = s.dieTlb := rfl
@[simp] theorem modCmd_net (s : State) (id : Nat) (f : Cmd → Cmd) : (modCmd s id f).net = s.net := rfl
@[simp] theorem modCmd_pile (s : State) (id : Nat) (f : Cmd → Cmd) : (modCmd s id f).pile = s.pile := rfl
@[simp] theorem modCmd_piles (s : State) (id : Nat) (f : Cmd → Cmd) : (modCmd s id f).piles = s.piles := rfl
@[simp] theorem modCmd_memwin (s : State) (id : Nat) (f : Cmd → Cmd) : (modCmd s id f).memwin = s.memwin := rfl
@[simp] theorem modCmd_inval (s : State) (id : Nat) (f : Cmd → Cmd) : (modCmd s id f).inval = s.inval := rfl
@[simp] theorem modCmd_ports (s : State) (id : Nat) (f : Cmd → Cmd) : (modCmd s id f).ports = s.ports := rfl
@[simp] theorem modCmd_dom (s : State) (id : Nat) (f : Cmd → Cmd) : (modCmd s id f).dom = s.dom := rfl
@[simp] theorem modCmd_mail (s : State) (id : Nat) (f : Cmd → Cmd) : (modCmd s id f).mail = s.mail := rfl
@[simp] theorem modCmd_ap (s : State) (id : Nat) (f : Cmd → Cmd) : (modCmd s id f).ap = s.ap := rfl
@[simp] theorem modCmd_binds (s : State) (id : Nat) (f : Cmd → Cmd) : (modCmd s id f).binds = s.binds := rfl
@[simp] theorem modCmd_sec (s : State) (id : Nat) (f : Cmd → Cmd) : (modCmd s id f).sec = s.sec := rfl
@[simp] theorem modCmd_dbg (s : State) (id : Nat) (f : Cmd → Cmd) : (modCmd s id f).dbg = s.dbg := rfl
@[simp] theorem modCmd_rst (s : State) (id : Nat) (f : Cmd → Cmd) : (modCmd s id f).rst = s.rst := rfl
@[simp] theorem modCmd_pwr (s : State) (id : Nat) (f : Cmd → Cmd) : (modCmd s id f).pwr = s.pwr := rfl
@[simp] theorem modCmd_mon (s : State) (id : Nat) (f : Cmd → Cmd) : (modCmd s id f).mon = s.mon := rfl
@[simp] theorem modCmd_tally (s : State) (id : Nat) (f : Cmd → Cmd) : (modCmd s id f).tally = s.tally := rfl
@[simp] theorem modCmd_health (s : State) (id : Nat) (f : Cmd → Cmd) : (modCmd s id f).health = s.health := rfl

@[simp] theorem setDisp_time (s : State) (n : Nat) (x : Disp) : (setDisp s n x).time = s.time := rfl
@[simp] theorem setDisp_free (s : State) (n : Nat) (x : Disp) : (setDisp s n x).free = s.free := rfl
@[simp] theorem setDisp_pending (s : State) (n : Nat) (x : Disp) : (setDisp s n x).pending = s.pending := rfl
@[simp] theorem setDisp_io (s : State) (n : Nat) (x : Disp) : (setDisp s n x).io = s.io := rfl
@[simp] theorem setDisp_bead (s : State) (n : Nat) (x : Disp) : (setDisp s n x).bead = s.bead := rfl
@[simp] theorem setDisp_crown (s : State) (n : Nat) (x : Disp) : (setDisp s n x).crown = s.crown := rfl
@[simp] theorem setDisp_clients (s : State) (n : Nat) (x : Disp) : (setDisp s n x).clients = s.clients := rfl
@[simp] theorem setDisp_sched (s : State) (n : Nat) (x : Disp) : (setDisp s n x).sched = s.sched := rfl
@[simp] theorem setDisp_cmds (s : State) (n : Nat) (x : Disp) : (setDisp s n x).cmds = s.cmds := rfl
@[simp] theorem setDisp_parts (s : State) (n : Nat) (x : Disp) : (setDisp s n x).parts = s.parts := rfl
@[simp] theorem setDisp_streams (s : State) (n : Nat) (x : Disp) : (setDisp s n x).streams = s.streams := rfl
@[simp] theorem setDisp_sets (s : State) (n : Nat) (x : Disp) : (setDisp s n x).sets = s.sets := rfl
@[simp] theorem setDisp_cores (s : State) (n : Nat) (x : Disp) : (setDisp s n x).cores = tput {} s.cores n { getCore s n with disp := some x } := rfl
@[simp] theorem setDisp_dieTlb (s : State) (n : Nat) (x : Disp) : (setDisp s n x).dieTlb = s.dieTlb := rfl
@[simp] theorem setDisp_net (s : State) (n : Nat) (x : Disp) : (setDisp s n x).net = s.net := rfl
@[simp] theorem setDisp_pile (s : State) (n : Nat) (x : Disp) : (setDisp s n x).pile = s.pile := rfl
@[simp] theorem setDisp_piles (s : State) (n : Nat) (x : Disp) : (setDisp s n x).piles = s.piles := rfl
@[simp] theorem setDisp_memwin (s : State) (n : Nat) (x : Disp) : (setDisp s n x).memwin = s.memwin := rfl
@[simp] theorem setDisp_inval (s : State) (n : Nat) (x : Disp) : (setDisp s n x).inval = s.inval := rfl
@[simp] theorem setDisp_ports (s : State) (n : Nat) (x : Disp) : (setDisp s n x).ports = s.ports := rfl
@[simp] theorem setDisp_dom (s : State) (n : Nat) (x : Disp) : (setDisp s n x).dom = s.dom := rfl
@[simp] theorem setDisp_mail (s : State) (n : Nat) (x : Disp) : (setDisp s n x).mail = s.mail := rfl
@[simp] theorem setDisp_ap (s : State) (n : Nat) (x : Disp) : (setDisp s n x).ap = s.ap := rfl
@[simp] theorem setDisp_binds (s : State) (n : Nat) (x : Disp) : (setDisp s n x).binds = s.binds := rfl
@[simp] theorem setDisp_sec (s : State) (n : Nat) (x : Disp) : (setDisp s n x).sec = s.sec := rfl
@[simp] theorem setDisp_dbg (s : State) (n : Nat) (x : Disp) : (setDisp s n x).dbg = s.dbg := rfl
@[simp] theorem setDisp_rst (s : State) (n : Nat) (x : Disp) : (setDisp s n x).rst = s.rst := rfl
@[simp] theorem setDisp_pwr (s : State) (n : Nat) (x : Disp) : (setDisp s n x).pwr = s.pwr := rfl
@[simp] theorem setDisp_mon (s : State) (n : Nat) (x : Disp) : (setDisp s n x).mon = s.mon := rfl
@[simp] theorem setDisp_tally (s : State) (n : Nat) (x : Disp) : (setDisp s n x).tally = s.tally := rfl
@[simp] theorem setDisp_health (s : State) (n : Nat) (x : Disp) : (setDisp s n x).health = s.health := rfl

@[simp] theorem nextFree_time (s : State) : (nextFree s).time = s.time := rfl
@[simp] theorem nextFree_free (s : State) : (nextFree s).free = s.free + 1 := rfl
@[simp] theorem nextFree_pending (s : State) : (nextFree s).pending = s.pending := rfl
@[simp] theorem nextFree_io (s : State) : (nextFree s).io = s.io := rfl
@[simp] theorem nextFree_bead (s : State) : (nextFree s).bead = s.bead := rfl
@[simp] theorem nextFree_crown (s : State) : (nextFree s).crown = s.crown := rfl
@[simp] theorem nextFree_clients (s : State) : (nextFree s).clients = s.clients := rfl
@[simp] theorem nextFree_sched (s : State) : (nextFree s).sched = s.sched := rfl
@[simp] theorem nextFree_cmds (s : State) : (nextFree s).cmds = s.cmds := rfl
@[simp] theorem nextFree_parts (s : State) : (nextFree s).parts = s.parts := rfl
@[simp] theorem nextFree_streams (s : State) : (nextFree s).streams = s.streams := rfl
@[simp] theorem nextFree_sets (s : State) : (nextFree s).sets = s.sets := rfl
@[simp] theorem nextFree_cores (s : State) : (nextFree s).cores = s.cores := rfl
@[simp] theorem nextFree_dieTlb (s : State) : (nextFree s).dieTlb = s.dieTlb := rfl
@[simp] theorem nextFree_net (s : State) : (nextFree s).net = s.net := rfl
@[simp] theorem nextFree_pile (s : State) : (nextFree s).pile = s.pile := rfl
@[simp] theorem nextFree_piles (s : State) : (nextFree s).piles = s.piles := rfl
@[simp] theorem nextFree_memwin (s : State) : (nextFree s).memwin = s.memwin := rfl
@[simp] theorem nextFree_inval (s : State) : (nextFree s).inval = s.inval := rfl
@[simp] theorem nextFree_ports (s : State) : (nextFree s).ports = s.ports := rfl
@[simp] theorem nextFree_dom (s : State) : (nextFree s).dom = s.dom := rfl
@[simp] theorem nextFree_mail (s : State) : (nextFree s).mail = s.mail := rfl
@[simp] theorem nextFree_ap (s : State) : (nextFree s).ap = s.ap := rfl
@[simp] theorem nextFree_binds (s : State) : (nextFree s).binds = s.binds := rfl
@[simp] theorem nextFree_sec (s : State) : (nextFree s).sec = s.sec := rfl
@[simp] theorem nextFree_dbg (s : State) : (nextFree s).dbg = s.dbg := rfl
@[simp] theorem nextFree_rst (s : State) : (nextFree s).rst = s.rst := rfl
@[simp] theorem nextFree_pwr (s : State) : (nextFree s).pwr = s.pwr := rfl
@[simp] theorem nextFree_mon (s : State) : (nextFree s).mon = s.mon := rfl
@[simp] theorem nextFree_tally (s : State) : (nextFree s).tally = s.tally := rfl
@[simp] theorem nextFree_health (s : State) : (nextFree s).health = s.health := rfl

@[simp] theorem dmaWrite_time (s : State) (p : Option Nat) (a : Nat) (b : Bytes) : (dmaWrite s p a b).time = s.time := rfl
@[simp] theorem dmaWrite_free (s : State) (p : Option Nat) (a : Nat) (b : Bytes) : (dmaWrite s p a b).free = s.free := rfl
@[simp] theorem dmaWrite_pending (s : State) (p : Option Nat) (a : Nat) (b : Bytes) : (dmaWrite s p a b).pending = s.pending := rfl
@[simp] theorem dmaWrite_io (s : State) (p : Option Nat) (a : Nat) (b : Bytes) : (dmaWrite s p a b).io = { s.io with dma := s.io.dma ++ [{ pasid := p, addr := a, data := b }] } := rfl
@[simp] theorem dmaWrite_bead (s : State) (p : Option Nat) (a : Nat) (b : Bytes) : (dmaWrite s p a b).bead = s.bead := rfl
@[simp] theorem dmaWrite_crown (s : State) (p : Option Nat) (a : Nat) (b : Bytes) : (dmaWrite s p a b).crown = s.crown := rfl
@[simp] theorem dmaWrite_clients (s : State) (p : Option Nat) (a : Nat) (b : Bytes) : (dmaWrite s p a b).clients = s.clients := rfl
@[simp] theorem dmaWrite_sched (s : State) (p : Option Nat) (a : Nat) (b : Bytes) : (dmaWrite s p a b).sched = s.sched := rfl
@[simp] theorem dmaWrite_cmds (s : State) (p : Option Nat) (a : Nat) (b : Bytes) : (dmaWrite s p a b).cmds = s.cmds := rfl
@[simp] theorem dmaWrite_parts (s : State) (p : Option Nat) (a : Nat) (b : Bytes) : (dmaWrite s p a b).parts = s.parts := rfl
@[simp] theorem dmaWrite_streams (s : State) (p : Option Nat) (a : Nat) (b : Bytes) : (dmaWrite s p a b).streams = s.streams := rfl
@[simp] theorem dmaWrite_sets (s : State) (p : Option Nat) (a : Nat) (b : Bytes) : (dmaWrite s p a b).sets = s.sets := rfl
@[simp] theorem dmaWrite_cores (s : State) (p : Option Nat) (a : Nat) (b : Bytes) : (dmaWrite s p a b).cores = s.cores := rfl
@[simp] theorem dmaWrite_dieTlb (s : State) (p : Option Nat) (a : Nat) (b : Bytes) : (dmaWrite s p a b).dieTlb = s.dieTlb := rfl
@[simp] theorem dmaWrite_net (s : State) (p : Option Nat) (a : Nat) (b : Bytes) : (dmaWrite s p a b).net = s.net := rfl
@[simp] theorem dmaWrite_pile (s : State) (p : Option Nat) (a : Nat) (b : Bytes) : (dmaWrite s p a b).pile = s.pile := rfl
@[simp] theorem dmaWrite_piles (s : State) (p : Option Nat) (a : Nat) (b : Bytes) : (dmaWrite s p a b).piles = s.piles := rfl
@[simp] theorem dmaWrite_memwin (s : State) (p : Option Nat) (a : Nat) (b : Bytes) : (dmaWrite s p a b).memwin = s.memwin := rfl
@[simp] theorem dmaWrite_inval (s : State) (p : Option Nat) (a : Nat) (b : Bytes) : (dmaWrite s p a b).inval = s.inval := rfl
@[simp] theorem dmaWrite_ports (s : State) (p : Option Nat) (a : Nat) (b : Bytes) : (dmaWrite s p a b).ports = s.ports := rfl
@[simp] theorem dmaWrite_dom (s : State) (p : Option Nat) (a : Nat) (b : Bytes) : (dmaWrite s p a b).dom = s.dom := rfl
@[simp] theorem dmaWrite_mail (s : State) (p : Option Nat) (a : Nat) (b : Bytes) : (dmaWrite s p a b).mail = s.mail := rfl
@[simp] theorem dmaWrite_ap (s : State) (p : Option Nat) (a : Nat) (b : Bytes) : (dmaWrite s p a b).ap = s.ap := rfl
@[simp] theorem dmaWrite_binds (s : State) (p : Option Nat) (a : Nat) (b : Bytes) : (dmaWrite s p a b).binds = s.binds := rfl
@[simp] theorem dmaWrite_sec (s : State) (p : Option Nat) (a : Nat) (b : Bytes) : (dmaWrite s p a b).sec = s.sec := rfl
@[simp] theorem dmaWrite_dbg (s : State) (p : Option Nat) (a : Nat) (b : Bytes) : (dmaWrite s p a b).dbg = s.dbg := rfl
@[simp] theorem dmaWrite_rst (s : State) (p : Option Nat) (a : Nat) (b : Bytes) : (dmaWrite s p a b).rst = s.rst := rfl
@[simp] theorem dmaWrite_pwr (s : State) (p : Option Nat) (a : Nat) (b : Bytes) : (dmaWrite s p a b).pwr = s.pwr := rfl
@[simp] theorem dmaWrite_mon (s : State) (p : Option Nat) (a : Nat) (b : Bytes) : (dmaWrite s p a b).mon = s.mon := rfl
@[simp] theorem dmaWrite_tally (s : State) (p : Option Nat) (a : Nat) (b : Bytes) : (dmaWrite s p a b).tally = s.tally := rfl
@[simp] theorem dmaWrite_health (s : State) (p : Option Nat) (a : Nat) (b : Bytes) : (dmaWrite s p a b).health = s.health := rfl

@[simp] theorem msix_time (s : State) (v : Nat) : (msix s v).time = s.time := rfl
@[simp] theorem msix_free (s : State) (v : Nat) : (msix s v).free = s.free := rfl
@[simp] theorem msix_pending (s : State) (v : Nat) : (msix s v).pending = s.pending := rfl
@[simp] theorem msix_io (s : State) (v : Nat) : (msix s v).io = { s.io with msix := s.io.msix ++ [v] } := rfl
@[simp] theorem msix_bead (s : State) (v : Nat) : (msix s v).bead = s.bead := rfl
@[simp] theorem msix_crown (s : State) (v : Nat) : (msix s v).crown = s.crown := rfl
@[simp] theorem msix_clients (s : State) (v : Nat) : (msix s v).clients = s.clients := rfl
@[simp] theorem msix_sched (s : State) (v : Nat) : (msix s v).sched = s.sched := rfl
@[simp] theorem msix_cmds (s : State) (v : Nat) : (msix s v).cmds = s.cmds := rfl
@[simp] theorem msix_parts (s : State) (v : Nat) : (msix s v).parts = s.parts := rfl
@[simp] theorem msix_streams (s : State) (v : Nat) : (msix s v).streams = s.streams := rfl
@[simp] theorem msix_sets (s : State) (v : Nat) : (msix s v).sets = s.sets := rfl
@[simp] theorem msix_cores (s : State) (v : Nat) : (msix s v).cores = s.cores := rfl
@[simp] theorem msix_dieTlb (s : State) (v : Nat) : (msix s v).dieTlb = s.dieTlb := rfl
@[simp] theorem msix_net (s : State) (v : Nat) : (msix s v).net = s.net := rfl
@[simp] theorem msix_pile (s : State) (v : Nat) : (msix s v).pile = s.pile := rfl
@[simp] theorem msix_piles (s : State) (v : Nat) : (msix s v).piles = s.piles := rfl
@[simp] theorem msix_memwin (s : State) (v : Nat) : (msix s v).memwin = s.memwin := rfl
@[simp] theorem msix_inval (s : State) (v : Nat) : (msix s v).inval = s.inval := rfl
@[simp] theorem msix_ports (s : State) (v : Nat) : (msix s v).ports = s.ports := rfl
@[simp] theorem msix_dom (s : State) (v : Nat) : (msix s v).dom = s.dom := rfl
@[simp] theorem msix_mail (s : State) (v : Nat) : (msix s v).mail = s.mail := rfl
@[simp] theorem msix_ap (s : State) (v : Nat) : (msix s v).ap = s.ap := rfl
@[simp] theorem msix_binds (s : State) (v : Nat) : (msix s v).binds = s.binds := rfl
@[simp] theorem msix_sec (s : State) (v : Nat) : (msix s v).sec = s.sec := rfl
@[simp] theorem msix_dbg (s : State) (v : Nat) : (msix s v).dbg = s.dbg := rfl
@[simp] theorem msix_rst (s : State) (v : Nat) : (msix s v).rst = s.rst := rfl
@[simp] theorem msix_pwr (s : State) (v : Nat) : (msix s v).pwr = s.pwr := rfl
@[simp] theorem msix_mon (s : State) (v : Nat) : (msix s v).mon = s.mon := rfl
@[simp] theorem msix_tally (s : State) (v : Nat) : (msix s v).tally = s.tally := rfl
@[simp] theorem msix_health (s : State) (v : Nat) : (msix s v).health = s.health := rfl

@[simp] theorem wire_time (s : State) (w : Wire) : (wire s w).time = s.time := rfl
@[simp] theorem wire_free (s : State) (w : Wire) : (wire s w).free = s.free := rfl
@[simp] theorem wire_pending (s : State) (w : Wire) : (wire s w).pending = s.pending := rfl
@[simp] theorem wire_io (s : State) (w : Wire) : (wire s w).io = { s.io with wire := s.io.wire ++ [w] } := rfl
@[simp] theorem wire_bead (s : State) (w : Wire) : (wire s w).bead = s.bead := rfl
@[simp] theorem wire_crown (s : State) (w : Wire) : (wire s w).crown = s.crown := rfl
@[simp] theorem wire_clients (s : State) (w : Wire) : (wire s w).clients = s.clients := rfl
@[simp] theorem wire_sched (s : State) (w : Wire) : (wire s w).sched = s.sched := rfl
@[simp] theorem wire_cmds (s : State) (w : Wire) : (wire s w).cmds = s.cmds := rfl
@[simp] theorem wire_parts (s : State) (w : Wire) : (wire s w).parts = s.parts := rfl
@[simp] theorem wire_streams (s : State) (w : Wire) : (wire s w).streams = s.streams := rfl
@[simp] theorem wire_sets (s : State) (w : Wire) : (wire s w).sets = s.sets := rfl
@[simp] theorem wire_cores (s : State) (w : Wire) : (wire s w).cores = s.cores := rfl
@[simp] theorem wire_dieTlb (s : State) (w : Wire) : (wire s w).dieTlb = s.dieTlb := rfl
@[simp] theorem wire_net (s : State) (w : Wire) : (wire s w).net = s.net := rfl
@[simp] theorem wire_pile (s : State) (w : Wire) : (wire s w).pile = s.pile := rfl
@[simp] theorem wire_piles (s : State) (w : Wire) : (wire s w).piles = s.piles := rfl
@[simp] theorem wire_memwin (s : State) (w : Wire) : (wire s w).memwin = s.memwin := rfl
@[simp] theorem wire_inval (s : State) (w : Wire) : (wire s w).inval = s.inval := rfl
@[simp] theorem wire_ports (s : State) (w : Wire) : (wire s w).ports = s.ports := rfl
@[simp] theorem wire_dom (s : State) (w : Wire) : (wire s w).dom = s.dom := rfl
@[simp] theorem wire_mail (s : State) (w : Wire) : (wire s w).mail = s.mail := rfl
@[simp] theorem wire_ap (s : State) (w : Wire) : (wire s w).ap = s.ap := rfl
@[simp] theorem wire_binds (s : State) (w : Wire) : (wire s w).binds = s.binds := rfl
@[simp] theorem wire_sec (s : State) (w : Wire) : (wire s w).sec = s.sec := rfl
@[simp] theorem wire_dbg (s : State) (w : Wire) : (wire s w).dbg = s.dbg := rfl
@[simp] theorem wire_rst (s : State) (w : Wire) : (wire s w).rst = s.rst := rfl
@[simp] theorem wire_pwr (s : State) (w : Wire) : (wire s w).pwr = s.pwr := rfl
@[simp] theorem wire_mon (s : State) (w : Wire) : (wire s w).mon = s.mon := rfl
@[simp] theorem wire_tally (s : State) (w : Wire) : (wire s w).tally = s.tally := rfl
@[simp] theorem wire_health (s : State) (w : Wire) : (wire s w).health = s.health := rfl

@[simp] theorem rdata_time (s : State) (v : W64) : (rdata s v).time = s.time := rfl
@[simp] theorem rdata_free (s : State) (v : W64) : (rdata s v).free = s.free := rfl
@[simp] theorem rdata_pending (s : State) (v : W64) : (rdata s v).pending = s.pending := rfl
@[simp] theorem rdata_io (s : State) (v : W64) : (rdata s v).io = { s.io with rdata := v } := rfl
@[simp] theorem rdata_bead (s : State) (v : W64) : (rdata s v).bead = s.bead := rfl
@[simp] theorem rdata_crown (s : State) (v : W64) : (rdata s v).crown = s.crown := rfl
@[simp] theorem rdata_clients (s : State) (v : W64) : (rdata s v).clients = s.clients := rfl
@[simp] theorem rdata_sched (s : State) (v : W64) : (rdata s v).sched = s.sched := rfl
@[simp] theorem rdata_cmds (s : State) (v : W64) : (rdata s v).cmds = s.cmds := rfl
@[simp] theorem rdata_parts (s : State) (v : W64) : (rdata s v).parts = s.parts := rfl
@[simp] theorem rdata_streams (s : State) (v : W64) : (rdata s v).streams = s.streams := rfl
@[simp] theorem rdata_sets (s : State) (v : W64) : (rdata s v).sets = s.sets := rfl
@[simp] theorem rdata_cores (s : State) (v : W64) : (rdata s v).cores = s.cores := rfl
@[simp] theorem rdata_dieTlb (s : State) (v : W64) : (rdata s v).dieTlb = s.dieTlb := rfl
@[simp] theorem rdata_net (s : State) (v : W64) : (rdata s v).net = s.net := rfl
@[simp] theorem rdata_pile (s : State) (v : W64) : (rdata s v).pile = s.pile := rfl
@[simp] theorem rdata_piles (s : State) (v : W64) : (rdata s v).piles = s.piles := rfl
@[simp] theorem rdata_memwin (s : State) (v : W64) : (rdata s v).memwin = s.memwin := rfl
@[simp] theorem rdata_inval (s : State) (v : W64) : (rdata s v).inval = s.inval := rfl
@[simp] theorem rdata_ports (s : State) (v : W64) : (rdata s v).ports = s.ports := rfl
@[simp] theorem rdata_dom (s : State) (v : W64) : (rdata s v).dom = s.dom := rfl
@[simp] theorem rdata_mail (s : State) (v : W64) : (rdata s v).mail = s.mail := rfl
@[simp] theorem rdata_ap (s : State) (v : W64) : (rdata s v).ap = s.ap := rfl
@[simp] theorem rdata_binds (s : State) (v : W64) : (rdata s v).binds = s.binds := rfl
@[simp] theorem rdata_sec (s : State) (v : W64) : (rdata s v).sec = s.sec := rfl
@[simp] theorem rdata_dbg (s : State) (v : W64) : (rdata s v).dbg = s.dbg := rfl
@[simp] theorem rdata_rst (s : State) (v : W64) : (rdata s v).rst = s.rst := rfl
@[simp] theorem rdata_pwr (s : State) (v : W64) : (rdata s v).pwr = s.pwr := rfl
@[simp] theorem rdata_mon (s : State) (v : W64) : (rdata s v).mon = s.mon := rfl
@[simp] theorem rdata_tally (s : State) (v : W64) : (rdata s v).tally = s.tally := rfl
@[simp] theorem rdata_health (s : State) (v : W64) : (rdata s v).health = s.health := rfl

@[simp] theorem putReply_time (s : State) (m : Nat) (b : Bytes) : (putReply s m b).time = s.time := rfl
@[simp] theorem putReply_free (s : State) (m : Nat) (b : Bytes) : (putReply s m b).free = s.free := rfl
@[simp] theorem putReply_pending (s : State) (m : Nat) (b : Bytes) : (putReply s m b).pending = s.pending := rfl
@[simp] theorem putReply_io (s : State) (m : Nat) (b : Bytes) : (putReply s m b).io = s.io := rfl
@[simp] theorem putReply_bead (s : State) (m : Nat) (b : Bytes) : (putReply s m b).bead = s.bead := rfl
@[simp] theorem putReply_crown (s : State) (m : Nat) (b : Bytes) : (putReply s m b).crown = s.crown := rfl
@[simp] theorem putReply_clients (s : State) (m : Nat) (b : Bytes) : (putReply s m b).clients = s.clients := rfl
@[simp] theorem putReply_sched (s : State) (m : Nat) (b : Bytes) : (putReply s m b).sched = s.sched := rfl
@[simp] theorem putReply_cmds (s : State) (m : Nat) (b : Bytes) : (putReply s m b).cmds = s.cmds := rfl
@[simp] theorem putReply_parts (s : State) (m : Nat) (b : Bytes) : (putReply s m b).parts = s.parts := rfl
@[simp] theorem putReply_streams (s : State) (m : Nat) (b : Bytes) : (putReply s m b).streams = s.streams := rfl
@[simp] theorem putReply_sets (s : State) (m : Nat) (b : Bytes) : (putReply s m b).sets = s.sets := rfl
@[simp] theorem putReply_cores (s : State) (m : Nat) (b : Bytes) : (putReply s m b).cores = s.cores := rfl
@[simp] theorem putReply_dieTlb (s : State) (m : Nat) (b : Bytes) : (putReply s m b).dieTlb = s.dieTlb := rfl
@[simp] theorem putReply_net (s : State) (m : Nat) (b : Bytes) : (putReply s m b).net = s.net := rfl
@[simp] theorem putReply_pile (s : State) (m : Nat) (b : Bytes) : (putReply s m b).pile = s.pile := rfl
@[simp] theorem putReply_piles (s : State) (m : Nat) (b : Bytes) : (putReply s m b).piles = s.piles := rfl
@[simp] theorem putReply_memwin (s : State) (m : Nat) (b : Bytes) : (putReply s m b).memwin = s.memwin := rfl
@[simp] theorem putReply_inval (s : State) (m : Nat) (b : Bytes) : (putReply s m b).inval = s.inval := rfl
@[simp] theorem putReply_ports (s : State) (m : Nat) (b : Bytes) : (putReply s m b).ports = s.ports := rfl
@[simp] theorem putReply_dom (s : State) (m : Nat) (b : Bytes) : (putReply s m b).dom = s.dom := rfl
@[simp] theorem putReply_mail (s : State) (m : Nat) (b : Bytes) : (putReply s m b).mail = { s.mail with replies := tput [] s.mail.replies m (tget [] s.mail.replies m ++ [b]) } := rfl
@[simp] theorem putReply_ap (s : State) (m : Nat) (b : Bytes) : (putReply s m b).ap = s.ap := rfl
@[simp] theorem putReply_binds (s : State) (m : Nat) (b : Bytes) : (putReply s m b).binds = s.binds := rfl
@[simp] theorem putReply_sec (s : State) (m : Nat) (b : Bytes) : (putReply s m b).sec = s.sec := rfl
@[simp] theorem putReply_dbg (s : State) (m : Nat) (b : Bytes) : (putReply s m b).dbg = s.dbg := rfl
@[simp] theorem putReply_rst (s : State) (m : Nat) (b : Bytes) : (putReply s m b).rst = s.rst := rfl
@[simp] theorem putReply_pwr (s : State) (m : Nat) (b : Bytes) : (putReply s m b).pwr = s.pwr := rfl
@[simp] theorem putReply_mon (s : State) (m : Nat) (b : Bytes) : (putReply s m b).mon = s.mon := rfl
@[simp] theorem putReply_tally (s : State) (m : Nat) (b : Bytes) : (putReply s m b).tally = s.tally := rfl
@[simp] theorem putReply_health (s : State) (m : Nat) (b : Bytes) : (putReply s m b).health = s.health := rfl

@[simp] theorem setF2h_time (s : State) (m : Nat) (x : F2H) : (setF2h s m x).time = s.time := rfl
@[simp] theorem setF2h_free (s : State) (m : Nat) (x : F2H) : (setF2h s m x).free = s.free := rfl
@[simp] theorem setF2h_pending (s : State) (m : Nat) (x : F2H) : (setF2h s m x).pending = s.pending := rfl
@[simp] theorem setF2h_io (s : State) (m : Nat) (x : F2H) : (setF2h s m x).io = s.io := rfl
@[simp] theorem setF2h_bead (s : State) (m : Nat) (x : F2H) : (setF2h s m x).bead = s.bead := rfl
@[simp] theorem setF2h_crown (s : State) (m : Nat) (x : F2H) : (setF2h s m x).crown = s.crown := rfl
@[simp] theorem setF2h_clients (s : State) (m : Nat) (x : F2H) : (setF2h s m x).clients = s.clients := rfl
@[simp] theorem setF2h_sched (s : State) (m : Nat) (x : F2H) : (setF2h s m x).sched = s.sched := rfl
@[simp] theorem setF2h_cmds (s : State) (m : Nat) (x : F2H) : (setF2h s m x).cmds = s.cmds := rfl
@[simp] theorem setF2h_parts (s : State) (m : Nat) (x : F2H) : (setF2h s m x).parts = s.parts := rfl
@[simp] theorem setF2h_streams (s : State) (m : Nat) (x : F2H) : (setF2h s m x).streams = s.streams := rfl
@[simp] theorem setF2h_sets (s : State) (m : Nat) (x : F2H) : (setF2h s m x).sets = s.sets := rfl
@[simp] theorem setF2h_cores (s : State) (m : Nat) (x : F2H) : (setF2h s m x).cores = s.cores := rfl
@[simp] theorem setF2h_dieTlb (s : State) (m : Nat) (x : F2H) : (setF2h s m x).dieTlb = s.dieTlb := rfl
@[simp] theorem setF2h_net (s : State) (m : Nat) (x : F2H) : (setF2h s m x).net = s.net := rfl
@[simp] theorem setF2h_pile (s : State) (m : Nat) (x : F2H) : (setF2h s m x).pile = s.pile := rfl
@[simp] theorem setF2h_piles (s : State) (m : Nat) (x : F2H) : (setF2h s m x).piles = s.piles := rfl
@[simp] theorem setF2h_memwin (s : State) (m : Nat) (x : F2H) : (setF2h s m x).memwin = s.memwin := rfl
@[simp] theorem setF2h_inval (s : State) (m : Nat) (x : F2H) : (setF2h s m x).inval = s.inval := rfl
@[simp] theorem setF2h_ports (s : State) (m : Nat) (x : F2H) : (setF2h s m x).ports = s.ports := rfl
@[simp] theorem setF2h_dom (s : State) (m : Nat) (x : F2H) : (setF2h s m x).dom = s.dom := rfl
@[simp] theorem setF2h_mail (s : State) (m : Nat) (x : F2H) : (setF2h s m x).mail = { s.mail with f2h := tput {} s.mail.f2h m x } := rfl
@[simp] theorem setF2h_ap (s : State) (m : Nat) (x : F2H) : (setF2h s m x).ap = s.ap := rfl
@[simp] theorem setF2h_binds (s : State) (m : Nat) (x : F2H) : (setF2h s m x).binds = s.binds := rfl
@[simp] theorem setF2h_sec (s : State) (m : Nat) (x : F2H) : (setF2h s m x).sec = s.sec := rfl
@[simp] theorem setF2h_dbg (s : State) (m : Nat) (x : F2H) : (setF2h s m x).dbg = s.dbg := rfl
@[simp] theorem setF2h_rst (s : State) (m : Nat) (x : F2H) : (setF2h s m x).rst = s.rst := rfl
@[simp] theorem setF2h_pwr (s : State) (m : Nat) (x : F2H) : (setF2h s m x).pwr = s.pwr := rfl
@[simp] theorem setF2h_mon (s : State) (m : Nat) (x : F2H) : (setF2h s m x).mon = s.mon := rfl
@[simp] theorem setF2h_tally (s : State) (m : Nat) (x : F2H) : (setF2h s m x).tally = s.tally := rfl
@[simp] theorem setF2h_health (s : State) (m : Nat) (x : F2H) : (setF2h s m x).health = s.health := rfl

@[simp] theorem dmaRead_time (s : State) (p : Option Nat) (a n : Nat) : (dmaRead s p a n).time = s.time := rfl
@[simp] theorem dmaRead_free (s : State) (p : Option Nat) (a n : Nat) : (dmaRead s p a n).free = s.free := rfl
@[simp] theorem dmaRead_pending (s : State) (p : Option Nat) (a n : Nat) : (dmaRead s p a n).pending = s.pending := rfl
@[simp] theorem dmaRead_io (s : State) (p : Option Nat) (a n : Nat) : (dmaRead s p a n).io = { s.io with reads := s.io.reads ++ [{ pasid := p, addr := a, bytes := n }] } := rfl
@[simp] theorem dmaRead_bead (s : State) (p : Option Nat) (a n : Nat) : (dmaRead s p a n).bead = s.bead := rfl
@[simp] theorem dmaRead_crown (s : State) (p : Option Nat) (a n : Nat) : (dmaRead s p a n).crown = s.crown := rfl
@[simp] theorem dmaRead_clients (s : State) (p : Option Nat) (a n : Nat) : (dmaRead s p a n).clients = s.clients := rfl
@[simp] theorem dmaRead_sched (s : State) (p : Option Nat) (a n : Nat) : (dmaRead s p a n).sched = s.sched := rfl
@[simp] theorem dmaRead_cmds (s : State) (p : Option Nat) (a n : Nat) : (dmaRead s p a n).cmds = s.cmds := rfl
@[simp] theorem dmaRead_parts (s : State) (p : Option Nat) (a n : Nat) : (dmaRead s p a n).parts = s.parts := rfl
@[simp] theorem dmaRead_streams (s : State) (p : Option Nat) (a n : Nat) : (dmaRead s p a n).streams = s.streams := rfl
@[simp] theorem dmaRead_sets (s : State) (p : Option Nat) (a n : Nat) : (dmaRead s p a n).sets = s.sets := rfl
@[simp] theorem dmaRead_cores (s : State) (p : Option Nat) (a n : Nat) : (dmaRead s p a n).cores = s.cores := rfl
@[simp] theorem dmaRead_dieTlb (s : State) (p : Option Nat) (a n : Nat) : (dmaRead s p a n).dieTlb = s.dieTlb := rfl
@[simp] theorem dmaRead_net (s : State) (p : Option Nat) (a n : Nat) : (dmaRead s p a n).net = s.net := rfl
@[simp] theorem dmaRead_pile (s : State) (p : Option Nat) (a n : Nat) : (dmaRead s p a n).pile = s.pile := rfl
@[simp] theorem dmaRead_piles (s : State) (p : Option Nat) (a n : Nat) : (dmaRead s p a n).piles = s.piles := rfl
@[simp] theorem dmaRead_memwin (s : State) (p : Option Nat) (a n : Nat) : (dmaRead s p a n).memwin = s.memwin := rfl
@[simp] theorem dmaRead_inval (s : State) (p : Option Nat) (a n : Nat) : (dmaRead s p a n).inval = s.inval := rfl
@[simp] theorem dmaRead_ports (s : State) (p : Option Nat) (a n : Nat) : (dmaRead s p a n).ports = s.ports := rfl
@[simp] theorem dmaRead_dom (s : State) (p : Option Nat) (a n : Nat) : (dmaRead s p a n).dom = s.dom := rfl
@[simp] theorem dmaRead_mail (s : State) (p : Option Nat) (a n : Nat) : (dmaRead s p a n).mail = s.mail := rfl
@[simp] theorem dmaRead_ap (s : State) (p : Option Nat) (a n : Nat) : (dmaRead s p a n).ap = s.ap := rfl
@[simp] theorem dmaRead_binds (s : State) (p : Option Nat) (a n : Nat) : (dmaRead s p a n).binds = s.binds := rfl
@[simp] theorem dmaRead_sec (s : State) (p : Option Nat) (a n : Nat) : (dmaRead s p a n).sec = s.sec := rfl
@[simp] theorem dmaRead_dbg (s : State) (p : Option Nat) (a n : Nat) : (dmaRead s p a n).dbg = s.dbg := rfl
@[simp] theorem dmaRead_rst (s : State) (p : Option Nat) (a n : Nat) : (dmaRead s p a n).rst = s.rst := rfl
@[simp] theorem dmaRead_pwr (s : State) (p : Option Nat) (a n : Nat) : (dmaRead s p a n).pwr = s.pwr := rfl
@[simp] theorem dmaRead_mon (s : State) (p : Option Nat) (a n : Nat) : (dmaRead s p a n).mon = s.mon := rfl
@[simp] theorem dmaRead_tally (s : State) (p : Option Nat) (a n : Nat) : (dmaRead s p a n).tally = s.tally := rfl
@[simp] theorem dmaRead_health (s : State) (p : Option Nat) (a n : Nat) : (dmaRead s p a n).health = s.health := rfl

end Sys2Proof.Machine
end

