-- ==== Sys2Proof/Laws/Time.lean ====
section
/-! SUPPORT. What leaving messages and the passing of time change: the Crown's injection allowances and queues, the wire and the
mesh, the clocks and the counters of the cores, and nothing else. -/

namespace Sys2Proof.Machine

open Sys2Proof

/-- Apart from the mesh, the ports, what has left the package, the Crown's allowances and the free values, `t` is `s`. -/
def Same (s t : State) : Prop :=
  t.bead = s.bead ∧ t.clients = s.clients ∧ t.cmds = s.cmds ∧ t.streams = s.streams ∧ t.pile = s.pile ∧ t.io.dma = s.io.dma ∧
    t.io.msix = s.io.msix ∧ t.io.rdata = s.io.rdata ∧ t.sec = s.sec ∧ t.cores = s.cores ∧ t.time = s.time ∧
    t.pending = s.pending ∧ t.tally = s.tally ∧ t.rst = s.rst ∧ t.pwr = s.pwr ∧ t.mail = s.mail ∧ t.sets = s.sets ∧
    t.parts = s.parts ∧ t.dom = s.dom ∧ t.ap = s.ap ∧ t.mon = s.mon ∧ t.health = s.health ∧ t.piles = s.piles ∧
    t.memwin = s.memwin ∧ t.inval = s.inval ∧ t.dbg = s.dbg ∧ t.binds = s.binds ∧ t.sched = s.sched ∧ t.dieTlb = s.dieTlb

theorem Same.refl (s : State) : Same s s := by simp [Same]
theorem Same.trans {s t u : State} (a : Same s t) (b : Same t u) : Same s u := by
  simp only [Same] at *; simp [a, b]
theorem Same.crown {s t : State} (h : Same s t) (c : Crown) : Same s { t with crown := c } := h

theorem queueFlits_same (s : State) (c d n : Nat) : Same s (queueFlits s c d n) := by
  unfold queueFlits; split <;> simp [Same]

theorem injectFl0_same : ∀ (l : List (Nat × Wire)) (s : State), Same s (injectFl0 l s)
  | [], s => by simp [injectFl0, Same]
  | (d, w) :: t, s => by
    unfold injectFl0; split
    · exact Same.trans (by simp [Same]) (Same.trans (queueFlits_same _ 0 d 1) (injectFl0_same t _))
    · simp [Same]

theorem injectMc0_same : ∀ (l : List Packet) (s : State), Same s (injectMc0 l s)
  | [], s => Same.refl s
  | p :: t, s => by
    unfold injectMc0; dsimp only; split <;> exact Same.trans (by simp [Same]) (injectMc0_same t _)

/-- A message put on the mesh. -/
theorem sendNet_same (s : State) (p : Packet) : Same s (sendNet s p) := by
  unfold sendNet; split
  · exact (Same.crown (Same.refl s) _).trans (injectMc0_same _ _)
  · simp [Same]

theorem refillMc0_same (n : Nat) (s : State) : Same s (refillMc0 n s) :=
  (((Same.refl s).crown _).trans (injectMc0_same _ _)).crown _
theorem refillFl0_same (n : Nat) (s : State) : Same s (refillFl0 n s) :=
  (((Same.refl s).crown _).trans (injectFl0_same _ _)).crown _

/-- `t` is `s` after `n` nanoseconds. -/
def Passed (n : Nat) (s t : State) : Prop :=
  t.bead = s.bead ∧ t.clients = s.clients ∧ t.cmds = s.cmds ∧ t.streams = s.streams ∧ t.pile = s.pile ∧ t.io.dma = s.io.dma ∧
    t.io.msix = s.io.msix ∧ t.io.rdata = s.io.rdata ∧ t.sec = s.sec ∧ (∀ k, (getCore t k).ls = (getCore s k).ls) ∧
    t.time = s.time + n ∧ t.pending = s.pending ∧ t.tally.slots = s.tally.slots ∧ t.rst = s.rst ∧ t.pwr.cur = s.pwr.cur ∧
    t.mail = s.mail ∧ t.sets = s.sets ∧ t.parts = s.parts ∧ t.dom = s.dom ∧ t.ap = s.ap ∧ t.mon = s.mon ∧
    t.health = s.health ∧ t.piles = s.piles ∧ t.memwin = s.memwin ∧ t.inval = s.inval ∧ t.dbg = s.dbg ∧ t.binds = s.binds ∧
    t.sched = s.sched ∧ t.dieTlb = s.dieTlb ∧
    (crownUp s = true → d1Off s = false → t.tally.clock = s.tally.clock + n)

theorem coreCycles_ls (a b c : Nat) (x : Core) : (coreCycles a b c x).ls = x.ls := by unfold coreCycles; split <;> rfl

/-- A relation that a map over a table keeps for every entry holds between what the two tables read as. -/
theorem tget_map_rel {α : Type} (d : α) (f : Nat → α → α) (P : α → α → Prop) (h0 : P d d) (h : ∀ k x, P (f k x) x) (k : Nat) :
    ∀ t : Tab α, P (tget d (t.map fun x => (x.1, f x.1 x.2)) k) (tget d t k)
  | [] => by simpa [tget] using h0
  | (j, v) :: t => by
    simp only [List.map_cons, tget]
    split
    · exact h _ _
    · exact tget_map_rel d f P h0 h k t

/-- What `n` nanoseconds leave. -/
theorem pass_passed (n : Nat) (s : State) : Passed n s (Machine.pass n s) := by
  unfold Machine.pass
  dsimp only
  generalize hs0 : ({ s with
    time := s.time + n
    free := s.free + 32768
    tally := { s.tally with clock := if d1Off s || !crownUp s then s.tally.clock else s.tally.clock + n }
    cores := s.cores.map fun (x : Nat × Core) =>
      (x.1, coreCycles s.time (s.free + 10 * x.1) (groupCycles s (groupOf x.1) n) x.2) } : State) = s0
  have h := Same.trans (refillMc0_same n s0) (refillFl0_same n _)
  obtain ⟨h1, h2, h3, h4, h5, h6, h7, h8, h9, h10, h11, h12, h13, h14, h15, h16, h17, h18, h19, h20, h21, h22, h23, h24, h25,
    h26, h27, h28, h29⟩ := h
  simp only [Passed, h1, h2, h3, h4, h5, h6, h7, h8, h9, h11, h12, h13, h14, h15, h16, h17, h18, h19, h20, h21, h22, h23, h24,
    h25, h26, h27, h28, h29]
  subst hs0
  refine ⟨rfl, rfl, rfl, rfl, rfl, rfl, rfl, rfl, rfl, ?_, rfl, rfl, rfl, rfl, rfl, rfl, rfl, rfl, rfl, rfl, rfl, rfl, rfl, rfl,
    rfl, rfl, rfl, rfl, rfl, ?_⟩
  · intro k; unfold getCore; simp only [h10]
    exact tget_map_rel ({} : Core) (fun k x => coreCycles s.time (s.free + 10 * k) (groupCycles s (groupOf k) n) x)
      (fun a b => a.ls = b.ls) rfl (fun k x => coreCycles_ls _ _ _ _) k s.cores
  · intro a b; simp [a, b]

/-- What waiting for a time leaves; the clock then reads at least that time. -/
theorem passTo_passed (s : State) (t : Nat) : ∃ n, Passed n s (passTo s t) ∧ t ≤ s.time + n := by
  unfold passTo; split
  · exact ⟨0, by simp [Passed], by omega⟩
  · exact ⟨t - s.time, pass_passed _ _, by omega⟩

/-- A host access to an awake package is the access itself. -/
theorem hostAccess_awake {s : State} (h : crownUp s = true) (h' : s.pwr.cur ≠ 2) (f : State → State) : hostAccess s f = f s := by
  unfold hostAccess; rw [if_pos h, if_neg h']

end Sys2Proof.Machine
end

