-- ==== Sys2Proof/Laws/Kill.lean ====
section
/-! SUPPORT. What control messages and kills change. -/

namespace Sys2Proof.Machine

open Sys2Proof

/-- `t` is `s` but for the domain's messages, and for what `Same` leaves out. -/
def Told (s t : State) : Prop := Same { s with dom := t.dom } t

theorem Told.refl (s : State) : Told s s := Same.refl s
theorem Told.trans {s t u : State} (a : Told s t) (b : Told t u) : Told s u := by
  simp only [Told, Same] at *; simp [a, b]
theorem Same.told {s t : State} (h : Same s t) : Told s t := by
  simp only [Told, Same] at *; simp [h]

theorem Told.foldl {α : Type} {f : State → α → State} (h : ∀ t x, Told t (f t x)) : ∀ (l : List α) (s : State), Told s (l.foldl f s)
  | [], s => Told.refl s
  | x :: l, s => (h s x).trans (Told.foldl h l (f s x))

/-- A control message sent under a new number. -/
theorem sendCtl_told (s : State) (dst : Nat) (m : Ctl) : Told s (sendCtl s dst m) :=
  (show Told s _ from Same.refl _).trans (injectFl0_same _ _).told

theorem cancelReads_told (s : State) (gang : List Nat) (gen : W32) : Told s (cancelReads s gang gen) := by
  unfold cancelReads
  refine Told.foldl (fun t core => ?_) _ _
  split
  · exact Told.foldl (fun u r => sendCtl_told _ _ _) _ _
  · exact Told.refl _

theorem Told.getCmd {s t : State} (h : Told s t) (id : Nat) : getCmd t id = getCmd s id := by
  have e : t.cmds = s.cmds := h.2.2.1
  simp only [Machine.getCmd, e]

/-- A running command that is killed is then being killed, for the cause given. -/
theorem startKill_running {s : State} {id : Nat} {c : Cmd} (h : getCmd s id = some c) (hr : c.stage = .running) (k : KillKind)
    (slice : Bool) :
    getCmd (startKill s id k slice) id = some { c with
      stage := .killing
      kill := some { kind := k, cores := c.gang, piles := killPiles s c, at_ := s.time, slice := slice } } := by
  unfold startKill
  simp only [h, hr]
  rw [((cancelReads_told _ _ _).trans (Told.foldl (fun t core => (sendNet_same _ _).told) _ _)).getCmd]
  exact getCmd_modCmd_same s id _ c h fun x => rfl

/-- A kill changes no other command, no dispatch and no memory. -/
theorem startKill_leaves (s : State) (id : Nat) (k : KillKind) (slice : Bool) :
    (startKill s id k slice).cores = s.cores ∧ (startKill s id k slice).pile = s.pile ∧
      (startKill s id k slice).streams = s.streams ∧ (startKill s id k slice).clients = s.clients ∧
      (startKill s id k slice).time = s.time ∧ ∀ n, n ≠ id → getCmd (startKill s id k slice) n = getCmd s n := by
  unfold startKill
  have key : ∀ f : Cmd → Cmd, (∀ x, (f x).id = x.id) → ∀ t, Told (modCmd s id f) t →
      t.cores = s.cores ∧ t.pile = s.pile ∧ t.streams = s.streams ∧ t.clients = s.clients ∧ t.time = s.time ∧
        ∀ n, n ≠ id → getCmd t n = getCmd s n := fun f hf t h => by
    have g : ∀ n, n ≠ id → Machine.getCmd t n = Machine.getCmd s n := fun n hn => by
      rw [h.getCmd, getCmd_modCmd_ne s id n f hn hf]
    simp only [Told, Same] at h
    obtain ⟨_, h2, _, h4, h5, _, _, _, _, h10, h11, _⟩ := h
    exact ⟨h10, h5, h4, h2, h11, g⟩
  dsimp only
  repeat' split
  all_goals first
    | exact ⟨rfl, rfl, rfl, rfl, rfl, fun _ _ => rfl⟩
    | (refine key _ ?_ _ (Told.refl _); exact fun x => rfl)
    | (refine key _ ?_ _ ((cancelReads_told _ _ _).trans (Told.foldl (fun t core => (sendNet_same _ _).told) _ _)); exact fun x => rfl)

end Sys2Proof.Machine
end

