-- ==== Sys2Proof/Laws/Issue.lean ====
section
/-! SUPPORT. What issuing an instruction of a core does, once for all instructions: the word found at the code index is run, the core
goes on at the next index, a launch enters its engine's queue, and a failed check ends the command. -/

namespace Sys2Proof.Machine

open Sys2Proof Sys2Proof.Ob

theorem issueIf_at {s : State} {core : Nat} {d : Disp} {w op : Nat} (h : atWord s core d w op) (p : Nat → Bool) (hp : p w = true)
    (f : Disp → Nat → State) : issueIf s core p f = f d w := by
  obtain ⟨h1, h2, h3, h4⟩ := h; simp [issueIf, h1, h2, h3, hp]

/-- A core at a word of the opcode runs it. -/
theorem issue_at {s : State} {core : Nat} {d : Disp} {w op : Nat} (h : atWord s core d w op) (f : Disp → Nat → State) :
    issue s core op f = f d w := issueIf_at h _ (by simp [h.2.2.2]) f

theorem goTo_at {s : State} {core : Nat} {d : Disp} (d1 : Disp) (pc : Nat) (h : codeHeld s core d pc)
    (h1 : d1.codeBase = d.codeBase) (h2 : d1.codeSpan = d.codeSpan) : goTo s core d1 pc = setDisp s core (gone d1 pc) := by
  unfold goTo
  have : codeWord (getCore s core) d1 pc = codeWord (getCore s core) d pc := by simp [codeWord, h1, h2]
  simp [this, gone]; intro hx; simp [codeHeld, hx] at h

/-- With a word held at the next index the core goes on there. -/
theorem advance_at {s : State} {core : Nat} {d : Disp} {w op : Nat} (h : ready s core d w op) (d1 : Disp) (h0 : d1.pc = d.pc)
    (h1 : d1.codeBase = d.codeBase) (h2 : d1.codeSpan = d.codeSpan) : advance s core d1 = nextOf s core d1 d.pc := by
  unfold advance nextOf; rw [h0]; exact goTo_at d1 _ h.2 h1 h2

theorem setSreg_pc (d : Disp) (i : Nat) (v : W64) : (setSreg d i v).pc = d.pc ∧ (setSreg d i v).codeBase = d.codeBase ∧
    (setSreg d i v).codeSpan = d.codeSpan := by
  unfold setSreg; split <;> simp

/-- A scalar instruction writes its register and goes on. -/
theorem alu_at {s : State} {core : Nat} {d : Disp} {w op : Nat} (h : ready s core d w op) (f : W64 → W64 → W64) :
    alu s core op f = nextOf s core (setSreg d (fD w) (f (sreg d (fA w)) (opX d w))) d.pc := by
  unfold alu; rw [issue_at h.1]
  obtain ⟨a, b, c⟩ := setSreg_pc d (fD w) (f (sreg d (fA w)) (opX d w)); exact advance_at h _ a b c

/-- A failed check ends the command with OUT_OF_BOUNDS. -/
theorem failOob_ends {s : State} {d : Disp} (h : runs s d.cmd) : ending (failOob s d) d.cmd 0x0003 0 := by
  obtain ⟨c, h1, h2⟩ := h
  exact ⟨_, _, startKill_running h1 h2 _ _, rfl, rfl, rfl⟩

/-- A launch whose checks pass enters its engine's queue with its effect. -/
theorem launch_at {s : State} {core : Nat} {d : Disp} {w op eng : Nat} (h : launchable s core d w op eng)
    (f : Tab Byte → Disp → Nat → Option Disp) (e : Disp) (hf : f (getCore s core).ls (blank d) w = some e) (h0 : e.pc = d.pc)
    (h1 : e.codeBase = d.codeBase) (h2 : e.codeSpan = d.codeSpan) (h3 : e.launches = d.launches) :
    launch s core op eng f = nextOf s core (launched d e eng (fT w)) d.pc := by
  obtain ⟨hr, ht, hl⟩ := h
  unfold launch; rw [issue_at hr.1]
  have : ¬ 4 ≤ (tget [] d.launches eng).length := by omega
  have hf' : f (getCore s core).ls { d with flags := 0 } w = some e := hf
  simp only [ht, this, hf', if_false, Bool.false_eq_true]
  have := advance_at hr (launched d e eng (fT w)) (by simp [launched, tokSet, h0]) (by simp [launched, tokSet, h1])
    (by simp [launched, tokSet, h2])
  rw [← this]; simp [launched, h3]

/-- A launch that fails a check is no launch: its command ends. -/
theorem launch_fails {s : State} {core : Nat} {d : Disp} {w op eng : Nat} (h : launchable s core d w op eng)
    (f : Tab Byte → Disp → Nat → Option Disp) (hf : f (getCore s core).ls (blank d) w = none) :
    launch s core op eng f = failOob s d := by
  obtain ⟨hr, ht, hl⟩ := h
  unfold launch; rw [issue_at hr.1]
  have : ¬ 4 ≤ (tget [] d.launches eng).length := by omega
  have hf' : f (getCore s core).ls { d with flags := 0 } w = none := hf
  simp only [ht, this, hf', if_false, Bool.false_eq_true]

/-- A launch waits while its token is pending or its engine's queue is full. -/
theorem launch_stalls {s : State} {core : Nat} {d : Disp} {w op eng : Nat} (h : atWord s core d w op)
    (f : Tab Byte → Disp → Nat → Option Disp) (hs : tokPending d (fT w) = true ∨ 4 ≤ (tget [] d.launches eng).length) :
    launch s core op eng f = stall s core d 0 := by
  unfold launch; rw [issue_at h]
  rcases hs with hs | hs
  · simp [hs]
  · simp [hs]

end Sys2Proof.Machine
end

