-- ==== Sys2Proof/Laws/Keep/Base.lean ====
section
/-! SUPPORT. What every operation but a power-on reset leaves true of the state, as one relation, with the rules by which it is
shown of an operation from its parts. -/

namespace Sys2Proof.Machine

open Sys2Proof

/-- The fuses and what was sampled of the straps stand; what is programmed later is never cleared (R406, R407, R420). -/
def SecKeep (x y : Sec) : Prop :=
  (y.uds = x.uds ∧ y.serial = x.serial ∧ y.vendorDigest = x.vendorDigest ∧ y.vendorLms = x.vendorLms ∧
    y.topTree = x.topTree ∧ y.bootsel = x.bootsel) ∧
  (x.rollback ≤ y.rollback ∧ x.nextLeaf ≤ y.nextLeaf) ∧
  (x.ownerSet = true → y.ownerSet = true ∧ y.ownerDigest = x.ownerDigest ∧ y.ownerLms = x.ownerLms)

/-- Pile memory stays in its canonical form. -/
def PileKeep (x y : PileMem) : Prop := Memory.wf x.mem = true → Memory.wf y.mem = true

/-- The power state stays one of S0, S1 and S2. -/
def PwrKeep (x y : Pwr) : Prop := x.cur.toNat < 3 → y.cur.toNat < 3

/-- The bead's references stay codes that REFSEL has. -/
def BeadKeep (x y : Bead) : Prop :=
  x.refsel.toNat < 7 ∧ x.activeRef.toNat < 7 → y.refsel.toNat < 7 ∧ y.activeRef.toNat < 7

/-- The straps of the reset controller stand (R420). -/
def RstKeep (x y : Rst) : Prop := y.clksel = x.clksel ∧ y.stmand = x.stmand

/-- All of them, with the queue as it was and time not turned back. -/
def Keep (s t : State) : Prop :=
  t.pending = s.pending ∧ s.time ≤ t.time ∧ SecKeep s.sec t.sec ∧ PileKeep s.pile t.pile ∧ PwrKeep s.pwr t.pwr ∧
    BeadKeep s.bead t.bead ∧ RstKeep s.rst t.rst

theorem SecKeep.refl (x : Sec) : SecKeep x x := ⟨⟨rfl, rfl, rfl, rfl, rfl, rfl⟩, ⟨Nat.le_refl _, Nat.le_refl _⟩, fun h => ⟨h, rfl, rfl⟩⟩
theorem PileKeep.refl (x : PileMem) : PileKeep x x := id
theorem PwrKeep.refl (x : Pwr) : PwrKeep x x := id
theorem BeadKeep.refl (x : Bead) : BeadKeep x x := id
theorem RstKeep.refl (x : Rst) : RstKeep x x := ⟨rfl, rfl⟩

theorem SecKeep.trans {x y z : Sec} (a : SecKeep x y) (b : SecKeep y z) : SecKeep x z := by
  obtain ⟨⟨a1, a2, a3, a4, a5, a6⟩, ⟨a7, a8⟩, a9⟩ := a
  obtain ⟨⟨b1, b2, b3, b4, b5, b6⟩, ⟨b7, b8⟩, b9⟩ := b
  refine ⟨⟨b1.trans a1, b2.trans a2, b3.trans a3, b4.trans a4, b5.trans a5, b6.trans a6⟩,
    ⟨a7.trans b7, a8.trans b8⟩, fun h => ?_⟩
  obtain ⟨h1, h2, h3⟩ := a9 h
  obtain ⟨h4, h5, h6⟩ := b9 h1
  exact ⟨h4, h5.trans h2, h6.trans h3⟩

@[simp] theorem Keep.refl (s : State) : Keep s s :=
  ⟨rfl, Nat.le_refl _, SecKeep.refl _, PileKeep.refl _, PwrKeep.refl _, BeadKeep.refl _, RstKeep.refl _⟩

theorem Keep.trans {s t u : State} (a : Keep s t) (b : Keep t u) : Keep s u := by
  obtain ⟨a1, a2, a3, a4, a5, a6, a7⟩ := a
  obtain ⟨b1, b2, b3, b4, b5, b6, b7⟩ := b
  exact ⟨b1.trans a1, a2.trans b2, a3.trans b3, fun h => b4 (a4 h), fun h => b5 (a5 h), fun h => b6 (a6 h),
    ⟨b7.1.trans a7.1, b7.2.trans a7.2⟩⟩

theorem Keep.trans' {s t u : State} (b : Keep t u) (a : Keep s t) : Keep s u := a.trans b

/-- The rule for a changed state: what is not named below may be anything. -/
@[simp] theorem Keep.mk {s t : State} {time free : Nat} {io : Io} {crown : Crown} {clients : Tab Client} {sched : Tab Sched}
    {cmds : List Cmd} {parts : Tab Part} {streams : Tab Stream} {sets : List WSet} {cores : Tab Core}
    {dieTlb : Tab (List TlbEnt)} {net : List Packet} {piles : Tab Pile} {memwin : Memwin} {inval : List Inval}
    {ports : Tab Port} {dom : Dom} {mail : Mail} {ap : Tab APort} {binds : Tab (Option Bind)} {dbg : Dbg} {mon : Mon}
    {tally : Tally} {health : Health} {bead : Bead} {pile : PileMem} {sec : Sec} {rst : Rst} {pwr : Pwr}
    (h : Keep s t) (ht : t.time ≤ time) (hb : BeadKeep t.bead bead) (hp : PileKeep t.pile pile) (hs : SecKeep t.sec sec)
    (hr : RstKeep t.rst rst) (hw : PwrKeep t.pwr pwr) :
    Keep s ⟨time, free, t.pending, io, bead, crown, clients, sched, cmds, parts, streams, sets, cores, dieTlb, net, pile, piles,
      memwin, inval, ports, dom, mail, ap, binds, sec, dbg, rst, pwr, mon, tally, health⟩ :=
  h.trans ⟨rfl, ht, hs, hp, hw, hb, hr⟩

@[simp] theorem Keep.ite {s a b : State} {c : Prop} [Decidable c] (ha : Keep s a) (hb : Keep s b) :
    Keep s (if c then a else b) := by split <;> assumption

theorem Keep.fold {α : Type} {f : State → α → State} {s : State} (h : ∀ t x, Keep t (f t x)) :
    ∀ (l : List α) (u : State), Keep s u → Keep s (l.foldl f u)
  | [], _, hu => hu
  | x :: l, u, hu => Keep.fold h l (f u x) (hu.trans (h u x))

/-- A fold of operations that keep these keeps them. -/
@[simp] theorem Keep.foldl {α : Type} {f : State → α → State} {l : List α} {s u : State} (hu : Keep s u)
    (h : ∀ t x, Keep t (f t x)) : Keep s (l.foldl f u) := Keep.fold h l u hu

@[simp] theorem beadKeep_refl (x : Bead) : BeadKeep x x := id
@[simp] theorem pileKeep_refl (x : PileMem) : PileKeep x x := id
@[simp] theorem pwrKeep_refl (x : Pwr) : PwrKeep x x := id
@[simp] theorem rstKeep_refl (x : Rst) : RstKeep x x := RstKeep.refl x
@[simp] theorem secKeep_refl (x : Sec) : SecKeep x x := SecKeep.refl x

@[simp] theorem beadKeep_of {x y : Bead} (h : y.refsel = x.refsel) (h' : y.activeRef = x.activeRef) : BeadKeep x y :=
  fun w => by rw [h, h']; exact w
@[simp] theorem pileKeep_of {x y : PileMem} (h : y.mem = x.mem) : PileKeep x y := fun w => by rw [h]; exact w
@[simp] theorem pwrKeep_of {x y : Pwr} (h : y.cur = x.cur) : PwrKeep x y := fun w => by rw [h]; exact w
@[simp] theorem pwrKeep_lt {x y : Pwr} (h : y.cur.toNat < 3) : PwrKeep x y := fun _ => h
@[simp] theorem beadKeep_lt {x y : Bead} (h : y.refsel = x.refsel) (h' : y.activeRef.toNat < 7) : BeadKeep x y :=
  fun w => by rw [h]; exact ⟨w.1, h'⟩
@[simp] theorem beadKeep_sel {x y : Bead} (h : y.refsel = x.refsel) (h' : y.activeRef = x.refsel) : BeadKeep x y :=
  fun w => by rw [h, h']; exact ⟨w.1, w.1⟩
@[simp] theorem beadKeep_none {x y : Bead} (h : y.refsel = 0) (h' : y.activeRef = 0) : BeadKeep x y :=
  fun _ => by rw [h, h']; decide
@[simp] theorem rstKeep_of {x y : Rst} (h : y.clksel = x.clksel) (h' : y.stmand = x.stmand) : RstKeep x y := ⟨h, h'⟩
@[simp] theorem secKeep_of {x y : Sec} (h1 : y.uds = x.uds) (h2 : y.serial = x.serial) (h3 : y.vendorDigest = x.vendorDigest)
    (h4 : y.vendorLms = x.vendorLms) (h5 : y.topTree = x.topTree) (h6 : y.bootsel = x.bootsel)
    (h7 : y.rollback = x.rollback) (h8 : y.nextLeaf = x.nextLeaf) (h9 : y.ownerSet = x.ownerSet)
    (h10 : y.ownerDigest = x.ownerDigest) (h11 : y.ownerLms = x.ownerLms) : SecKeep x y :=
  ⟨⟨h1, h2, h3, h4, h5, h6⟩, ⟨h7 ▸ Nat.le_refl _, h8 ▸ Nat.le_refl _⟩, fun h => ⟨h9 ▸ h, h10, h11⟩⟩

/-- The bytes of pile memory change only through `memPut`. -/
theorem PileKeep.put {x y : PileMem} {a : Nat} {b : Bytes} (h : y.mem = memPut x.mem a b) : PileKeep x y :=
  fun w => by rw [h]; exact memPut_wf b x.mem a w

end Sys2Proof.Machine
end

