-- ==== Sys2Proof/Laws/Keep/Ops.lean ====
section
/-! SUPPORT. The operations of Machine/Ops.lean keep what `Keep` says. -/

namespace Sys2Proof.Machine

open Sys2Proof

set_option linter.unusedSimpArgs false
set_option linter.unusedTactic false
set_option linter.unreachableTactic false

@[simp] theorem setCore_keep {zz : State} {s : State} {n : Nat} {c : Core} (h0 : Keep zz s) :
    Keep zz (setCore s n c) := h0.trans (by simp (maxDischargeDepth := 12) [setCore])

@[simp] theorem setClient_keep {zz : State} {s : State} {n : Nat} {c : Client} (h0 : Keep zz s) :
    Keep zz (setClient s n c) := h0.trans (by simp (maxDischargeDepth := 12) [setClient])

@[simp] theorem setSched_keep {zz : State} {s : State} {n : Nat} {c : Sched} (h0 : Keep zz s) :
    Keep zz (setSched s n c) := h0.trans (by simp (maxDischargeDepth := 12) [setSched])

@[simp] theorem setPart_keep {zz : State} {s : State} {n : Nat} {p : Part} (h0 : Keep zz s) :
    Keep zz (setPart s n p) := h0.trans (by simp (maxDischargeDepth := 12) [setPart])

@[simp] theorem setStream_keep {zz : State} {s : State} {n : Nat} {x : Stream} (h0 : Keep zz s) :
    Keep zz (setStream s n x) := h0.trans (by simp (maxDischargeDepth := 12) [setStream])

@[simp] theorem setPile_keep {zz : State} {s : State} {n : Nat} {p : Pile} (h0 : Keep zz s) :
    Keep zz (setPile s n p) := h0.trans (by simp (maxDischargeDepth := 12) [setPile])

@[simp] theorem setPort_keep {zz : State} {s : State} {n : Nat} {p : Port} (h0 : Keep zz s) :
    Keep zz (setPort s n p) := h0.trans (by simp (maxDischargeDepth := 12) [setPort])

@[simp] theorem setAp_keep {zz : State} {s : State} {n : Nat} {p : APort} (h0 : Keep zz s) :
    Keep zz (setAp s n p) := h0.trans (by simp (maxDischargeDepth := 12) [setAp])

@[simp] theorem setVddc_keep {zz : State} {s : State} {n : Nat} {v : Vddc} (h0 : Keep zz s) :
    Keep zz (setVddc s n v) := h0.trans (by simp (maxDischargeDepth := 12) [setVddc])

@[simp] theorem setRing_keep {zz : State} {s : State} {c n : Nat} {r : Ring} (h0 : Keep zz s) :
    Keep zz (setRing s c n r) := h0.trans (by simp (maxDischargeDepth := 12) [setRing])

@[simp] theorem setBind_keep {zz : State} {s : State} {n : Nat} {b : Option Bind} (h0 : Keep zz s) :
    Keep zz (setBind s n b) := h0.trans (by simp (maxDischargeDepth := 12) [setBind])

@[simp] theorem modCmd_keep {zz : State} {s : State} {id : Nat} {f : Cmd → Cmd} (h0 : Keep zz s) :
    Keep zz (modCmd s id f) := h0.trans (by simp (maxDischargeDepth := 12) [modCmd])

@[simp] theorem setDisp_keep {zz : State} {s : State} {core : Nat} {d : Disp} (h0 : Keep zz s) :
    Keep zz (setDisp s core d) := h0.trans (by simp (maxDischargeDepth := 12) [setDisp])

@[simp] theorem nextFree_keep {zz : State} {s : State} (h0 : Keep zz s) :
    Keep zz (nextFree s) := h0.trans (by simp (maxDischargeDepth := 12) [nextFree])

@[simp] theorem dmaWrite_keep {zz : State} {s : State} {pasid : Option Nat} {addr : Nat} {b : Bytes} (h0 : Keep zz s) :
    Keep zz (dmaWrite s pasid addr b) := h0.trans (by simp (maxDischargeDepth := 12) [dmaWrite])

@[simp] theorem dmaRead_keep {zz : State} {s : State} {pasid : Option Nat} {addr n : Nat} (h0 : Keep zz s) :
    Keep zz (dmaRead s pasid addr n) := h0.trans (by simp (maxDischargeDepth := 12) [dmaRead])

@[simp] theorem msix_keep {zz : State} {s : State} {v : Nat} (h0 : Keep zz s) :
    Keep zz (msix s v) := h0.trans (by simp (maxDischargeDepth := 12) [msix])

@[simp] theorem wire_keep {zz : State} {s : State} {w : Wire} (h0 : Keep zz s) :
    Keep zz (wire s w) := h0.trans (by simp (maxDischargeDepth := 12) [wire])

@[simp] theorem rdata_keep {zz : State} {s : State} {v : W64} (h0 : Keep zz s) :
    Keep zz (rdata s v) := h0.trans (by simp (maxDischargeDepth := 12) [rdata])

@[simp] theorem tallyIrq_keep {zz : State} {s : State} {cls : Nat} (h0 : Keep zz s) :
    Keep zz (tallyIrq s cls) := h0.trans (by
  unfold tallyIrq
  try dsimp only
  repeat' (first | split | (dsimp only))
  all_goals simp (maxDischargeDepth := 12) [*])

@[simp] theorem tallyOpen_keep {zz : State} {s : State} {slot : Nat} {r : Report} (h0 : Keep zz s) :
    Keep zz (tallyOpen s slot r) := h0.trans (by simp (maxDischargeDepth := 12) [tallyOpen])

@[simp] theorem tallyAdd_keep {zz : State} {s : State} {r : Report} (h0 : Keep zz s) :
    Keep zz (tallyAdd s r) := h0.trans (by
  unfold tallyAdd
  try dsimp only
  repeat' (first | split | (dsimp only))
  all_goals simp (maxDischargeDepth := 12) [*])

@[simp] theorem report_keep {zz : State} {s : State} {r : Report} (h0 : Keep zz s) :
    Keep zz (report s r) := h0.trans (by simp (maxDischargeDepth := 12) [report])

@[simp] theorem event_keep {zz : State} {s : State} {loc cls : Nat} {subject : W32} {d0 d1 : Nat} (h0 : Keep zz s) :
    Keep zz (event s loc cls subject d0 d1) := h0.trans (by simp (maxDischargeDepth := 12) [event])

@[simp] theorem queueFlits_keep {zz : State} {s : State} {cls dst n : Nat} (h0 : Keep zz s) :
    Keep zz (queueFlits s cls dst n) := h0.trans (by unfold queueFlits; split <;> simp (maxDischargeDepth := 12) [*])

@[simp] theorem injectFl0_keep {zz : State} {l : List (Nat × Wire)} {s : State} (h0 : Keep zz s) :
    Keep zz (injectFl0 l s) := by
  induction l generalizing s with
  | nil => simp [injectFl0, h0]
  | cons x t ih => unfold injectFl0; split <;> simp (maxDischargeDepth := 12) [h0, ih]

@[simp] theorem sendFl0_keep {zz : State} {s : State} {dst : Nat} {w : Wire} (h0 : Keep zz s) :
    Keep zz (sendFl0 s dst w) := h0.trans (by simp (maxDischargeDepth := 12) [sendFl0])

@[simp] theorem refillFl0_keep {zz : State} {n : Nat} {s : State} (h0 : Keep zz s) :
    Keep zz (refillFl0 n s) := h0.trans (by simp (maxDischargeDepth := 12) [refillFl0])

@[simp] theorem sendCtl_keep {zz : State} {s : State} {dst : Nat} {m : Ctl} (h0 : Keep zz s) :
    Keep zz (sendCtl s dst m) := h0.trans (by simp (maxDischargeDepth := 12) [sendCtl])

@[simp] theorem sendAck_keep {zz : State} {s : State} {dst seq : Nat} (h0 : Keep zz s) :
    Keep zz (sendAck s dst seq) := h0.trans (by simp (maxDischargeDepth := 12) [sendAck])

@[simp] theorem sendMessage_keep {zz : State} {s : State} {dst seq : Nat} {data : Bytes} (h0 : Keep zz s) :
    Keep zz (sendMessage s dst seq data) := h0.trans (by simp (maxDischargeDepth := 12) [sendMessage])

@[simp] theorem sendRead_keep {zz : State} {s : State} {dst core : Nat} {gen : W32} {req : Bytes} (h0 : Keep zz s) :
    Keep zz (sendRead s dst core gen req) := h0.trans (by simp (maxDischargeDepth := 12) [sendRead])

@[simp] theorem sendReply_keep {zz : State} {s : State} {dst core : Nat} {gen : W32} {data : Bytes} (h0 : Keep zz s) :
    Keep zz (sendReply s dst core gen data) := h0.trans (by simp (maxDischargeDepth := 12) [sendReply])

@[simp] theorem putReply_keep {zz : State} {s : State} {m : Nat} {b : Bytes} (h0 : Keep zz s) :
    Keep zz (putReply s m b) := h0.trans (by simp (maxDischargeDepth := 12) [putReply])

@[simp] theorem setF2h_keep {zz : State} {s : State} {m : Nat} {x : F2H} (h0 : Keep zz s) :
    Keep zz (setF2h s m x) := h0.trans (by simp (maxDischargeDepth := 12) [setF2h])

@[simp] theorem giveReply_keep {zz : State} {s : State} {m : Nat} {b : Bytes} (h0 : Keep zz s) :
    Keep zz (giveReply s m b) := h0.trans (by simp (maxDischargeDepth := 12) [giveReply])

@[simp] theorem endSlow_keep {zz : State} {s : State} {m : Nat} {status : Nat} {results : Bytes} (h0 : Keep zz s) :
    Keep zz (endSlow s m status results) := h0.trans (by unfold endSlow; split <;> simp (maxDischargeDepth := 12) [*])

end Sys2Proof.Machine
end

