-- ==== Sys2Proof/Laws/Keep/Mesh.lean ====
section
/-! SUPPORT. The operations of Machine/Mesh.lean keep what `Keep` says. -/

namespace Sys2Proof.Machine

open Sys2Proof

set_option linter.unusedSimpArgs false
set_option linter.unusedTactic false
set_option linter.unreachableTactic false

theorem takeNet_keep {s t : State} {cls src dst : Nat} {p : Packet} (h : takeNet s cls src dst = some (p, t)) : Keep s t := by
  unfold takeNet at h
  split at h
  · simp only [Option.map_eq_some_iff, Prod.mk.injEq] at h
    obtain ⟨x, _, _, rfl⟩ := h
    simp
  · simp at h

@[simp] theorem injectMc0_keep {zz : State} {l : List Packet} {s : State} (h0 : Keep zz s) : Keep zz (injectMc0 l s) := by
  induction l generalizing s with
  | nil => exact h0
  | cons x t ih => unfold injectMc0; dsimp only; split <;> exact ih (by simp (maxDischargeDepth := 12) [h0])

@[simp] theorem sendNet_keep {zz : State} {s : State} {p : Packet} (h0 : Keep zz s) :
    Keep zz (sendNet s p) := h0.trans (by simp (maxDischargeDepth := 12) [sendNet])

@[simp] theorem refillMc0_keep {zz : State} {n : Nat} {s : State} (h0 : Keep zz s) :
    Keep zz (refillMc0 n s) := h0.trans (by simp (maxDischargeDepth := 12) [refillMc0])

end Sys2Proof.Machine
end

