-- ==== Sys2Proof/Laws/Keep/Alloc.lean ====
section
/-! SUPPORT. The operations of Machine/Alloc.lean keep what `Keep` says. -/

namespace Sys2Proof.Machine

open Sys2Proof

set_option linter.unusedSimpArgs false
set_option linter.unusedTactic false
set_option linter.unreachableTactic false

/-- A list of writes keeps the canonical form. -/
theorem foldl_memPut_wf (f : Nat → Bytes) : ∀ (l : List Nat) (m : Tab Byte), Memory.wf m = true →
    Memory.wf (l.foldl (fun m x => memPut m x (f x)) m) = true
  | [], _, h => h
  | x :: l, m, h => foldl_memPut_wf f l _ (memPut_wf (f x) m x h)

/-- A write to pile memory keeps its canonical form. -/
@[simp] theorem pmWrite_keep {zz : State} {s : State} {pa : Nat} {b : Bytes} (h0 : Keep zz s) : Keep zz (pmWrite s pa b) := by
  refine h0.trans (Keep.mk (t := s) (Keep.refl _) (Nat.le_refl _) (BeadKeep.refl _) (fun h => ?_) (SecKeep.refl _) (RstKeep.refl _)
    (PwrKeep.refl _))
  exact foldl_memPut_wf (fun l => rawLine s l) _ _
    (memPut_wf b _ pa (foldl_memPut_wf (fun l => pmRead s l 64) (mergedLines s pa b.length) s.pile.mem h))

@[simp] theorem pmFree_keep {zz : State} {s : State} {pa n : Nat} (h0 : Keep zz s) : Keep zz (pmFree s pa n) := by
  refine h0.trans (Keep.mk (t := s) (Keep.refl _) (Nat.le_refl _) (BeadKeep.refl _) (fun h => ?_) (SecKeep.refl _) (RstKeep.refl _)
    (PwrKeep.refl _))
  exact memPut_wf (freeBytes s.free n) s.pile.mem pa h

@[simp] theorem bumpCe_keep {zz : State} {s : State} {pile n : Nat} (h0 : Keep zz s) :
    Keep zz (bumpCe s pile n) := h0.trans (by simp (maxDischargeDepth := 12) [bumpCe])

@[simp] theorem noteRead_keep {zz : State} {s : State} {pa n : Nat} (h0 : Keep zz s) :
    Keep zz (noteRead s pa n) := h0.trans (by simp (maxDischargeDepth := 12) [noteRead])

@[simp] theorem ueReport_keep {zz : State} {s : State} {line kind : Nat} (h0 : Keep zz s) :
    Keep zz (ueReport s line kind) := h0.trans (by simp (maxDischargeDepth := 12) [ueReport])

@[simp] theorem overwritePage_keep {zz : State} {s : State} {pg : Nat} (h0 : Keep zz s) :
    Keep zz (overwritePage s pg) := h0.trans (by simp (maxDischargeDepth := 12) [overwritePage])

@[simp] theorem addExtent_keep {zz : State} {s : State} {base size : Nat} {o : Owner} (h0 : Keep zz s) :
    Keep zz (addExtent s base size o) := h0.trans (by simp (maxDischargeDepth := 12) [addExtent])

@[simp] theorem freeExtents_keep {zz : State} {s : State} {f : Extent → Bool} (h0 : Keep zz s) :
    Keep zz (freeExtents s f) := h0.trans (by simp (maxDischargeDepth := 12) [freeExtents])

theorem physAlloc_keep {s t : State} {pile size align b : Nat} {o : Owner} (h : physAlloc s pile size align o = some (b, t)) :
    Keep s t := by
  unfold physAlloc at h
  repeat' split at h
  all_goals first
    | (simp at h; done)
    | (simp only [Option.map_eq_some_iff, Prod.mk.injEq] at h
       obtain ⟨x, _, _, rfl⟩ := h
       simp)

theorem physAllocAny_keep {s t : State} {size align b : Nat} {o : Owner} :
    ∀ {l : List Nat}, physAllocAny s size align o l = some (b, t) → Keep s t
  | [], h => by simp [physAllocAny] at h
  | p :: l, h => by
    unfold physAllocAny at h
    split at h
    · next r hr => cases h; exact physAlloc_keep hr
    · exact physAllocAny_keep h

@[simp] theorem writePte_keep {zz : State} {s : State} {pa : Nat} {e : W64} (h0 : Keep zz s) :
    Keep zz (writePte s pa e) := h0.trans (by simp (maxDischargeDepth := 12) [writePte])

theorem newTable_keep {s t : State} {p b : Nat} (h : newTable s p = some (b, t)) : Keep s t := by
  simp only [newTable, Option.map_eq_some_iff, Prod.mk.injEq] at h
  obtain ⟨x, hx, _, rfl⟩ := h
  exact pmWrite_keep (physAllocAny_keep (b := x.1) hx)

theorem growTable_keep {s : State} {p dva : Nat} : ∀ {n b : Nat} {t : State}, growTable s p dva n = some (b, t) → Keep s t
  | 0, b, t, h => by
    unfold growTable at h
    split at h
    · cases h; exact Keep.refl s
    · simp only [Option.map_eq_some_iff, Prod.mk.injEq] at h
      obtain ⟨x, hx, _, rfl⟩ := h
      exact setPart_keep (newTable_keep (b := x.1) hx)
  | n + 1, b, t, h => by
    unfold growTable at h
    split at h
    · simp at h
    · next t1 s1 h1 =>
      dsimp only at h
      split at h
      · cases h; exact growTable_keep h1
      · simp only [Option.map_eq_some_iff, Prod.mk.injEq] at h
        obtain ⟨x, hx, _, rfl⟩ := h
        exact writePte_keep ((growTable_keep h1).trans (newTable_keep (b := x.1) hx))

@[simp] theorem dropTable_keep {zz : State} {s : State} {p : Nat} {e : W64} (h0 : Keep zz s) :
    Keep zz (dropTable s p e) := h0.trans (by simp (maxDischargeDepth := 12) [dropTable])

theorem putPte_keep {s t : State} {p key : Nat} {e : W64} (h : putPte s p key e = some t) : Keep s t := by
  unfold putPte at h
  dsimp only at h
  split at h
  · split at h
    · cases h; exact Keep.refl s
    · cases h; simp
  · split at h
    · simp at h
    · next t1 s1 h1 => cases h; exact writePte_keep (dropTable_keep (growTable_keep h1))

theorem putPtes_keep {p : Nat} : ∀ {l : List (Nat × W64)} {s t : State}, putPtes s p l = some t → Keep s t
  | [], s, t, h => by cases h; exact Keep.refl s
  | (k, e) :: l, s, t, h => by
    unfold putPtes at h
    split at h
    · next s1 h1 => exact (putPte_keep h1).trans (putPtes_keep h)
    · simp at h

@[simp] theorem setPte_keep {zz : State} {s : State} {p key : Nat} {e : W64} (h0 : Keep zz s) : Keep zz (setPte s p key e) := by
  unfold setPte
  cases h : putPte s p key e with
  | none => exact h0
  | some t => exact h0.trans (putPte_keep h)

@[simp] theorem tlbDropAll_keep {zz : State} {s : State} {p dva n : Nat} (h0 : Keep zz s) :
    Keep zz (tlbDropAll s p dva n) := h0.trans (by simp (maxDischargeDepth := 12) [tlbDropAll])

@[simp] theorem presentAt_keep {zz : State} {s : State} {p dva size pa : Nat} {w : Bool} (h0 : Keep zz s) :
    Keep zz (presentAt s p dva size pa w) := by
  unfold presentAt
  cases h : putPtes s p (leaves dva size w (some pa)) with
  | none => exact h0
  | some t => exact h0.trans (putPtes_keep h)

@[simp] theorem freePage_keep {zz : State} {s : State} {p base : Nat} (h0 : Keep zz s) :
    Keep zz (freePage s p base) := h0.trans (by simp (maxDischargeDepth := 12) [freePage])

@[simp] theorem copyPage_keep {zz : State} {s : State} {v : Inval} {new : Nat} (h0 : Keep zz s) :
    Keep zz (copyPage s v new) := h0.trans (by
  unfold copyPage
  try dsimp only
  repeat' (first | split | (dsimp only))
  all_goals simp (maxDischargeDepth := 12) [*])

@[simp] theorem finishMove_keep {zz : State} {s : State} {p dva : Nat} (h0 : Keep zz s) :
    Keep zz (finishMove s p dva) := h0.trans (by unfold finishMove; split <;> simp (maxDischargeDepth := 12) [*])

@[simp] theorem noteDev_keep {zz : State} {s : State} {p dva n : Nat} (h0 : Keep zz s) :
    Keep zz (noteDev s p dva n) := h0.trans (by
  unfold noteDev
  try dsimp only
  repeat' (first | split | (with_reducible refine Keep.foldl ?_ (fun _ _ => ?_)) | (dsimp only))
  all_goals simp (maxDischargeDepth := 12) [*])

theorem placeObjs_keep {pile part stream : Nat} : ∀ {l r : List Obj} {s t : State},
    placeObjs s pile part stream l = some (r, t) → Keep s t
  | [], r, s, t, h => by cases h; exact Keep.refl s
  | o :: l, r, s, t, h => by
    unfold placeObjs at h
    split at h
    · simp at h
    · next b s1 h1 =>
      split at h
      · simp at h
      · next r1 s2 h2 => cases h; exact (physAlloc_keep h1).trans (placeObjs_keep h2)

@[simp] theorem markDamaged_keep {zz : State} {s : State} {pa : Nat} (h0 : Keep zz s) :
    Keep zz (markDamaged s pa) := h0.trans (by unfold markDamaged; split <;> simp (maxDischargeDepth := 12) [*])

end Sys2Proof.Machine
end

