-- ==== Sys2Proof/Laws/Keep/Life.lean ====
section
/-! SUPPORT. The operations of Machine/Life.lean keep what `Keep` says. -/

namespace Sys2Proof.Machine

open Sys2Proof

set_option linter.unusedSimpArgs false
set_option linter.unusedTactic false
set_option linter.unreachableTactic false

@[simp] theorem modAcct_keep {zz : State} {s : State} {c : Nat} {f : Acct → Acct} (h0 : Keep zz s) :
    Keep zz (modAcct s c f) := h0.trans (by simp (maxDischargeDepth := 12) [modAcct])

@[simp] theorem withdraw_keep {zz : State} {s : State} {c : Cmd} (h0 : Keep zz s) :
    Keep zz (withdraw s c) := h0.trans (by unfold withdraw; split <;> simp (maxDischargeDepth := 12) [*])

@[simp] theorem writeEntry_keep {zz : State} {s : State} {c : Cmd} {status addr : Nat} {overrun : Bool} (h0 : Keep zz s) :
    Keep zz (writeEntry s c status addr overrun) := h0.trans (by simp (maxDischargeDepth := 12) [writeEntry])

@[simp] theorem releaseCmd_keep {zz : State} {s : State} {c : Cmd} {keepNews : Bool} (h0 : Keep zz s) :
    Keep zz (releaseCmd s c keepNews) := h0.trans (by simp (maxDischargeDepth := 12) [releaseCmd])

@[simp] theorem dropCmd_keep {zz : State} {s : State} {c : Cmd} (h0 : Keep zz s) :
    Keep zz (dropCmd s c) := h0.trans (by simp (maxDischargeDepth := 12) [dropCmd])

@[simp] theorem retire_keep {zz : State} {s : State} {c : Cmd} {status addr : Nat} {overrun keepNews : Bool} (h0 : Keep zz s) :
    Keep zz (retire s c status addr overrun keepNews) := h0.trans (by simp (maxDischargeDepth := 12) [retire])

@[simp] theorem complete_keep {zz : State} {s : State} {c : Cmd} {status addr : Nat} (h0 : Keep zz s) :
    Keep zz (complete s c status addr) := h0.trans (by simp (maxDischargeDepth := 12) [complete])

@[simp] theorem cancelReads_keep {zz : State} {s : State} {gang : List Nat} {gen : W32} (h0 : Keep zz s) :
    Keep zz (cancelReads s gang gen) := h0.trans (by
  unfold cancelReads
  try dsimp only
  repeat' (first | split | (with_reducible refine Keep.foldl ?_ (fun _ _ => ?_)) | (dsimp only))
  all_goals simp (maxDischargeDepth := 12) [*])

@[simp] theorem startKill_keep {zz : State} {s : State} {id : Nat} {k : KillKind} {slice : Bool} (h0 : Keep zz s) :
    Keep zz (startKill s id k slice) := h0.trans (by
  unfold startKill
  try dsimp only
  repeat' (first | split | (with_reducible refine Keep.foldl ?_ (fun _ _ => ?_)) | (dsimp only))
  all_goals simp (maxDischargeDepth := 12) [*])

@[simp] theorem requeue_keep {zz : State} {s : State} {c : Cmd} {counted : Bool} (h0 : Keep zz s) :
    Keep zz (requeue s c counted) := h0.trans (by simp (maxDischargeDepth := 12) [requeue])

@[simp] theorem killOutcome_keep {zz : State} {s : State} {c : Cmd} {k : KillKind} (h0 : Keep zz s) :
    Keep zz (killOutcome s c k) := h0.trans (by unfold killOutcome; split <;> simp (maxDischargeDepth := 12) [*])

@[simp] theorem cancelCmd_keep {zz : State} {s : State} {id : Nat} (h0 : Keep zz s) :
    Keep zz (cancelCmd s id) := h0.trans (by
  unfold cancelCmd
  try dsimp only
  repeat' (first | split | (dsimp only))
  all_goals simp (maxDischargeDepth := 12) [*])

@[simp] theorem cancelRange_keep {zz : State} {s : State} {c ring : Nat} {from_ : W32} (h0 : Keep zz s) :
    Keep zz (cancelRange s c ring from_) := h0.trans (by simp (maxDischargeDepth := 12) [cancelRange])

@[simp] theorem stopClient_keep {zz : State} {s : State} {c : Nat} (h0 : Keep zz s) :
    Keep zz (stopClient s c) := h0.trans (by simp (maxDischargeDepth := 12) [stopClient])

@[simp] theorem beginStop_keep {zz : State} {s : State} {c : Nat} (h0 : Keep zz s) :
    Keep zz (beginStop s c) := h0.trans (by simp (maxDischargeDepth := 12) [beginStop])

@[simp] theorem endStop_keep {zz : State} {s : State} {c : Nat} (h0 : Keep zz s) :
    Keep zz (endStop s c) := h0.trans (by simp (maxDischargeDepth := 12) [endStop])

@[simp] theorem resumeClient_keep {zz : State} {s : State} {c : Nat} (h0 : Keep zz s) :
    Keep zz (resumeClient s c) := h0.trans (by simp (maxDischargeDepth := 12) [resumeClient])

end Sys2Proof.Machine
end

