-- ==== Sys2Proof/Laws/Keep/Operands.lean ====
section
/-! SUPPORT. The operations of Machine/Operands.lean keep what `Keep` says. -/

namespace Sys2Proof.Machine

open Sys2Proof

set_option linter.unusedSimpArgs false
set_option linter.unusedTactic false
set_option linter.unreachableTactic false

@[simp] theorem failOob_keep {zz : State} {s : State} {d : Disp} (h0 : Keep zz s) :
    Keep zz (failOob s d) := h0.trans (by simp (maxDischargeDepth := 12) [failOob])

@[simp] theorem goTo_keep {zz : State} {s : State} {core : Nat} {d : Disp} {pc : Nat} (h0 : Keep zz s) :
    Keep zz (goTo s core d pc) := h0.trans (by simp (maxDischargeDepth := 12) [goTo])

@[simp] theorem advance_keep {zz : State} {s : State} {core : Nat} {d : Disp} (h0 : Keep zz s) :
    Keep zz (advance s core d) := h0.trans (by simp (maxDischargeDepth := 12) [advance])

@[simp] theorem stall_keep {zz : State} {s : State} {core : Nat} {d : Disp} {cause : Nat} (h0 : Keep zz s) :
    Keep zz (stall s core d cause) := h0.trans (by simp (maxDischargeDepth := 12) [stall])

@[simp] theorem issueIf_keep {zz : State} {s : State} {core : Nat} {is : Nat → Bool} {f : Disp → Nat → State} (h0 : Keep zz s)
    (hf : ∀ d w, Keep s (f d w)) : Keep zz (issueIf s core is f) := by
  unfold issueIf
  repeat' split
  all_goals first | exact h0 | exact h0.trans (hf _ _)

@[simp] theorem issue_keep {zz : State} {s : State} {core op : Nat} {f : Disp → Nat → State} (h0 : Keep zz s)
    (hf : ∀ d w, Keep s (f d w)) : Keep zz (issue s core op f) := issueIf_keep h0 hf

@[simp] theorem launch_keep {zz : State} {s : State} {core op eng : Nat} {f : Tab Byte → Disp → Nat → Option Disp} (h0 : Keep zz s) :
    Keep zz (launch s core op eng f) := h0.trans (by
  unfold launch
  try dsimp only
  repeat' (first | split | (with_reducible refine issue_keep (Keep.refl _) (fun _ _ => ?_)) | (dsimp only))
  all_goals simp (maxDischargeDepth := 12) [*])

end Sys2Proof.Machine
end

