-- ==== Sys2Proof/Laws/Keep/Validate.lean ====
section
/-! SUPPORT. The operations of Machine/Validate.lean keep what `Keep` says. -/

namespace Sys2Proof.Machine

open Sys2Proof

set_option linter.unusedSimpArgs false
set_option linter.unusedTactic false
set_option linter.unreachableTactic false

theorem backPage_keep {s t : State} {p dva : Nat} (h : backPage s p dva = some t) : Keep s t := by
  unfold backPage at h
  split at h
  · simp at h
  · next h1 => exact (pmWrite_keep (physAllocAny_keep h1)).trans (putPte_keep h)

theorem splitLazy_keep {s t : State} {p dva : Nat} (h : splitLazy s p dva = some t) : Keep s t := by
  unfold splitLazy at h
  dsimp only at h
  split at h
  · exact putPtes_keep h
  · cases h; exact Keep.refl s

theorem backList_keep {p : Nat} : ∀ {l : List Nat} {s t : State}, backList s p l = some t → Keep s t
  | [], s, t, h => by cases h; exact Keep.refl s
  | a :: l, s, t, h => by
    unfold backList at h
    dsimp only at h
    split at h
    · split at h
      · next h1 => exact (backPage_keep h1).trans (backList_keep h)
      · simp at h
    · exact backList_keep h

theorem backRange_keep {s t : State} {p dva : Nat} (h : backRange s p dva = some t) : Keep s t := by
  rw [backRange, Option.bind_eq_some_iff] at h
  obtain ⟨u, h1, h2⟩ := h
  exact (splitLazy_keep h1).trans (backList_keep h2)

@[simp] theorem crownRead_keep {zz : State} {p ps n : Nat} {a : W64} {h : HostAns} : ∀ {f : Nat} {s : State}, Keep zz s →
    Keep zz (crownRead s p ps a n h f).1
  | 0, s, h0 => h0
  | f + 1, s, h0 => by
    unfold crownRead
    split
    · exact h0
    · split
      · split
        · simp [h0]
        · simp [h0]
        · exact h0
        · exact crownRead_keep (by simp (maxDischargeDepth := 12) [h0])
        · split
          · next h1 => exact crownRead_keep (h0.trans (backRange_keep h1))
          · exact h0
      · dsimp only
        split <;> simp [h0]

theorem reserveOne_keep {s t : State} {c c1 : Cmd} {st : Nat} {h : W32} {objs : List Obj} {mk : Nat → List Obj → NewState}
    (hr : reserveOne s c st h objs mk = some (t, c1)) : Keep s t := by
  unfold reserveOne at hr
  split at hr
  · cases hr; exact Keep.refl s
  · split at hr
    · simp at hr
    · split at hr
      · simp at hr
      · next h1 => cases hr; exact placeObjs_keep h1

theorem reserveAll_keep : ∀ {l : List (Nat × W32 × List Obj × Option Bytes)} {s t : State} {c c1 : Cmd},
    reserveAll s c l = some (t, c1) → Keep s t
  | [], s, t, c, c1, h => by cases h; exact Keep.refl s
  | (st, hh, objs, r) :: l, s, t, c, c1, h => by
    unfold reserveAll at h
    split at h
    · next s1 c2 h1 =>
      have a : Keep s s1 := (reserveOne_keep h1).trans' (by simp)
      exact a.trans ((reserveAll_keep h).trans' (by simp))
    · simp at h

theorem crownRead_to {s t : State} {p ps : Nat} {a : W64} {n fuel : Nat} {h : HostAns} {g : Got}
    (e : crownRead s p ps a n h fuel = (t, g)) : Keep s t := by
  have k := crownRead_keep (p := p) (ps := ps) (n := n) (a := a) (h := h) (f := fuel) (Keep.refl s)
  rw [e] at k; exact k

theorem validateLate_keep {s t : State} {c c1 : Cmd} {src : HostAns} (e : validateLate s c src = .pass t c1) : Keep s t := by
  unfold validateLate at e
  dsimp only at e
  repeat' split at e
  all_goals cases e
  all_goals first
    | exact crownRead_to ‹_›
    | exact (crownRead_to ‹_›).trans (reserveAll_keep ‹_›)
    | exact reserveAll_keep ‹_›
    | exact Keep.refl _

/-- A validation that passes keeps these. -/
theorem validate_keep {s t : State} {c c1 : Cmd} {r : Ring} {arg : Got} {hdr src : HostAns}
    (e : validate s c r arg hdr src = .pass t c1) : Keep s t := by
  unfold validate at e
  dsimp only at e
  repeat' split at e
  all_goals first | cases e; done | skip
  all_goals first
    | exact (crownRead_to ‹_›).trans (validateLate_keep e)
    | exact validateLate_keep e

end Sys2Proof.Machine
end

