-- ==== Sys2Proof/Laws/Keep/Wake.lean ====
section
/-! SUPPORT. The operations of Machine/Wake.lean keep what `Keep` says. -/

namespace Sys2Proof.Machine

open Sys2Proof

set_option linter.unusedSimpArgs false
set_option linter.unusedTactic false
set_option linter.unreachableTactic false

@[simp] theorem deliverHeld_keep {zz : State} {s : State} (h0 : Keep zz s) :
    Keep zz (deliverHeld s) := h0.trans (by simp (maxDischargeDepth := 12) [deliverHeld])

@[simp] theorem domainsOn_keep {zz : State} {s : State} (h0 : Keep zz s) :
    Keep zz (domainsOn s) := h0.trans (by simp (maxDischargeDepth := 12) [domainsOn])

@[simp] theorem s2Leave_keep {zz : State} {s : State} (h0 : Keep zz s) :
    Keep zz (s2Leave s) := h0.trans (by simp (maxDischargeDepth := 12) [s2Leave])

@[simp] theorem hostAccess_keep {zz : State} {s : State} {f : State → State} (h0 : Keep zz s) (hf : ∀ t, Keep t (f t)) :
    Keep zz (hostAccess s f) := by
  unfold hostAccess
  repeat' split
  all_goals first | exact h0 | exact h0.trans (hf _) | exact (s2Leave_keep h0).trans (hf _)

@[simp] theorem wakeCall_keep {zz : State} {s : State} (h0 : Keep zz s) :
    Keep zz (wakeCall s) := h0.trans (by simp (maxDischargeDepth := 12) [wakeCall])

@[simp] theorem pageAccess_keep {zz : State} {s : State} {f : State → State} (h0 : Keep zz s) (hf : ∀ t, Keep t (f t)) :
    Keep zz (pageAccess s f) := hostAccess_keep h0 fun t => (wakeCall_keep (Keep.refl t)).trans (hf _)

end Sys2Proof.Machine
end

