-- ==== Sys2Proof/Laws/Keep/Rings.lean ====
section
/-! SUPPORT. The operations of Machine/Rings.lean keep what `Keep` says. -/

namespace Sys2Proof.Machine

open Sys2Proof

set_option linter.unusedSimpArgs false
set_option linter.unusedTactic false
set_option linter.unreachableTactic false

@[simp] theorem setBadTail_keep {zz : State} {s : State} {c ring : Nat} (h0 : Keep zz s) :
    Keep zz (setBadTail s c ring) := h0.trans (by simp (maxDischargeDepth := 12) [setBadTail])

@[simp] theorem setBadHead_keep {zz : State} {s : State} {c ring : Nat} (h0 : Keep zz s) :
    Keep zz (setBadHead s c ring) := h0.trans (by simp (maxDischargeDepth := 12) [setBadHead])

@[simp] theorem tailWrite_keep {zz : State} {s : State} {c ring : Nat} {v : W32} (h0 : Keep zz s) :
    Keep zz (tailWrite s c ring v) := h0.trans (by simp (maxDischargeDepth := 12) [tailWrite])

@[simp] theorem headWrite_keep {zz : State} {s : State} {c ring : Nat} {v : W32} (h0 : Keep zz s) :
    Keep zz (headWrite s c ring v) := h0.trans (by simp (maxDischargeDepth := 12) [headWrite])

@[simp] theorem cancelWriteAt_keep {zz : State} {s : State} {c ring : Nat} {v : W32} (h0 : Keep zz s) :
    Keep zz (cancelWriteAt s c ring v) := h0.trans (by simp (maxDischargeDepth := 12) [cancelWriteAt])

@[simp] theorem dbCtrl_keep {zz : State} {s : State} {c : Nat} {v : W32} (h0 : Keep zz s) :
    Keep zz (dbCtrl s c v) := h0.trans (by simp (maxDischargeDepth := 12) [dbCtrl])

@[simp] theorem dbStatusW1c_keep {zz : State} {s : State} {c : Nat} {v : W32} (h0 : Keep zz s) :
    Keep zz (dbStatusW1c s c v) := h0.trans (by simp (maxDischargeDepth := 12) [dbStatusW1c])

@[simp] theorem pageWrite_keep {zz : State} {s : State} {c off width : Nat} {v : W64} (h0 : Keep zz s) :
    Keep zz (pageWrite s c off width v) := h0.trans (by simp (maxDischargeDepth := 12) [pageWrite])

@[simp] theorem ringFail_keep {zz : State} {s : State} {c ring addr : Nat} (h0 : Keep zz s) :
    Keep zz (ringFail s c ring addr) := h0.trans (by simp (maxDischargeDepth := 12) [ringFail])

@[simp] theorem subscribeOwn_keep {zz : State} {s : State} {id : Nat} {d : Dep} (h0 : Keep zz s) :
    Keep zz (subscribeOwn s id d) := h0.trans (by simp (maxDischargeDepth := 12) [subscribeOwn])

@[simp] theorem enqueue_keep {zz : State} {s : State} {c : Cmd} (h0 : Keep zz s) :
    Keep zz (enqueue s c) := h0.trans (by
  unfold enqueue
  try dsimp only
  repeat' (first | split | (dsimp only))
  all_goals simp (maxDischargeDepth := 12) [*])

@[simp] theorem noteFetch_keep {zz : State} {s : State} {c ring : Nat} {q : W32} (h0 : Keep zz s) :
    Keep zz (noteFetch s c ring q) := h0.trans (by simp (maxDischargeDepth := 12) [noteFetch])

@[simp] theorem argRead_keep {zz : State} {s : State} {c : Cmd} {h : HostAns} (h0 : Keep zz s) : Keep zz (argRead s c h).1 := by
  unfold argRead
  split <;> simp [h0]

@[simp] theorem settle_keep {zz : State} {s : State} {c : Cmd} {r : Ring} {got : Got} {hdr src : HostAns} (h0 : Keep zz s) :
    Keep zz (settle s c r got hdr src) := h0.trans (by
  unfold settle
  try dsimp only
  repeat' (first | split | (dsimp only))
  all_goals try have := validate_keep (by assumption)
  all_goals simp (maxDischargeDepth := 12) [*])

@[simp] theorem fetched_keep {zz : State} {s : State} {c ring : Nat} {q : W32} {b : Bytes} {a : FetchAns} (h0 : Keep zz s) :
    Keep zz (fetched s c ring q b a) := h0.trans (by simp (maxDischargeDepth := 12) [fetched])

end Sys2Proof.Machine
end

