-- ==== Sys2Proof/Laws/Keep/Place.lean ====
section
/-! SUPPORT. The operations of Machine/Place.lean keep what `Keep` says. -/

namespace Sys2Proof.Machine

open Sys2Proof

set_option linter.unusedSimpArgs false
set_option linter.unusedTactic false
set_option linter.unreachableTactic false

theorem stageDevPages_keep {c : Cmd} : ∀ {l : List Nat} {s t : State} {r : List StagePage},
    stageDevPages s c l = some (r, t) → Keep s t
  | [], s, t, r, h => by cases h; exact Keep.refl s
  | pg :: l, s, t, r, h => by
    unfold stageDevPages at h
    dsimp only at h
    split at h
    · simp at h
    · next b s1 h1 =>
      have h2 : Keep s s1 := by
        split at h1
        · exact physAlloc_keep h1
        · exact physAllocAny_keep h1
      split at h
      · simp at h
      · next h3 => cases h; exact h2.trans (stageDevPages_keep h3)

theorem stageRoom_keep {s t : State} {c : Cmd} {r : List StagePage} (h : stageRoom s c = some (r, t)) : Keep s t := by
  unfold stageRoom at h
  dsimp only at h
  split at h
  · cases h; exact Keep.refl s
  · split at h
    · exact stageDevPages_keep h
    · split at h
      · simp at h
      · simp only [Option.map_eq_some_iff, Prod.mk.injEq] at h
        obtain ⟨x, hx, _, rfl⟩ := h
        exact physAlloc_keep (b := x.1) hx

theorem reserve_keep {s t : State} {c : Cmd} {r : List StagePage} {b : List Nat} (h : reserve s c = some (r, b, t)) : Keep s t := by
  unfold reserve at h
  split at h
  · simp at h
  · next h1 =>
    split at h
    · simp at h
    · split at h
      · split at h
        · split at h
          · simp only [Option.map_eq_some_iff, Prod.mk.injEq] at h
            obtain ⟨x, hx, _, _, rfl⟩ := h
            exact stageRoom_keep h1
          · simp at h
        · simp at h
      · cases h; exact stageRoom_keep h1

@[simp] theorem started_keep {zz : State} {s : State} {c : Cmd} {eff : Nat} {g : W32} {gang : List Nat} {pages : List StagePage} (h0 : Keep zz s) :
    Keep zz (started s c eff g gang pages) := h0.trans (by simp (maxDischargeDepth := 12) [started])

@[simp] theorem placeCmd_keep {zz : State} {s : State} {c : Cmd} {pages : List StagePage} {bases : List Nat} (h0 : Keep zz s) :
    Keep zz (placeCmd s c pages bases) := h0.trans (by
  unfold placeCmd
  try dsimp only
  repeat' (first | split | (with_reducible refine Keep.foldl ?_ (fun _ _ => ?_)) | (dsimp only))
  all_goals simp (maxDischargeDepth := 12) [*])

@[simp] theorem allowFrom_keep {zz : State} {s : State} {part : Nat} (h0 : Keep zz s) :
    Keep zz (allowFrom s part) := h0.trans (by simp (maxDischargeDepth := 12) [allowFrom])

@[simp] theorem sliceStart_keep {zz : State} {s : State} {part : Nat} (h0 : Keep zz s) :
    Keep zz (sliceStart s part) := h0.trans (by
  unfold sliceStart
  try dsimp only
  repeat' (first | split | (dsimp only))
  all_goals simp (maxDischargeDepth := 12) [*])

@[simp] theorem sliceKill_keep {zz : State} {s : State} {part c : Nat} (h0 : Keep zz s) :
    Keep zz (sliceKill s part c) := h0.trans (by simp (maxDischargeDepth := 12) [sliceKill])

end Sys2Proof.Machine
end

