-- ==== Sys2Proof/Laws/Keep/Scalar.lean ====
section
/-! SUPPORT. The operations of Machine/Scalar.lean keep what `Keep` says. -/

namespace Sys2Proof.Machine

open Sys2Proof

set_option linter.unusedSimpArgs false
set_option linter.unusedTactic false
set_option linter.unreachableTactic false

@[simp] theorem branch_keep {zz : State} {s : State} {core op : Nat} {c : W64 → W64 → Bool} (h0 : Keep zz s) :
    Keep zz (branch s core op c) := h0.trans (by simp (maxDischargeDepth := 12) [branch])

@[simp] theorem alu_keep {zz : State} {s : State} {core op : Nat} {f : W64 → W64 → W64} (h0 : Keep zz s) :
    Keep zz (alu s core op f) := h0.trans (by simp (maxDischargeDepth := 12) [alu])

@[simp] theorem lsLoad_keep {zz : State} {s : State} {core op n : Nat} (h0 : Keep zz s) :
    Keep zz (lsLoad s core op n) := h0.trans (by simp (maxDischargeDepth := 12) [lsLoad])

@[simp] theorem lsStore_keep {zz : State} {s : State} {core op n : Nat} (h0 : Keep zz s) :
    Keep zz (lsStore s core op n) := h0.trans (by simp (maxDischargeDepth := 12) [lsStore])

end Sys2Proof.Machine
end

