-- ==== Sys2Proof/Laws/Keep/Stream.lean ====
section
/-! SUPPORT. The operations of Machine/Stream.lean keep what `Keep` says. -/

namespace Sys2Proof.Machine

open Sys2Proof

set_option linter.unusedSimpArgs false
set_option linter.unusedTactic false
set_option linter.unreachableTactic false

@[simp] theorem sendGathers_keep {zz : State} {s : State} {core : Nat} {d : Disp} (h0 : Keep zz s) :
    Keep zz (sendGathers s core d) := h0.trans (by
  unfold sendGathers
  try dsimp only
  repeat' (first | split | (with_reducible refine Keep.foldl ?_ (fun _ _ => ?_)) | (dsimp only))
  all_goals simp (maxDischargeDepth := 12) [*])

@[simp] theorem dropGathers_keep {zz : State} {s : State} {core : Nat} {d : Disp} (h0 : Keep zz s) :
    Keep zz (dropGathers s core d) := h0.trans (by simp (maxDischargeDepth := 12) [dropGathers])

@[simp] theorem putStream_keep {zz : State} {s : State} {core : Nat} {d : Disp} (h0 : Keep zz s) :
    Keep zz (putStream s core d) := h0.trans (by simp (maxDischargeDepth := 12) [putStream])

@[simp] theorem onUnit_keep {zz : State} {s : State} {core : Nat} {f : Disp → Cmd → State} (h0 : Keep zz s)
    (hf : ∀ d c, Keep s (f d c)) : Keep zz (onUnit s core f) := by
  refine h0.trans ?_
  unfold onUnit
  repeat' split
  all_goals first | exact Keep.refl _ | exact hf _ _

@[simp] theorem noteRoute_keep {zz : State} {s : State} {st : XStat} (h0 : Keep zz s) :
    Keep zz (noteRoute s st) := h0.trans (by unfold noteRoute; split <;> simp (maxDischargeDepth := 12) [*])

@[simp] theorem hostRead_keep {zz : State} {s : State} {c : Cmd} {st : XStat} {m : W64} {n : Nat} (h0 : Keep zz s) :
    Keep zz (hostRead s c st m n) := h0.trans (by simp (maxDischargeDepth := 12) [hostRead])

@[simp] theorem issueXfer_keep {zz : State} {s : State} {core q : Nat} {d : Disp} {c : Cmd} {a : Arming} {rest : List Arming} (h0 : Keep zz s) :
    Keep zz (issueXfer s core q d c a rest) := h0.trans (by
  unfold issueXfer
  try dsimp only
  repeat' (first | split | (dsimp only))
  all_goals simp (maxDischargeDepth := 12) [*])

@[simp] theorem endXfer_keep {zz : State} {s : State} {core : Nat} {d : Disp} {x : Xfer} (h0 : Keep zz s) :
    Keep zz (endXfer s core d x) := h0.trans (by simp (maxDischargeDepth := 12) [endXfer])

@[simp] theorem killUe_keep {zz : State} {s : State} {c : Cmd} {pa : Nat} (h0 : Keep zz s) :
    Keep zz (killUe s c pa) := h0.trans (by unfold killUe; split <;> simp (maxDischargeDepth := 12) [*])

@[simp] theorem killPage_keep {zz : State} {s : State} {c : Cmd} {write : Bool} {a : Nat} (h0 : Keep zz s) :
    Keep zz (killPage s c write a) := h0.trans (by unfold killPage; split <;> simp (maxDischargeDepth := 12) [*])

end Sys2Proof.Machine
end

