-- ==== Sys2Proof/Laws/Keep/Message.lean ====
section
/-! SUPPORT. The operations of Machine/Message.lean keep what `Keep` says. -/

namespace Sys2Proof.Machine

open Sys2Proof

set_option linter.unusedSimpArgs false
set_option linter.unusedTactic false
set_option linter.unreachableTactic false

@[simp] theorem grantLoop_keep {zz : State} {core : Nat} : ∀ {f : Nat} {s : State} {d : Disp}, Keep zz s →
    Keep zz (grantLoop core f s d).1
  | 0, s, d, h0 => h0
  | f + 1, s, d, h0 => by
    unfold grantLoop
    split
    · exact h0
    · split
      · exact grantLoop_keep (by simp (maxDischargeDepth := 12) [h0])
      · exact h0

@[simp] theorem pumpSend_keep {zz : State} {core : Nat} : ∀ {f : Nat} {s : State} {d : Disp}, Keep zz s →
    Keep zz (pumpSend core f s d).1
  | 0, s, d, h0 => h0
  | f + 1, s, d, h0 => by
    unfold pumpSend
    dsimp only
    repeat' split
    all_goals first
      | exact h0
      | exact pumpSend_keep (by simp (maxDischargeDepth := 12) [h0])
      | simp (maxDischargeDepth := 12) [h0]

@[simp] theorem pumpRecv_keep {zz : State} {core : Nat} : ∀ {f : Nat} {s : State} {d : Disp}, Keep zz s →
    Keep zz (pumpRecv core f s d).1
  | 0, s, d, h0 => h0
  | f + 1, s, d, h0 => by
    unfold pumpRecv
    dsimp only
    repeat' split
    all_goals first
      | exact h0
      | exact pumpRecv_keep (by simp (maxDischargeDepth := 12) [h0])
      | simp (maxDischargeDepth := 12) [h0]

@[simp] theorem putMsg_keep {zz : State} {s : State} {core : Nat} {d : Disp} (h0 : Keep zz s) :
    Keep zz (putMsg s core d) := h0.trans (by simp (maxDischargeDepth := 12) [putMsg])

@[simp] theorem putAdvance_keep {zz : State} {s : State} {core : Nat} {d : Disp} (h0 : Keep zz s) :
    Keep zz (putAdvance s core d) := h0.trans (by
  unfold putAdvance
  try dsimp only
  repeat' (first | split | (dsimp only))
  all_goals simp (maxDischargeDepth := 12) [*])

@[simp] theorem holdMsg_keep {zz : State} {s : State} {core : Nat} {d : Disp} {c : Cmd} {dst addr n : Nat} (h0 : Keep zz s) :
    Keep zz (holdMsg s core d c dst addr n) := h0.trans (by simp (maxDischargeDepth := 12) [holdMsg])

@[simp] theorem queueSend_keep {zz : State} {s : State} {core : Nat} {d : Disp} {e : SendEnt} (h0 : Keep zz s) :
    Keep zz (queueSend s core d e) := h0.trans (by simp (maxDischargeDepth := 12) [queueSend])

@[simp] theorem sendGlobal_keep {zz : State} {s : State} {core : Nat} {d : Disp} {c : Cmd} {token dst addr n : Nat} (h0 : Keep zz s) :
    Keep zz (sendGlobal s core d c token dst addr n) := h0.trans (by simp (maxDischargeDepth := 12) [sendGlobal])

@[simp] theorem queueRecv_keep {zz : State} {s : State} {core : Nat} {d : Disp} {r : RecvEnt} (h0 : Keep zz s) :
    Keep zz (queueRecv s core d r) := h0.trans (by simp (maxDischargeDepth := 12) [queueRecv])

theorem inboxPut_keep {s t : State} {p core src : Nat} {b : Bytes} (h : inboxPut s p core src b = some t) : Keep s t := by
  unfold inboxPut at h
  dsimp only at h
  split at h
  · cases h; simp
  · simp at h

@[simp] theorem takeRemote_keep {zz : State} {s : State} {src seq : Nat} (h0 : Keep zz s) :
    Keep zz (takeRemote s src seq) := h0.trans (by simp (maxDischargeDepth := 12) [takeRemote])

@[simp] theorem inboxRemote_keep {zz : State} {s : State} {src seq dst : Nat} {gen : W32} {data : Bytes} (h0 : Keep zz s) :
    Keep zz (inboxRemote s src seq dst gen data) := h0.trans (by
  unfold inboxRemote
  try dsimp only
  repeat' (first | split | (dsimp only))
  all_goals try have := inboxPut_keep (by assumption)
  all_goals simp (maxDischargeDepth := 12) [*])

@[simp] theorem noteServed_keep {zz : State} {s : State} {index offset bytes : Nat} (h0 : Keep zz s) :
    Keep zz (noteServed s index offset bytes) := h0.trans (by unfold noteServed; split <;> simp (maxDischargeDepth := 12) [*])

end Sys2Proof.Machine
end

