-- ==== Sys2Proof/Laws/Keep/Idle.lean ====
section
/-! SUPPORT. The operations of Machine/Idle.lean keep what `Keep` says. -/

namespace Sys2Proof.Machine

open Sys2Proof

set_option linter.unusedSimpArgs false
set_option linter.unusedTactic false
set_option linter.unreachableTactic false

@[simp] theorem pass_keep {zz : State} {n : Nat} {s : State} (h0 : Keep zz s) :
    Keep zz (pass n s) := h0.trans (by simp (maxDischargeDepth := 12) [pass])

@[simp] theorem idleTick_keep {zz : State} {s : State} (h0 : Keep zz s) :
    Keep zz (idleTick s) := h0.trans (by simp (maxDischargeDepth := 12) [idleTick])

@[simp] theorem passTo_keep {zz : State} {s : State} {t : Nat} (h0 : Keep zz s) :
    Keep zz (passTo s t) := h0.trans (by simp (maxDischargeDepth := 12) [passTo])

end Sys2Proof.Machine
end

