-- ==== Sys2Proof/Laws/Keep/Output.lean ====
section
/-! SUPPORT. The operations of Machine/Output.lean keep what `Keep` says. -/

namespace Sys2Proof.Machine

open Sys2Proof

set_option linter.unusedSimpArgs false
set_option linter.unusedTactic false
set_option linter.unreachableTactic false

@[simp] theorem touchPage_keep {zz : State} {s : State} {c : Cmd} {p : StagePage} {whole : Bool} (h0 : Keep zz s) :
    Keep zz (touchPage s c p whole) := h0.trans (by
  unfold touchPage
  try dsimp only
  repeat' (first | split | (dsimp only))
  all_goals simp (maxDischargeDepth := 12) [*])

@[simp] theorem stageWrite_keep {zz : State} {s : State} {c : Cmd} {a : Nat} {b : Bytes} (h0 : Keep zz s) :
    Keep zz (stageWrite s c a b) := h0.trans (by simp (maxDischargeDepth := 12) [stageWrite])

@[simp] theorem killMoved_keep {zz : State} {s : State} {c : Cmd} {dva : Nat} (h0 : Keep zz s) :
    Keep zz (killMoved s c dva) := h0.trans (by simp (maxDischargeDepth := 12) [killMoved])

@[simp] theorem withInput_keep {zz : State} {s : State} {c : Cmd} {a : W64} {n : Nat} {h : HostAns} {f : State → Bytes → State}
    (h0 : Keep zz s) (hf : ∀ t b, Keep t (f t b)) : Keep zz (withInput s c a n h f) := by
  refine h0.trans ?_
  unfold withInput
  try dsimp only
  repeat' split
  all_goals first | exact Keep.refl _ | (refine Keep.trans ?_ (hf _ _); simp (maxDischargeDepth := 12)) | simp (maxDischargeDepth := 12)

@[simp] theorem withOutput_keep {zz : State} {s : State} {c : Cmd} {f : State} (h0 : Keep zz s) (hf : Keep zz f) :
    Keep zz (withOutput s c f) := by
  unfold withOutput
  split
  · exact hf
  all_goals simp (maxDischargeDepth := 12) [h0]

@[simp] theorem writePage_keep {zz : State} {s : State} {p dva size pa : Nat} {w : Bool} (h0 : Keep zz s) :
    Keep zz (writePage s p dva size pa w) := by
  unfold writePage
  cases h : putPtes s p (leaves dva size w (some pa)) with
  | none => exact h0
  | some t => exact h0.trans (putPtes_keep h)

@[simp] theorem swapPage_keep {zz : State} {s : State} {c : Cmd} {p : StagePage} (h0 : Keep zz s) :
    Keep zz (swapPage s c p) := h0.trans (by simp (maxDischargeDepth := 12) [swapPage])

@[simp] theorem putPiece_keep {zz : State} {s : State} {c : Cmd} {r : Option W64} {t : State} {p : StagePage} (h0 : Keep zz t) :
    Keep zz (putPiece s c r t p) := by
  refine h0.trans ?_
  unfold putPiece
  try dsimp only
  repeat' split
  all_goals simp (maxDischargeDepth := 12)

@[simp] theorem notePiece_keep {zz : State} {s : State} {c : Cmd} {t : State} {p : StagePage} (h0 : Keep zz t) :
    Keep zz (notePiece s c t p) := by
  refine h0.trans ?_
  unfold notePiece
  try dsimp only
  repeat' split
  all_goals simp (maxDischargeDepth := 12)

@[simp] theorem publish_keep {zz : State} {s : State} {c : Cmd} {r : Option W64} (h0 : Keep zz s) : Keep zz (publish s c r).1 := by
  unfold publish
  repeat' split
  · exact h0
  · exact Keep.foldl h0 fun t x => by simp
  · exact Keep.foldl (Keep.foldl h0 fun t x => by simp) fun t x => by simp

end Sys2Proof.Machine
end

