-- ==== Sys2Proof/Laws/Keep/Cmds.lean ====
section
/-! SUPPORT. The operations of Machine/Cmds.lean keep what `Keep` says. -/

namespace Sys2Proof.Machine

open Sys2Proof

set_option linter.unusedSimpArgs false
set_option linter.unusedTactic false
set_option linter.unreachableTactic false

@[simp] theorem atCommit_keep {zz : State} {s : State} {c : Cmd} (h0 : Keep zz s) :
    Keep zz (atCommit s c) := h0.trans (by simp (maxDischargeDepth := 12) [atCommit])

@[simp] theorem crownCmd_keep {zz : State} {s : State} {id op : Nat} {f : State → Cmd → State} (h0 : Keep zz s)
    (hf : ∀ t c, Keep t (f t c)) : Keep zz (crownCmd s id op f) := by
  refine h0.trans ?_
  unfold crownCmd
  try dsimp only
  repeat' split
  all_goals first | exact Keep.refl _ | exact hf _ _ | exact (Keep.trans (by simp (maxDischargeDepth := 12)) (hf _ _))

@[simp] theorem putSlot_keep {zz : State} {s : State} {o : Obj} {e k : Nat} {b : Bytes} (h0 : Keep zz s) :
    Keep zz (putSlot s o e k b) := h0.trans (by simp (maxDischargeDepth := 12) [putSlot])

@[simp] theorem initObj_keep {zz : State} {s : State} {o : Obj} {l : Layout} (h0 : Keep zz s) :
    Keep zz (initObj s o l) := h0.trans (by simp (maxDischargeDepth := 12) [initObj])

@[simp] theorem putPayloads_keep {zz : State} {s : State} {objs : List Obj} {r : Bytes} (h0 : Keep zz s) :
    Keep zz (putPayloads s objs r) := h0.trans (by simp (maxDischargeDepth := 12) [putPayloads])

@[simp] theorem noteObj_keep {zz : State} {s : State} {o : Obj} (h0 : Keep zz s) :
    Keep zz (noteObj s o) := h0.trans (by simp (maxDischargeDepth := 12) [noteObj])

end Sys2Proof.Machine
end

