-- ==== Sys2Proof/Laws/Keep/Commit.lean ====
section
/-! SUPPORT. The operations of Machine/Commit.lean keep what `Keep` says. -/

namespace Sys2Proof.Machine

open Sys2Proof

set_option linter.unusedSimpArgs false
set_option linter.unusedTactic false
set_option linter.unreachableTactic false

@[simp] theorem modHomed_keep {zz : State} {s : State} {pile : Nat} {f : Obj → Obj} (h0 : Keep zz s) :
    Keep zz (modHomed s pile f) := h0.trans (by simp (maxDischargeDepth := 12) [modHomed])

@[simp] theorem killPile_keep {zz : State} {s : State} {pile : Nat} {gen : W32} (h0 : Keep zz s) :
    Keep zz (killPile s pile gen) := h0.trans (by simp (maxDischargeDepth := 12) [killPile])

@[simp] theorem dropInbox_keep {zz : State} {s : State} {part core n : Nat} (h0 : Keep zz s) :
    Keep zz (dropInbox s part core n) := h0.trans (by simp (maxDischargeDepth := 12) [dropInbox])

@[simp] theorem endDisp_keep {zz : State} {s : State} {core : Nat} {gen : W32} (h0 : Keep zz s) :
    Keep zz (endDisp s core gen) := h0.trans (by simp (maxDischargeDepth := 12) [endDisp])

@[simp] theorem runCommit_keep {zz : State} {s : State} {c : Cmd} (h0 : Keep zz s) :
    Keep zz (runCommit s c) := h0.trans (by
  unfold runCommit
  try dsimp only
  repeat' (first | split | (refine Keep.foldl ?_ (fun _ _ => ?_)) | (with_reducible refine Keep.foldl ?_ (fun _ _ => ?_)) | (dsimp only))
  all_goals simp (maxDischargeDepth := 12) [*])

@[simp] theorem leaveBarrier_keep {zz : State} {c : Cmd} {s : State} {core : Nat} (h0 : Keep zz s) :
    Keep zz (leaveBarrier c s core) := h0.trans (by unfold leaveBarrier; split <;> simp (maxDischargeDepth := 12) [*])

@[simp] theorem deliverKill_keep {zz : State} {s : State} {core : Nat} {gen : W32} (h0 : Keep zz s) :
    Keep zz (deliverKill s core gen) := h0.trans (by unfold deliverKill; split <;> simp (maxDischargeDepth := 12) [*])

@[simp] theorem accept_keep {zz : State} {s : State} {id : Nat} (h0 : Keep zz s) :
    Keep zz (accept s id) := h0.trans (by simp (maxDischargeDepth := 12) [accept])

@[simp] theorem twinEvent_keep {zz : State} {s : State} {c : Cmd} {cls : Nat} {d1 : W64} (h0 : Keep zz s) :
    Keep zz (twinEvent s c cls d1) := h0.trans (by simp (maxDischargeDepth := 12) [twinEvent])

@[simp] theorem twinLost_keep {zz : State} {s : State} {c : Cmd} (h0 : Keep zz s) :
    Keep zz (twinLost s c) := h0.trans (by simp (maxDischargeDepth := 12) [twinLost])

@[simp] theorem twinCompare_keep {zz : State} {s : State} {c : Cmd} {d : W64} (h0 : Keep zz s) :
    Keep zz (twinCompare s c d) := h0.trans (by simp (maxDischargeDepth := 12) [twinCompare])

@[simp] theorem digestReady_keep {zz : State} {s : State} {c : Cmd} {d : W64} (h0 : Keep zz s) :
    Keep zz (digestReady s c d) := h0.trans (by
  unfold digestReady
  try dsimp only
  repeat' (first | split | (dsimp only))
  all_goals simp (maxDischargeDepth := 12) [*])

theorem takeGot_keep {s t : State} {p : Nat × Ctl → Bool} {src : Nat} {m : Ctl} (h : takeGot s p = some (src, m, t)) : Keep s t := by
  simp only [takeGot, Option.map_eq_some_iff, Prod.mk.injEq] at h
  obtain ⟨x, _, _, _, rfl⟩ := h
  simp

@[simp] theorem audSlip_keep {zz : State} {s : State} {port stream kind : Nat} (h0 : Keep zz s) :
    Keep zz (audSlip s port stream kind) := h0.trans (by simp (maxDischargeDepth := 12) [audSlip])

@[simp] theorem handOver_keep {zz : State} {s : State} {st : Nat} {b : Bind} {w : List W32} (h0 : Keep zz s) :
    Keep zz (handOver s st b w) := h0.trans (by simp (maxDischargeDepth := 12) [handOver])

@[simp] theorem noteSamples_keep {zz : State} {s0 s : State} {c : Cmd} (h0 : Keep zz s) : Keep zz (noteSamples s0 s c) := by
  unfold noteSamples
  split
  · exact Keep.foldl h0 fun t x => by simp
  · exact h0

@[simp] theorem handOverAll_keep {zz : State} {s0 s : State} {c : Cmd} (h0 : Keep zz s) : Keep zz (handOverAll s0 s c) := by
  unfold handOverAll
  repeat' split
  · exact h0
  · exact h0
  · refine Keep.foldl (noteSamples_keep h0) fun t x => ?_
    dsimp only
    split <;> simp

@[simp] theorem addReport_keep {zz : State} {sites : List Site} {s : State} {st : Nat} {r : SiteReport} (h0 : Keep zz s) :
    Keep zz (addReport sites s st r) := h0.trans (by simp (maxDischargeDepth := 12) [addReport])

@[simp] theorem satEvents_keep {zz : State} {s : State} {c : Cmd} {sites : List Site} {st : Nat} {old : Tab Nat} (h0 : Keep zz s) :
    Keep zz (satEvents s c sites st old) := h0.trans (by simp (maxDischargeDepth := 12) [satEvents])

@[simp] theorem runStream_keep {zz : State} {s : State} {c : Cmd} {sites : List Site} {i : Nat} (h0 : Keep zz s) :
    Keep zz (runStream s c sites i) := h0.trans (by simp (maxDischargeDepth := 12) [runStream])

@[simp] theorem freeObjs_keep {zz : State} {s : State} {part st : Nat} (h0 : Keep zz s) :
    Keep zz (freeObjs s part st) := h0.trans (by simp (maxDischargeDepth := 12) [freeObjs])

@[simp] theorem newStream_keep {zz : State} {part : Nat} {s : State} {n : NewState} (h0 : Keep zz s) :
    Keep zz (newStream part s n) := h0.trans (by simp (maxDischargeDepth := 12) [newStream])

@[simp] theorem closeStream_keep {zz : State} {part : Nat} {s : State} {st : Nat} (h0 : Keep zz s) :
    Keep zz (closeStream part s st) := h0.trans (by simp (maxDischargeDepth := 12) [closeStream])

@[simp] theorem loadSeg_keep {zz : State} {w : WSet} {core res code : Nat} {s : State} {g : Seg} (h0 : Keep zz s) :
    Keep zz (loadSeg w core res code s g) := h0.trans (by simp (maxDischargeDepth := 12) [loadSeg])

@[simp] theorem clearCode_keep {zz : State} {s : State} {core base n : Nat} (h0 : Keep zz s) :
    Keep zz (clearCode s core base n) := h0.trans (by simp (maxDischargeDepth := 12) [clearCode])

@[simp] theorem loadRank_keep {zz : State} {w : WSet} {s : State} {r core : Nat} (h0 : Keep zz s) :
    Keep zz (loadRank w s r core) := h0.trans (by simp (maxDischargeDepth := 12) [loadRank])

@[simp] theorem loadSet_keep {zz : State} {s : State} {w : WSet} (h0 : Keep zz s) :
    Keep zz (loadSet s w) := h0.trans (by simp (maxDischargeDepth := 12) [loadSet])

@[simp] theorem evictSet_keep {zz : State} {s : State} {part : Nat} {h : W32} (h0 : Keep zz s) :
    Keep zz (evictSet s part h) := h0.trans (by unfold evictSet; split <;> simp (maxDischargeDepth := 12) [*])

@[simp] theorem stampBead_keep {zz : State} {s : State} {c : Cmd} (h0 : Keep zz s) :
    Keep zz (stampBead s c) := h0.trans (by simp (maxDischargeDepth := 12) [stampBead])

@[simp] theorem commitTables_keep {zz : State} {s : State} {c : Cmd} (h0 : Keep zz s) :
    Keep zz (commitTables s c) := h0.trans (by
  unfold commitTables
  try dsimp only
  repeat' (first | split | (with_reducible refine Keep.foldl ?_ (fun _ _ => ?_)) | (dsimp only))
  all_goals simp (maxDischargeDepth := 12) [*])

@[simp] theorem sendHeld_keep {zz : State} {c : Cmd} {s : State} {h : Held} (h0 : Keep zz s) :
    Keep zz (sendHeld c s h) := h0.trans (by
  unfold sendHeld
  try dsimp only
  repeat' (first | split | (dsimp only))
  all_goals try have := inboxPut_keep (by assumption)
  all_goals simp (maxDischargeDepth := 12) [*])

@[simp] theorem slipStream_keep {zz : State} {c : Cmd} {s : State} {st : Nat} (h0 : Keep zz s) :
    Keep zz (slipStream c s st) := h0.trans (by simp (maxDischargeDepth := 12) [slipStream])

@[simp] theorem chargeOverrun_keep {zz : State} {s : State} {c : Cmd} (h0 : Keep zz s) :
    Keep zz (chargeOverrun s c) := h0.trans (by simp (maxDischargeDepth := 12) [chargeOverrun])

@[simp] theorem commitPublish_keep {zz : State} {s : State} {c : Cmd} {r : Option W64} (h0 : Keep zz s) :
    Keep zz (commitPublish s c r).1 := by
  unfold commitPublish
  split <;> simp (maxDischargeDepth := 12) [h0]

@[simp] theorem commitSend_keep {zz : State} {s : State} {c : Cmd} (h0 : Keep zz s) : Keep zz (commitSend s c).1 := by
  unfold commitSend
  split <;> simp (maxDischargeDepth := 12) [h0]

@[simp] theorem commitEnd_keep {zz : State} {s : State} {c : Cmd} (h0 : Keep zz s) :
    Keep zz (commitEnd s c) := h0.trans (by unfold commitEnd; split <;> simp (maxDischargeDepth := 12) [*])

@[simp] theorem commitStep_keep {zz : State} {s : State} {c : Cmd} {refused : Option W64} (h0 : Keep zz s) :
    Keep zz (commitStep s c refused) := h0.trans (by simp (maxDischargeDepth := 12) [commitStep])

end Sys2Proof.Machine
end

