-- ==== Sys2Proof/Laws/Keep/Bead.lean ====
section
/-! SUPPORT. The operations of Machine/Bead.lean keep what `Keep` says. -/

namespace Sys2Proof.Machine

open Sys2Proof

set_option linter.unusedSimpArgs false
set_option linter.unusedTactic false
set_option linter.unreachableTactic false

@[simp] theorem beadFallback_keep {zz : State} {s : State} (h0 : Keep zz s) :
    Keep zz (beadFallback s) := h0.trans (by simp (maxDischargeDepth := 12) [beadFallback])

@[simp] theorem refLostNow_keep {zz : State} {s : State} {r : BitVec 3} (h0 : Keep zz s) :
    Keep zz (refLostNow s r) := h0.trans (by simp (maxDischargeDepth := 12) [refLostNow])

@[simp] theorem beadCtrl_keep {zz : State} {s : State} {v : W32} (h0 : Keep zz s) : Keep zz (beadCtrl s v) := by
  refine h0.trans ?_
  unfold beadCtrl
  split
  · simp
  · next hb =>
    refine Keep.mk (t := s) (Keep.refl _) (Nat.le_refl _) (fun h => ⟨?_, h.2⟩) (PileKeep.refl _) (SecKeep.refl _) (RstKeep.refl _)
      (PwrKeep.refl _)
    have h7 : bits v.toNat 18 16 ≠ 7 := by
      intro e; simp [beadCtrlBad, e] at hb
    have h8 : bits v.toNat 18 16 < 8 := Nat.mod_lt _ (by decide)
    have h9 : (BitVec.ofNat 3 (bits v.toNat 18 16)).toNat = bits v.toNat 18 16 := by
      rw [BitVec.toNat_ofNat]; exact Nat.mod_eq_of_lt h8
    show (BitVec.ofNat 3 (bits v.toNat 18 16)).toNat < 7
    omega

@[simp] theorem beadLatch_keep {zz : State} {s : State} (h0 : Keep zz s) :
    Keep zz (beadLatch s) := h0.trans (by simp (maxDischargeDepth := 12) [beadLatch])

@[simp] theorem beadDue_keep {zz : State} {s : State} (h0 : Keep zz s) :
    Keep zz (beadDue s) := h0.trans (by simp (maxDischargeDepth := 12) [beadDue])

@[simp] theorem nextBead_keep {zz : State} {s : State} (h0 : Keep zz s) :
    Keep zz (nextBead s) := h0.trans (by simp (maxDischargeDepth := 12) [nextBead])

@[simp] theorem beadEdge_keep {zz : State} {s : State} {lost : Bool} (h0 : Keep zz s) :
    Keep zz (beadEdge s lost) := h0.trans (by simp (maxDischargeDepth := 12) [beadEdge])

@[simp] theorem domainEdge_keep {zz : State} {s : State} (h0 : Keep zz s) :
    Keep zz (domainEdge s) := h0.trans (by simp (maxDischargeDepth := 12) [domainEdge])

@[simp] theorem countSample_keep {zz : State} {s : State} {r : BitVec 3} (h0 : Keep zz s) :
    Keep zz (countSample s r) := h0.trans (by simp (maxDischargeDepth := 12) [countSample])

end Sys2Proof.Machine
end

