-- ==== Sys2Proof/Laws/Keep/Cores.lean ====
section
/-! SUPPORT. The operations of Machine/Cores.lean keep what `Keep` says. -/

namespace Sys2Proof.Machine

open Sys2Proof

set_option linter.unusedSimpArgs false
set_option linter.unusedTactic false
set_option linter.unreachableTactic false

@[simp] theorem coreFaulted_keep {zz : State} {s : State} {core kind : Nat} {addr : W64} (h0 : Keep zz s) :
    Keep zz (coreFaulted s core kind addr) := h0.trans (by unfold coreFaulted; split <;> simp (maxDischargeDepth := 12) [*])

@[simp] theorem rewriteCore_keep {zz : State} {s : State} {core : Nat} (h0 : Keep zz s) :
    Keep zz (rewriteCore s core) := h0.trans (by simp (maxDischargeDepth := 12) [rewriteCore])

end Sys2Proof.Machine
end

