-- ==== Sys2Proof/Laws/Keep/Piles.lean ====
section
/-! SUPPORT. The operations of Machine/Piles.lean keep what `Keep` says. -/

namespace Sys2Proof.Machine

open Sys2Proof

set_option linter.unusedSimpArgs false
set_option linter.unusedTactic false
set_option linter.unreachableTactic false

@[simp] theorem countCe_keep {zz : State} {s : State} {pa : Nat} {fixed : List Nat} {again : Bool} (h0 : Keep zz s) :
    Keep zz (countCe s pa fixed again) := h0.trans (by simp (maxDischargeDepth := 12) [countCe])

@[simp] theorem putXfer_keep {zz : State} {s : State} {core : Nat} {x : Xfer} (h0 : Keep zz s) :
    Keep zz (putXfer s core x) := h0.trans (by unfold putXfer; split <;> simp (maxDischargeDepth := 12) [*])

@[simp] theorem markWritten_keep {zz : State} {s : State} {g : W32} {x : Xfer} (h0 : Keep zz s) :
    Keep zz (markWritten s g x) := h0.trans (by unfold markWritten; split <;> simp (maxDischargeDepth := 12) [*])

@[simp] theorem noteWrote_keep {zz : State} {s : State} {j : LineJob} (h0 : Keep zz s) :
    Keep zz (noteWrote s j) := h0.trans (by unfold noteWrote; split <;> simp (maxDischargeDepth := 12) [*])

@[simp] theorem writeLine_keep {zz : State} {s : State} {core : Nat} {j : LineJob} {e1 e2 : ErrPat} (h0 : Keep zz s) :
    Keep zz (writeLine s core j e1 e2) := h0.trans (by
  unfold writeLine
  try dsimp only
  repeat' (first | split | (dsimp only))
  all_goals simp (maxDischargeDepth := 12) [*])

@[simp] theorem pileEvent_keep {zz : State} {s : State} {pile cls d0 d1 : Nat} (h0 : Keep zz s) :
    Keep zz (pileEvent s pile cls d0 d1) := h0.trans (by simp (maxDischargeDepth := 12) [pileEvent])

@[simp] theorem seeSymbol_keep {zz : State} {pile line : Nat} {s : State} {sym : Nat} (h0 : Keep zz s) :
    Keep zz (seeSymbol pile line s sym) := h0.trans (by simp (maxDischargeDepth := 12) [seeSymbol])

@[simp] theorem repairLines_keep {zz : State} {s : State} {hit : Nat → Bool} (h0 : Keep zz s) :
    Keep zz (repairLines s hit) := h0.trans (by simp (maxDischargeDepth := 12) [repairLines])

@[simp] theorem seeRow_keep {zz : State} {pile line : Nat} {s : State} (h0 : Keep zz s) :
    Keep zz (seeRow pile line s) := h0.trans (by simp (maxDischargeDepth := 12) [seeRow])

@[simp] theorem seeCol_keep {zz : State} {pile line : Nat} {s : State} (h0 : Keep zz s) :
    Keep zz (seeCol pile line s) := h0.trans (by simp (maxDischargeDepth := 12) [seeCol])

@[simp] theorem scrubNext_keep {zz : State} {s : State} {pile : Nat} (h0 : Keep zz s) :
    Keep zz (scrubNext s pile) := h0.trans (by simp (maxDischargeDepth := 12) [scrubNext])

@[simp] theorem scrubFixed_keep {zz : State} {s : State} {pile line : Nat} {r : ErrPat} {fixed : List Nat} (h0 : Keep zz s) :
    Keep zz (scrubFixed s pile line r fixed) := h0.trans (by simp (maxDischargeDepth := 12) [scrubFixed])

@[simp] theorem scrubLine_keep {zz : State} {s : State} {pile line : Nat} {e1 e2 : ErrPat} (h0 : Keep zz s) :
    Keep zz (scrubLine s pile line e1 e2) := h0.trans (by unfold scrubLine; split <;> simp (maxDischargeDepth := 12) [*])

end Sys2Proof.Machine
end

