-- ==== Sys2Proof/Laws/Keep/Swap.lean ====
section
/-! SUPPORT. The operations of Machine/Swap.lean keep what `Keep` says. -/

namespace Sys2Proof.Machine

open Sys2Proof

set_option linter.unusedSimpArgs false
set_option linter.unusedTactic false
set_option linter.unreachableTactic false

@[simp] theorem breakWait_keep {zz : State} {s : State} {st : Nat} (h0 : Keep zz s) :
    Keep zz (breakWait s st) := h0.trans (by simp (maxDischargeDepth := 12) [breakWait])

@[simp] theorem endMove_keep {zz : State} {s : State} {st : Nat} (h0 : Keep zz s) :
    Keep zz (endMove s st) := h0.trans (by simp (maxDischargeDepth := 12) [endMove])

@[simp] theorem swappedOut_keep {zz : State} {s : State} {st at_ : Nat} (h0 : Keep zz s) :
    Keep zz (swappedOut s st at_) := h0.trans (by simp (maxDischargeDepth := 12) [swappedOut])

@[simp] theorem swapFail_keep {zz : State} {s : State} {st : Nat} (h0 : Keep zz s) :
    Keep zz (swapFail s st) := h0.trans (by
  unfold swapFail
  try dsimp only
  repeat' (first | split | (dsimp only))
  all_goals simp (maxDischargeDepth := 12) [*])

@[simp] theorem putEntries_keep {zz : State} : ∀ {l : List Obj} {s : State} {b : Bytes}, Keep zz s → Keep zz (putEntries s l b)
  | [], s, b, h0 => h0
  | o :: t, s, b, h0 => putEntries_keep (l := t) (Keep.foldl h0 fun u e => by simp (maxDischargeDepth := 12))

@[simp] theorem swapRead_keep {zz : State} {s : State} {x : Stream} (h0 : Keep zz s) :
    Keep zz (swapRead s x) := h0.trans (by unfold swapRead; split <;> simp (maxDischargeDepth := 12) [*])

@[simp] theorem moveDone_keep {zz : State} {s : State} {st old : Nat} (h0 : Keep zz s) :
    Keep zz (moveDone s st old) := h0.trans (by simp (maxDischargeDepth := 12) [moveDone])

@[simp] theorem undoMove_keep {zz : State} {s : State} {st : Nat} (h0 : Keep zz s) :
    Keep zz (undoMove s st) := h0.trans (by
  unfold undoMove
  try dsimp only
  repeat' (first | split | (with_reducible refine Keep.foldl ?_ (fun _ _ => ?_)) | (dsimp only))
  all_goals simp (maxDischargeDepth := 12) [*])

@[simp] theorem undoMoves_keep {zz : State} {s : State} (h0 : Keep zz s) :
    Keep zz (undoMoves s) := h0.trans (by simp (maxDischargeDepth := 12) [undoMoves])

end Sys2Proof.Machine
end

