-- ==== Sys2Proof/Laws/Keep/Trans.lean ====
section
/-! SUPPORT. The operations of Machine/Trans.lean keep what `Keep` says. -/

namespace Sys2Proof.Machine

open Sys2Proof

set_option linter.unusedSimpArgs false
set_option linter.unusedTactic false
set_option linter.unreachableTactic false

@[simp] theorem setTlb_keep {zz : State} {s : State} {n : Nat} {l : List TlbEnt} (h0 : Keep zz s) :
    Keep zz (setTlb s n l) := h0.trans (by simp (maxDischargeDepth := 12) [setTlb])

@[simp] theorem fillTlb_keep {zz : State} {s : State} {n : Nat} {e : TlbEnt} (h0 : Keep zz s) :
    Keep zz (fillTlb s n e) := h0.trans (by
  unfold fillTlb
  try dsimp only
  repeat' (first | split | (dsimp only))
  all_goals simp (maxDischargeDepth := 12) [*])

@[simp] theorem missDie_keep {zz : State} {s : State} {n part dva : Nat} (h0 : Keep zz s) :
    Keep zz (missDie s n part dva) := h0.trans (by
  unfold missDie
  try dsimp only
  repeat' (first | split | (dsimp only))
  all_goals simp (maxDischargeDepth := 12) [*])

@[simp] theorem invalDone_keep {zz : State} {s : State} {v : Inval} (h0 : Keep zz s) :
    Keep zz (invalDone s v) := h0.trans (by
  unfold invalDone
  try dsimp only
  repeat' (first | split | (dsimp only))
  all_goals simp (maxDischargeDepth := 12) [*])

@[simp] theorem forget_keep {zz : State} {s : State} {tlb : Nat} {v : Inval} (h0 : Keep zz s) :
    Keep zz (forget s tlb v) := h0.trans (by simp (maxDischargeDepth := 12) [forget])

@[simp] theorem startMove_keep {zz : State} {s : State} {p dva pile : Nat} (h0 : Keep zz s) : Keep zz (startMove s p dva pile) := by
  refine h0.trans ?_
  unfold startMove
  generalize List.range 2617 = l
  dsimp only
  split
  · exact Keep.refl s
  · split
    · exact Keep.refl s
    · next h1 =>
      have k := Keep.foldl (l := leafKeys (dva / (pteAt s p dva).2.1 * (pteAt s p dva).2.1) (pteAt s p dva).2.1)
        (f := fun t k => setPte t p k (mkMoving (pteOf t p k))) (physAlloc_keep h1) fun t k => by simp
      exact Keep.mk k (Nat.le_refl _) (BeadKeep.refl _) (PileKeep.refl _) (SecKeep.refl _) (RstKeep.refl _) (PwrKeep.refl _)

@[simp] theorem invalidate_keep {zz : State} {s : State} {tlb : Nat} (h0 : Keep zz s) :
    Keep zz (invalidate s tlb) := h0.trans (by unfold invalidate; split <;> simp (maxDischargeDepth := 12) [*])

@[simp] theorem winFail_keep {zz : State} {s : State} {bit off : Nat} (h0 : Keep zz s) :
    Keep zz (winFail s bit off) := h0.trans (by simp (maxDischargeDepth := 12) [winFail])

@[simp] theorem setLine_keep {zz : State} {s : State} {b : Bytes} (h0 : Keep zz s) :
    Keep zz (setLine s b) := h0.trans (by simp (maxDischargeDepth := 12) [setLine])

@[simp] theorem winRead64_keep {zz : State} {s : State} {off : Nat} (h0 : Keep zz s) :
    Keep zz (winRead64 s off) := h0.trans (by
  unfold winRead64
  try dsimp only
  repeat' (first | split | (dsimp only))
  all_goals simp (maxDischargeDepth := 12) [*])

@[simp] theorem winWrite64_keep {zz : State} {s : State} {off : Nat} {b : Bytes} (h0 : Keep zz s) :
    Keep zz (winWrite64 s off b) := h0.trans (by
  unfold winWrite64
  try dsimp only
  repeat' (first | split | (dsimp only))
  all_goals simp (maxDischargeDepth := 12) [*])

@[simp] theorem memwinCtrl_keep {zz : State} {s : State} {v : W32} (h0 : Keep zz s) :
    Keep zz (memwinCtrl s v) := h0.trans (by simp (maxDischargeDepth := 12) [memwinCtrl])

@[simp] theorem memwinBase_keep {zz : State} {s : State} {hi : Bool} {v : W32} (h0 : Keep zz s) :
    Keep zz (memwinBase s hi v) := h0.trans (by simp (maxDischargeDepth := 12) [memwinBase])

@[simp] theorem partReject_keep {zz : State} {s : State} {n : Nat} (h0 : Keep zz s) :
    Keep zz (partReject s n) := h0.trans (by simp (maxDischargeDepth := 12) [partReject])

@[simp] theorem partDies_keep {zz : State} {s : State} {n : Nat} {hi : Bool} {v : W32} (h0 : Keep zz s) :
    Keep zz (partDies s n hi v) := h0.trans (by simp (maxDischargeDepth := 12) [partDies])

@[simp] theorem partCtrl_keep {zz : State} {s : State} {n : Nat} {v : W32} (h0 : Keep zz s) :
    Keep zz (partCtrl s n v) := h0.trans (by simp (maxDischargeDepth := 12) [partCtrl])

@[simp] theorem partQuota_keep {zz : State} {s : State} {n : Nat} {v : W32} (h0 : Keep zz s) :
    Keep zz (partQuota s n v) := h0.trans (by simp (maxDischargeDepth := 12) [partQuota])

@[simp] theorem clientSched_keep {zz : State} {s : State} {c : Nat} {v : W32} (h0 : Keep zz s) :
    Keep zz (clientSched s c v) := h0.trans (by simp (maxDischargeDepth := 12) [clientSched])

end Sys2Proof.Machine
end

