-- ==== Sys2Proof/Laws/Keep/Links.lean ====
section
/-! SUPPORT. The operations of Machine/Links.lean keep what `Keep` says. -/

namespace Sys2Proof.Machine

open Sys2Proof

set_option linter.unusedSimpArgs false
set_option linter.unusedTactic false
set_option linter.unreachableTactic false

@[simp] theorem reportLink_keep {zz : State} {s : State} {p : Nat} {x : Port} {up : Bool} (h0 : Keep zz s) :
    Keep zz (reportLink s p x up) := h0.trans (by simp (maxDischargeDepth := 12) [reportLink])

@[simp] theorem portDrop_keep {zz : State} {s : State} {p cause : Nat} (h0 : Keep zz s) :
    Keep zz (portDrop s p cause) := h0.trans (by simp (maxDischargeDepth := 12) [portDrop])

@[simp] theorem refLoss_keep {zz : State} {s : State} (h0 : Keep zz s) :
    Keep zz (refLoss s) := h0.trans (by simp (maxDischargeDepth := 12) [refLoss])

@[simp] theorem portFalls_keep {zz : State} {s : State} {p cause : Nat} (h0 : Keep zz s) :
    Keep zz (portFalls s p cause) := h0.trans (by simp (maxDischargeDepth := 12) [portFalls])

@[simp] theorem portCtrl_keep {zz : State} {s : State} {p : Nat} {v : W32} (h0 : Keep zz s) :
    Keep zz (portCtrl s p v) := h0.trans (by simp (maxDischargeDepth := 12) [portCtrl])

@[simp] theorem putFrame_keep {zz : State} {s : State} {p : Nat} {x : Port} {f : OutFrame} (h0 : Keep zz s) :
    Keep zz (putFrame s p x f) := h0.trans (by simp (maxDischargeDepth := 12) [putFrame])

@[simp] theorem drainRx_keep {zz : State} {p : Nat} : ∀ {l : List Flit} {held : List Nat} {s : State}, Keep zz s →
    Keep zz (drainRx p l held s)
  | [], _, s, h0 => h0
  | f :: t, held, s, h0 => by
    unfold drainRx
    dsimp only
    repeat' split
    all_goals exact drainRx_keep (by simp (maxDischargeDepth := 12) [h0])

@[simp] theorem moveOn_keep {zz : State} {s : State} {p : Nat} (h0 : Keep zz s) :
    Keep zz (moveOn s p) := h0.trans (by simp (maxDischargeDepth := 12) [moveOn])

@[simp] theorem takeFrame_keep {zz : State} {s : State} {p : Nat} {x : Port} {f : FrameIn} (h0 : Keep zz s) :
    Keep zz (takeFrame s p x f) := h0.trans (by simp (maxDischargeDepth := 12) [takeFrame])

end Sys2Proof.Machine
end

