-- ==== Sys2Proof/Laws/Keep/Domain.lean ====
section
/-! SUPPORT. The operations of Machine/Domain.lean keep what `Keep` says. -/

namespace Sys2Proof.Machine

open Sys2Proof

set_option linter.unusedSimpArgs false
set_option linter.unusedTactic false
set_option linter.unreachableTactic false

@[simp] theorem setRoute_keep {zz : State} {s : State} {dst : Nat} {port : Option Nat} (h0 : Keep zz s) :
    Keep zz (setRoute s dst port) := h0.trans (by unfold setRoute; split <;> simp (maxDischargeDepth := 12) [*])

@[simp] theorem setTree_keep {zz : State} {s : State} {l : List Nat} (h0 : Keep zz s) :
    Keep zz (setTree s l) := h0.trans (by simp (maxDischargeDepth := 12) [setTree])

@[simp] theorem sendRoutes_keep {zz : State} {s : State} (h0 : Keep zz s) :
    Keep zz (sendRoutes s) := h0.trans (by simp (maxDischargeDepth := 12) [sendRoutes])

@[simp] theorem dropHeld_keep {zz : State} {s : State} {pkg : Nat} (h0 : Keep zz s) :
    Keep zz (dropHeld s pkg) := h0.trans (by simp (maxDischargeDepth := 12) [dropHeld])

@[simp] theorem cancelReaders_keep {zz : State} {s : State} {pkg : Nat} (h0 : Keep zz s) :
    Keep zz (cancelReaders s pkg) := h0.trans (by simp (maxDischargeDepth := 12) [cancelReaders])

@[simp] theorem endWaiters_keep {zz : State} {s : State} {pkg : Nat} (h0 : Keep zz s) :
    Keep zz (endWaiters s pkg) := h0.trans (by
  unfold endWaiters
  try dsimp only
  repeat' (first | split | (with_reducible refine Keep.foldl ?_ (fun _ _ => ?_)) | (dsimp only))
  all_goals simp (maxDischargeDepth := 12) [*])

@[simp] theorem setPeer_keep {zz : State} {s : State} {p pkg : Nat} (h0 : Keep zz s) :
    Keep zz (setPeer s p pkg) := h0.trans (by simp (maxDischargeDepth := 12) [setPeer])

@[simp] theorem forgetMember_keep {zz : State} {s : State} {pkg : Nat} (h0 : Keep zz s) :
    Keep zz (forgetMember s pkg) := h0.trans (by simp (maxDischargeDepth := 12) [forgetMember])

@[simp] theorem memberLeft_keep {zz : State} {s : State} {pkg : Nat} (h0 : Keep zz s) :
    Keep zz (memberLeft s pkg) := h0.trans (by simp (maxDischargeDepth := 12) [memberLeft])

@[simp] theorem tellGone_keep {zz : State} {s : State} {pkg : Nat} (h0 : Keep zz s) :
    Keep zz (tellGone s pkg) := h0.trans (by simp (maxDischargeDepth := 12) [tellGone])

@[simp] theorem keepNumber_keep {zz : State} {s : State} {pkg : Nat} (h0 : Keep zz s) :
    Keep zz (keepNumber s pkg) := h0.trans (by simp (maxDischargeDepth := 12) [keepNumber])

@[simp] theorem keeperDrops_keep {zz : State} {s : State} {pkg : Nat} (h0 : Keep zz s) :
    Keep zz (keeperDrops s pkg) := h0.trans (by simp (maxDischargeDepth := 12) [keeperDrops])

@[simp] theorem reportGone_keep {zz : State} {s : State} {pkg : Nat} (h0 : Keep zz s) :
    Keep zz (reportGone s pkg) := h0.trans (by simp (maxDischargeDepth := 12) [reportGone])

@[simp] theorem outOfDomain_keep {zz : State} {s : State} (h0 : Keep zz s) :
    Keep zz (outOfDomain s) := h0.trans (by simp (maxDischargeDepth := 12) [outOfDomain])

@[simp] theorem leaveDomain_keep {zz : State} {s : State} (h0 : Keep zz s) :
    Keep zz (leaveDomain s) := h0.trans (by simp (maxDischargeDepth := 12) [leaveDomain])

@[simp] theorem finishLeave_keep {zz : State} {s : State} (h0 : Keep zz s) :
    Keep zz (finishLeave s) := h0.trans (by
  unfold finishLeave
  try dsimp only
  repeat' (first | split | (dsimp only))
  all_goals simp (maxDischargeDepth := 12) [*])

@[simp] theorem keepCtl_keep {zz : State} {s : State} {src : Nat} {m : Ctl} (h0 : Keep zz s) :
    Keep zz (keepCtl s src m) := h0.trans (by simp (maxDischargeDepth := 12) [keepCtl])

@[simp] theorem challenged_keep {zz : State} {s : State} {src : Nat} {n : W64} {via : Nat} (h0 : Keep zz s) :
    Keep zz (challenged s src n via) := h0.trans (by
  unfold challenged
  try dsimp only
  repeat' (first | split | (dsimp only))
  all_goals simp (maxDischargeDepth := 12) [*])

@[simp] theorem granted_keep {zz : State} {s : State} {src k : Nat} {count : W64} {period : W16} {keeper via : Nat} (h0 : Keep zz s) :
    Keep zz (granted s src k count period keeper via) := h0.trans (by simp (maxDischargeDepth := 12) [granted])

@[simp] theorem refusedJoin_keep {zz : State} {s : State} {src via : Nat} (h0 : Keep zz s) :
    Keep zz (refusedJoin s src via) := h0.trans (by simp (maxDischargeDepth := 12) [refusedJoin])

@[simp] theorem metNeighbour_keep {zz : State} {s : State} {src pkg : Nat} (h0 : Keep zz s) :
    Keep zz (metNeighbour s src pkg) := h0.trans (by simp (maxDischargeDepth := 12) [metNeighbour])

@[simp] theorem ctlActs_keep {zz : State} {s : State} {src : Nat} {m : Ctl} (h0 : Keep zz s) :
    Keep zz (ctlActs s src m) := h0.trans (by unfold ctlActs; split <;> simp (maxDischargeDepth := 12) [*])

@[simp] theorem keeperReroutes_keep {zz : State} {s : State} (h0 : Keep zz s) :
    Keep zz (keeperReroutes s) := h0.trans (by simp (maxDischargeDepth := 12) [keeperReroutes])

@[simp] theorem tellRoster_keep {zz : State} {s : State} (h0 : Keep zz s) :
    Keep zz (tellRoster s) := h0.trans (by simp (maxDischargeDepth := 12) [tellRoster])

@[simp] theorem admitPkg_keep {zz : State} {s : State} {src via n : Nat} {pair : Bool} (h0 : Keep zz s) :
    Keep zz (admitPkg s src via n pair) := h0.trans (by simp (maxDischargeDepth := 12) [admitPkg])

@[simp] theorem dropNonce_keep {zz : State} {s : State} {src via : Nat} (h0 : Keep zz s) :
    Keep zz (dropNonce s src via) := h0.trans (by simp (maxDischargeDepth := 12) [dropNonce])

@[simp] theorem judgeJoin_keep {zz : State} {s : State} {src via want : Nat} {demand pair : Bool} {proof nonce : W64} (h0 : Keep zz s) :
    Keep zz (judgeJoin s src via want demand pair proof nonce) := h0.trans (by
  unfold judgeJoin
  try dsimp only
  repeat' (first | split | (dsimp only))
  all_goals simp (maxDischargeDepth := 12) [*])

@[simp] theorem becomeMember_keep {zz : State} {s : State} {k keeper : Nat} (h0 : Keep zz s) :
    Keep zz (becomeMember s k keeper) := h0.trans (by simp (maxDischargeDepth := 12) [becomeMember])

@[simp] theorem reportLinks_keep {zz : State} {s : State} (h0 : Keep zz s) :
    Keep zz (reportLinks s) := h0.trans (by simp (maxDischargeDepth := 12) [reportLinks])

@[simp] theorem floodCtl_keep {zz : State} {s : State} {but : Nat} {m : Ctl} (h0 : Keep zz s) :
    Keep zz (floodCtl s but m) := h0.trans (by simp (maxDischargeDepth := 12) [floodCtl])

@[simp] theorem adoptClaim_keep {zz : State} {s : State} {src n : Nat} (h0 : Keep zz s) :
    Keep zz (adoptClaim s src n) := h0.trans (by unfold adoptClaim; split <;> simp (maxDischargeDepth := 12) [*])

@[simp] theorem toChildren_keep {zz : State} {s : State} {m : Ctl} (h0 : Keep zz s) :
    Keep zz (toChildren s m) := h0.trans (by simp (maxDischargeDepth := 12) [toChildren])

@[simp] theorem probeOne_keep {zz : State} {s : State} (h0 : Keep zz s) :
    Keep zz (probeOne s) := h0.trans (by unfold probeOne; split <;> simp (maxDischargeDepth := 12) [*])

@[simp] theorem followMark_keep {zz : State} {s : State} {phase : Int} (h0 : Keep zz s) :
    Keep zz (followMark s phase) := h0.trans (by unfold followMark; split <;> simp (maxDischargeDepth := 12) [*])

@[simp] theorem placeBoundary_keep {zz : State} {s : State} {delay : Nat} (h0 : Keep zz s) :
    Keep zz (placeBoundary s delay) := h0.trans (by simp (maxDischargeDepth := 12) [placeBoundary])

@[simp] theorem takeBeadMark_keep {zz : State} {s : State} {p : W16} {delay : Nat} (h0 : Keep zz s) :
    Keep zz (takeBeadMark s p delay) := h0.trans (by simp (maxDischargeDepth := 12) [takeBeadMark])

@[simp] theorem takeSub_keep {zz : State} {s : State} {src : Nat} {m : Ctl} (h0 : Keep zz s) :
    Keep zz (takeSub s src m) := h0.trans (by unfold takeSub; split <;> simp (maxDischargeDepth := 12) [*])

@[simp] theorem answerSub_keep {zz : State} {s : State} {x : Sub} (h0 : Keep zz s) :
    Keep zz (answerSub s x) := h0.trans (by
  unfold answerSub
  try dsimp only
  repeat' (first | split | (dsimp only))
  all_goals simp (maxDischargeDepth := 12) [*])

@[simp] theorem takeReport_keep {zz : State} {s : State} {src cmd answer : Nat} (h0 : Keep zz s) :
    Keep zz (takeReport s src cmd answer) := h0.trans (by
  unfold takeReport
  try dsimp only
  repeat' (first | split | (dsimp only))
  all_goals simp (maxDischargeDepth := 12) [*])

@[simp] theorem announce_keep {zz : State} {s : State} {n : Nat} {v : W32} (h0 : Keep zz s) :
    Keep zz (announce s n v) := h0.trans (by simp (maxDischargeDepth := 12) [announce])

@[simp] theorem mirrorSet_keep {zz : State} {s : State} {w : Nat} {v : W32} (h0 : Keep zz s) :
    Keep zz (mirrorSet s w v) := h0.trans (by simp (maxDischargeDepth := 12) [mirrorSet])

end Sys2Proof.Machine
end

