-- ==== Sys2Proof/Laws/Keep/Mail.lean ====
section
/-! SUPPORT. The operations of Machine/Mail.lean keep what `Keep` says. -/

namespace Sys2Proof.Machine

open Sys2Proof

set_option linter.unusedSimpArgs false
set_option linter.unusedTactic false
set_option linter.unreachableTactic false

@[simp] theorem linkTrained_keep {zz : State} {s : State} {m01 m23 : Bool} (h0 : Keep zz s) :
    Keep zz (linkTrained s m01 m23) := h0.trans (by simp (maxDischargeDepth := 12) [linkTrained])

@[simp] theorem setH2f_keep {zz : State} {s : State} {m : Nat} {x : H2F} (h0 : Keep zz s) :
    Keep zz (setH2f s m x) := h0.trans (by simp (maxDischargeDepth := 12) [setH2f])

@[simp] theorem setReqs_keep {zz : State} {s : State} {m : Nat} {l : List Req} (h0 : Keep zz s) :
    Keep zz (setReqs s m l) := h0.trans (by simp (maxDischargeDepth := 12) [setReqs])

@[simp] theorem setReplies_keep {zz : State} {s : State} {m : Nat} {l : List Bytes} (h0 : Keep zz s) :
    Keep zz (setReplies s m l) := h0.trans (by simp (maxDischargeDepth := 12) [setReplies])

@[simp] theorem aerReport_keep {zz : State} {s : State} {off : Nat} (h0 : Keep zz s) :
    Keep zz (aerReport s off) := h0.trans (by simp (maxDischargeDepth := 12) [aerReport])

@[simp] theorem mailReject_keep {zz : State} {s : State} {m r : Nat} (h0 : Keep zz s) :
    Keep zz (mailReject s m r) := h0.trans (by simp (maxDischargeDepth := 12) [mailReject])

@[simp] theorem mailData_keep {zz : State} {s : State} {m w : Nat} {v : W32} (h0 : Keep zz s) :
    Keep zz (mailData s m w v) := h0.trans (by unfold mailData; split <;> simp (maxDischargeDepth := 12) [*])

@[simp] theorem mailSend_keep {zz : State} {s : State} {m : Nat} {v : W32} (h0 : Keep zz s) :
    Keep zz (mailSend s m v) := h0.trans (by unfold mailSend; split <;> simp (maxDischargeDepth := 12) [*])

@[simp] theorem setInner_keep {zz : State} {s : State} {n : Nat} {x : H2F} (h0 : Keep zz s) :
    Keep zz (setInner s n x) := h0.trans (by simp (maxDischargeDepth := 12) [setInner])

@[simp] theorem innerWrite_keep {zz : State} {s : State} {n : Nat} {r : Option H2F} (h0 : Keep zz s) : Keep zz (innerWrite s n r).1 := by
  unfold innerWrite
  split <;> simp (maxDischargeDepth := 12) [h0]

@[simp] theorem innerData_keep {zz : State} {s : State} {n w : Nat} {v : W32} (h0 : Keep zz s) : Keep zz (innerData s n w v).1 :=
  innerWrite_keep h0

@[simp] theorem innerSend_keep {zz : State} {s : State} {n : Nat} {v : W32} (h0 : Keep zz s) : Keep zz (innerSend s n v).1 :=
  innerWrite_keep h0

@[simp] theorem innerTake_keep {zz : State} {s : State} {n : Nat} (h0 : Keep zz s) :
    Keep zz (innerTake s n) := h0.trans (by simp (maxDischargeDepth := 12) [innerTake])

@[simp] theorem mailClear_keep {zz : State} {s : State} {m : Nat} {v : W32} (h0 : Keep zz s) :
    Keep zz (mailClear s m v) := h0.trans (by simp (maxDischargeDepth := 12) [mailClear])

/-- What the firmware does with a request keeps these. -/
def AnsKeep (s : State) : Ans → Prop
  | .now t _ _ => Keep s t
  | .later t => Keep s t

@[simp] theorem request_keep {zz : State} {s : State} {m ty : Nat} {f : State → Bytes → Ans} (h0 : Keep zz s)
    (hf : ∀ t b, AnsKeep t (f t b)) : Keep zz (request s m ty f) := by
  refine h0.trans ?_
  unfold request
  dsimp only
  repeat' split
  all_goals first
    | exact Keep.refl _
    | (simp (maxDischargeDepth := 12); done)
    | (next h => have k := hf (setReqs s m ‹_›) (Req.msg ‹_›); rw [h] at k; simp only [AnsKeep] at k
                 have k := setReqs_keep (m := m) (l := ‹_›) (Keep.refl s) |>.trans k
                 simp (maxDischargeDepth := 12) [k])

@[simp] theorem endStops_keep {zz : State} {s : State} {b : Bytes} (h0 : Keep zz s) :
    Keep zz (endStops s b) := h0.trans (by simp (maxDischargeDepth := 12) [endStops])

@[simp] theorem settleStop_keep {zz : State} {s : State} {m : Nat} (h0 : Keep zz s) :
    Keep zz (settleStop s m) := h0.trans (by unfold settleStop; split <;> simp (maxDischargeDepth := 12) [*])

@[simp] theorem settleBad_keep {zz : State} {s : State} {m : Nat} (h0 : Keep zz s) :
    Keep zz (settleBad s m) := h0.trans (by
  unfold settleBad
  try dsimp only
  repeat' (first | split | (dsimp only))
  all_goals simp (maxDischargeDepth := 12) [*])

@[simp] theorem unregister_keep {zz : State} {s : State} {c : Nat} (h0 : Keep zz s) :
    Keep zz (unregister s c) := h0.trans (by simp (maxDischargeDepth := 12) [unregister])

theorem mapBacked_keep {p size : Nat} {w : Bool} : ∀ {l : List Nat} {s t : State}, mapBacked p size w s l = some t → Keep s t
  | [], s, t, h => by cases h; exact Keep.refl s
  | a :: l, s, t, h => by
    unfold mapBacked at h
    repeat' split at h
    all_goals first
      | (simp at h; done)
      | exact ((physAllocAny_keep ‹_›).trans (putPtes_keep ‹_›)).trans (mapBacked_keep h)

theorem mapLazy_keep {s t : State} {p size : Nat} {w : Bool} {l : List Nat} (h : mapLazy s p size w l = some t) : Keep s t :=
  putPtes_keep h

@[simp] theorem unmapPages_keep {zz : State} {s : State} {m p dva n : Nat} {l : List (Nat × W64 × Nat)} (h0 : Keep zz s) :
    Keep zz (unmapPages s m p dva n l) := h0.trans (by simp (maxDischargeDepth := 12) [unmapPages])

theorem backPages_keep {p : Nat} : ∀ {l : List (Nat × W64 × Nat)} {s t : State}, backPages p s l = some t → Keep s t
  | [], s, t, h => by cases h; exact Keep.refl s
  | (a, e, size) :: l, s, t, h => by
    unfold backPages at h
    repeat' split at h
    all_goals first
      | (simp at h; done)
      | exact ((pmWrite_keep (physAllocAny_keep ‹_›)).trans (putPtes_keep ‹_›)).trans (backPages_keep h)

@[simp] theorem askJoin_keep {zz : State} {s : State} {want : Nat} {demand : Bool} (h0 : Keep zz s) :
    Keep zz (askJoin s want demand) := h0.trans (by simp (maxDischargeDepth := 12) [askJoin])

@[simp] theorem tellLeave_keep {zz : State} {s : State} (h0 : Keep zz s) :
    Keep zz (tellLeave s) := h0.trans (by simp (maxDischargeDepth := 12) [tellLeave])

@[simp] theorem startLeave_keep {zz : State} {s : State} {m : Nat} (h0 : Keep zz s) :
    Keep zz (startLeave s m) := h0.trans (by simp (maxDischargeDepth := 12) [startLeave])

end Sys2Proof.Machine
end

