-- ==== Sys2Proof/Laws/Keep/Boot.lean ====
section
/-! SUPPORT. The operations of Machine/Boot.lean keep what `Keep` says. -/

namespace Sys2Proof.Machine

open Sys2Proof

set_option linter.unusedSimpArgs false
set_option linter.unusedTactic false
set_option linter.unreachableTactic false

@[simp] theorem raiseFault_keep {zz : State} {s : State} {n : Nat} (h0 : Keep zz s) :
    Keep zz (raiseFault s n) := h0.trans (by simp (maxDischargeDepth := 12) [raiseFault])

@[simp] theorem setSec_keep {zz : State} {s : State} {f : Sec → Sec} (h0 : Keep zz s) (hf : SecKeep s.sec (f s.sec)) :
    Keep zz (setSec s f) := h0.trans (by simp (maxDischargeDepth := 12) [setSec, hf])

@[simp] theorem setCode_keep {zz : State} {s : State} {code : Nat} (h0 : Keep zz s) :
    Keep zz (setCode s code) := h0.trans (by simp (maxDischargeDepth := 12) [setCode])

@[simp] theorem romTo_sec {r : Rom} {x : Sec} : SecKeep x (romTo r x) := secKeep_of rfl rfl rfl rfl rfl rfl rfl rfl rfl rfl rfl

@[simp] theorem mediumTo_sec {k : BitVec 2} {n : Nat} {x : Sec} : SecKeep x (mediumTo k n x) := secKeep_of rfl rfl rfl rfl rfl rfl rfl rfl rfl rfl rfl

@[simp] theorem codeOf_sec {c : Bool} {n : Nat} {x : Sec} : SecKeep x (codeOf c n x) := secKeep_of rfl rfl rfl rfl rfl rfl rfl rfl rfl rfl rfl

@[simp] theorem romStop_keep {zz : State} {s : State} {code : Nat} (h0 : Keep zz s) :
    Keep zz (romStop s code) := h0.trans (by
  unfold romStop
  try dsimp only
  repeat' (first | split | (refine Keep.foldl ?_ (fun _ _ => ?_)) | (dsimp only))
  all_goals simp (maxDischargeDepth := 12) [*])

@[simp] theorem romTrain_keep {zz : State} {s : State} {medium : Nat} (h0 : Keep zz s) :
    Keep zz (romTrain s medium) := h0.trans (by simp (maxDischargeDepth := 12) [romTrain])

@[simp] theorem trySource_keep {zz : State} {s : State} {src : Nat} {second : Bool} (h0 : Keep zz s) :
    Keep zz (trySource s src second) := h0.trans (by
  unfold trySource
  try dsimp only
  repeat' (first | split | (refine Keep.foldl ?_ (fun _ _ => ?_)) | (dsimp only))
  all_goals simp (maxDischargeDepth := 12) [*])

@[simp] theorem sourceFails_keep {zz : State} {s : State} {code : Nat} (h0 : Keep zz s) :
    Keep zz (sourceFails s code) := h0.trans (by
  unfold sourceFails
  try dsimp only
  repeat' (first | split | (refine Keep.foldl ?_ (fun _ _ => ?_)) | (dsimp only))
  all_goals simp (maxDischargeDepth := 12) [*])

@[simp] theorem secStart_sec {n : Nat} {x : Sec} : SecKeep x (secStart n x) := secKeep_of rfl rfl rfl rfl rfl rfl rfl rfl rfl rfl rfl

@[simp] theorem spendLeaf_sec {x : Sec} : SecKeep x (spendLeaf x) := by
  unfold spendLeaf
  split
  · exact ⟨⟨rfl, rfl, rfl, rfl, rfl, rfl⟩, ⟨Nat.le_refl _, Nat.le_succ _⟩, fun h => ⟨h, rfl, rfl⟩⟩
  · exact secKeep_of rfl rfl rfl rfl rfl rfl rfl rfl rfl rfl rfl

@[simp] theorem startRom_keep {zz : State} {s : State} {fusesOk : Bool} (h0 : Keep zz s) :
    Keep zz (startRom s fusesOk) := h0.trans (by
  unfold startRom
  try dsimp only
  repeat' (first | split | (refine Keep.foldl ?_ (fun _ _ => ?_)) | (dsimp only))
  all_goals simp (maxDischargeDepth := 12) [*])

@[simp] theorem bootedImage_sec {b : Bytes} {n : Nat} {c : Bool} {x : Sec} : SecKeep x (bootedImage b n c x) := secKeep_of rfl rfl rfl rfl rfl rfl rfl rfl rfl rfl rfl

@[simp] theorem acceptImage_keep {zz : State} {s : State} {b : Bytes} {src : Nat} {second : Bool} (h0 : Keep zz s) :
    Keep zz (acceptImage s b src second) := h0.trans (by
  unfold acceptImage
  try dsimp only
  repeat' (first | split | (refine Keep.foldl ?_ (fun _ _ => ?_)) | (dsimp only))
  all_goals simp (maxDischargeDepth := 12) [*])

@[simp] theorem checkImage_keep {zz : State} {s : State} {b : Bytes} {src : Nat} {second : Bool} (h0 : Keep zz s) :
    Keep zz (checkImage s b src second) := h0.trans (by simp (maxDischargeDepth := 12) [checkImage])

@[simp] theorem sendImage_keep {zz : State} {s : State} {dst : Nat} (h0 : Keep zz s) :
    Keep zz (sendImage s dst) := h0.trans (by simp (maxDischargeDepth := 12) [sendImage])

@[simp] theorem dmaFaulted_keep {zz : State} {s : State} (h0 : Keep zz s) :
    Keep zz (dmaFaulted s) := h0.trans (by simp (maxDischargeDepth := 12) [dmaFaulted])

end Sys2Proof.Machine
end

