-- ==== Sys2Proof/Machine/Pci.lean ====
section
/-! DEFINITION. The configuration space of the PCIe function as software reads and writes it (tables *Configuration identity and
capabilities*, *BARs*; R9, R368, R375). The opcode table has no row for a configuration access: these functions say what one
does. The places of the registers are those of the PCI Express standard; where the standard lets the function place a
capability, the model does (notes/assumptions/49.md). -/

namespace Sys2Proof.Machine

open Sys2Proof

/-- The PCIe Revision ID is CRN_CHIP_ID[15:8] (R9). -/
def revisionId : Nat := bits chipId 15 8

/-- The capability with Device Control, and MSI-X, in the first 256 bytes. -/
def capPcie : Nat := 0x40
def capMsix : Nat := 0xB0
/-- AER, PASID and the end of the list of extended capabilities. -/
def capAer : Nat := 0x100
def capPasid : Nat := 0x150

/-- A 32-bit read of the configuration space. The address in the logged header is the offset in BAR0: its base is the
host's. -/
def cfgRead (s : State) (o : Nat) : W32 :=
  let x := s.io
  BitVec.ofNat 32
    (if o = 0x00 then 0x4B641F5A
     else if o = 0x08 then 0x12000000 + revisionId
     else if o = 0x10 ∨ o = 0x18 ∨ o = 0x20 then 0x4
     else if o = 0x34 then capPcie
     else if o = capPcie then 0x0010 + capMsix * 2 ^ 8 + 2 * 2 ^ 16
     else if o = capPcie + 0x08 then b2n x.corEn
     else if o = capPcie + 0x24 then 0xF
     else if o = capMsix then 0x0011 + 2047 * 2 ^ 16
     else if o = capMsix + 0x4 then 0x300004
     else if o = capMsix + 0x8 then 0x308004
     else if o = capAer then 0x0001 + 2 * 2 ^ 16 + capPasid * 2 ^ 20
     else if o = capAer + 0x04 then b2n x.aerAbort * 2 ^ 15
     else if o = capAer + 0x0C then b2n x.aerFatal * 2 ^ 15
     else if o = capAer + 0x10 then b2n x.aerAdvisory * 2 ^ 13
     else if o = capAer + 0x24 then x.aerLog.elim 0 fun a => a
     else if o = capPasid then 0x001B + 1 * 2 ^ 16
     else if o = capPasid + 0x04 then 20 * 2 ^ 8
     else 0)

/-- A 32-bit write of the configuration space: the error bits clear where a 1 is written, the severity of Completer Abort and
the enable of correctable error reporting are stored. -/
def cfgWrite (s : State) (o : Nat) (v : W32) : State :=
  let x := s.io
  if o = capPcie + 0x08 then { s with io := { x with corEn := v.getLsbD 0 } }
  else if o = capAer + 0x04 then
    { s with io := { x with aerAbort := x.aerAbort && !v.getLsbD 15, aerLog := if v.getLsbD 15 then none else x.aerLog } }
  else if o = capAer + 0x0C then { s with io := { x with aerFatal := v.getLsbD 15 } }
  else if o = capAer + 0x10 then { s with io := { x with aerAdvisory := x.aerAdvisory && !v.getLsbD 13 } }
  else s

/-- The reset value of a word of the MSI-X table: each vector is masked, by bit 0 of its last word (notes/assumptions/49.md). -/
def msixDefault (i : Nat) : W32 := if i % 4 = 3 then 1 else 0
/-- A 32-bit read of the MSI-X table of 2,048 entries at BAR4 offset 0x30_0000 (table *BAR4*). -/
def msixRead (s : State) (o : Nat) : W32 :=
  if 0x300000 ≤ o ∧ o < 0x308000 then tget (msixDefault (o / 4)) s.io.msixTable ((o - 0x300000) / 4) else 0
/-- A 32-bit write of the MSI-X table. -/
def msixWrite (s : State) (o : Nat) (v : W32) : State :=
  if 0x300000 ≤ o ∧ o < 0x308000 then
    { s with io := { s.io with
        msixTable := tput (msixDefault (o / 4)) s.io.msixTable ((o - 0x300000) / 4) v } }
  else s

end Sys2Proof.Machine
end

