-- ==== Sys2Proof/Laws/Keep/Pci.lean ====
section
/-! SUPPORT. The operations of Machine/Pci.lean keep what `Keep` says. -/

namespace Sys2Proof.Machine

open Sys2Proof

set_option linter.unusedSimpArgs false
set_option linter.unusedTactic false
set_option linter.unreachableTactic false

@[simp] theorem cfgWrite_keep {zz : State} {s : State} {o : Nat} {v : W32} (h0 : Keep zz s) :
    Keep zz (cfgWrite s o v) := h0.trans (by simp (maxDischargeDepth := 12) [cfgWrite])

@[simp] theorem msixWrite_keep {zz : State} {s : State} {o : Nat} {v : W32} (h0 : Keep zz s) :
    Keep zz (msixWrite s o v) := h0.trans (by unfold msixWrite; split <;> simp)

end Sys2Proof.Machine
end

