-- ==== Sys2Proof/Laws/Keep/Reset.lean ====
section
/-! SUPPORT. The operations of Machine/Reset.lean keep what `Keep` says. -/

namespace Sys2Proof.Machine

open Sys2Proof

set_option linter.unusedSimpArgs false
set_option linter.unusedTactic false
set_option linter.unreachableTactic false

@[simp] theorem clearPackage_keep {zz : State} {s : State} (h0 : Keep zz s) : Keep zz (clearPackage s) :=
  h0.trans ⟨rfl, Nat.le_refl _, secKeep_of rfl rfl rfl rfl rfl rfl rfl rfl rfl rfl rfl, fun _ => rfl, pwrKeep_lt (show (0 : BitVec 2).toNat < 3 by decide),
    beadKeep_none rfl rfl, rfl, rfl⟩

@[simp] theorem packageReset_keep {zz : State} {s : State} {cause : Nat} {test : Bool} (h0 : Keep zz s) :
    Keep zz (packageReset s cause test) :=
  Keep.mk (clearPackage_keep h0) (Nat.le_refl _) (BeadKeep.refl _) (PileKeep.refl _) (SecKeep.refl _) ⟨rfl, rfl⟩ (PwrKeep.refl _)

/-- A power-on reset keeps the fuses, the queue and the time; the straps it may sample anew. -/
theorem alwaysOnReset_stands (s : State) (v p : Bool) (w : Straps) :
    (alwaysOnReset s v p w).pending = s.pending ∧ (alwaysOnReset s v p w).time = s.time ∧
      SecKeep { s.sec with bootsel := if p then w.bootsel else s.sec.bootsel } (alwaysOnReset s v p w).sec ∧
      PileKeep s.pile (alwaysOnReset s v p w).pile ∧ PwrKeep s.pwr (alwaysOnReset s v p w).pwr ∧
      BeadKeep s.bead (alwaysOnReset s v p w).bead :=
  ⟨rfl, rfl, secKeep_of rfl rfl rfl rfl rfl rfl rfl rfl rfl rfl rfl, fun _ => rfl, pwrKeep_lt (show (0 : BitVec 2).toNat < 3 by decide),
    beadKeep_none rfl rfl⟩

@[simp] theorem hold_keep {zz : State} {s : State} {n : Nat} {porOnly : Bool} (h0 : Keep zz s) :
    Keep zz (hold s n porOnly) := h0.trans (by simp (maxDischargeDepth := 12) [hold])

@[simp] theorem testHolds_keep {zz : State} {s : State} {n : Nat} (h0 : Keep zz s) :
    Keep zz (testHolds s n) := h0.trans (by simp (maxDischargeDepth := 12) [testHolds])

@[simp] theorem retryAll_keep {zz : State} {s : State} (h0 : Keep zz s) :
    Keep zz (retryAll s) := h0.trans (by simp (maxDischargeDepth := 12) [retryAll])

@[simp] theorem undoUnmaps_keep {zz : State} {s : State} (h0 : Keep zz s) :
    Keep zz (undoUnmaps s) := h0.trans (by simp (maxDischargeDepth := 12) [undoUnmaps])

@[simp] theorem rerunAll_keep {zz : State} {s : State} (h0 : Keep zz s) :
    Keep zz (rerunAll s) := h0.trans (by simp (maxDischargeDepth := 12) [rerunAll])

@[simp] theorem freshFirmware_keep {zz : State} {s : State} (h0 : Keep zz s) :
    Keep zz (freshFirmware s) := h0.trans (by simp (maxDischargeDepth := 12) [freshFirmware])

@[simp] theorem firmwareReset_keep {zz : State} {s : State} (h0 : Keep zz s) :
    Keep zz (firmwareReset s) := h0.trans (by simp (maxDischargeDepth := 12) [firmwareReset])

@[simp] theorem setCause_keep {zz : State} {s : State} {n : Nat} (h0 : Keep zz s) :
    Keep zz (setCause s n) := h0.trans (by simp (maxDischargeDepth := 12) [setCause])

@[simp] theorem thermal_keep {zz : State} {s : State} (h0 : Keep zz s) :
    Keep zz (thermal s) := h0.trans (by simp (maxDischargeDepth := 12) [thermal])

@[simp] theorem setFences_keep {zz : State} {s : State} {cmp pile link : List Nat} (h0 : Keep zz s) :
    Keep zz (setFences s cmp pile link) := h0.trans (by simp (maxDischargeDepth := 12) [setFences])

@[simp] theorem atStep_keep {zz : State} {s : State} {n : Nat} (h0 : Keep zz s) :
    Keep zz (atStep s n) := h0.trans (by simp (maxDischargeDepth := 12) [atStep])

@[simp] theorem selfTest_keep {zz : State} {s : State} {t : SelfTest} (h0 : Keep zz s) :
    Keep zz (selfTest s t) := h0.trans (by simp (maxDischargeDepth := 12) [selfTest])

@[simp] theorem releaseCrown_keep {zz : State} {s : State} {t : SelfTest} (h0 : Keep zz s) :
    Keep zz (releaseCrown s t) := h0.trans (by simp (maxDischargeDepth := 12) [releaseCrown])

@[simp] theorem releaseDone_keep {zz : State} {s : State} (h0 : Keep zz s) :
    Keep zz (releaseDone s) := h0.trans (by simp (maxDischargeDepth := 12) [releaseDone])

@[simp] theorem releaseClocks_keep {zz : State} {s : State} {t : SelfTest} (h0 : Keep zz s) :
    Keep zz (releaseClocks s t) := h0.trans (by simp (maxDischargeDepth := 12) [releaseClocks])

@[simp] theorem initPiles_keep {zz : State} {s : State} {bad : List Nat} (h0 : Keep zz s) :
    Keep zz (initPiles s bad) := h0.trans (by simp (maxDischargeDepth := 12) [initPiles])

@[simp] theorem killDie_keep {zz : State} {s : State} {b : Nat} (h0 : Keep zz s) :
    Keep zz (killDie s b) := h0.trans (by simp (maxDischargeDepth := 12) [killDie])

@[simp] theorem blockResets_keep {zz : State} {s : State} {b : Nat} (h0 : Keep zz s) : Keep zz (blockResets s b) := by
  refine h0.trans ?_
  unfold blockResets
  dsimp only
  repeat' split
  · simp (maxDischargeDepth := 12)
  · simp (maxDischargeDepth := 12)
  · exact Keep.foldl (Keep.refl s) fun t p => by split <;> simp (maxDischargeDepth := 12)
  · exact Keep.mk (clearPackage_keep (Keep.refl s)) (Nat.le_refl _) (BeadKeep.refl _) (PileKeep.refl _) (SecKeep.refl _) ⟨rfl, rfl⟩
      (PwrKeep.refl _)
  · exact Keep.refl s

@[simp] theorem earlyCaught_keep {zz : State} {s : State} {b : Byte} (h0 : Keep zz s) :
    Keep zz (earlyCaught s b) := h0.trans (by simp (maxDischargeDepth := 12) [earlyCaught])

end Sys2Proof.Machine
end

