-- ==== Sys2Proof/Laws/Keep/Debug.lean ====
section
/-! SUPPORT. The operations of Machine/Debug.lean keep what `Keep` says. -/

namespace Sys2Proof.Machine

open Sys2Proof

set_option linter.unusedSimpArgs false
set_option linter.unusedTactic false
set_option linter.unreachableTactic false

@[simp] theorem openSession_keep {zz : State} {s : State} (h0 : Keep zz s) :
    Keep zz (openSession s) := h0.trans (by simp (maxDischargeDepth := 12) [openSession])

@[simp] theorem loadIr_keep {zz : State} {s : State} {code : Byte} (h0 : Keep zz s) :
    Keep zz (loadIr s code) := h0.trans (by simp (maxDischargeDepth := 12) [loadIr])

@[simp] theorem forceBlock_keep {zz : State} {s : State} {b : Byte} (h0 : Keep zz s) :
    Keep zz (forceBlock s b) := h0.trans (by simp (maxDischargeDepth := 12) [forceBlock])

end Sys2Proof.Machine
end

