-- ==== Sys2Proof/Laws/Keep/Power.lean ====
section
/-! SUPPORT. The operations of Machine/Power.lean keep what `Keep` says. -/

namespace Sys2Proof.Machine

open Sys2Proof

set_option linter.unusedSimpArgs false
set_option linter.unusedTactic false
set_option linter.unreachableTactic false

@[simp] theorem setRule_keep {zz : State} {s : State} {r : Nat} {x : Rule} (h0 : Keep zz s) :
    Keep zz (setRule s r x) := h0.trans (by simp (maxDischargeDepth := 12) [setRule])

@[simp] theorem coresDown_keep {zz : State} {s : State} (h0 : Keep zz s) :
    Keep zz (coresDown s) := h0.trans (by
  unfold coresDown
  try dsimp only
  repeat' (first | split | (dsimp only))
  all_goals simp (maxDischargeDepth := 12) [*])

@[simp] theorem loadRanks_keep {zz : State} {s : State} {w : WSet} (h0 : Keep zz s) :
    Keep zz (loadRanks s w) := h0.trans (by simp (maxDischargeDepth := 12) [loadRanks])

@[simp] theorem coresRise_keep {zz : State} {s : State} (h0 : Keep zz s) :
    Keep zz (coresRise s) := h0.trans (by simp (maxDischargeDepth := 12) [coresRise])

@[simp] theorem portsFall_keep {zz : State} {s : State} (h0 : Keep zz s) :
    Keep zz (portsFall s) := h0.trans (by simp (maxDischargeDepth := 12) [portsFall])

@[simp] theorem pilesDown_keep {zz : State} {s : State} (h0 : Keep zz s) :
    Keep zz (pilesDown s) := h0.trans (by simp (maxDischargeDepth := 12) [pilesDown])

@[simp] theorem crownDown_keep {zz : State} {s : State} (h0 : Keep zz s) :
    Keep zz (crownDown s) := h0.trans (by simp (maxDischargeDepth := 12) [crownDown])

@[simp] theorem s2Down_keep {zz : State} {s : State} {k : Nat} (h0 : Keep zz s) :
    Keep zz (s2Down s k) := h0.trans (by simp (maxDischargeDepth := 12) [s2Down])

@[simp] theorem s2Undo_keep {zz : State} {s : State} {k : Nat} (h0 : Keep zz s) :
    Keep zz (s2Undo s k) := h0.trans (by simp (maxDischargeDepth := 12) [s2Undo])

@[simp] theorem vddcWrite_keep {zz : State} {s : State} {g : Nat} {v : W32} (h0 : Keep zz s) :
    Keep zz (vddcWrite s g v) := h0.trans (by simp (maxDischargeDepth := 12) [vddcWrite])

@[simp] theorem governGroup_keep {zz : State} {s : State} {need : List Nat} {hot cool : List Bool} {ci cp ca : List Nat} {g : Nat} (h0 : Keep zz s) :
    Keep zz (governGroup s need hot cool ci cp ca g) := h0.trans (by simp (maxDischargeDepth := 12) [governGroup])

end Sys2Proof.Machine
end

