-- ==== Sys2Proof/Laws/Keep/Monitor.lean ====
section
/-! SUPPORT. The operations of Machine/Monitor.lean keep what `Keep` says. -/

namespace Sys2Proof.Machine

open Sys2Proof

set_option linter.unusedSimpArgs false
set_option linter.unusedTactic false
set_option linter.unreachableTactic false

@[simp] theorem setChan_keep {zz : State} {s : State} {c : Nat} {x : Chan} (h0 : Keep zz s) :
    Keep zz (setChan s c x) := h0.trans (by simp (maxDischargeDepth := 12) [setChan])

@[simp] theorem notePile_keep {zz : State} {s : State} {c : Nat} {x : W32} (h0 : Keep zz s) :
    Keep zz (notePile s c x) := h0.trans (by simp (maxDischargeDepth := 12) [notePile])

@[simp] theorem sampleChan_keep {zz : State} {s : State} {c : Nat} {x : W32} (h0 : Keep zz s) :
    Keep zz (sampleChan s c x) := h0.trans (by simp (maxDischargeDepth := 12) [sampleChan])

@[simp] theorem countRules_keep {zz : State} {s : State} {due : List Nat} (h0 : Keep zz s) :
    Keep zz (countRules s due) := h0.trans (by simp (maxDischargeDepth := 12) [countRules])

@[simp] theorem emptyBinds_keep {zz : State} {s : State} {p : Nat} (h0 : Keep zz s) :
    Keep zz (emptyBinds s p) := h0.trans (by simp (maxDischargeDepth := 12) [emptyBinds])

@[simp] theorem pinsLow_keep {zz : State} {s : State} {p : Nat} (h0 : Keep zz s) :
    Keep zz (pinsLow s p) := h0.trans (by simp (maxDischargeDepth := 12) [pinsLow])

@[simp] theorem shutAudio_keep {zz : State} {s : State} (h0 : Keep zz s) :
    Keep zz (shutAudio s) := h0.trans (by simp (maxDischargeDepth := 12) [shutAudio])

@[simp] theorem shutDomain_keep {zz : State} {s : State} {d : Nat} (h0 : Keep zz s) :
    Keep zz (shutDomain s d) := h0.trans (by simp (maxDischargeDepth := 12) [shutDomain])

@[simp] theorem returnDomain_keep {zz : State} {s : State} {d : Nat} (h0 : Keep zz s) :
    Keep zz (returnDomain s d) := h0.trans (by simp (maxDischargeDepth := 12) [returnDomain])

@[simp] theorem capClocks_keep {zz : State} {s : State} {level : Nat} (h0 : Keep zz s) :
    Keep zz (capClocks s level) := h0.trans (by simp (maxDischargeDepth := 12) [capClocks])

@[simp] theorem ruleFault_keep {zz : State} {s : State} {on : Bool} (h0 : Keep zz s) :
    Keep zz (ruleFault s on) := h0.trans (by simp (maxDischargeDepth := 12) [ruleFault])

@[simp] theorem setShut_keep {zz : State} {s : State} {new : List Nat} (h0 : Keep zz s) :
    Keep zz (setShut s new) := h0.trans (by simp (maxDischargeDepth := 12) [setShut])

@[simp] theorem shutTo_keep {zz : State} {s : State} {new : List Nat} (h0 : Keep zz s) :
    Keep zz (shutTo s new) := h0.trans (by simp (maxDischargeDepth := 12) [shutTo])

@[simp] theorem applyRules_keep {zz : State} {s : State} (h0 : Keep zz s) :
    Keep zz (applyRules s) := h0.trans (by simp (maxDischargeDepth := 12) [applyRules])

@[simp] theorem wakeNow_keep {zz : State} {s : State} (h0 : Keep zz s) :
    Keep zz (wakeNow s) := h0.trans (by simp (maxDischargeDepth := 12) [wakeNow])

@[simp] theorem turnRules_keep {zz : State} {s : State} (h0 : Keep zz s) :
    Keep zz (turnRules s) := h0.trans (by simp (maxDischargeDepth := 12) [turnRules])

@[simp] theorem fireBits_keep {zz : State} {s : State} {l : List Nat} (h0 : Keep zz s) :
    Keep zz (fireBits s l) := h0.trans (by simp (maxDischargeDepth := 12) [fireBits])

@[simp] theorem fireEvents_keep {zz : State} {s : State} {l : List Nat} (h0 : Keep zz s) :
    Keep zz (fireEvents s l) := h0.trans (by simp (maxDischargeDepth := 12) [fireEvents])

@[simp] theorem rulesAct_keep {zz : State} {s : State} (h0 : Keep zz s) :
    Keep zz (rulesAct s) := h0.trans (by simp (maxDischargeDepth := 12) [rulesAct])

@[simp] theorem chanWrite_keep {zz : State} {s : State} {c : Nat} {v : W32} (h0 : Keep zz s) :
    Keep zz (chanWrite s c v) := h0.trans (by simp (maxDischargeDepth := 12) [chanWrite])

@[simp] theorem ruleWrite_keep {zz : State} {s : State} {r w : Nat} {v : W32} (h0 : Keep zz s) :
    Keep zz (ruleWrite s r w v) := h0.trans (by simp (maxDischargeDepth := 12) [ruleWrite])

end Sys2Proof.Machine
end

