-- ==== Sys2Proof/Laws/Keep/Health.lean ====
section
/-! SUPPORT. The operations of Machine/Health.lean keep what `Keep` says. -/

namespace Sys2Proof.Machine

open Sys2Proof

set_option linter.unusedSimpArgs false
set_option linter.unusedTactic false
set_option linter.unreachableTactic false

@[simp] theorem tallyAck_keep {zz : State} {s : State} {v : W32} (h0 : Keep zz s) :
    Keep zz (tallyAck s v) := h0.trans (by simp (maxDischargeDepth := 12) [tallyAck])

@[simp] theorem putEnt_keep {zz : State} {s : State} {e : Nat} {x : HealthEnt} (h0 : Keep zz s) :
    Keep zz (putEnt s e x) := h0.trans (by simp (maxDischargeDepth := 12) [putEnt])

@[simp] theorem warnEnt_keep {zz : State} {s : State} {e : Nat} (h0 : Keep zz s) :
    Keep zz (warnEnt s e) := h0.trans (by simp (maxDischargeDepth := 12) [warnEnt])

@[simp] theorem packageEnt_keep {zz : State} {s : State} (h0 : Keep zz s) :
    Keep zz (packageEnt s) := h0.trans (by unfold packageEnt; split <;> simp (maxDischargeDepth := 12) [*])

end Sys2Proof.Machine
end

