-- ==== Sys2Proof/Laws/Keep/Audio.lean ====
section
/-! SUPPORT. The operations of Machine/Audio.lean keep what `Keep` says. -/

namespace Sys2Proof.Machine

open Sys2Proof

set_option linter.unusedSimpArgs false
set_option linter.unusedTactic false
set_option linter.unreachableTactic false

@[simp] theorem audCtrl_keep {zz : State} {s : State} {p : Nat} {v : W32} {mclk : Nat} (h0 : Keep zz s) :
    Keep zz (audCtrl s p v mclk) := h0.trans (by simp (maxDischargeDepth := 12) [audCtrl])

@[simp] theorem audReg_keep {zz : State} {p : Nat} {f : State → State} {s : State} (h0 : Keep zz s) (hf : ∀ t, Keep t (f t)) :
    Keep zz (audReg p f s) := hostAccess_keep h0 fun t => by
  split
  · exact hf t
  · exact Keep.refl t

@[simp] theorem audMask_keep {zz : State} {s : State} {p : Nat} {v : W32} (h0 : Keep zz s) :
    Keep zz (audMask s p v) := h0.trans (by simp (maxDischargeDepth := 12) [audMask])

@[simp] theorem audStatusW1c_keep {zz : State} {s : State} {p : Nat} {v : W32} (h0 : Keep zz s) :
    Keep zz (audStatusW1c s p v) := h0.trans (by simp (maxDischargeDepth := 12) [audStatusW1c])

@[simp] theorem clockGone_keep {zz : State} {s : State} {p : Nat} (h0 : Keep zz s) :
    Keep zz (clockGone s p) := h0.trans (by simp (maxDischargeDepth := 12) [clockGone])

@[simp] theorem wordGone_keep {zz : State} {s : State} (h0 : Keep zz s) :
    Keep zz (wordGone s) := h0.trans (by simp (maxDischargeDepth := 12) [wordGone])

@[simp] theorem frameEdge_keep {zz : State} {s : State} {p : Nat} (h0 : Keep zz s) :
    Keep zz (frameEdge s p) := h0.trans (by simp (maxDischargeDepth := 12) [frameEdge])

@[simp] theorem startBinds_keep {zz : State} {s : State} {p : Nat} (h0 : Keep zz s) :
    Keep zz (startBinds s p) := h0.trans (by simp (maxDischargeDepth := 12) [startBinds])

@[simp] theorem slotOut_keep {zz : State} {s : State} {p slot : Nat} (h0 : Keep zz s) : Keep zz (slotOut s p slot).1 := by
  refine h0.trans ?_
  unfold slotOut
  dsimp only
  repeat' split
  all_goals simp (maxDischargeDepth := 12)

@[simp] theorem slotStep_keep {zz : State} {s : State} {p slot : Nat} {heard : W32} (h0 : Keep zz s) :
    Keep zz (slotStep s p slot heard) := h0.trans (by simp (maxDischargeDepth := 12) [slotStep])

@[simp] theorem slotSkip_keep {zz : State} {p : Nat} {s : State} {slot : Nat} (h0 : Keep zz s) :
    Keep zz (slotSkip p s slot) := h0.trans (by simp (maxDischargeDepth := 12) [slotSkip])

@[simp] theorem slotsPass_keep {zz : State} {p : Nat} : ∀ {l : List W32} {s : State}, Keep zz s → Keep zz (slotsPass p s l)
  | [], s, h0 => h0
  | v :: l, s, h0 => by
    unfold slotsPass
    repeat' split
    all_goals first | exact h0 | exact slotsPass_keep (slotStep_keep h0)

@[simp] theorem startFrame_keep {zz : State} {s : State} {p : Nat} (h0 : Keep zz s) :
    Keep zz (startFrame s p) := h0.trans (by simp (maxDischargeDepth := 12) [startFrame])

@[simp] theorem portFrame_keep {zz : State} {s : State} {p : Nat} {din : List W32} (h0 : Keep zz s) :
    Keep zz (portFrame s p din) := h0.trans (by simp (maxDischargeDepth := 12) [portFrame])

end Sys2Proof.Machine
end

