-- ==== Sys2Proof/Laws/Keep/Regs.lean ====
section
/-! SUPPORT. The operations of Machine/Regs.lean keep what `Keep` says. -/

namespace Sys2Proof.Machine

open Sys2Proof

set_option linter.unusedSimpArgs false
set_option linter.unusedTactic false
set_option linter.unreachableTactic false

@[simp] theorem beadStatusW1c_keep {zz : State} {s : State} {v : W32} (h0 : Keep zz s) :
    Keep zz (beadStatusW1c s v) := h0.trans (by simp (maxDischargeDepth := 12) [beadStatusW1c])

@[simp] theorem bootStatusW1c_keep {zz : State} {s : State} {v : W32} (h0 : Keep zz s) :
    Keep zz (bootStatusW1c s v) := h0.trans (by simp (maxDischargeDepth := 12) [bootStatusW1c])

@[simp] theorem scrubCtrl_keep {zz : State} {s : State} {n : Nat} {v : W32} (h0 : Keep zz s) :
    Keep zz (scrubCtrl s n v) := h0.trans (by simp (maxDischargeDepth := 12) [scrubCtrl])

@[simp] theorem memwinStatusW1c_keep {zz : State} {s : State} {v : W32} (h0 : Keep zz s) :
    Keep zz (memwinStatusW1c s v) := h0.trans (by simp (maxDischargeDepth := 12) [memwinStatusW1c])

@[simp] theorem crnWrite_keep {zz : State} {s : State} {o : Nat} {v : W32} (h0 : Keep zz s) :
    Keep zz (crnWrite s o v) := h0.trans (by simp (maxDischargeDepth := 12) [crnWrite])

@[simp] theorem pstateWrite_keep {zz : State} {s : State} {v : W32} (h0 : Keep zz s) :
    Keep zz (pstateWrite s v) := h0.trans (by simp (maxDischargeDepth := 12) [pstateWrite])

@[simp] theorem ncpWrite_keep {zz : State} {s : State} {o : Nat} {v : W32} (h0 : Keep zz s) :
    Keep zz (ncpWrite s o v) := h0.trans (by simp (maxDischargeDepth := 12) [ncpWrite])

@[simp] theorem mailWrite_keep {zz : State} {s : State} {o : Nat} {v : W32} (h0 : Keep zz s) :
    Keep zz (mailWrite s o v) := h0.trans (by simp (maxDischargeDepth := 12) [mailWrite])

@[simp] theorem partWrite_keep {zz : State} {s : State} {o : Nat} {v : W32} (h0 : Keep zz s) :
    Keep zz (partWrite s o v) := h0.trans (by simp (maxDischargeDepth := 12) [partWrite])

@[simp] theorem portStatusW1c_keep {zz : State} {s : State} {p : Nat} {v : W32} (h0 : Keep zz s) :
    Keep zz (portStatusW1c s p v) := h0.trans (by simp (maxDischargeDepth := 12) [portStatusW1c])

@[simp] theorem twinCtrl_keep {zz : State} {s : State} {v : W32} (h0 : Keep zz s) :
    Keep zz (twinCtrl s v) := h0.trans (by simp (maxDischargeDepth := 12) [twinCtrl])

@[simp] theorem linkWrite_keep {zz : State} {s : State} {o : Nat} {v : W32} (h0 : Keep zz s) :
    Keep zz (linkWrite s o v) := h0.trans (by simp (maxDischargeDepth := 12) [linkWrite])

@[simp] theorem wclkWrite_keep {zz : State} {s : State} {r : Nat} {v : W32} (h0 : Keep zz s) :
    Keep zz (wclkWrite s r v) := h0.trans (by simp (maxDischargeDepth := 12) [wclkWrite])

@[simp] theorem portRegWrite_keep {zz : State} {s : State} {p r : Nat} {v : W32} (h0 : Keep zz s) :
    Keep zz (portRegWrite s p r v) := h0.trans (by simp (maxDischargeDepth := 12) [portRegWrite])

@[simp] theorem audWrite_keep {zz : State} {s : State} {o : Nat} {v : W32} (h0 : Keep zz s) :
    Keep zz (audWrite s o v) := h0.trans (by simp (maxDischargeDepth := 12) [audWrite])

@[simp] theorem tallyWrite_keep {zz : State} {s : State} {o : Nat} {v : W32} (h0 : Keep zz s) :
    Keep zz (tallyWrite s o v) := h0.trans (by simp (maxDischargeDepth := 12) [tallyWrite])

@[simp] theorem hdmWrite_keep {zz : State} {s : State} {o : Nat} {v : W32} (h0 : Keep zz s) :
    Keep zz (hdmWrite s o v) := h0.trans (by simp (maxDischargeDepth := 12) [hdmWrite])

@[simp] theorem regWrite_keep {zz : State} {s : State} {off : Nat} {v : W32} (h0 : Keep zz s) :
    Keep zz (regWrite s off v) := h0.trans (by simp (maxDischargeDepth := 12) [regWrite])

@[simp] theorem barWrite_keep {zz : State} {s : State} {off width : Nat} {v : W64} (h0 : Keep zz s) :
    Keep zz (barWrite s off width v) := h0.trans (by simp (maxDischargeDepth := 12) [barWrite])

end Sys2Proof.Machine
end

