-- ==== Sys2Proof/Laws/Keep/RegRead.lean ====
section
/-! SUPPORT. The operations of Machine/RegRead.lean keep what `Keep` says. -/

namespace Sys2Proof.Machine

open Sys2Proof

set_option linter.unusedSimpArgs false
set_option linter.unusedTactic false
set_option linter.unreachableTactic false

@[simp] theorem wordRead_keep {zz : State} {s : State} {o : Nat} (h0 : Keep zz s) : Keep zz (wordRead s o).1 := by
  unfold wordRead
  split <;> simp (maxDischargeDepth := 12) [h0]

@[simp] theorem barRead_keep {zz : State} {s : State} {o w : Nat} (h0 : Keep zz s) : Keep zz (barRead s o w).1 := by
  unfold barRead
  repeat' split
  · exact wordRead_keep h0
  · exact wordRead_keep (wordRead_keep h0)
  · exact h0

@[simp] theorem acctRead_keep {zz : State} {s : State} {c k : Nat} {hi : Bool} {w : Nat} (h0 : Keep zz s) :
    Keep zz (acctRead s c k hi w).1 := by
  unfold acctRead
  dsimp only
  repeat' split
  all_goals simp (maxDischargeDepth := 12) [h0]

end Sys2Proof.Machine
end

