-- ==== Sys2Proof/Laws/Links.lean ====
section
/-! SUPPORT. What a frame that a port sends is to the port that receives it (R338). -/

namespace Sys2Proof.Machine

open Sys2Proof

/-- Bytes with their CRC-32C at offset 60 make a good image. -/
theorem frameGood_of (h d : Bytes) (hh : h.length = 60) (hd : d.length = 1472) :
    frameGood (h ++ leN 4 (crc32c (h ++ d)).toNat ++ d) = true := by
  have h1 : (h ++ leN 4 (crc32c (h ++ d)).toNat ++ d).take 60 = h := by simp [← hh]
  have h2 : (h ++ leN 4 (crc32c (h ++ d)).toNat ++ d).drop 64 = d := by
    rw [List.drop_append_of_le_length (by simp [hh])]
    rw [List.drop_eq_nil_of_le (by simp [hh])]; rfl
  have h3 : slice (h ++ leN 4 (crc32c (h ++ d)).toNat ++ d) 60 4 = leN 4 (crc32c (h ++ d)).toNat := by
    have := slice_append_mid h (leN 4 (crc32c (h ++ d)).toNat) d
    rwa [hh, length_leN] at this
  unfold frameGood
  rw [h1, h2, fieldLE, h3, ofLE_leN 4 _ (crc32c (h ++ d)).isLt]
  simp [hh, hd]

/-- A frame that a port sends is good at the port that receives it. -/
theorem frameGood_frameBytes (f : OutFrame) (ack : W16) (tx echo : W64) : frameGood (frameBytes f ack tx echo) = true := by
  unfold frameBytes
  apply frameGood_of
  · simp [zeroBytes, List.flatMap, List.range, List.range.loop]
  · simp

end Sys2Proof.Machine
end

