-- ==== Sys2Proof/Machine/Pins.lean ====
section
/-! DEFINITION. What the board sees on the 1.8 V pins whose states the reset controller and the audio ports decide (R392, R423,
R424, R470, R478): functions of the state, since no command reads a pin. -/

namespace Sys2Proof.Machine

open Sys2Proof

/-- A pin: driven to a level, an input with the weak pull-up, an input without, or released, high through the board. -/
inductive Pin where
  | driven (high : Bool)
  | pulled
  | input
  | released
deriving DecidableEq, Repr

/-- FAULT_N (R424): the code of the first fault present as pulses of a frame of 2 s, each 100 ms released and 100 ms low, and low
for the rest. The frames are counted from the start of the clock (notes/assumptions/53.md). -/
def faultPin (s : State) : Pin :=
  let t := s.time % 2000000000
  match s.rst.faults with
  | [] => .released
  | n :: _ =>
    if s.rst.step = 0 then .released
    else if t < n * 200000000 ∧ t % 200000000 < 100000000 then .released
    else .driven false

/-- THERMTRIP_N (R423): low from a trip until the next POR. -/
def thermtripPin (s : State) : Pin := if s.rst.step = 0 then .released else .driven (!s.rst.thermTrip)

/-- AUD_DOp: none while slots pass, when each slot leaves as it passes. -/
def audioOutPin (s : State) (p : Nat) : Option Pin :=
  if !audUp s then some .pulled
  else if (getAp s p).en && (getAp s p).state == 1 then none
  else some (.driven false)

/-- AUD_BCLKp and AUD_FSp: none while a master runs. -/
def audioClockPin (s : State) (p : Nat) : Option Pin :=
  if !audUp s then some .pulled
  else if !(getAp s p).master then some .input
  else if (getAp s p).en && (getAp s p).state == 1 then none
  else some (.driven false)

/-- The static address of the board-management port for SETDASA, and its provisional ID (R478). -/
def i3cStatic : BitVec 7 := 0x4B
def i3cProvisional (s : State) : BitVec 48 := s.sec.serial.setWidth 48

end Sys2Proof.Machine
end

