-- ==== Sys2Proof/Safety.lean ====
section
/-! DEFINITION. What a safe run is: every step answers a next state. -/

namespace Sys2Proof

/-- `n` steps from `s` all answer a next state. -/
def runsSafely (n : Nat) (s : Machine.State) : Prop :=
  ∃ t, core.run n s = .next t

end Sys2Proof
end

