-- ==== Sys2Proof/Tests/Slice0.lean ====
section
/-! SUPPORT. The tests: ill-formed commands that WellFormed refuses, one-step effects computed by hand from the
spec, and for every clause of the obligations a state and operands that meet its hypotheses together. -/

namespace Sys2Proof.Tests

open Sys2Proof Sys2Proof.Machine Sys2Proof.Ob

set_option Elab.async false

/-! ## States to start from -/

/-- A package whose firmware is ready, its host link up and its resets over. -/
def up : State :=
  { State.reset with
    crown := { ready := true, linkUp := true }
    rst := { step := 14, resetting := none, runTest := false }
    sec := { rom := .booted } }

/-- `up` with a registered client 0 and its ring 0. -/
def ring0 : Ring := { en := true, log2 := 4, tail := 1, vector := 9, sqBase := 0x1000, cqBase := 0x2000, pasid := 5 }
def upRing : State := { up with clients := [(0, { reg := true, rings := [(0, ring0)] })] }

/-- A core whose dispatch stands at code index 0 of a program of two words. -/
def cmd0 : Cmd := { stage := .running, gen := 1, gang := [0], started := true }
def dsp : Disp :=
  { gen := 1, gang := [0], started := true, codeSpan := 4, resSpan := 256, scrSpan := 256, count := 1, lenC := 1 }
def coreAt (w : Nat) (d : Disp) : State :=
  { up with cmds := [cmd0], cores := [(0, { imem := [(0, BitVec.ofNat 64 w), (1, 0)], disp := some d })] }
/-- The word of an opcode with the rest of its bits. -/
def opw (op rest : Nat) : Nat := op * 2 ^ 56 + rest

/-! ## The queue, reset and the invariants -/

theorem wit_queue : up.pending = [] ∧ { up with pending := [.opAdd 0] }.pending = Instr.opAdd 0 :: [] := by decide
theorem wit_invariants : Memory.wf State.reset.pile.mem = true ∧ State.reset.pwr.cur < 3 ∧
    State.reset.bead.refsel.toNat < 7 ∧ State.reset.bead.activeRef.toNat < 7 ∧ State.reset.sec.ownerSet = false ∧
    ∃ t, step State.reset = .next t := by
  exact ⟨by decide, by decide, by decide, by decide, rfl, _, rfl⟩

/-! ## The bead and register writes -/

def pll : State := { up with bead := { up.bead with en := true, activeRef := 1, refsel := 6, pendingWr := true } }
theorem wit_awake : awake up ∧ crownUp up = true := by decide
theorem wit_bead_reject : awake up ∧ (15 : W32).toNat % 2 ^ 16 < 16 ∧ bits (0x70010 : W32).toNat 18 16 = 7 ∧
    bits (0x60010 : W32).toNat 18 16 = 6 ∧ up.dom.inDomain = false ∧ awake pll ∧ pll.bead.refsel = 6 ∧
    ((481 : W32).setWidth 16 : W16) ≠ pll.bead.period := by decide
theorem wit_bead_accept : awake up ∧ 16 ≤ (16 : W32).toNat % 2 ^ 16 ∧ bits (16 : W32).toNat 18 16 ≠ 7 ∧
    (bits (16 : W32).toNat 18 16 = 6 → up.dom.inDomain = true) ∧ up.bead.refsel ≠ 6 := by decide
theorem wit_bead_edge : pll.bead.en = true ∧ pll.bead.activeRef ≠ 0 ∧
    { pll with bead := { pll.bead with refsel := 0 } }.bead.pendingWr = true ∧
    refRuns { pll with bead := { pll.bead with refsel := 0 } } 0 = true := by decide

/-! ## Doorbells and rings -/

theorem wit_tail : ringOn upRing 0 0 ∧ (17 - (getRing upRing 0 0).tail).toNat ≤ 2 ^ (getRing upRing 0 0).log2 ∧
    (16 - (getRing upRing 0 0).head).toNat ≤ 2 ^ (getRing upRing 0 0).log2 ∧
    2 ^ (getRing upRing 0 0).log2 < (18 - (getRing upRing 0 0).tail : W32).toNat ∧
    paged upRing 0 1 ∧ (getRing upRing 0 1).en = false ∧ upRing.tally.slots = [] := by decide
theorem wit_cancel : ringOn upRing 0 0 ∧ (∀ x ∈ upRing.cmds, ¬ (x.client = 0 ∧ x.ring = 0)) ∧
    0 < ((getRing upRing 0 0).tail - (getRing upRing 0 0).fetched).toNat ∧
    ((getRing upRing 0 0).tail - (getRing upRing 0 0).fetched).toNat ≤ 2 ^ (getRing upRing 0 0).log2 ∧
    2 ^ (getRing upRing 0 0).log2 < ((getRing upRing 0 0).tail - (1 - 17) : W32).toNat := by decide
theorem wit_dbctrl : awake upRing ∧ clientOk 0 = true ∧ (getClient upRing 0).reg = true ∧ (1 : W32).getLsbD 0 = true ∧
    (1 : W32).getLsbD 1 = false ∧ (2 : W32).getLsbD 0 = false ∧ (2 : W32).getLsbD 1 = true ∧
    (3 : W32).getLsbD 0 = true ∧ (3 : W32).getLsbD 1 = true ∧ (getClient upRing 1).reg = false := by decide

/-- The bytes of a local store or of pile memory. -/
def bytesOf (l : List (Nat × Nat)) : Tab Byte := l.map fun x => (x.1, BitVec.ofNat 8 x.2)
/-- `upRing` with the 64 bytes of a descriptor to answer a fetch: its opcode byte and the others. -/
def descOf (l : List (Nat × Nat)) : Bytes := (List.range 64).map fun i => tget 0 (bytesOf l) i

theorem wit_ringfault : clientOk 0 = true ∧ ringOk 0 = true ∧ (getRing upRing 0 0).en = true ∧
    (getRing upRing 0 0).fault = false ∧ awake upRing ∧ nextClient upRing = some (0, 0) ∧
    nextRing upRing 0 = some 0 ∧ fetchAt upRing 0 0 = some 0 ∧
    ({ desc := .refused 0, arg := .data [], src := .data [] } : FetchAns).desc = .refused 0 := by decide
theorem wit_fetch_fence : covered (getRing upRing 0 0) 0 = false ∧ (parseDesc (descOf [(0, 0x0A)])).opcode = 0x0A ∧
    (parseDesc (descOf [(0, 0x0A)])).token = 0 ∧ (parseDesc (descOf [(0, 0x0A)])).bead = 0 ∧
    step1 (getRing upRing 0 0) 0 0 (parseDesc (descOf [(0, 0x0A)])) = true := by decide
theorem wit_fetch_bad : upRing.cmds = [] ∧ wantsArg (parseDesc (descOf [(0, 0x0C)])) = false ∧
    step1 (getRing upRing 0 0) 0 0 (parseDesc (descOf [(0, 0x0C)])) = false := by decide

/-! ## The instructions of a core -/

theorem wit_scalar : ∀ op ∈ [0x00, 0x02, 0x10, 0x11, 0x12, 0x13, 0x14, 0x15, 0x16, 0x17, 0x18, 0x19, 0x1A, 0x1B, 0x1C, 0x1D,
    0x1E, 0x1F, 0x20, 0x21, 0x22, 0x30, 0x31], ready (coreAt (opw op 0) dsp) 0 dsp (opw op 0) op := by decide
theorem wit_srd : (∀ i ∈ [0x000, 0x008, 0x0E0, 0x0F8, 0x100, 0x148], ∃ v,
      ready (coreAt (opw 0x30 i) dsp) 0 dsp (opw 0x30 i) 0x30 ∧ fImm (opw 0x30 i) = i ∧ v = (i : Nat)) ∧
    0x148 = 0x100 + 8 * 9 := by
  refine ⟨?_, rfl⟩
  intro i hi
  exact ⟨i, by revert i; decide, by revert i; decide, rfl⟩

/-- s1 holds 5. -/
def dspS : Disp := { dsp with s := [(1, 5)] }
theorem wit_branches : (∀ op ∈ [0x06, 0x07, 0x08, 0x09, 0x0A, 0x0B], ∀ w ∈ [opw op 0, opw op (1 * 2 ^ 44)],
    atWord (coreAt w dspS) 0 dspS w op ∧ codeHeld (coreAt w dspS) 0 dspS (fTarget w) ∧ codeHeld (coreAt w dspS) 0 dspS 1) := by
  decide
theorem wit_jumps : (∀ op ∈ [0x04, 0x05, 0x0C], atWord (coreAt (opw op 0) dspS) 0 dspS (opw op 0) op ∧
      codeHeld (coreAt (opw op 0) dspS) 0 dspS (fTarget (opw op 0))) ∧
    (sreg dspS (fA (opw 5 0)) + fSext (opw 5 0)).toNat = 0 ∧
    runs (coreAt 0 { dsp with pc := 1 }) 0 ∧ atWord (coreAt 0 { dsp with pc := 1 }) 0 { dsp with pc := 1 } 0 0x00 ∧
    codeWord (getCore (coreAt 0 { dsp with pc := 1 }) 0) { dsp with pc := 1 } 2 = none := by
  refine ⟨by decide, by decide, ⟨cmd0, by decide, by decide⟩, by decide, by decide⟩
def dspT : Disp := { dsp with tokens := 1 }
theorem wit_waits : (∀ i, i < 32 → fImm (opw 0x02 2) / 2 ^ i % 2 = 1 → tokPending dspT i = false) ∧
    ready (coreAt (opw 0x02 2) dspT) 0 dspT (opw 0x02 2) 0x02 ∧ fImm (opw 0x02 1) / 2 ^ 0 % 2 = 1 ∧
    tokPending dspT 0 = true ∧ atWord (coreAt (opw 0x02 1) dspT) 0 dspT (opw 0x02 1) 0x02 ∧
    atWord (coreAt (opw 0x03 0) dsp) 0 dsp (opw 0x03 0) 0x03 ∧ atWord (coreAt (opw 0x01 0) dsp) 0 dsp (opw 0x01 0) 0x01 ∧
    dsp.tokens = 0 ∧ atWord (coreAt (opw 0x01 0) dspT) 0 dspT (opw 0x01 0) 0x01 ∧ dspT.tokens ≠ 0 := by decide
/-- a0 at the start of the scratch window, at the last word of a window, and past it. -/
def dspA (a : Nat) : Disp := { dsp with a := [(0, BitVec.ofNat 32 a)] }
theorem wit_store : (∀ op ∈ [0x28, 0x2A], ∀ a ∈ [0, 248], ready (coreAt (opw op 0) (dspA a)) 0 (dspA a) (opw op 0) op ∧
      (areg (dspA a) (fA (opw op 0)) + BitVec.ofNat 32 (fImm (opw op 0))).toNat = a ∧ winOk (dspA a) a 8 = true) ∧
    (∀ op ∈ [0x29, 0x2B], ready (coreAt (opw op 0) (dspA 0x800000F8)) 0 (dspA 0x800000F8) (opw op 0) op) ∧
    winWritable (dspA 0x800000F8) 0x800000F8 8 = true ∧
    (∀ op ∈ [0x28, 0x29], ∀ a ∈ [1, 256], atWord (coreAt (opw op 0) (dspA a)) 0 (dspA a) (opw op 0) op ∧
      (a % 8 ≠ 0 ∨ winOk (dspA a) a 8 = false)) ∧
    runs (coreAt (opw 0x29 0) (dspA 256)) 0 := by
  refine ⟨by decide, by decide, by decide, by decide, ⟨cmd0, by decide, by decide⟩⟩

/-- A package with a set of one site, whose program a core runs. -/
def set0 : WSet := { sites := [{}] }
def coreSet (w : Nat) (d : Disp) : State := { coreAt w d with sets := [set0] }
theorem wit_keys : ready (coreAt (opw 0x7C 15) dsp) 0 dsp (opw 0x7C 15) 0x7C ∧ winOk dsp (areg dsp 0).toNat 32 = true ∧
    ready (coreSet (opw 0x7D 0) dsp) 0 dsp (opw 0x7D 0) 0x7D ∧ getCmd (coreSet (opw 0x7D 0) dsp) dsp.cmd = some cmd0 ∧
    findSet (coreSet (opw 0x7D 0) dsp) dsp.part dsp.handle = some set0 ∧ (sreg dsp (fS (opw 0x7D 0))).toNat < dsp.count ∧
    fImm (opw 0x7D 0) % 64 < set0.sites.length ∧ 0 < dsp.lenC ∧ cmd0.reports = [] ∧
    set0.sites.length ≤ fImm (opw 0x7D 1) % 64 ∧
    atWord (coreSet (opw 0x7D 1) dsp) 0 dsp (opw 0x7D 1) 0x7D ∧ runs (coreSet (opw 0x7D 1) dsp) 0 := by
  refine ⟨by decide, by decide, by decide, by decide, by decide, by decide, by decide, by decide, by decide, by decide,
    by decide, ⟨cmd0, by decide, by decide⟩⟩

/-! ## The engines of a core -/

/-- A dispatch with windows of 4 KiB, and a core that holds bytes in its resident window. -/
def dspB : Disp := { dsp with resSpan := 4096, scrSpan := 4096 }
def engAt (w : Nat) (d : Disp) (l : List (Nat × Nat)) : State :=
  { coreSet w d with
    cores := [(0, { imem := [(0, BitVec.ofNat 64 w), (1, 0)], disp := some d, ls := bytesOf l })] }
def block (l : List (Nat × Nat)) (n : Nat) : Bytes := winRead (bytesOf l) dspB 0 n

def four : List (Nat × BitVec 4) := [(1, 0), (2, 0), (3, 0), (4, 0)]
def dspFull : Disp := { dsp with launches := [(0, four), (1, four), (2, four)] }
theorem wit_launches : (∀ op ∈ [0x50, 0x44, 0x60], atWord (coreAt (opw op 0) dspT) 0 dspT (opw op 0) op ∧
      atWord (coreAt (opw op 0) dspFull) 0 dspFull (opw op 0) op) ∧ tokPending dspT (fT 0) = true ∧
    (∀ e ∈ [0, 1, 2], 4 ≤ (tget [] dspFull.launches e).length) ∧
    launchable (coreAt (opw 0x50 0) (dspA 32)) 0 (dspA 32) (opw 0x50 0) 0x50 1 ∧
    launchable (coreAt (opw 0x61 0) (dspA 32)) 0 (dspA 32) (opw 0x61 0) 0x61 3 ∧
    (areg (dspA 32) (fP (opw 0x50 0))).toNat % 64 ≠ 0 ∧ runs (coreAt (opw 0x50 0) (dspA 32)) 0 ∧
    onCore (coreAt 0 dspFull) 0 dspFull cmd0 ∧ tget [] dspFull.launches 1 = (1, 0) :: [(2, 0), (3, 0), (4, 0)] := by
  refine ⟨by decide, by decide, by decide, by decide, by decide, by decide, ⟨cmd0, by decide, by decide⟩, by decide,
    by decide⟩

/-- A weight block of one row, one channel and one entry. -/
def wblk : List (Nat × Nat) := [(0, 1), (7, 1), (8, 1)]
theorem wit_tiles : ∃ h, (∀ op ∈ [0x40, 0x41, 0x42, 0x43],
      launchable (engAt (opw op 0) dspB wblk) 0 dspB (opw op 0) op 0) ∧
    wbAt (bytesOf wblk) dspB 0 = some h ∧ winOk dspB 16 (wbCbBytes h) = true ∧ 0 < (h.depth + 31) / 32 ∧
    winOk dspB 0 (wbRemOff h) = true ∧ winOk dspB 0 2048 = true := by
  exact ⟨wbHead (block wblk 16), by decide, by decide, by decide, by decide, by decide, by decide⟩

def mrowB : List (Nat × Nat) := [(0, 128), (8, 1)]
theorem wit_mrow : ∃ b, launchable (engAt (opw 0x44 0) dspB mrowB) 0 dspB (opw 0x44 0) 0x44 0 ∧
    blockAt (bytesOf mrowB) dspB (opw 0x44 0) 64 = some b ∧ fieldLE b 0 4 = 128 ∧ fieldLE b 8 2 = 1 ∧
    fieldLE b 10 2 + 1 ≤ 1024 ∧ bits (fieldLE b 12 1) 7 5 = 0 ∧ zeros b 13 3 = true ∧ zeros b 20 44 = true ∧
    fieldLE b 4 4 % 16 = 0 ∧ fieldLE b 12 1 % 16 ≤ 7 ∧ winOk dspB 128 ((1 - 1) * 0 + 32 * fmtBytes 0) = true := by
  exact ⟨block mrowB 64, by decide, by decide, by decide, by decide, by decide, by decide, by decide, by decide, by decide,
    by decide, by decide⟩

/-- Vector blocks of one element: sources at 64, the destination at the start of the scratch window. -/
def vopB (opc : Nat) : List (Nat × Nat) := [(3, 0x80), (4, 64), (8, 64), (16, 1), (20, opc)]
def vfnB : List (Nat × Nat) := [(3, 0x80), (4, 64), (16, 1), (20, 13)]
def vcvtB (sr : Nat) : List (Nat × Nat) := [(3, 0x80), (4, 64), (16, 1), (21, 16 * sr), (22, sr)]
def vrndB (opc mix : Nat) : List (Nat × Nat) := [(3, 0x80), (16, 1), (20, opc), (21, 0xA0 * (1 - opc)), (22, 8 * mix)]
def vredB (opc n : Nat) : List (Nat × Nat) := [(3, 0x80), (4, 64), (16, n), (20, opc)]
/-- The element-wise launch of a block is well formed and its ranges hold. -/
def vHyp (l : List (Nat × Nat)) (op srcs dst : Nat) : Prop :=
  launchable (engAt (opw op 0) dspB l) 0 dspB (opw op 0) op 1 ∧
    blockAt (bytesOf l) dspB (opw op 0) 64 = some (block l 64) ∧ vblkRsv (block l 64) = true ∧
    vRanges dspB (vblk (block l 64)) srcs dst = true ∧ (vblk (block l 64)).alpha = 0
theorem wit_vop : vHyp (vopB 2) 0x50 2 4 ∧ (vblk (block (vopB 2) 64)).opc = 2 ∧ (vblk (block (vopB 2) 64)).sr = false ∧
    (vblk (block (vopB 2) 64)).mixer = false ∧ vopSrcs 2 = 2 ∧ (vblk (block (vopB 2) 64)).count = 1 := by
  unfold vHyp; decide
theorem wit_vfn : vHyp vfnB 0x51 1 4 ∧ (vblk (block vfnB 64)).opc = 13 ∧ (vblk (block vfnB 64)).inF ≤ 5 ∧
    (vblk (block vfnB 64)).outF ≤ 5 ∧ (vblk (block vfnB 64)).sr = false ∧ (vblk (block vfnB 64)).mixer = false := by
  unfold vHyp; decide
theorem wit_vcvt : vHyp (vcvtB 0) 0x53 1 4 ∧ vHyp (vcvtB 1) 0x53 1 2 ∧ (vblk (block (vcvtB 0) 64)).sr = false ∧
    srOk (vblk (block (vcvtB 1) 64)).outF = true ∧ cvtFmt (vblk (block (vcvtB 1) 64)).outF = true ∧
    idxOk (vblk (block (vcvtB 1) 64)).rindex 1 = true ∧ (vblk (block (vcvtB 1) 64)).count = 1 := by
  unfold vHyp; decide
theorem wit_vrnd : vHyp (vrndB 0 0) 0x54 0 4 ∧ vHyp (vrndB 1 0) 0x54 0 4 ∧ vHyp (vrndB 0 1) 0x54 0 4 ∧
    vHyp (vrndB 1 1) 0x54 0 4 ∧ (∀ o ∈ [0, 1], ∀ m ∈ [0, 1], (vblk (block (vrndB o m) 64)).opc = o ∧
      (vblk (block (vrndB o m) 64)).outF = (if o = 0 then 10 else 0) ∧ (vblk (block (vrndB o m) 64)).sr = false ∧
      (vblk (block (vrndB o m) 64)).mixer = (m == 1) ∧ (vblk (block (vrndB o m) 64)).inF = 0) ∧ idxOk 0 1 = true := by
  unfold vHyp; decide
theorem wit_vred : vHyp (vredB 0 0) 0x52 1 0 ∧ (∀ o ∈ [0, 1, 2, 3, 6], vHyp (vredB o 1) 0x52 1 4) ∧
    (∀ o ∈ [4, 5], vHyp (vredB o 1) 0x52 1 8) ∧ (∀ o ∈ [0, 1, 2, 3, 4, 5, 6], (vblk (block (vredB o 1) 64)).opc = o ∧
      (vblk (block (vredB o 1) 64)).outF = 0 ∧ (vblk (block (vredB o 1) 64)).sr = false) := by
  unfold vHyp; decide
theorem wit_vec_exact : winWritable dspB 0x80000FFF 1 = true ∧ isNan32 0 = false ∧ fltLt 0x42B17218 0x42B17219 = true ∧
    isZero32 0x80000000 = true ∧ isZero32 0x80000001 = false ∧ isNan32 0x7F800001 = true ∧
    argBest true 0 [0, one32, one32] = (one32, 1) ∧ ([0, 0x7F800001] : List W32).any isNan32 = true := by decide

def vcorB : List (Nat × Nat) := [(0, 64), (5, 2), (13, 4), (17, 5), (20, 1), (28, 1), (64, 1), (71, 1), (72, 1)]
theorem wit_vcor : ∃ h, launchable (engAt (opw 0x55 0) dspB vcorB) 0 dspB (opw 0x55 0) 0x55 1 ∧
    blockAt (bytesOf vcorB) dspB (opw 0x55 0) 64 = some (block vcorB 64) ∧ zeros (block vcorB 64) 32 32 = true ∧
    wbAt (bytesOf vcorB) dspB (fieldLE (block vcorB 64) 0 4) = some h ∧ fieldLE (block vcorB 64) 20 2 = 1 ∧
    fieldLE (block vcorB 64) 28 4 = 1 ∧ fieldLE (block vcorB 64) 24 4 + 1 ≤ h.depth ∧ winOk dspB 64 (wbLen h) = true ∧
    winOk dspB (fieldLE (block vcorB 64) 4 4) 1 = true ∧ rngOk dspB (fieldLE (block vcorB 64) 12 4) 8 = true ∧
    rngOk dspB (fieldLE (block vcorB 64) 16 4) 256 = true := by
  exact ⟨wbHead (winRead (bytesOf vcorB) dspB 64 16), by decide, by decide, by decide, by decide, by decide, by decide,
    by decide, by decide, by decide, by decide, by decide⟩
def dwB : List (Nat × Nat) := [(1, 2), (7, 0x80), (9, 4), (13, 5), (16, 1), (18, 1), (20, 1), (32, 1), (34, 1), (36, 0x11),
  (37, 0x11), (38, 0x11), (46, 1), (50, 1), (52, 4), (56, 4)]
theorem wit_vdw : launchable (engAt (opw 0x56 0) dspB dwB) 0 dspB (opw 0x56 0) 0x56 1 ∧
    blockAt (bytesOf dwB) dspB (opw 0x56 0) 64 = some (block dwB 64) ∧
    dwFields (block dwB 64) (dwBlk (block dwB 64)) = true ∧ (dwBlk (block dwB 64)).orows = 1 ∧
    dwRowsHeld (dwBlk (block dwB 64)) = true ∧ winOk dspB (dwBlk (block dwB 64)).src 4 = true ∧
    winWritable dspB (dwBlk (block dwB 64)).dst 4 = true ∧ winOk dspB (dwBlk (block dwB 64)).filt 4 = true ∧
    winOk dspB (dwBlk (block dwB 64)).bias 4 = true ∧
    overlap (dwBlk (block dwB 64)).src 4 (dwBlk (block dwB 64)).dst 4 = false := by decide

def carryB (n out : Nat) : List (Nat × Nat) := [(1, 2), (4, 1), (6, out), (8, n), (10, n), (13, 3), (17, 4), (35, 0x80), (45, 1),
  (47, 0x80), (49, 2), (51, 0x80), (53, 5), (57, 3), (59, 0x80)]
def sampleB (v : Nat) : List (Nat × Nat) := [(1, 2), (4, v), (35, 0x80)]
theorem wit_carry : (∀ n ∈ [0, 1], ∀ f ∈ [0, 6], launchable (engAt (opw 0x60 0) dspB (carryB n f)) 0 dspB (opw 0x60 0) 0x60 2 ∧
      blockAt (bytesOf (carryB n f)) dspB (opw 0x60 0) 128 = some (block (carryB n f) 128) ∧
      carryFields (sitesOf (engAt (opw 0x60 0) dspB (carryB n f)) 0) (block (carryB n f) 128)
        (cblk (block (carryB n f) 128)) = true ∧ (cblk (block (carryB n f) 128)).ch = n ∧
      (cblk (block (carryB n f) 128)).rows = n ∧ coding (cblk (block (carryB n f) 128)) = (f == 6)) ∧
    (∀ f ∈ [0, 6], carryRanges (bytesOf (carryB 1 f)) dspB (cblk (block (carryB 1 f) 128)) = true ∧
      (histAt (bytesOf (carryB 1 f)) dspB (cblk (block (carryB 1 f) 128)).hist).isSome = true) ∧
    isTpl (cblk (block (carryB 1 0) 128)).func = false ∧ (cblk (block (carryB 1 0) 128)).sr = false ∧
    (cblk (block (carryB 1 0) 128)).rowScale = false := by decide
theorem wit_sample : ∀ v ∈ [0, 1], launchable (engAt (opw 0x61 0) dspB (sampleB v)) 0 dspB (opw 0x61 0) 0x61 3 ∧
    blockAt (bytesOf (sampleB v)) dspB (opw 0x61 0) 64 = some (block (sampleB v) 64) ∧
    sampleOk dspB (block (sampleB v) 64) (sblk (block (sampleB v) 64)) = true ∧ (sblk (block (sampleB v) 64)).v = v ∧
    (sblk (block (sampleB v) 64)).temp = 0 ∧ (sblk (block (sampleB v) 64)).maskEn = false ∧
    (sblk (block (sampleB v) 64)).topk = 0 ∧ isFin32 (winW32 (bytesOf (sampleB v)) dspB (sblk (block (sampleB v) 64)).scores) = true := by
  decide
theorem wit_carry_edges : (∀ n ∈ [0, 1], carryRanges (bytesOf (carryB n 0)) dspB (cblk (block (carryB n 0) 128)) = true) ∧
    launchable (engAt (opw 0x60 0) dspB [(0, 255)]) 0 dspB (opw 0x60 0) 0x60 2 ∧
    runs (engAt (opw 0x60 0) dspB [(0, 255)]) 0 ∧
    blockAt (bytesOf [(0, 255)]) dspB (opw 0x60 0) 128 = some (block [(0, 255)] 128) ∧
    carryFields (sitesOf (engAt (opw 0x60 0) dspB [(0, 255)]) 0) (block [(0, 255)] 128) (cblk (block [(0, 255)] 128)) = false := by
  refine ⟨by decide, by decide, ⟨cmd0, by decide, by decide⟩, by decide, by decide⟩

/-! ## The stream unit and the piles -/

/-- A transfer descriptor of one row of 64 bytes from host address 0 into the scratch window. -/
def sdB : List (Nat × Nat) := [(11, 0x80), (16, 64), (20, 1)]
/-- One that sets a reserved bit. -/
def sdBad : List (Nat × Nat) := [(11, 0x80), (16, 64), (20, 1), (41, 0x80)]
def arm0 : Arming := { aid := 0, addr := 0, token := 0, loc := 0x80000000, rowBytes := 64, count := 1 }
def dspQ : Disp := { dspB with queues := [(7, { arms := [arm0] })] }
theorem wit_sqgo : ready (engAt (opw 0x70 7) dspB sdB) 0 dspB (opw 0x70 7) 0x70 ∧
    blockAt (bytesOf sdB) dspB (opw 0x70 7) 64 = some (block sdB 64) ∧ tokPending dspB (fT (opw 0x70 7)) = false ∧
    (getQ dspB 7).arms.length < 4 ∧ inFlight dspB 0 = false ∧ fieldLE (block sdB 64) 40 1 = 0 ∧
    sdescOk dspB (block sdB 64) 0 = true ∧ fieldLE (block sdB 64) 16 4 ≠ 0 ∧ fieldLE (block sdB 64) 20 4 ≠ 0 ∧
    atWord (engAt (opw 0x70 7) dspQ sdB) 0 dspQ (opw 0x70 7) 0x70 ∧ inFlight dspQ 0 = true ∧ (getQ dspQ 7).arms.length < 4 ∧
    atWord (engAt (opw 0x70 7) dspB sdBad) 0 dspB (opw 0x70 7) 0x70 ∧ sdescOk dspB (block sdBad 64) 0 = false ∧
    setupOk (block sdBad 64) = false ∧ runs (engAt (opw 0x70 7) dspB sdBad) 0 := by
  refine ⟨by decide, by decide, by decide, by decide, by decide, by decide, by decide, by decide, by decide, by decide,
    by decide, by decide, by decide, by decide, by decide, ⟨cmd0, by decide, by decide⟩⟩
def dspR : Disp := { dspB with queues := [(7, { arms := [{ arm0 with setup := some (64, 1024, 64, 0) }], rate := 1024 })] }
def dspO : Disp := { dspB with queues := [(7, { arms := [arm0], age := 1, eligAt := some 0 })] }
theorem wit_queue_rules : onCore (coreAt 0 dspR) 0 dspR cmd0 ∧ (getQ dspR 7).arms = [{ arm0 with setup := some (64, 1024, 64, 0) }] ∧
    (getQ dspR 7).rate ≠ 0 ∧ overAge 1000 dspO 7 = true ∧ onCore { coreAt 0 dspO with time := 1000 } 0 dspO cmd0 := by
  decide
def xfH : Xfer := { xid := 3, queue := 7, aid := 0, token := 0, write := false, mesh := 0, loc := 0x80000000, bytes := 64 }
def dspX (x : XStat) : Disp := { dspB with xfers := [{ xfH with stat := x }] }
theorem wit_host_reads : onCore (coreAt 0 dspQ) 0 dspQ cmd0 ∧ dspQ.queues = [(7, { arms := [arm0] })] ∧ dspQ.xfers = [] ∧
    meshKind arm0.mesh = 0 ∧ meshRange 0 (arm0.mesh + BitVec.ofNat 64 arm0.row * arm0.mstride) 1 = true ∧
    meshRange 0 (arm0.mesh + BitVec.ofNat 64 arm0.row * arm0.mstride + BitVec.ofNat 64 arm0.off) 64 = true ∧
    onCore (coreAt 0 (dspX .host)) 0 (dspX .host) cmd0 ∧
    (dspX .host).xfers.find? (fun y => y.xid == 3) = some { xfH with stat := .host } ∧ cmd0.wrote = [] ∧
    (List.replicate 64 (0 : Byte)).length = 64 ∧ winWritable (dspX .host) 0x80000000 64 = true := by decide
theorem wit_transfer_faults : (∀ x ∈ [XStat.host, .badAddr 5, .badPage 0x1000, .badLine 64],
      onCore (coreAt 0 (dspX x)) 0 (dspX x) cmd0 ∧ (dspX x).xfers.find? (fun y => y.xid == 3) = some { xfH with stat := x }) ∧
    cmd0.stage = .running ∧ walk (coreAt 0 (dspX (.badPage 0x1000))) 0 0x1000 = .none_ 0x1000 ∧ cmd0.lastUe = none := by decide
def thB : List (Nat × Nat) := [(11, 0x80), (12, 64)]
def dspTh (n : Nat) : Disp := { dspB with thims := [{ token := 0, mesh := 0, loc := 0x80000000, write := false, bytes := n }] }
theorem wit_thimbles : ready (engAt (opw 0x71 0) dspB thB) 0 dspB (opw 0x71 0) 0x71 ∧ winOk dspB 0 32 = true ∧
    thimOk dspB (winRead (bytesOf thB) dspB 0 32) 0 = true ∧ (∀ n ∈ [0, 64], onCore (coreAt 0 (dspTh n)) 0 (dspTh n) cmd0) ∧
    thimTags (dspTh 64) < 16 ∧ meshRange 0 0 64 = true := by decide
/-- The bytes of an entry of a page table at a physical address. -/
def entryAt (a : Nat) (e : W64) : Tab Byte :=
  (List.range 8).filterMap fun i => let b : Byte := BitVec.ofNat 8 (e.toNat / 2 ^ (8 * i)); if b = 0 then none else some (a + i, b)
/-- Partition 0 has page tables of four levels from 0x100000 on, in which the page at 0x10000 has the leaf `e`. -/
def mapped (s : State) (e : W64) : State :=
  { s with
    parts := [(0, { en := true, diesLo := 1, root := some 0x100000 })]
    pile := { mem := entryAt 0x100000 0x101001 ++ entryAt 0x101000 0x102001 ++ entryAt 0x102000 0x103001 ++ entryAt 0x103080 e } }
/-- A device page of partition 0 in pile 3. -/
def upPage : State := mapped up (mkPte (3 * 2 ^ 36) true false)
def armG : Arming := { arm0 with offload := true }
def dspG : Disp := { dspB with queues := [(7, { arms := [armG] })], xfers := [{ xfH with mesh := 0x8000000000000000, stat := .granted }] }
def cmdS : Cmd := { cmd0 with desc := { opcode := 1, count := 1 } }
/-- Stream 0 has one object of one entry of 64 bytes in pile 3, whose base die runs an index stream of core 0. -/
def stream0 : Stream := { isOpen := true, home := 3, objs := [{ espan := 64, bytes := 64, base := 3 * 2 ^ 36 }] }
def upGather (d : Disp) : State :=
  { up with sets := [{ progs := [{ layout := 0 }] }], cmds := [cmdS], streams := [(0, stream0)], cores := [(0, { disp := some d })], piles := [(3, { gathers := [{ core := 0, aid := 0, gen := 1 }] })],
                net := [.gather 0 1 0 3] }
theorem wit_gathers : genCurrent (upGather dspG) 1 = true ∧ (getPile (upGather dspG) 3).gathers.length < 64 ∧
    genCurrent (upGather dspG) 2 = false ∧ onCore (upGather dspG) 0 dspG cmdS ∧
    gatherAt (upGather dspG) 0 1 0 = some 3 ∧ meshOn (upGather dspG) = true ∧ armAlive dspG 0 = true ∧
    headOf (upGather dspG) 2 0 (pileLoc 3) = some (.gather 0 1 0 3) ∧
    dspG.xfers.find? (fun y => y.queue < 8 && y.aid == 0 && y.stat == .granted) = some { xfH with mesh := 0x8000000000000000, stat := .granted } ∧
    (route (upGather dspG) 0 dspG cmdS (translatePile (upGather dspG) 3 0) 2 false 0x8000000000000000 64).map Prod.fst =
      some (.lines [(3 * 2 ^ 36, 64)]) ∧
    64 ≤ (getPile { upGather dspG with
      piles := [(3, { gathers := List.replicate 64 { core := 0, aid := 0, gen := 1 } })] } 3).gathers.length := by
  decide +kernel
def xfL (write : Bool) (pa : Nat) : Xfer :=
  { xfH with write := write, stat := .lines [(pa, 64)], data := List.replicate 64 7 }
def dspL (write : Bool) (pa : Nat) : Disp := { dspB with xfers := [xfL write pa] }
theorem wit_pile_lines : (∀ wr ∈ [true, false], ∀ pa ∈ [0, 2 ^ 40],
      (lineJob (coreAt 0 (dspL wr pa)) 0 3 wr).map LineJob.pa = some pa) ∧
    paOk (coreAt 0 dspB) 0 = true ∧ paOk (coreAt 0 dspB) (2 ^ 40) = false ∧ lineErrs (coreAt 0 (dspL false 0)) 0 = [] ∧
    correctable (coreAt 0 (dspL false 0)) 0 [] = true ∧ (xfL false 0).entry = none ∧
    channelBusy { d := dspL true 0, c := cmd0, x := xfL true 0, pa := 0, n := 64, rest := [] } = false ∧
    lineJob (coreAt 0 (dspL true 0)) 0 3 true = some { d := dspL true 0, c := cmd0, x := xfL true 0, pa := 0, n := 64, rest := [] } ∧
    slotUnwritten (coreAt 0 (dspL true 0)) 1 (xfL true 0) = none ∧ pieceOf cmd0 0 = none ∧ (xfL true 0).data.length = 64 := by
  decide

/-! ## Messages -/

/-- A dispatch of two cores, in a domain whose package 2 is reached. -/
def dspM : Disp := { dspB with gang := [0, 1], s := [(1, 0x2001), (2, 0x2F00)], a := [(0, 0x80000000)] }
def upDom : State := { up with dom := { inDomain := true, keeper := true, aligned := true, pkg := 1, keeperPkg := 1,
                                        members := 2, routes := [(2, some 3)], roster := [1, 2] } }
def coreDom (w : Nat) (d : Disp) : State :=
  { upDom with cmds := [cmd0], cores := [(0, { imem := [(0, BitVec.ofNat 64 w), (1, 0)], disp := some d, ls := bytesOf [(64, 1), (77, 1)] })]
               sets := [set0] }
/-- SEND to rank 0 of 64 flits, to package 2, a halo SEND, a remote read. -/
def wSend : Nat := opw 0x78 64
def wFar : Nat := opw 0x78 (1 * 2 ^ 41 + 2 ^ 30 + 1)
def wHalo : Nat := opw 0x78 (2 ^ 29 + 2 ^ 28 + 1)
def wRead : Nat := opw 0x78 (2 * 2 ^ 41 + 2 ^ 31 + 2 ^ 30 + 1)
def dspN : Disp := { dspM with a := [(0, 64)] }
theorem wit_sends : (∀ w ∈ [wSend, wFar, wHalo], ready (coreDom w dspM) 0 dspM w 0x78 ∧ tokPending dspM (fT w) = false ∧
      1 ≤ immFlits w ∧ immFlits w ≤ 64 ∧ imm31 w = false) ∧ winOk dspM 0x80000000 (64 * 64) = true ∧
    imm29 wSend = false ∧ imm30 wSend = false ∧ bits wSend 28 7 = 0 ∧ dspM.gang[(sreg dspM (fS wSend)).toNat]? = some 0 ∧
    imm29 wFar = false ∧ imm30 wFar = true ∧ bits wFar 28 7 = 0 ∧ (sreg dspM (fS wFar)).toNat % 2 ^ 28 = 0x2001 ∧
    0x2001 / 4096 ≠ selfPkg (coreDom wFar dspM) ∧ reachable (coreDom wFar dspM) 2 = true ∧ cmd0.held = [] ∧
    imm29 wHalo = true ∧ imm30 wHalo = false ∧ bits wHalo 27 7 = 0 ∧ haloRankOk dspM.haloSend (bitOf wHalo 28) 0 = true := by
  decide
theorem wit_remote_send : ready (coreDom wRead dspN) 0 dspN wRead 0x78 ∧ imm29 wRead = false ∧ imm31 wRead = true ∧
    imm30 wRead = true ∧ bits wRead 28 7 = 0 ∧ immFlits wRead = 1 ∧ winOk dspN 64 64 = true ∧
    (sreg dspN (fS wRead)).toNat % 2 ^ 28 = 0x2F00 ∧ 0x2F00 % 4096 = 3840 ∧
    fieldLE (winRead (bytesOf [(64, 1), (77, 1)]) dspN 64 64) 12 4 = 256 ∧
    fieldLE (winRead (bytesOf [(64, 1), (77, 1)]) dspN 64 64) 0 2 ≤ 63 ∧ 256 / 64 ≤ rxFree dspN := by decide
def msgR : Msg := { rank := some 1, data := List.replicate 64 7 }
/-- RECV of any message, of rank 0, a halo RECV, of a reply; one flit each. -/
def wRAny : Nat := opw 0x79 (2 ^ 31 + 1)
def wRRank : Nat := opw 0x79 1
def wRHalo : Nat := opw 0x79 (2 ^ 29 + 1)
def wRRep : Nat := opw 0x79 (2 ^ 31 + 2 ^ 30 + 1)
def dspRx : Disp := { dspM with rx := [msgR] }
def dspRh : Disp := { dspM with rx := [{ msgR with halo := some (false, 0) }] }
theorem wit_receives : (∀ x ∈ [(wRAny, dspRx), (wRRank, dspRx), (wRHalo, dspRh), (wRRep, dspRx)],
      ready (coreDom x.1 x.2) 0 x.2 x.1 0x79 ∧ immFlits x.1 = 1 ∧ winWritable x.2 (areg x.2 (fP x.1)).toNat 64 = true) ∧
    (imm29 wRAny = false ∧ imm31 wRAny = true ∧ imm30 wRAny = false ∧ bits wRAny 28 7 = 0) ∧
    (imm29 wRRank = false ∧ imm31 wRRank = false ∧ imm30 wRRank = false ∧ (sreg dspRx (fS wRRank)).toNat = 0) ∧
    (∀ m ∈ dspRx.rx, m.halo ≠ none ∨ m.reply = true ∨ m.rank ≠ some 0 ∨ m.fromInbox = true) ∧
    (imm29 wRHalo = true ∧ imm31 wRHalo = false ∧ imm30 wRHalo = false ∧ bits wRHalo 27 7 = 0 ∧
      haloRankOk dspRh.haloRecv false 0 = true ∧ tget 0 dspRh.hrecv 0 = 0) ∧
    (imm29 wRRep = false ∧ imm31 wRRep = true ∧ imm30 wRRep = true ∧ ∀ m ∈ dspRx.rx, m.halo ≠ none ∨ m.reply = false) := by
  decide
def dspE : Disp := { dspB with sendQ := [{ token := 0, dst := 7, addr := 0, flits := 1, asked := true }] }
theorem wit_unit : (∀ p ∈ [Packet.request 7 0 1 256, .message 7 0 1 msgR, .release 7 0 1 true],
      ∀ s, s = { coreAt 0 dspB with net := [p] } → getDisp s 0 = some dspB ∧ genCurrent s 1 = true) ∧ dspB.gen = 1 ∧
    256 ≤ rxFree dspB ∧ getDisp (coreAt 0 dspE) 0 = some dspE ∧ genCurrent up 1 = false := by
  refine ⟨?_, by decide, by decide, by decide, by decide⟩
  intro p _ s hs
  subst hs
  exact ⟨rfl, rfl⟩
def upPart : State := { upDom with parts := [(0, { en := true, diesLo := 1 })] }
def cmdG : Cmd := { cmd0 with gen := 9 }
def cmdR (st : Stage) : Cmd := { cmd0 with desc := { opcode := 1 }, gen := 9, stage := st, sent := true }
theorem wit_inbox : forUs upPart 0x1000 = true ∧ inboxPart upPart 0 = some 0 ∧ upPart.dom.inSeen.contains (2, 5) = false ∧
    inboxFlits upPart 0 + (4096 + 63) / 64 ≤ 65536 ∧ upPart.crown.fl0Wait = [] ∧ 1 < upPart.crown.fl0 ∧
    ({ upPart with dom := { upPart.dom with inSeen := [(2, 5)] } }.dom.inSeen.contains (2, 5)) = true ∧
    inboxPart upDom 0 = none ∧ forUs upDom 0x1000 = true ∧ cop (cmdR .running) = 1 ∧ (cmdR .running).gang ≠ [] := by
  decide +kernel
def rr0 : RemoteRead := { bytes := 64, request := [], dst := 0x2F00, at_ := 0 }
def dspRR : Disp := { dspB with reads := [rr0] }
def upExp : State := { upPage with dom := { upDom.dom with exports := [(63, some { part := 0, dva := 0x10000, bytes := 4096 })] } }
theorem wit_remote_reads : getDisp (coreAt 0 dspRR) 0 = some dspRR ∧ genCurrent (coreAt 0 dspRR) 1 = true ∧
    onCore { coreAt 0 dspRR with time := 2000000 } 0 dspRR cmd0 ∧ rr0.retried = false ∧ rr0.at_ + 1000000 ≤ 2000000 ∧
    rr0.at_ + 2000000 ≤ 2000000 ∧ upExp.crown.fl0Wait = [] ∧ 0 < upExp.crown.fl0 ∧ awake upExp ∧ upExp.dom.inDomain = true ∧
    tget none upExp.dom.exports 63 = some { part := 0, dva := 0x10000, bytes := 4096 } ∧ 4032 + 64 ≤ 4096 ∧
    devRead upExp 0 (0x10000 + 4032) 64 = .data (List.replicate 64 0) ∧ 4096 < 4033 + 64 := by decide +kernel

/-! ## Placement, slices, kills -/

/-- A command with an opcode in a stage, alone; partition 0 is enabled on die 0 and has a set with one program on core 0. -/
def cmdOf (op : Nat) (st : Stage) : Cmd := { desc := { opcode := BitVec.ofNat 8 op }, stage := st }
def setP : WSet := { cores := [0], resBase := [0], codeBase := [0], progs := [{ scrSpan := 512, runLimit := 1 }] }
def withCmd (c : Cmd) : State :=
  { up with cmds := [c], sets := [setP], clients := [(0, { reg := true, rings := [(0, ring0)] })]
            parts := [(0, { en := true, diesLo := 1 })] }
theorem wit_place : placerUp (withCmd (cmdOf 1 .queued)) = true ∧
    nextPlace (withCmd (cmdOf 1 .queued)) 0 = some (cmdOf 1 .queued, 0, 0) ∧
    (reserve (withCmd (cmdOf 1 .queued)) (cmdOf 1 .queued)).isSome = true ∧
    getCmd (withCmd (cmdOf 1 .queued)) 0 = some (cmdOf 1 .queued) ∧ (cmdOf 1 .queued).dispatches = 0 ∧ partOk 0 = true ∧
    findSet (withCmd (cmdOf 1 .queued)) 0 0 = some setP ∧
    progOf (withCmd (cmdOf 1 .queued)) (cmdOf 1 .queued) = some { scrSpan := 512, runLimit := 1 } ∧ setP.cores.Nodup := by
  refine ⟨by decide +kernel, by decide +kernel, by decide +kernel, by decide +kernel, rfl, rfl, by decide, by decide +kernel,
    by decide⟩
theorem wit_place_crown : placerUp (withCmd (cmdOf 3 .queued)) = true ∧
    nextPlace (withCmd (cmdOf 3 .queued)) 0 = some (cmdOf 3 .queued, 0, 0) ∧
    (reserve (withCmd (cmdOf 3 .queued)) (cmdOf 3 .queued)).isSome = true ∧
    getCmd (withCmd (cmdOf 3 .queued)) 0 = some (cmdOf 3 .queued) := by
  refine ⟨by decide +kernel, by decide +kernel, by decide +kernel, by decide +kernel⟩
def cmdHold : Cmd := { cmdOf 1 .queued with waitBeads := 2 }
theorem wit_run : getCmd (withCmd (cmdOf 1 .running)) 0 = some (cmdOf 1 .running) ∧ cop (cmdOf 1 .running) = 1 ∧
    (cmdOf 1 .running).started = false ∧ getCmd (withCmd cmdHold) 0 = some cmdHold ∧
    (getPart (withCmd cmdHold) 0).hold = 2 ∧ (getPart (withCmd cmdHold) 0).hold ≤ cmdHold.waitBeads := by decide
def rotate (v : Bool) (drain : List (Nat × Nat × List (Nat × W32))) (l : List Cmd) : State :=
  { withCmd (cmdOf 1 .running) with cmds := l, parts := [(0, { en := true, mode := true, sliceValid := v, drain := drain })] }
theorem wit_slices : (∀ v ∈ [true, false], ∀ l ∈ [[], [cmdOf 1 .running]], (getPart (rotate v [] l) 0).en = true ∧
      (getPart (rotate v [] l) 0).mode = true ∧ (rotate v [] l).time = (rotate v [] l).bead.edge ∧
      (getPart (rotate v [] l) 0).sliceValid = v ∧ (getPart (rotate v [] l) 0).sliceLeft = 0 ∧
      clientBusy (rotate v [] l) 0 0 = !l.isEmpty ∧ (l.map Cmd.id).Nodup) ∧ partOk 0 = true ∧
    (getClient (rotate false [] []) 0).acct.debtNs = 0 ∧
    (getPart (rotate false [(0, 0, [(7, 1)])] []) 0).drain = [(0, 0, [(7, 1)])] := by decide
/-- Two cores of a gang at the given barriers. -/
def gang2 (a b : Arrived) : State :=
  let d : Disp := { dsp with gang := [0, 1] }
  { up with
    cmds := [{ cmd0 with gang := [0, 1] }]
    cores := [(0, { imem := [(0, 0), (1, 0)], disp := some { d with arrived := a } }),
              (1, { imem := [(0, 0), (1, 0)], disp := some { d with arrived := b } })] }
theorem wit_barriers : (∀ x ∈ [(Arrived.reckon, Arrived.reckon), (.final, .final), (.final, .reckon), (.no, .reckon)],
      getCmd (gang2 x.1 x.2) 0 = some { cmd0 with gang := [0, 1] } ∧
      (∀ core ∈ [0, 1], (getDisp (gang2 x.1 x.2) core).any (fun d => d.gen == 1 && d.cmd == 0)) ∧
      ((getDisp (gang2 x.1 x.2) 0).map Disp.arrived, (getDisp (gang2 x.1 x.2) 1).map Disp.arrived) = (some x.1, some x.2)) ∧
    ([0, 1] : List Nat).Nodup ∧ codeHeld (gang2 .reckon .reckon) 1 dsp (dsp.pc + 1) := by decide
def killC (k : KillKind) : Cmd := { cmdOf 1 .killing with kill := some { kind := k }, gen := 1, reruns := 7 }
def killed (k : KillKind) : State := { withCmd (killC k) with cores := [(0, { disp := some dsp })], net := [.kill 0 1] }
/-- The kill still waits for the Crown's allowance. -/
def killHeld : State := { withCmd (killC .rerun) with
  cores := [(0, { disp := some dsp })], crown := { up.crown with mc0Wait := [.kill 0 1] } }
theorem wit_kill_held : meshOn killHeld = true ∧ killHeld.net = [] ∧ killHeld.crown.mc0Wait = [.kill 0 1] ∧
    getDisp killHeld 0 = some dsp ∧ dsp.gen = 1 ∧ meshOn (killed .rerun) = true ∧ (killed .rerun).crown.mc0Wait = [] := by decide
theorem wit_kills : (killed .rerun).net = [.kill 0 1] ∧ getDisp (killed .rerun) 0 = some dsp ∧ dsp.gen = 1 ∧
    partOfCore (killed .rerun) 0 = some 0 ∧
    ((killed .rerun).cmds.any fun c => c.stage == .killing && c.gen == 1 && c.part == 0) = true ∧ dsp.gen ≠ 2 ∧
    (∀ k ∈ [KillKind.rerun, .stop, .counted, .ends 0x0012 (2 ^ 64 - 1)], getCmd (killed k) 0 = some (killC k) ∧
      (killC k).kill = some { kind := k } ∧ earlierCancel (killed k) (killC k) = false ∧ (killC k).reruns < 8 ∧
      (killed k).cmds = [killC k] ∧ (getRing (killed k) 0 0).fault = false) ∧
    8 ≤ { killC .counted with reruns := 8 }.reruns ∧ (0x0012 : Nat) ≠ 0x0011 := by decide
def cmdLim : Cmd := { cmdOf 1 .running with gang := [0], gen := 1 }
def dspDead : Disp := { dsp with
  tokens := 1, stallOn := some 4, blockedAt := some 0, sendQ := [{ token := 0, dst := 1, addr := 0, flits := 1, asked := true }] }
/-- The core waits for the token of its SEND, which waits for a grant. -/
def coreDead : Core := { imem := [(0, BitVec.ofNat 64 (opw 0x02 1)), (1, 0)], disp := some dspDead }
def cmdFlt : Cmd := { killC .counted with faultAt := some 0x10000 }
def fltAt (e : W64) : State := mapped (withCmd cmdFlt) e
def cmdDep (n : Nat) : Cmd := { cmdOf 0x0B .queued with dep := some { pkg := 2, slot := 0, seq := 1, timeout := n } }
theorem wit_limits : getCmd (withCmd cmdLim) 0 = some cmdLim ∧ cop cmdLim = 1 ∧
    progOf (withCmd cmdLim) cmdLim = some { scrSpan := 512, runLimit := 1 } ∧
    cmdLim.dispBead.toNat + 1 ≤ { withCmd cmdLim with bead := { count := 1 } }.bead.count.toNat ∧
    getDisp { withCmd cmdLim with cores := [(0, coreDead)] } 0 = some dspDead ∧ dspDead.gen = cmdLim.gen ∧
    blocked coreDead dspDead = true ∧ sendWaits dspDead = true ∧ (withCmd cmdLim).crown.dlLimit ≠ 0 := by decide +kernel
theorem wit_faults : getCmd (fltAt 0) 0 = some cmdFlt ∧ cmdFlt.kill = some { kind := .counted } ∧ (fltAt 0).crown.ready = true ∧
    walk (fltAt (mkPte 0 true false)) 0 0x10000 = .page 0 4096 true ∧ walk (fltAt 0x104) 0 0x10000 = .moving 0x10000 ∧
    walk (fltAt (mkLazy true false)) 0 0x10000 = .lazy_ 0x10000 ∧ walk (fltAt 0) 0 0x10000 = .none_ 0x10000 := by
  decide +kernel
theorem wit_depends : getCmd (withCmd (cmdDep 1)) 0 = some (cmdDep 1) ∧ depMet (withCmd (cmdDep 1)) (cmdDep 1) = false ∧
    (cmdDep 1).valBead.toNat + 1 ≤ { withCmd (cmdDep 1) with bead := { count := 1 } }.bead.count.toNat ∧
    (getRing (withCmd (cmdDep 1)) 0 0).fault = false := by decide
/-- A committing command of the RUN, its publication done or not, whose stream 0 has a written entry in pile 3. -/
def cmdV (p : Option (Option (Nat × Nat))) : Cmd := { cmdOf 1 .committing with desc := { opcode := 1, count := 1 }, gen := 1, pub := p }
def flipS (p : Option (Option (Nat × Nat))) (o : Obj) : State :=
  { withCmd (cmdV p) with streams := [(0, { isOpen := true, home := 3, objs := [o] })] }
def objW : Obj := { espan := 64, bytes := 64, wr := [{ entry := 0, gen := 1 }] }
theorem wit_flips : (∀ p ∈ [none, some none], (flipS p objW).cmds = [cmdV p] ∧ getCmd (flipS p objW) 0 = some (cmdV p)) ∧
    (∀ p ∈ [none, some none], acceptable (flipS p objW) (cmdV p) = true) ∧
    groupStreams (cmdV none) = [0] ∧ (getStream (flipS none objW) 0).home = 3 ∧
    flipped (modHomed (flipS (some none) objW) 3 (objAfter 1)) (cmdV none) = true ∧ (cmdV none).sent = false ∧
    flipped (modHomed (flipS (some none) objW) 4 (objAfter 1)) (cmdV none) = false ∧
    ((withCmd (killC .rerun)).cmds.any fun c => c.stage == .killing && c.gen == 1) = true := by decide +kernel

/-! ## Commands of the Crown and commits -/

/-- A set image of one rank, one program and one instruction; its CRC-32 as zlib gives it. -/
def z (n : Nat) : Bytes := List.replicate n 0
def imgMin : Bytes := [0x4B, 0x56, 0x57, 0x53, 1, 0, 1, 0, 200, 0, 0, 0, 0xEC, 0x5F, 0xF2, 0x6C, 1, 0, 0, 0, 1, 0, 0, 0, 64] ++ z 7 ++
  [128] ++ z 8 ++ [2, 0, 0, 1] ++ z 21 ++ [0xFF, 0xFF, 0, 2] ++ z 8 ++ [1, 0, 1] ++ z 59 ++ [192, 0, 0, 0, 8] ++ z 54 ++ [1]
/-- A state record without objects. -/
def recMin : Bytes := [0x4B, 0x56, 0x53, 0x54, 1, 0, 0, 0, 128, 0, 0, 0, 0x53, 0x67, 0x8D, 0x26] ++ z 112
def cmdLen (op n : Nat) : Cmd :=
  { cmdOf op .running with desc := { opcode := BitVec.ofNat 8 op, lenA := BitVec.ofNat 32 n, count := 1 }, gen := 1 }
set_option maxRecDepth 100000 in
theorem test_image_crc : imgOk imgMin 200 = true ∧ imgOk (imgMin.set 199 0) 200 = false := by decide +kernel
set_option maxRecDepth 100000 in
theorem wit_load : (setRoom (withCmd (cmdLen 2 200)) 0 (imgRanks imgMin) (imgResSpan imgMin) (imgCodeSpan imgMin)).isSome = true ∧
    imgMin.length = (cmdLen 2 200).desc.lenA.toNat ∧ isDev (cmdLen 2 200).desc.arg = false ∧
    getCmd (withCmd (cmdLen 2 200)) 0 = some (cmdLen 2 200) ∧ cop (cmdLen 2 200) = 2 := by decide +kernel
set_option maxRecDepth 100000 in
theorem wit_import : recSplit (groupCount (cmdLen 6 128)) recMin = some [recMin] ∧
    (([{ stream := 0, pile := 0, objs := [] }].zip [recMin]).all fun x : NewState × Bytes => sameObjs x.1.objs (recObjs x.2)) = true ∧
    recMin.length = (cmdLen 6 128).desc.lenA.toNat := by decide +kernel
def setL : WSet := { setP with progs := [{ layout := 0 }], layouts := [{ dims := [1], last := true }] }
def initS : State := { withCmd (cmdOf 4 .running) with sets := [setL] }
theorem wit_crown_cmds : (∀ op ∈ [3, 4, 5, 7, 8, 9, 13], getCmd (withCmd (cmdLen op 64)) 0 = some (cmdLen op 64) ∧
      (cmdLen op 64).stage = .running ∧ cop (cmdLen op 64) = op ∧ crownTurn (withCmd (cmdLen op 64)) (cmdLen op 64) = true ∧
      outStop (withCmd (cmdLen op 64)) (cmdLen op 64) = none) ∧
    ((progOf initS (cmdOf 4 .running)).bind (progLayout initS (cmdOf 4 .running))) = some setL.layouts ∧
    ((groupStreams (cmdLen 5 64)).findSome? fun n => (getStream (withCmd (cmdLen 5 64)) n).objs.findSome?
      (objBad (withCmd (cmdLen 5 64)))) = none := by decide +kernel
theorem wit_fence : (∀ op ∈ [0x0A, 0x0B], getCmd (withCmd (cmdOf op .queued)) 0 = some (cmdOf op .queued) ∧
      allowed (withCmd (cmdOf op .queued)) (cmdOf op .queued) = true) ∧
    (∀ x ∈ [cmdOf 1 .queued], x.client = 0 ∧ x.id < 1) ∧ depMet (withCmd (cmdDep 0)) (cmdDep 0) = false ∧ cop (cmdDep 0) = 0x0B ∧
    (∀ op ∈ [0x0A, 0x0B], (getRing (withCmd (cmdOf op .queued)) 0 0).fault = false ∧ (cmdOf op .queued).desc.flags.getLsbD 2 = false) := by decide
def cmdC (op : Nat) : Cmd :=
  { cmdLen op 0 with stage := .committing, newSet := some setP, news := [{ stream := 0, pile := 0, objs := [{}] }] }
theorem wit_commit : (∀ op ∈ [1, 2, 3, 4, 7, 8], getCmd (withCmd (cmdC op)) 0 = some (cmdC op) ∧
      acceptable (withCmd (cmdC op)) (cmdC op) = true ∧ (cmdC op).sendRefused = false ∧ (cmdC op).pub = none ∧ (cmdC op).sent = false ∧ cop (cmdC op) = op) ∧ 0 < groupCount (cmdC 7) ∧ 0 < groupCount (cmdC 8) ∧
    outLen (cmdC 1).desc = 0 ∧ (∀ n, getBind (withCmd (cmdC 1)) n = none) := by
  refine ⟨by decide, by decide, by decide, by decide, fun n => rfl⟩
def cmdW (dig : Option W64) (done : Bool) : Cmd :=
  { cmdLen 1 0 with stage := .waiting, digest := dig, digestDone := done, twinFrom := some 0 }
def badObj : Stream := { objs := [{ bytes := 64, espan := 64 }] }
def twin (l : List Cmd) : State := { withCmd (cmdOf 1 .queued) with cmds := l, dom := { got := [(2, .digest 0 1 0 5)] } }
/-- The line at 0 holds three wrong symbols, more than its code corrects. -/
def spoilt : State := { withCmd (cmdW none false) with
  streams := [(0, badObj)], pile := { errs := [(0, [(0, 1), (1, 2), (2, 3)])] } }
theorem wit_line_bad : lineBad spoilt 0 = true := by decide +kernel
theorem wit_digest_bad : (digestObjs spoilt (cmdW none false)).findSome? (objBad spoilt) = some 0 := by
  have h3 : digestObjs spoilt (cmdW none false) = [{ bytes := 64, espan := 64 }] := by decide
  simp [h3, objBad, firstBad, slotPa, curSlot, linesOf, wit_line_bad]
theorem wit_digest : (digestObjs (withCmd (cmdW none false)) (cmdW none false)).findSome? (objBad (withCmd (cmdW none false))) = none ∧
    exchanges (withCmd (cmdW none false)) (cmdW none false) = false := by
  refine ⟨by decide, by decide⟩
theorem wit_twins (x : Option W64) : (twin [cmdW x true]).cmds = [cmdW x true] ∧ groupFirst (cmdW x true) = 0 ∧
    groupCount (cmdW x true) = 1 ∧ posAfter (twin [cmdW x true]) (cmdW x true) = 0 ∧
    (twin []).dom.got = [(2, .digest 0 1 0 5)] := ⟨rfl, rfl, rfl, rfl, rfl⟩
theorem wit_twin_wait : 0 + (withCmd (cmdW (some 5) true)).dom.waitUs * 1000 ≤
    { withCmd (cmdW (some 5) true) with time := 1000000 }.time := by decide +kernel

/-! ## Cores, piles, translation, partitions -/

def faulty (kind : Nat) : State :=
  { withCmd (cmdOf 1 .queued) with cores := [(0, { fault := some (kind, 7) })] }
def setX : WSet := { setP with lost := [(0, 0)] }
/-- Rank 0 of the set in partition 0 is lost; the partition has die 0, or none. -/
def lostS (lo : W32) (l : List Cmd) : State :=
  { withCmd (cmdOf 1 .queued) with cmds := l, sets := [setX], time := 100000000, parts := [(0, { en := true, diesLo := lo })] }
theorem wit_cores : coreUp up 0 = true ∧ coreUp { up with pwr := { up.pwr with coresOff := [groupOf 0] } } 0 = false ∧
    onCore (coreAt 0 dsp) 0 dsp cmd0 ∧ (∀ k ∈ [0, 1], (getCore (faulty k) 0).fault = some (k, 7) ∧ (faulty k).crown.ready = true ∧
      getDisp (faulty k) 0 = none) ∧ sparesUsed (faulty 1) 0 < 4 := by decide +kernel
theorem wit_relocate : findSet (lostS 1 []) 0 0 = some setX ∧ (relocTarget (lostS 1 []) setX 0).isSome = true ∧
    placerUp (lostS 1 []) = true ∧ (setX.lost.any fun x => x.1 == 0) = true := by
  refine ⟨by decide +kernel, by decide +kernel, by decide +kernel, by decide⟩
theorem wit_set_lost : findSet (lostS 0 []) 0 0 = some setX ∧ (lostS 0 []).crown.ready = true ∧ (0, 0) ∈ setX.lost ∧
    0 + 100000000 ≤ (lostS 0 []).time ∧ relocTarget (lostS 0 []) setX 0 = none ∧
    relocTarget (lostS 0 [cmdOf 1 .queued]) setX 0 = none ∧ usesSet (cop (cmdOf 1 .queued)) = true ∧
    (getRing (lostS 0 [cmdOf 1 .queued]) 0 0).fault = false := by
  refine ⟨by decide +kernel, by decide, by decide, by decide +kernel, by decide +kernel, by decide +kernel, by decide, by decide⟩

def upPiles : State := { up with piles := [(3, { scrubEn := true })], time := 5000, streams := [(0, stream0)] }
theorem wit_piles : pileFenced upPiles 3 = false ∧ (getPile upPiles 3).scrubEn = true ∧ (getPile upPiles 3).selfRefresh = false ∧
    (getPile upPiles 3).scrubPos + 1 < pileLines ∧ lineErrs upPiles (3 * 2 ^ 36 + 64 * (getPile upPiles 3).scrubPos) = [] ∧
    correctable upPiles (3 * 2 ^ 36 + 64 * (getPile upPiles 3).scrubPos) [] = true ∧
    tget 0 (getPile upPiles 3).refreshed 31 + (if (getPile upPiles 3).hot then 1950 else 3900) ≤ upPiles.time ∧
    (getStream upPiles 0).home = 3 ∧ (getStream upPiles 0).objs ≠ [] := by decide +kernel

/-- Stream 0 in pile 3 with a swap or a move requested, in a partition with a swap area. -/
def swapS (x : Stream) (l : List Cmd) : State :=
  { withCmd (cmdOf 1 .queued) with
    cmds := l, streams := [(0, x)], parts := [(0, { en := true, diesLo := 1, swap := some (0x100000, 0x10000, 5) })] }
def streamGone : Stream := { isOpen := true, home := 0x1E, swapAt := 0x100000 }
def cmdN : Cmd := { cmdOf 1 .queued with desc := { opcode := 1, count := 1 } }
theorem wit_swap_out : (swapS { stream0 with move := some none } []).crown.ready = true ∧
    homed (swapS { stream0 with move := some none } []) 0 = true ∧ streamQuiet (swapS { stream0 with move := some none } []) 0 = true ∧
    swapWanted (swapS { stream0 with move := some none } []) 0 = true ∧
    (stream0.objs.findSome? (objBad (swapS { stream0 with move := some none } []))) = none ∧
    (swapPlace (swapS { stream0 with move := some none } []) 0 (swapBytes stream0.objs)).isSome = true := by
  refine ⟨by decide, by decide, by decide, by decide, by decide +kernel, by decide +kernel⟩
theorem wit_swap_in : (getStream (swapS streamGone [cmdN]) 0).home = 0x1E ∧
    (∀ l ∈ [[], [cmdN]], (chooseHome (swapS streamGone l) 0 0 0 []).isSome = true) ∧
    waitingFor (swapS streamGone []) 0 = none ∧ namesStream cmdN 0 = true ∧ waitsState cmdN = true ∧
    (getRing (swapS streamGone [cmdN]) 0 0).fault = false ∧ swapGood (swapS streamGone []) [] [] = false ∧
    (placeObjs (swapS streamGone []) 3 0 0 []).isSome = true := by
  refine ⟨by decide, by decide +kernel, by decide, by decide, by decide, by decide, by decide +kernel, by decide⟩
theorem wit_swap_good : ∃ b, swapGood (swapS streamGone []) [] b = true := by
  refine ⟨leN 8 (siphash (Config.bootKey (swapS streamGone []).sec.boots) []).toNat ++ z 56, ?_⟩
  have hd (n : Nat) : (leN 8 n ++ z 56).drop 64 = [] := by simp [leN, z]
  have hl (n : Nat) : (leN 8 n ++ z 56).length = swapBytes [] := by simp [swapBytes, z, sumN]
  have hf (v : W64) : fieldLE (leN 8 v.toNat ++ z 56) 0 8 = v.toNat := fieldLE_leN_append 8 v.toNat (z 56) v.isLt
  simp only [swapGood, hl, hf, hd, beq_self_eq_true, Bool.and_self]
def moveS : State := swapS { isOpen := true, home := 3, move := some (some 5) } []
theorem wit_move : moveS.crown.ready = true ∧ homed moveS 0 = true ∧ pileFenced moveS 5 = false ∧ (getStream moveS 0).home ≠ 5 ∧
    streamQuiet moveS 0 = true ∧ moveSent moveS 0 = false ∧ moveWanted moveS 0 5 = true ∧ objsFit moveS 5 0 0 [] = true ∧
    moveS.crown.mc0Wait = [] ∧ (placeObjs moveS 5 0 0 []).isSome = true ∧ 0 < mc0Left moveS 0 ∧
    mc0Left { moveS with crown := { moveS.crown with mc0 := [(0, 0)] } } 0 = 0 ∧ meshOn { up with net := [.home [0, 1] 0 3] } = true := by
  decide +kernel

def upLazy : State := mapped up (mkLazy true false)
def ent0 (n : Nat) : TlbEnt := { part := 0, dva := 0x10000, size := n, pa := 3 * 2 ^ 36, w := true }
def fullTlb : State := { upPage with dieTlb := [(0, List.replicate 8 (ent0 0))] }
theorem wit_tlb : tlbHit (getTlb upPage 2560) 0 0x10000 = none ∧ walkEnt upPage 0 0x10000 = some (ent0 4096) ∧
    walkEnt upPage 0 0x20000 = none ∧ getTlb upPage 2560 = [] ∧ tlbHit (getTlb fullTlb 2560) 0 0x10000 = none ∧
    walkEnt fullTlb 0 0x10000 = some (ent0 4096) := by decide +kernel
theorem wit_tlb_full : 8 ≤ ((getTlb fullTlb 2560).filter fun x => setIndex 2560 x == setIndex 2560 (ent0 4096)).length := by
  have h : getTlb fullTlb 2560 = List.replicate 8 (ent0 0) := by rfl
  rw [h, List.filter_eq_self.mpr]
  · decide
  · intro a ha
    rw [List.eq_of_mem_replicate ha]
    exact beq_self_eq_true _
def dieTlbS : State := { upPage with dieTlb := [(0, [ent0 4096])] }
def inv0 (l : List Nat) : Inval := { part := 0, dva := 0x10000, size := 4096, tlbs := l, free := [] }
theorem wit_tlb_core : tlbHit (getTlb dieTlbS 0) 0 0x10000 = none ∧
    tlbHit (getTlb dieTlbS (2560 + dieOf 0)) 0 0x10000 = some (ent0 4096) ∧ (getTlb dieTlbS 0).length < 64 ∧
    0 ∈ (inv0 [0, 1]).tlbs ∧ (∃ n ∈ (inv0 [0, 1]).tlbs, n ≠ 0) ∧ (∀ n ∈ (inv0 [0]).tlbs, n = 0) ∧ (inv0 [0]).moveTo = none := by
  decide +kernel
theorem phys_some (s : State) (p size align : Nat) (o : Owner) (h1 : pileFenced s p = false)
    (h2 : extentFree s p (p * 2 ^ 36) size = true)
    (h3 : (match ownerPart o with | some q => !quotaOk s q size | none => false) = false) :
    (physAlloc s p size align o).isSome = true := by
  have hf : (physFind s p size align).isSome = true := List.find?_isSome.mpr ⟨_, by simp, h2⟩
  unfold physAlloc
  simp only [h1]
  split at h3 <;> simp_all
theorem wit_page_move : (pteAt upPage 0 0x10000).2.1 = 4096 ∧ pteP (pteAt upPage 0 0x10000).1 = true ∧ upPage.inval = [] ∧
    inWindow upPage 0 (0x10000 / 4096 * 4096) 4096 = false ∧ (physAlloc upPage 5 4096 4096 (.page 0)).isSome = true :=
  ⟨by decide +kernel, by decide +kernel, rfl, by decide +kernel, phys_some _ _ _ _ _ (by decide) (by decide +kernel) (by decide +kernel)⟩

/-- The window serves 2 MiB of partition 0 from address 0. -/
def winS (w bad : Bool) : State :=
  let s := mapped up (mkPte (3 * 2 ^ 36) w false)
  { s with
    memwin := { en := true, hdm := true, size2m := 1 }
    pile := { s.pile with errs := if bad then [(3 * 2 ^ 36, [(0, 1), (1, 2), (2, 3)])] else [] } }
theorem wit_window : (∀ w ∈ [true, false], awake (winS w false) ∧ winLive (winS w false).memwin = true ∧
      0x10000 < winSize (winS w false).memwin ∧ winTrans (winS w false) 0x10000 = .page (3 * 2 ^ 36) 4096 w ∧
      lineErrs (winS w false) (3 * 2 ^ 36) = [] ∧ lineBad (winS w false) (3 * 2 ^ 36) = false) ∧
    winTrans (winS true true) 0x10000 = .page (3 * 2 ^ 36) 4096 true ∧ lineBad (winS true true) (3 * 2 ^ 36) = true ∧
    winSize (winS true false).memwin ≤ 2 ^ 21 ∧ winLive up.memwin = false ∧ awake up ∧ up.memwin.en = false := by
  decide +kernel

def part1 : State := { up with parts := [(1, { diesLo := 1 })] }
theorem wit_parts : (∀ d ∈ List.range 40,
      (partHasDie (setPart part1 0 { getPart part1 0 with diesLo := 2 }) 0 d = true → partHasDie part1 0 d = false →
        dieFenced part1 d = false ∧ ∀ p ∈ List.range 16, p ≠ 0 → partHasDie part1 p d = false) ∧
      (partHasDie (setPart part1 0 { getPart part1 0 with diesLo := 2 }) 0 d = false → partHasDie part1 0 d = true →
        dieHolds part1 d = false)) ∧ awake part1 ∧
    partHasDie (setPart part1 0 { getPart part1 0 with diesLo := 2 }) 0 1 = true ∧ partHasDie part1 0 1 = false ∧
    dieFenced { part1 with crown := { part1.crown with fenceLo := 0xFFFFFFFF } } 1 = true ∧ (getPart part1 1).en = false ∧
    (getPart part1 1).diesLo ≠ 0 ∧ (getPart part1 0).diesLo = 0 ∧ (getPart part1 0).diesHi = 0 := by decide +kernel

/-! ## Ports and frames -/

/-- Port 1 in a state, on a powered pair of a package at work. -/
def portS (x : Port) (t : Nat) : State := { up with ports := [(1, x)], time := t, pwr := { up.pwr with domOff := [], pairOffAt := [(0, 5)] } }
def portUp : Port := { en := true, state := 2 }
theorem wit_ports : awake (portS {} 9) ∧ portThere (portS {} 9) 1 = true ∧ (getPort (portS {} 9) 1).en = false ∧
    portPowered (portS portUp 9) 1 = true ∧ (getPort (portS portUp 9) 1).state = 2 ∧ (portS portUp 9).rst.clksel ≠ 2 ∧
    (portS portUp 9).dom.inDomain = false ∧ (getPort (portS { en := true, state := 1 } 9) 1).state ≠ 2 ∧
    6 ≤ (portS portUp 9).rst.step ∧ (getPort (portS { en := true, state := 1 } 9) 1).trainAt ≤ 9 ∧ (portS portUp 9).pwr.onOsc = false ∧
    (portS portUp 9).tally.slots = [] ∧ 15 + portPair 1 ∉ (portS {} 9).pwr.shut := by decide +kernel
theorem wit_port_falls : 8 ≤ ({ portUp with replayRuns := 8 } : Port).replayRuns ∧
    16 ≤ (({ portUp with badAt := List.replicate 16 5 } : Port).badAt.filter fun b => decide (9 < b + 1000000)).length ∧
    portUp.replayRuns < 8 ∧ (portUp.badAt.filter fun b => decide (9 < b + 1000000)).length < 16 ∧
    tget 0 (portS {} 9).pwr.pairOffAt 0 ≠ 0 ∧ tget 0 (portS {} 9).pwr.pairOffAt 0 ≤ 9 ∧ pairEn (portS {} 9) 0 = false := by
  decide +kernel
def outF (n : W16) : OutFrame := { seq := n, cr := [0, 0, 0], replay := false, eq := [0, 0, 0, 0], slots := [] }
/-- What arrives is a frame of the peer's, with the errors of its codewords. -/
def inF (n : W16) (bad : Bool) : FrameIn :=
  { image := frameBytes (outF n) 0xFFFF 0 0, fec := if bad then [(List.range 16).map fun i => (i, 1)] else [[(3, 7)]], dsts := [] }
theorem wit_frame_good (n : W16) : frameGood (inF n false).image = true := frameGood_frameBytes _ _ _ _
theorem wit_frames : (∀ x ∈ [(0, 0), (5, 5), (0xFFFF, 0xFFFF)], fieldLE (inF x.1 false).image 0 2 = x.2) ∧
    frameFlits (inF 0 false) = [] ∧ portUp.rx = [] ∧ portUp.rxSeq + 1 = 0 ∧ 1 < ((5 : W16) - portUp.rxSeq).toNat ∧
    ((5 : W16) - portUp.rxSeq).toNat < 0x8000 ∧ (∀ e ∈ (inF 0 false).fec, codewordBad e = false) ∧
    (∃ e ∈ (inF 0 true).fec, codewordBad e = true) ∧ frameGood [] = false := by
  refine ⟨by decide +kernel, by decide +kernel, rfl, rfl, by decide, by decide, by decide +kernel, by decide +kernel, by decide +kernel⟩
theorem wit_frame_send : ({ portUp with resend := [outF 3] } : Port).resend = outF 3 :: [] ∧ portUp.resend = [] ∧
    portUp.replay.length < 256 ∧ 256 ≤ ({ portUp with replay := List.replicate 256 (outF 0) } : Port).replay.length ∧
    ({ portUp with peerReplay := true, replay := [outF 3], replayHead := 3, replayRuns := 1 } : Port).replay = outF 3 :: [] ∧
    (outF 3).seq = 3 ∧ (outF 3).seq ≠ 0 := by decide +kernel
theorem wit_measures : portUp.adapt = true ∧ ([1, 0, 2, 3] : List W16).length = 4 ∧ tget 0 portUp.eqAt 0 = 0 ∧
    tget 0 ({ portUp with eqAt := [(0, 9)] } : Port).eqAt 0 ≠ 0 ∧ 9 + 1 < tget 0 ({ portUp with eqAt := [(0, 9)] } : Port).eqAt 0 + 1000000 ∧
    ({ portUp with echo := some (0, 16) } : Port).echo = some (0, 16) := by decide

/-! ## The domain -/

/-- A member of a domain of packages 1 and 2, keeper or not, with messages that have come, at 2 s. -/
def domS (keeper : Bool) (got : List (Nat × Ctl)) : State :=
  { up with
    time := 2000000000, ports := [(3, portUp)]
    dom := { inDomain := true, keeper := keeper, pkg := 1, keeperPkg := if keeper then 1 else 2, members := 2
             routes := [(2, some 3)], roster := [1, 2], edges := [], children := [3], got := got } }
def ctl0 : CtlOut := { seq := 4, dst := 2, m := .departure 9, firstAt := 0, sentAt := 0 }
def domC (keeper : Bool) (at_ : Nat) : State :=
  { domS keeper [] with dom := { (domS keeper []).dom with seen := [(2, 5)], ctl := [{ ctl0 with sentAt := at_ }] } }
theorem wit_control : awake (domC true 0) ∧ (domC true 0).dom.leaving = none ∧ (domC true 0).dom.seen.contains (2, 5) = true ∧
    (domC true 0).dom.seen.contains (2, 6) = false ∧ fl0Free (domC true 0) 1 ∧ (domC true 0).dom.ctl = [ctl0] ∧
    ctl0.sentAt + 50000 ≤ (domC true 0).time ∧ ctl0.firstAt + 2000000 ≤ (domC true 0).time ∧
    (∀ x ∈ (domC true 1999999999).dom.ctl, (domC true 1999999999).time < x.sentAt + 50000) ∧
    (domC true 0).dom.roster.contains ctl0.dst = true ∧ ctl0.dst ≠ 3 := by decide +kernel
def domKept (k : Nat) : State := { domC false 0 with dom := { (domC false 0).dom with keeperPkg := k } }
theorem wit_told : (domKept 7).dom.keeper = false ∧ ctl0.dst ≠ (domKept 7).dom.keeperPkg ∧ fl0Free (domKept 7) 1 := by decide
theorem wit_members : (∀ k ∈ [true, false], (domS k [(2, .departure 2)]).dom.got = (2, .departure 2) :: [] ∧
      2 ≠ selfPkg (domS k []) ∧ (domS k []).dom.roster.contains 2 = true ∧ (domS k []).dom.keeper = k) ∧
    (∀ x ∈ [1000000001, 1000000002], tget 0 { domS true [] with dom := { (domS true []).dom with freeing := [(9, x)] } }.dom.freeing 9 = x) ∧
    1000000001 + 1000000000 ≤ (domS true []).time + 1 ∧ (domS true []).time + 1 < 1000000002 + 1000000000 := by decide +kernel
def domJ (n : List (Nat × Nat × W64)) (g : List (Nat × Ctl)) : State := { domS true g with dom := { (domS true g).dom with nonces := n } }
theorem wit_routes : (domS false [(2, .route 9 (some 3))]).crown.ready = true ∧ (domS false []).dom.keeperPkg = 2 ∧
    (domS false [(5, .route 9 none)]).dom.got = (5, .route 9 none) :: [] ∧ (domS true []).dom.got = [] ∧
    selfPkg (domS true []) ∈ (domS true []).dom.roster ∧ (0 : W64) = (domS true []).dom.domId ∧
    (65536 + 3 : Nat) ≥ 65536 ∧ (7, 0, 5) ∉ (domJ [] []).dom.nonces ∧ (7, 0, 5) ∈ (domJ [(7, 0, 5)] []).dom.nonces ∧
    (domJ [] []).dom.members < 32768 ∧ assignNumber (domJ [] []) 5 false = some 5 ∧ (65536 : Nat) ≤ 65536 + 3 := by decide +kernel
/-- A join that waits, with its request on channel 0. -/
def joinS (found : Bool) (g : List (Nat × Ctl)) : State :=
  { domS false g with
    dom := { got := g, join := some { chan := 0, want := 5, demand := false, found := found, at_ := 0 } }
    mail := { slow := [(0, { msg := z 16, at_ := 0 })] } }
theorem wit_joins : (∀ f ∈ [true, false], ∀ g ∈ [[], [(2, .joinRefuse 0)], [(2, .joinGrant 5 9 480 2 0), (2, .beadMark 10 480 0)]],
      (joinS f g).dom.join = some { chan := 0, want := 5, demand := false, found := f, at_ := 0 } ∧
      (joinS f g).mail.slow.find? (fun x => x.1 == 0) = some (0, { msg := z 16, at_ := 0 }) ∧ (joinS f g).dom.got = g) ∧
    (5 : Nat) ≠ 2 ∧ 0 + 1000000000 ≤ (joinS true []).time ∧ (getPort (joinS true []) 3).state = 2 ∧
    mailFree (joinS true []) 0 = true := by decide +kernel
def claimS (c : Option (Nat × Nat)) (g : List (Nat × Ctl)) : State := { domS false g with dom := { (domS false g).dom with claim := c } }
theorem wit_claims : (domS false []).dom.lastMark + 4000000 ≤ (domS false []).time ∧ (claimS none []).dom.claim = none ∧
    (∀ n ∈ [0, 1, 2], (claimS (some (1, 0)) [(65539, .claim n)]).dom.claim = some (1, 0) ∧
      (claimS (some (1, 0)) [(65539, .claim n)]).dom.got = (65539, .claim n) :: []) ∧ 0 + 1000000 ≤ (claimS none []).time ∧
    (claimS (some (1, 1999999999)) []).time < 1999999999 + 1000000 ∧ (getPort (domS false []) 3).state = 2 ∧
    1 < (domS false []).dom.keeperPkg ∧ (domS false []).dom.keeperPkg ≤ 2 := by decide +kernel
def markS (k : Bool) (ref sel : BitVec 3) (pend : Bool) (e last : Nat) (ph : Option Int) (g : List (Nat × Ctl)) : State :=
  { domS k g with
    bead := { en := true, activeRef := ref, refsel := sel, pendingWr := pend, edge := e }
    dom := { (domS k g).dom with lastMark := last, phase := ph } }
theorem wit_marks : (markS true 0 0 false 2000000000 0 none []).dom.lastMark + 125000 ≤ 2000000000 ∧
    2000000000 < (markS true 0 0 false 0 1999999999 none []).dom.lastMark + 125000 ∧
    (markS true 0 0 false 2000000000 0 none []).time = (markS true 0 0 false 2000000000 0 none []).bead.edge ∧
    (∀ ph ∈ [none, some (-5)], (markS false 6 6 false 0 0 ph [(65539, .timeMark 5 0)]).dom.phase = ph ∧
      (markS false 6 6 false 0 0 ph [(65539, .timeMark 5 0)]).bead.activeRef = 6) ∧
    (∀ r ∈ ([0, 6] : List (BitVec 3)), ∀ x ∈ ([0, 6] : List (BitVec 3)), ∀ p ∈ [true, false],
      (markS false r x p 0 0 none [(65539, .beadMark 9 480 0)]).bead.refsel = x ∧
      (markS false r x p 0 0 none [(65539, .beadMark 9 480 0)]).bead.activeRef = r ∧
      (markS false r x p 0 0 none [(65539, .beadMark 9 480 0)]).bead.pendingWr = p) ∧
    0 + (480 : W16).toNat * 62500 / 6 ≤ 2000000000 ∧
    2000000000 < (markS false 6 6 false 1999999999 0 none []).bead.edge + (480 : W16).toNat * 62500 / 6 ∧
    0 + 4000000 ≤ (markS false 6 6 false 0 0 none []).time ∧
    (markS false 6 6 false 0 1999999999 none []).time < 1999999999 + 4000000 := by decide +kernel
/-- Announce slot 3 names ring 0 of client 0, or client 1 that is not registered. -/
def annS (cl : Nat) (subs : List Sub) (g : List (Nat × Ctl)) : State :=
  { domS false g with
    clients := upRing.clients, dom := { (domS false g).dom with announce := [(3, { en := true, client := cl, ring := 0 })], subs := subs } }
def cmdDp (own : Bool) (busy : Option Nat) : Cmd :=
  { cmdOf 0x0B .queued with dep := some { pkg := 2, own := own, slot := 3, seq := 1, timeout := 0, busyAt := busy } }
theorem wit_reports : localDep (annS 1 [] []) 3 1 ≠ .unmet ∧ localDep (annS 0 [] []) 3 0xFFFFFF = .met ∧
    localDep (annS 0 [] []) 3 1 = .unmet ∧ (annS 0 [] [(2, .subscribe 3 1 false 7)]).dom.got = (2, .subscribe 3 1 false 7) :: [] ∧
    (annS 0 [] []).dom.subs.length < 8192 ∧ (annS 0 [] [(2, .withdraw 7)]).dom.got = (2, .withdraw 7) :: [] ∧
    (∀ x ∈ [2, 65536], (annS 0 [{ src := x, cmd := 0, slot := 3, seq := 0xFFFFFF }] []).dom.subs =
      [{ src := x, cmd := 0, slot := 3, seq := 0xFFFFFF }]) := by decide +kernel
theorem wit_subs_full (x : Sub) : 8192 ≤ (annS 0 (List.replicate 8192 x) []).dom.subs.length := by
  simp only [annS, List.length_replicate, Nat.le_refl]
theorem wit_retries : (∀ a ∈ [1, 2, 3], { annS 0 [] [(2, .report 0 a)] with cmds := [cmdDp false none] }.dom.got = (2, .report 0 a) :: []) ∧
    getCmd { annS 0 [] [] with cmds := [cmdDp false none] } 0 = some (cmdDp false none) ∧
    (∀ o ∈ [true, false], ∀ t ∈ [0, 1999999999], getCmd { annS 0 [] [] with cmds := [cmdDp o (some t)] } 0 = some (cmdDp o (some t))) ∧
    0 + 100000 ≤ (annS 0 [] []).time ∧ (annS 0 [] []).time < 1999999999 + 100000 := by decide +kernel
theorem wit_announce : awake (annS 0 [] []) ∧ (tget {} (annS 0 [] []).dom.announce 3).en = true ∧
    (tget {} (annS 0 [] []).dom.announce 4).en = false ∧
    (getStream { up with streams := [(33, stream0)] } (32 * 1 + 1)).isOpen = true ∧
    (tget (0 : W32) up.dom.mirror 1).getLsbD 1 ≠ (2 : W32).getLsbD 1 ∧ (tget (0 : W32) up.dom.mirror 1).getLsbD 1 = (1 : W32).getLsbD 1 := by
  decide +kernel

/-! ## Host link and mailboxes -/

/-- A request of `n` bytes with the given bytes at their offsets. -/
def rq (n : Nat) (l : List (Nat × Nat)) : Bytes := (List.range n).map fun i => tget 0 (bytesOf l) i
/-- `s` with a request waiting on channel 1. -/
def askS (s : State) (b : Bytes) : State := { s with mail := { s.mail with reqs := [(1, [{ msg := b, at_ := 0 }])] } }
/-- The request is the oldest of channel 1, of type `ty` and well formed: what `asks` says, decidably. -/
abbrev asked (s : State) (ty : Nat) (b : Bytes) : Prop :=
  takesNext (askS s b) 1 = true ∧ fieldLE b 0 1 = ty ∧ ((typeOf s b).any fun x => resvZero x b) = true
theorem asks_of (s : State) (ty : Nat) (b : Bytes) (h : asked s ty b) : asks (askS s b) 1 ty b [] := by
  obtain ⟨x, hx, hr⟩ := Option.any_eq_true .. |>.mp h.2.2
  exact ⟨h.1, ⟨0, rfl⟩, h.2.1, x, hx, hr⟩

def h2fS (full : Bool) : State := { up with mail := { h2f := [(1, { data := [(0, 6)], full := full, len := 4, msg := [6] })] } }
theorem wit_mail_registers : crownUp up = true ∧ 2 ∉ up.pwr.domOff ∧ awake (h2fS true) ∧ mailOk 1 = true ∧
    (∀ f ∈ [true, false], (getH2f (h2fS f) 1).full = f) ∧ up.io.aerFatal = false ∧
    { up with io := { up.io with aerFatal := true } }.io.aerFatal = true ∧
    bits (1 : W32).toNat 6 0 = 1 ∧ bits (64 : W32).toNat 6 0 = 64 ∧ bits (65 : W32).toNat 6 0 = 65 ∧
    bits (0 : W32).toNat 6 0 = 0 ∧ served (h2fS true) 1 = true ∧ (getF2h up 1).full = false := by decide +kernel
theorem wit_mail_replies : getReplies { up with mail := { replies := [(1, [[1, 2]])] } } 1 = [1, 2] :: [] ∧
    getReqs (askS up (rq 4 [(0, 0x77)])) 1 = { msg := rq 4 [(0, 0x77)], at_ := 0 } :: [] ∧
    typeOf (askS up (rq 4 [(0, 0x77)])) (rq 4 [(0, 0x77)]) = none ∧ getReplies (askS up (rq 4 [(0, 0x77)])) 1 = [] := by decide +kernel
theorem wit_reserved : (∀ ty ∈ [0x01, 0x02, 0x03, 0x04, 0x05, 0x06, 0x07, 0x08, 0x09, 0x0A, 0x0B, 0x0C, 0x10, 0x11, 0x12, 0x20, 0x22],
    takesNext (askS up (rq 52 [(0, ty), (2, 1)])) 1 = true ∧ fieldLE (rq 52 [(0, ty), (2, 1)]) 0 1 = ty ∧
    ((typeOf (askS up (rq 52 [(0, ty), (2, 1)])) (rq 52 [(0, ty), (2, 1)])).any fun x => !resvZero x (rq 52 [(0, ty), (2, 1)])) = true) := by
  decide +kernel

/-- Partition 0 is enabled and client 0 registered there; client 1 is not. -/
def upCl (l : List Cmd) : State := { upRing with cmds := l, parts := [(0, { en := true, diesLo := 1 })] }
def ringB (log : Nat) : Bytes := rq 30 [(0, 3), (6, 1), (7, log), (28, 9)]
theorem wit_clients : asked (upCl []) 0x01 (rq 6 [(0, 1), (4, 1)]) ∧ asked (upCl []) 0x01 (rq 6 [(0, 1)]) ∧
    (getClient (upCl []) 1).reg = false ∧ (getClient (upCl []) 0).reg = true ∧
    (getPart (upCl []) (getSched (upCl []) 1).part).en = true ∧ asked (upCl []) 0x02 (rq 6 [(0, 2)]) ∧
    (∀ g ∈ [0, 4, 3], asked (upCl []) 0x03 (ringB g)) ∧ ringFieldsOk (ringB 4) = true ∧ ringFieldsOk (ringB 3) = false ∧
    (getRing (upCl []) 0 1).en = false ∧ (cmdOf 1 .queued).client = 0 := by decide +kernel
theorem wit_stops : asked (upCl []) 0x04 (rq 8 [(0, 4)]) ∧ asked (upCl []) 0x05 (rq 8 [(0, 5)]) ∧
    asked (upCl [cmdOf 1 .running]) 0x04 (rq 8 [(0, 4)]) ∧ (getClient (upCl [cmdOf 1 .running]) 0).stopped = false ∧
    ([cmdOf 1 .running].map Cmd.id).Nodup ∧ asked (upCl []) 0x04 (rq 8 [(0, 4), (6, 1)]) ∧ fieldLE (rq 8 [(0, 4)]) 4 1 = 0 := by
  decide +kernel
/-- A STOP of client 0 has waited for its commands, which are quiescent. -/
def stopS : State :=
  { upCl [] with
    clients := [(0, { reg := true, stopping := true })], mail := { slow := [(1, { msg := rq 8 [(0, 4)], at_ := 0 })] } }
theorem wit_stop_ends : served stopS 1 = true ∧ mailFree stopS 1 = true ∧
    stopS.mail.slow.find? (fun x => x.1 == 1) = some (1, { msg := rq 8 [(0, 4)], at_ := 0 }) ∧ (getClient stopS 0).reg = true ∧
    (getClient stopS 0).stopping = true ∧ (getClient stopS 0).stopped = false ∧ scopeQuiet stopS (rq 8 [(0, 4)]) = true := by
  decide +kernel

/-- MAP, UNMAP and BACK of the page at 0x10000; UNMAP and BACK of 4 KiB. -/
def mapB (fl : Nat) : Bytes := rq 26 [(0, 6), (10, 1), (17, 16), (25, fl)]
def rngB (ty : Nat) : Bytes := rq 24 [(0, ty), (10, 1), (17, 16)]
def upGone : State := mapped up 0
def upFenced : State := { upGone with crown := { upGone.crown with fencePlb := 0xFFFFFFFF } }
theorem wit_map : (∀ f ∈ [1, 2, 3], asked upGone 0x06 (mapB f) ∧ rangeFits (mapB f) 4096 = true) ∧ asked upPage 0x06 (mapB 1) ∧
    ((pagesOf upGone 0 0x10000 4096).any fun a => pteMapped (pteAt upGone 0 a).1) = false ∧
    ((pagesOf upPage 0 0x10000 4096).any fun a => pteMapped (pteAt upPage 0 a).1) = true ∧
    rPart (mapB 1) = 0 ∧ rDva (mapB 1) = 0x10000 ∧ rBytes (mapB 1) = 4096 := by decide +kernel
theorem wit_map_done : (mapLazy upGone 0 4096 true (pageList 0x10000 4096 4096)).isSome = true ∧
    mapBacked 0 4096 true upFenced (pageList 0x10000 4096 4096) = none := by decide +kernel
theorem wit_put_entry : upPage.pile.errs = [] ∧ tableAt upPage 0 (keyDva (pteKey 0x11000 false)) (3 - keyUp (pteKey 0x11000 false)) =
      some 0x103000 ∧ pteTable (readPte upPage (pteAddr 0x103000 0x11000 0)) = false := by decide +kernel
theorem wit_unmap : (∀ s ∈ [upPage, upLazy], asked s 0x07 (rngB 7)) ∧ rangeFits (rngB 7) 4096 = true ∧
    (∀ s ∈ [upPage, upLazy], pagesWhole 0x10000 4096 (mappedPages s 0 0x10000 4096) = true ∧ rangeBusy s 0 0x10000 4096 = false ∧
      s.inval = []) ∧ ((mappedPages upLazy 0 0x10000 4096).all fun x => !pteP x.2.1 && pteSw x.2.1 == 2) = true ∧
    ((mappedPages upPage 0 0x10000 4096).any fun x => pteP x.2.1) = true ∧
    rangeBusy { upPage with memwin := { en := true, size2m := 1 } } 0 0x10000 4096 = true := by decide +kernel
theorem wit_back : asked upPage 0x08 (rngB 8) ∧ asked upLazy 0x08 (rngB 8) ∧
    (mappedPages upPage 0 0x10000 4096).filter (fun x => !pteP x.2.1 && pteSw x.2.1 == 2) = [] ∧
    (backPages 0 upPage []).isSome = true ∧
    backPages 0 { upLazy with crown := { upLazy.crown with fencePlb := 0xFFFFFFFF } }
      ((mappedPages upLazy 0 0x10000 4096).filter fun x => !pteP x.2.1 && pteSw x.2.1 == 2) = none := by decide +kernel
def areaB : Bytes := rq 28 [(0, 9), (18, 32)]
def exportB : Bytes := rq 24 [(0, 0x0A), (5, 63), (17, 16)]
theorem wit_areas : asked up 0x09 areaB ∧ rBytes areaB % 2 ^ 21 = 0 ∧ fieldLE areaB 24 4 < 2 ^ 20 ∧
    (∀ x ∈ ({ up with streams := [(0, streamGone)] }.streams), x.2.part = 0 ∧ x.2.home = 0x1E) ∧ up.streams = [] ∧
    asked up 0x0A exportB ∧ fieldLE exportB 5 1 = 63 ∧ rDva exportB + rBytes exportB ≤ 2 ^ 48 ∧ tget none up.dom.exports 63 = none ∧
    tget none { up with dom := { exports := [(63, some { part := 1, dva := 0, bytes := 64 })] } }.dom.exports 63 =
      some { part := 1, dva := 0, bytes := 64 } := by decide +kernel
def placeB (w n : Nat) : Bytes := rq 8 [(0, 0x0C), (6, w), (7, n)]
theorem wit_streams : asked upPiles 0x0B (rq 6 [(0, 0x0B)]) ∧ asked upPiles 0x0B (rq 6 [(0, 0x0B), (5, 0x40)]) ∧
    fieldLE (rq 6 [(0, 0x0B), (5, 0x40)]) 4 2 = 16384 ∧ asked upPiles 0x0C (placeB 0 0) ∧ asked upPiles 0x0C (placeB 1 5) ∧
    (getStream upPiles 0).isOpen = true ∧ (getStream upPiles 0).move = none ∧ (getStream upPiles 0).home < 16 ∧
    pileFenced upPiles 5 = false ∧ (getStream upPiles 0).home ≠ 5 := by decide +kernel
def setB : Bytes := rq 33 [(0, 0x10), (8, 7), (32, 1)]
def joinB : Bytes := rq 7 [(0, 0x11), (4, 5), (6, 3)]
def leaveB : Bytes := rq 4 [(0, 0x12)]
theorem wit_domain : (∀ s ∈ [up, domS false []], asked s 0x10 setB ∧ asked s 0x12 leaveB ∧ leaveBusy s = false ∧ s.dom.leaving = none) ∧
    fieldLE setB 32 1 ≤ 1 ∧ asked up 0x11 joinB ∧ fieldLE joinB 4 2 < 32768 ∧ fieldLE joinB 6 1 ≤ 3 ∧ up.dom.join = none ∧
    up.cmds = [] ∧ asked { domS true [] with dom := { (domS true []).dom with roster := [1] } } 0x12 leaveB ∧
    selfPkg (domS true []) = 1 ∧ asked { up with cmds := [{ cmd0 with desc := { token := 1 } }] } 0x12 leaveB ∧
    leaveBusy { up with cmds := [{ cmd0 with desc := { token := 1 } }] } = true := by decide +kernel
/-- A member that has told its keeper and waits for the acknowledgement, on channel 1. -/
def leaveS : State :=
  { domS false [] with
    dom := { (domS false []).dom with leaving := some (some 1), ctl := [ctl0] }
    mail := { slow := [(1, { msg := leaveB, at_ := 0 })] } }
theorem wit_leave_ends : awake leaveS ∧ leaveS.dom.leaving = some (some 1) ∧
    leaveS.mail.slow.find? (fun z => z.1 == 1) = some (1, { msg := leaveB, at_ := 0 }) ∧ leaveS.dom.ctl = [ctl0] := by decide +kernel

/-! ## Boot, reports, debug, resets -/

/-- The boot ROM tries a source, with a choice of BOOTSEL, at 20 s. -/
def romS (src : Nat) (second : Bool) (sel : BitVec 3) : State :=
  { up with crown := { linkUp := true }, time := 20000000000, sec := { rom := .trying src second, bootsel := sel } }
/-- SFDP with one table of nine words at 16. -/
def sfdp0 : Bytes := [0x53, 0x46, 0x44, 0x50, 0, 1, 0, 0, 0, 0, 1, 9, 16, 0, 0, 0xFF] ++ List.replicate 36 0xFF
theorem wit_flash : (∀ x ∈ [(false, (0 : BitVec 3)), (true, 0), (false, 3)], crownUp (romS 0 x.1 x.2) = true ∧
      (romS 0 x.1 x.2).sec.rom = .trying 0 x.1 ∧ (romS 0 x.1 x.2).sec.bootsel = x.2) ∧ (flashTable sfdp0).isSome = true ∧
    flashTable [] = none ∧ imageCode (romS 0 false 0).sec [] ≠ 0 := by decide +kernel
def romPort (st : BitVec 2) : State :=
  { romS 2 false 2 with ports := [(0, { state := st })], sec := { (romS 2 false 2).sec with romAt := 0, mediumAt := 0 } }
theorem wit_peer : crownUp (romPort 2) = true ∧ (romPort 2).sec.rom = .trying 2 false ∧ (getPort (romPort 2) 0).state = 2 ∧
    imageCode (romPort 2).sec [] ≠ 0 ∧ (romPort 2).sec.bootsel = 2 ∧ (romPort 2).sec.romAt + 10000000000 ≤ (romPort 2).time ∧
    (getPort (romPort 1) 0).state ≠ 2 ∧ (romPort 1).sec.mediumAt + 500000000 ≤ (romPort 1).time ∧ portThere (romPort 1) 0 = true := by
  decide +kernel
theorem wit_fetch : (∀ p ∈ [2, 9], (domS false [(p, .bootFetch)]).dom.got = (p, .bootFetch) :: []) ∧ awake (domS false []) ∧
    portUpTo (domS false []) 2 = true ∧ portUpTo (domS false []) 9 = false ∧ (romS 0 false 0).crown.ready = false := by decide +kernel
/-- A ROM that takes the host push, or waits for a further one. -/
def pushS (r : Rom) : State := { romS 1 false 1 with sec := { (romS 1 false 1).sec with rom := r } }
def chunkB (n : Nat) : Bytes := rq 12 [(0, 0x28), (8, n)]
def goB : Bytes := rq 8 [(0, 0x29), (4, 1)]
/-- `s` with a request waiting on channel 0, which the ROM serves. -/
def askR (s : State) (b : Bytes) : State := { s with mail := { reqs := [(0, [{ msg := b, at_ := 0 }])] } }
theorem wit_push : awake (pushS .push) ∧ (pushS .push).crown.ready = false ∧
    (∀ r ∈ [Rom.push, .stopped, .trying 1 false, .trying 1 true], ∀ b ∈ [chunkB 1, chunkB 0, goB],
      takesNext (askR (pushS r) b) 0 = true ∧ ((typeOf (askR (pushS r) b) b).any fun x => resvZero x b) = true ∧
        (pushS r).sec.rom = r) ∧ fieldLE (chunkB 1) 8 4 = 1 ∧ fieldLE (chunkB 0) 8 4 = 0 ∧
    imageCode (pushS .push).sec (memGet (pushS .push).sec.image 0 1) ≠ 0 ∧ (pushS .push).sec.bootsel = 1 := by decide +kernel
theorem wit_ready : awake up ∧ up.sec.rom = .booted ∧ up.rst.resetting = none := by decide

/-- A package whose security engine has built the lower tree, with reports held. -/
def secS (l : List HeldReport) (n : Nat) : State :=
  { up with dbg := { up.dbg with dynAddr := some 9 }, sec := { rom := .booted, svn := 3, lmsReady := true, treeBuilt := true, sigsLeft := n, held := l } }
def held0 (d : Option (Nat × Nat)) : HeldReport := { dma := d, nonce := [] }
def raiseB (n : Nat) : Bytes := rq 5 [(0, 0x22), (4, n)]
def dmaB (ty lo hi : Nat) : Bytes := rq (if ty = 0x20 then 52 else 20) [(0, ty), (8, 64), (16, lo), (17, hi)]
theorem wit_fuses : (∀ n ∈ [3, 4], asked (secS [] 9) 0x22 (raiseB n) ∧ fieldLE (raiseB n) 4 1 = n) ∧ (secS [] 9).sec.svn = 3 ∧
    asked (secS [] 9) 0x23 (dmaB 0x23 0xE4 7) ∧ dmaFieldsOk (dmaB 0x23 0xE4 7) 1 2020 2020 = true ∧
    (secS [] 9).sec.ownerSet = false ∧ asked { up with sec := { rom := .booted, ownerSet := true } } 0x23 (dmaB 0x23 0xE4 7) ∧
    asked (secS [] 9) 0x21 (dmaB 0x21 0 2) ∧ dmaFieldsOk (dmaB 0x21 0 2) 1 512 (2 ^ 32) = true ∧
    asked (secS [] 9) 0x21 (dmaB 0x21 0 1) ∧ dmaFieldsOk (dmaB 0x21 0 1) 1 512 (2 ^ 32) = false := by decide +kernel
theorem wit_attest : (∀ s ∈ [secS [] 9, secS [] 0, secS (List.replicate 64 (held0 none)) 65], asked s 0x20 (dmaB 0x20 0x54 14)) ∧
    dmaFieldsOk (dmaB 0x20 0x54 14) 64 3668 (2 ^ 32) = true ∧ (secS [] 9).sec.lmsSpent = false ∧
    (secS [] 9).sec.held.length < (secS [] 9).sec.sigsLeft ∧ (secS [] 0).sec.sigsLeft ≤ (secS [] 0).sec.held.length ∧
    64 ≤ (secS (List.replicate 64 (held0 none)) 65).sec.held.length ∧
    (secS (List.replicate 64 (held0 none)) 65).sec.held.length < 65 := by decide +kernel
theorem wit_reports_signed : (∀ d ∈ [none, some (5, 64)], (secS [held0 d] 9).sec.held = held0 d :: [] ∧ (secS [held0 d] 9).crown.ready = true ∧
      (secS [held0 d] 9).pwr.cur ≠ 2 ∧ (secS [held0 d] 9).sec.lmsReady = true ∧ 0 < (secS [held0 d] 9).sec.sigsLeft) ∧
    awake up ∧ { up with sec := { up.sec with engineOn := true } }.sec.engineOn = true ∧ up.sec.lmsSpent = false ∧ up.sec.lmsReady = false ∧
    (secS [] 9).dbg.dynAddr.isSome = true ∧ (romS 0 false 0).crown.ready = false := by decide +kernel

theorem wit_debug : tapUp up = true ∧ up.dbg.isOpen = false ∧ { up with dbg := { up.dbg with isOpen := true } }.dbg.isOpen = true ∧
    0x80 ≤ (0x9F : Byte).toNat ∧ (0x9F : Byte).toNat ≤ 0x9F ∧ tapCode (0x00 : Byte).toNat = false ∧ blockOk (0x60 : Byte).toNat = true ∧
    blockUp { up with rst := { up.rst with clkBad := [0x60] } } 0x60 = false ∧ blockUp { up with rst := { up.rst with step := 2 } } 0x60 = false := by
  decide +kernel
def wdS (r : Bool) : State := { domS false [] with crown := { up.crown with ready := r } }
theorem wit_resets : crownUp up = true ∧ up.crown.linkUp = true ∧ up.rst.resetting = none ∧ up.pwr.cur ≠ 2 ∧
    (domS false [(2, .reset 0)]).dom.got = (2, .reset 0) :: [] ∧ (domS false []).dom.keeperPkg = 2 ∧
    (∀ r ∈ [true, false], awake (wdS r) ∧ (wdS r).rst.kickAt + 500000000 ≤ (wdS r).time ∧ (wdS r).rst.resetting = none ∧
      (wdS r).crown.ready = r) ∧
    (0x20 : BitVec 6).getLsbD 5 = true ∧ (0x02 : BitVec 6).getLsbD 5 = false := by decide +kernel
theorem wit_proofs (s : State) : ∃ p q : W64, p = siphash s.dom.key (leN 2 (selfPkg s)) ∧ q ≠ siphash s.dom.key (leN 2 (selfPkg s)) := by
  generalize siphash s.dom.key (leN 2 (selfPkg s)) = x
  exact ⟨x, x + 1, rfl, by bv_omega⟩

/-- The release sequence at a step, with a test that passes but for what is given. -/
def relS (n : Nat) : State :=
  { up with crown := {}, time := 500000000, rst := { up.rst with step := n, resetting := some .package, runTest := true, clksel := 2 }, sec := {} }
def test0 : SelfTest :=
  { pllOk := true, fusesOk := true, refOk := true, supplyOk := true, crownOk := true, nightcapOk := true, ringsOk := true
    cmpFail := [3], pileFail := [2], linkFail := [1], lanes := [(7, 2)], ms := 4 }
theorem wit_release : (∀ n ∈ [0, 1, 2, 3, 4, 5, 12, 13], (relS n).rst.resetting.isSome = true ∧ (relS n).rst.hold = none ∧
      (relS n).rst.step = n) ∧ (relS 2).rst.runTest = true ∧ testRuns (relS 2) test0 = true ∧
    testRuns (relS 2) { test0 with refOk := false } = false ∧ allFail test0.cmpFail 40 = false ∧ allFail test0.pileFail 16 = false ∧
    (0x60 : Byte) ∉ (relS 3).rst.clkBad ∧ (relS 3).sec.bootsel = 0 ∧ (relS 3).sec.nextLeaf < 65536 ∧
    pileFenced (relS 4) 0 = false ∧ test0.pileFail.contains 0 = false ∧
    (∀ i ∈ List.range 16, (List.range 16).contains i = true) ∧ (relS 1).rst.relAt + 500000000 ≤ (relS 1).time := by decide +kernel
theorem wit_clocks : blockOk (3 : Byte).toNat = true ∧ blockUp up 3 = true ∧ blockUp up 0x60 = true ∧ blockUp (relS 2) 0x60 = false ∧
    (3 : Byte) ∉ up.rst.clkBad ∧ (3 : Byte) ∉ up.rst.forced ∧
    (0x60 : Byte) ∈ { up with rst := { up.rst with forced := [0x60] } }.rst.forced := by decide +kernel

/-! ## Ill-formed commands, one for each check; no bits, no command; boundaries of a bead -/

/-- Every check of WellFormed refuses the value just outside its range, and takes the last one inside. -/
theorem test_wf_indexes : (Instr.opAdd 2560).wf = false ∧ (Instr.opAdd 2559).wf = true ∧ (Instr.cqHeadWrite 4096 0 0).wf = false ∧
    (Instr.cqHeadWrite 4095 4 0).wf = false ∧ (Instr.cqHeadWrite 4095 3 0).wf = true ∧ (Instr.placeCommand 16).wf = false ∧
    (Instr.slotDiscard 16 0).wf = false ∧ (Instr.linkDelayMeasure 72).wf = false ∧ (Instr.clientRegister 8).wf = false ∧
    (Instr.avsReadback 8 0 0).wf = false ∧ (Instr.audMaskWrite 4 0 4).wf = false ∧ (Instr.audFrame 5 []).wf = false ∧
    (Instr.joinRequest 65608).wf = false ∧ (Instr.audMaskWrite 3 0 8).wf = false ∧ (Instr.tlbWalk 2617 0 0).wf = false ∧ (Instr.tlbWalk 2616 0 0).wf = true := by decide
theorem test_wf_fields : (Instr.registerWrite 0x100000 4 0).wf = false ∧ (Instr.registerWrite 0 3 0).wf = false ∧
    (Instr.registerWrite 2 4 0).wf = false ∧ (Instr.registerWrite 0 1 256).wf = false ∧ (Instr.registerWrite 0xFFFFC 4 255).wf = true ∧
    (Instr.doorbellUnmappedWrite 0 4096 4 0).wf = false ∧ (Instr.tokenDone 0 6).wf = false ∧ (Instr.regulatorRefill 0 8).wf = false ∧
    (Instr.coreScrub 0 4 0 0).wf = false ∧ (Instr.coreScrub 0 0 0 3).wf = false ∧ (Instr.coreFault 0 16 0).wf = false ∧
    (Instr.rankRelocate 0 0 2560).wf = false ∧ (Instr.pileRefresh 0 32).wf = false ∧ (Instr.cxlmemRead 32).wf = false ∧
    (Instr.cxlmemWrite 64 []).wf = false ∧ (Instr.portDown 0 8).wf = false ∧ (Instr.packageNumberFree 65536).wf = false ∧
    (Instr.domainSplit 0 65536).wf = false := by decide
theorem test_wf_lists : (Instr.pileRead 0 0 [(36, 1)] []).wf = false ∧ (Instr.pileRead 0 0 [(35, 0)] []).wf = false ∧
    (Instr.pileRead 0 0 [(3, 1), (3, 2)] []).wf = false ∧ (Instr.pileRead 0 0 [(35, 1)] [(0, 1)]).wf = true ∧
    (Instr.frameReceive 0 { image := [], fec := [], dsts := [] }).wf = false ∧
    (Instr.portTraining 0 { locked := true, rttNs := 0, peerPort := 72, peerPair := false, peerPkg := 0 }).wf = false ∧
    (Instr.portTraining 0 { locked := true, rttNs := 0, peerPort := 71, peerPair := false, peerPkg := 32768 }).wf = false ∧
    (Instr.inboxMessage 0 0 0 { gen := 0, data := [1] }).wf = false ∧ (Instr.slotFlip 16 { gen := 0 }).wf = false ∧
    (Instr.remoteSendArrive 0 0 0 0 [1]).wf = false ∧ (Instr.remoteSendArrive 65536 0 0 0 []).wf = false ∧
    (Instr.remoteSendArrive 0 0 0x10000000 0 []).wf = false ∧ (Instr.remoteReadServe 0 0 64 0 64).wf = false ∧
    (Instr.remoteReadServe 0 0 63 0 63).wf = false ∧ (Instr.tlbInvalidate { tlb := 0, move := some (0, 2 ^ 48, 0) }).wf = false := by decide +kernel
theorem test_wf_tables : (Instr.announceWrite 256 0).wf = false ∧ (Instr.mirrorWrite 512 0).wf = false ∧
    (Instr.mailboxDataWrite 0 16 0).wf = false ∧ (Instr.linkPairOff 3).wf = false ∧ (Instr.droopTrip 40).wf = false ∧
    (Instr.governorTick [0] [] [] [] [] []).wf = false ∧ (Instr.monitorTick [(64, 0)]).wf = false ∧ (Instr.ruleActivate 32).wf = false ∧
    (Instr.wearMeasure [(64, [])]).wf = false ∧ (Instr.tallyReport 0 0 64 0 0).wf = false ∧ (Instr.tallyRecordClose 256).wf = false ∧
    (Instr.flowPulse 2).wf = false ∧ (Instr.imageWindowWrite 0x100000 [0]).wf = false ∧ (Instr.imageWindowWrite 0xFFFFF [0]).wf = true ∧
    (Instr.accountingLoRead 0 8).wf = false ∧ (Instr.domainJoin 8).wf = false := by decide
theorem test_no_bits : decodeTableWord 64 0 = none ∧ up.withFetchWord 64 0 = up := by decide

/-- A bead of `n` counted samples under a reference. -/
def beadS (r : BitVec 3) (n : Nat) (w : Bool) : State :=
  { up with time := 10 ^ 7, bead := { up.bead with en := true, activeRef := r, curPeriod := 480, samples := n, pendingWr := w, refsel := 0 } }
theorem wit_boundary : (∀ r ∈ [1, 2, 5], refClocked (beadS r 480 false).bead.activeRef = true ∧
      (beadS r 480 false).bead.curPeriod.toNat ≤ (beadS r 480 false).bead.samples ∧
      (beadS r 479 false).bead.samples < (beadS r 479 false).bead.curPeriod.toNat) ∧
    (∀ r ∈ [0, 6], refClocked (beadS r 0 false).bead.activeRef = false) ∧ (beadS 0 0 true).bead.pendingWr = true ∧
    refRuns (beadS 0 0 true) (beadS 0 0 true).bead.refsel = true ∧ awaitsDomain (beadS 0 0 true) = false := by decide
/-- 480 samples of 48 kHz from time 0 are 10 ms, so a boundary asked for at 1 ns comes then. -/
theorem test_bead_10ms : (match execBeadBoundary false { beadS 0 0 false with time := 1 } with
    | .next t => (t.time, t.bead.count) | _ => (0, 0)) = (10 ^ 7, 1) := by decide +kernel

/-! ## Power states, supplies, the governor, the monitor -/

def s01 (cur : BitVec 2) (off : List Nat) : State :=
  { up with time := 200000000, pwr := { up.pwr with cur := cur, target := 2, coresOff := off } }
def waking (s : State) : State := { s with mon := { s.mon with rules := [(0, { en := true, active := true, wake := true })] } }
theorem wit_s1_entry : up.crown.ready = true ∧ (s01 0 []).pwr.cur = 0 ∧ (s01 0 []).pwr.coresOff = [] ∧
    (s01 0 []).pwr.target ≠ 0 ∧ quietS1 (s01 0 []) = true ∧ quietMail (s01 0 []) = true ∧ wakeHeld (s01 0 []) = false ∧
    idleLong (s01 0 []) = true ∧ tabWf {} 0 (s01 0 []).cores = true ∧ idleLong { s01 0 [] with time := 0 } = false := by decide
theorem wit_s1_steps : (s01 0 [7]).pwr.coresOff ≠ [] ∧ aborts (s01 0 [7]) = false ∧ aborts (waking (s01 0 [7, 6])) = true ∧
    ((waking (s01 0 [7, 6])).pwr.coresOff.filter fun g => g != lowOff (s01 0 [7, 6]).pwr.coresOff) ≠ [] ∧
    (s01 0 [7, 6, 5, 4, 3, 2, 1]).pwr.coresOff.length = 7 ∧ topOn [7, 6, 5, 4, 3, 2, 1] = 0 := by decide
theorem wit_s1_exit : (∀ off ∈ [[7, 6, 5, 4, 3, 2, 1, 0], [7, 6]], (off.filter fun g => g != lowOff off) ≠ []) ∧
    ([7].filter fun g => g != lowOff [7]) = [] ∧ wakeHeld (waking (s01 1 [7])) = true ∧
    (waking (s01 1 [7])).crown.ready = true ∧ (waking (s01 1 [7])).pwr.cur = 1 ∧ (waking (s01 1 [7])).pwr.s2Steps = 0 := by decide
def s2At (k : Nat) : State :=
  { s01 1 [7, 6, 5, 4, 3, 2, 1, 0] with pwr := { (s01 1 [7, 6, 5, 4, 3, 2, 1, 0]).pwr with s2Steps := k } }
theorem wit_s2_entry : (∀ k ∈ [0, 1, 2, 3, 9, 10], (s2At k).crown.ready = true ∧ (s2At k).pwr.cur = 1 ∧
      (s2At k).pwr.coresOff.length = 8 ∧ aborts (s2At k) = false ∧ (s2At k).pwr.s2Steps = k) ∧
    (∀ k ∈ [1, 2, 3], aborts (waking (s2At k)) = true ∧ (waking (s2At k)).pwr.s2Steps = k) ∧ (s2At 0).pwr.target = 2 ∧
    quietS1 (s2At 0) = true ∧ quietS2 (s2At 0) = true ∧ idleLong (s2At 0) = true ∧ wakeHeld (s2At 0) = false ∧
    pileFenced (s2At 1) 0 = false := by decide +kernel
theorem wit_s2_wake : (s01 2 []).pwr.cur = 2 ∧ 1 ∉ (s01 2 []).pwr.shut ∧ up.pwr.cur ≠ 2 ∧ 2 ≤ up.rst.step ∧
    up.pwr.onOsc = false := by decide
theorem test_cores_fall : (match execS1Entry (s01 0 [7]) with | .next t => t.pwr.coresOff | _ => []) = [7, 6] := by decide +kernel

theorem wit_supplies : groupOk 0 = true ∧ groupOk 7 = true ∧ groupUp up 0 = true ∧ groupUp up 7 = true ∧
    (getVddc up 7).avsFault = false ∧ (getVddc (setVddc up 7 { getVddc up 7 with avsFault := true }) 7).avsFault = true ∧
    awake up ∧ (0x80000000 : W32).getLsbD 31 = true ∧ (1 : W32).getLsbD 31 = false ∧ dieFenced up 39 = false ∧
    39 % 8 ∉ up.pwr.coresOff ∧ 39 ∉ up.pwr.droop := by decide
theorem wit_governor : up.crown.ready = true ∧ up.pwr.cur ≠ 2 ∧ 7 ∉ up.pwr.coresOff ∧ 7 ∈ (s01 0 [7]).pwr.coresOff := by decide

/-- A channel `c` sampled at every tick, and rule 3 on channel 40. -/
def monS (x : Rule) : State :=
  { up with mon := { up.mon with
      tick := 200, ch := [(5, { en := true }), (40, { en := true, period := 1, primed := true }), (44, { en := true, period := 1 }), (55, { en := true, period := 1 })]
      rules := [(3, x)] } }
def ruleA : Rule := { en := true, channel := 40, persist := 2, thresh := 5 }
theorem wit_monitor : 1 ≤ (monS ruleA).rst.step ∧ (∀ r ∈ List.range 32, ruleDue (getRule (monS ruleA) r) = false) ∧
    (∀ c ∈ [5, 40, 44, 55], (getChan (monS ruleA) c).en = true ∧ chanOff (monS ruleA) c = false ∧
      (monS ruleA).mon.tick % (getChan (monS ruleA) c).period = 0) ∧
    [(5, (7 : W32))].find? (fun y => y.1 == 5) = some (5, 7) ∧ (getRule (monS ruleA) 3).channel = 40 ∧
    (getRule (monS ruleA) 3).en = true ∧ (getChan (monS ruleA) 6).en = false := by decide +kernel
/-- A step of 1.0 into a filter of k = 4 from 0 moves y by 1/16. -/
theorem test_filter : (filterChan { primed := true, k := 4 } 256).y = 4096 ∧ (filterChan {} (-256)).y = -65536 := by decide
def ruleB (act : Bool) : Rule := { ruleA with count := 2, active := act }
theorem wit_rules : (∀ x ∈ [({ ruleB false with throttle := 2, fault := true, irq := true } : Rule),
      { ruleB false with shut := true, domain := 15 }, { ruleB false with shut := true, domain := 19 },
      { ruleB false with trip := true }, { ruleB false with reset := true }, { ruleB false with wake := true }],
      ruleDue (getRule (monS x) 3) = true ∧ (getRule (monS x) 3).active = false) ∧
    (∀ n ∈ List.range 32, ruleDue (getRule (monS { ruleB false with wake := true }) n) = true → n = 3) ∧
    ({ monS (ruleB false) with pwr := { up.pwr with domOff := [], cur := 2 } } : State).pwr.cur = 2 ∧
    entering (s01 0 [7]) = true := by decide +kernel
theorem wit_rules_end : ruleDue (getRule (monS (ruleB true)) 3) = true ∧ (getRule (monS (ruleB true)) 3).active = true ∧
    (∀ n ∈ List.range 33, n ≠ 3 → (getRule (monS (ruleB true)) n).active = false ∧ ruleDue (getRule (monS (ruleB true)) n) = false) ∧
    tabWf {} 0 (monS (ruleB true)).mon.rules = true ∧
    (getRule (monS ruleA) 3).count < (getRule (monS ruleA) 3).persist := by decide +kernel

/-! ## Tally, health, accounting -/

def rec0 (open_ : Bool) (cls : Nat) : Rec :=
  { subject := 7, cls := cls, isOpen := open_, count := 1, reporter := 1, firstNs := 0, lastNs := 0, firstBead := 0, d0 := 0, d1 := 0
    seq := 4, window := 1000 }
def tallyS (l : Tab (Option Rec)) (clock : Nat) : State :=
  { up with time := 5000, tally := { up.tally with slots := l, clock := clock, nextSeq := 5, lastIrq := some 0, pendingIrq := true } }
/-- Every slot holds an open record of a subject of its own. -/
def fullTally : State := tallyS ((List.range 256).map fun i => (i, some { rec0 true 0x21 with subject := BitVec.ofNat 32 (100 + i) })) 10
theorem wit_tally : eventClass 0x21 = true ∧ awake (tallyS [] 0) ∧
    (tallyRecs (tallyS [(3, some (rec0 true 0x21))] 999).tally).find?
      (fun x => recOpen 999 x.2 && x.2.subject == 7 && x.2.cls == 0x21) = some (3, rec0 true 0x21) ∧
    (tallyRecs (tallyS [(3, some (rec0 true 0x21))] 1000).tally).find?
      (fun x => recOpen 1000 x.2 && x.2.subject == 7 && x.2.cls == 0x21) = none ∧
    tallyFree (tallyS [(0, some (rec0 true 0x21))] 0).tally = some 1 := by decide +kernel
theorem wit_tally_full : eventClass 0x21 = true ∧ awake fullTally ∧ tallyFree fullTally.tally = none ∧
    tallyOldest fullTally.tally = none ∧
    (tallyRecs fullTally.tally).find? (fun x => recOpen fullTally.tally.clock x.2 && x.2.subject == 7 && x.2.cls == 0x21) = none := by
  decide +kernel
theorem wit_tally_held : (s01 2 []).pwr.cur = 2 ∧ (s01 2 []).tally.held.length < 16 := by decide
theorem wit_tally_close : tget none (tallyS [(3, some (rec0 true 0x21))] 1000).tally.slots 3 = some (rec0 true 0x21) ∧
    (rec0 true 0x21).isOpen = true ∧ (rec0 true 0x21).firstNs + (rec0 true 0x21).window ≤ 1000 ∧
    999 < (rec0 true 0x21).firstNs + (rec0 true 0x21).window ∧ tabWf none 0 (tallyS [(3, some (rec0 false 0x21))] 0).tally.slots = true := by
  decide
theorem wit_tally_irq : (tallyS [] 0).tally.pendingIrq = true ∧ (tallyS [] 0).tally.lastIrq = some 0 ∧
    (tallyS [] 0).time < 0 + (tallyS [] 0).tally.gapUs * 1000 ∧
    0 + ({ tallyS [] 0 with time := 1000000 } : State).tally.gapUs * 1000 ≤ ({ tallyS [] 0 with time := 1000000 } : State).time ∧
    irqEnabled (tallyS [] 0).tally 0x21 = true ∧
    irqEnabled { (tallyS [] 0).tally with en1 := 0 } 0x21 = false ∧ up.tally.pendingIrq = false ∧ up.tally.lastIrq = none := by decide

theorem wit_health : up.crown.ready = true ∧ up.pwr.cur ≠ 2 ∧ awake up ∧ tabWf 0 0 up.health.dayMin = true ∧
    entryFenced up 0 = false ∧ entryFenced up 63 = false ∧ [(0, [(3, 4)])].find? (fun y => y.1 == 0) = some (0, [(3, 4)]) ∧
    entryFenced { up with crown := { up.crown with fenceHi := 0x80 } } 39 = true ∧
    { up with dbg := { up.dbg with dynAddr := some 9 } }.dbg.dynAddr.isSome = true ∧ 8 % 4 = 0 ∧ 1028 % 4 = 0 ∧ 1024 < 1028 ∧ 6 % 4 ≠ 0 ∧
    0xFFFF0 + 16 ≤ 0x100000 := by decide
theorem wit_accounting : awake upRing ∧ clientOk 0 = true ∧ clientOk 255 = true := by decide

/-! ## Audio -/

def apS (p : Nat) (x : APort) : State := { up with pwr := { up.pwr with domOff := [] }, ap := [(p, x)], time := 10 ^ 9 }
theorem wit_aud_ctrl : awake (apS 0 {}) ∧ apOk 0 = true ∧ apOk 3 = true ∧ 18 ∉ (apS 0 {}).pwr.domOff ∧ (getAp (apS 0 {}) 0).en = false ∧
    startBad (ctrlFields {} (0x81010100 ||| 0x80000000)) = false ∧ startBad (ctrlFields {} (0x80000000 ||| 0x80000000)) = true ∧
    (getAp (apS 3 { en := true, clksrc := 1 }) 3).en = true ∧
    sameSetup { en := true, clksrc := 1 } (ctrlFields { en := true, clksrc := 1 } (0xC0010100 ||| 0x80000000)) = true ∧
    sameSetup { en := true, clksrc := 1 } (ctrlFields { en := true, clksrc := 1 } (0xC0010000 ||| 0x80000000)) = false ∧
    startBad (ctrlFields { en := true, clksrc := 1 } (0xC0010100 ||| 0x80000000)) = false := by decide +kernel
theorem wit_aud_stop : sameSetup { en := true, clksrc := 1 } (ctrlFields { en := true, clksrc := 1 } (0x80010100 &&& 0x7FFFFFFF)) = true ∧
    ({ apS 0 {} with bead := { up.bead with activeRef := 2 } } : State).bead.activeRef = refOfPort 0 ∧ up.bead.activeRef ≠ refOfPort 0 ∧
    18 ∈ ({ up with pwr := { up.pwr with domOff := [18] } } : State).pwr.domOff := by decide
/-- The word of EN with a rejected setting leaves the rate of `nominal` 7.999 kHz. -/
theorem test_nominal : startBad { nominal := 7999999, slotsM1 := 1 } = true ∧ startBad { nominal := 8000000, slotsM1 := 1 } = false := by decide

def run0 : APort := { en := true, state := 1, master := true, clksrc := 1, rate := 5 }
def bind0 (buf : List W32) (started : Bool) : Bind :=
  { port := 0, slot := 1, chans := 1, fmt := 8, aoff := 0, frames := 4, prefill := 1, buf := buf, started := started }
def playS (x : APort) (b : Bind) : State := { apS 0 x with binds := [(2, some b)], streams := [(2, {})] }
theorem wit_aud_frame : apRuns (apS 0 run0) 0 = true ∧ frameOver (getAp (apS 0 run0) 0) = true ∧
    ((getAp (apS 0 run0) 0).slotAt.isSome && !(getAp (apS 0 run0) 0).master && clockLate (apS 0 run0) (getAp (apS 0 run0) 0)) = false ∧
    clockThere (apS 0 run0) (getAp (apS 0 run0) 0) = true ∧
    getBind (playS run0 (bind0 [5] false)) 2 = some (bind0 [5] false) ∧ bindLive (playS run0 (bind0 [5] false)) (bind0 [5] false) = true ∧
    (bind0 [5] false).prefill * (bind0 [5] false).chans ≤ (bind0 [5] false).buf.length ∧
    refOfPort 0 = 2 := by decide +kernel
theorem wit_aud_slot : (∀ k ∈ [0, 1], apRuns (apS 0 { run0 with slotAt := some k }) 0 = true ∧
      (getAp (apS 0 { run0 with slotAt := some k }) 0).slotAt = some k ∧ k ≤ run0.slotsM1) ∧
    slotBind (playS run0 (bind0 [5] true)) 0 1 = some (2, bind0 [5] true) ∧ slotBind (playS run0 (bind0 [5] true)) 0 0 = none ∧
    slotBind (playS run0 (bind0 [] true)) 0 1 = some (2, bind0 [] true) ∧ run0.mask.getLsbD 0 = true ∧
    ({ run0 with mask := 2 } : APort).mask.getLsbD 0 = false ∧
    tget none ({ run0 with thru := true, din := [(0, some 9)] } : APort).din 0 = some 9 := by decide +kernel
/-- A slave in slot `k` whose last edge came at 1 s, or never. -/
def slave0 (k edge : Nat) : APort := { en := true, state := 1, slotAt := some k, lastEdge := edge }
theorem wit_resync : (∀ k ∈ [0, 1, 2], apRuns (apS 0 (slave0 k (10 ^ 9))) 0 = true ∧ (slave0 k 0).master = false ∧
      clockLate (apS 0 (slave0 k (10 ^ 9))) (getAp (apS 0 (slave0 k (10 ^ 9))) 0) = false ∧ (slave0 k 0).format = 0) ∧
    (bind0 [5] true).slot ≤ (slave0 0 0).slotsM1 ∧ (getAp up 0).en = false ∧ (getAp (apS 0 { master := true }) 0).master = true := by
  decide +kernel
theorem wit_word_clock : crownUp (apS 4 {}) = true ∧ (getAp (apS 4 {}) 4).state = 0 ∧
    (getAp (apS 4 { state := 1, lastEdge := 10 ^ 9 }) 4).state = 1 ∧
    clockLate (apS 4 { state := 1, lastEdge := 10 ^ 9 }) { state := 1, lastEdge := 10 ^ 9 } = false ∧
    ({ apS 4 {} with bead := { up.bead with en := true, activeRef := 1 } } : State).bead.activeRef = 1 := by decide +kernel
/-- 1,024 frames in 21,333,333 ns are between 48,000,000 and 48,000,001 mHz. -/
theorem test_rate : meanRate { marks := [21333333 + 7, 7] } false = 48000000 ∧
    meanRate { marks := [21333333 + 7, 7] } true = 48000001 := by decide +kernel
theorem wit_rates : (∀ p ∈ [0, 4], (getAp (apS p { rateDue := true, marks := [9, 2] }) p).rateDue = true) ∧
    rateFar {} (meanRate { marks := [21333333 + 7, 7] } true) = false ∧
    rateFar {} (meanRate { marks := [9, 2] } false) = true ∧
    (getAp (apS 0 {}) 0).rateDue = false ∧
    ({ apS 4 {} with bead := { up.bead with activeRef := 1 } } : State).bead.activeRef = refOfPort 4 := by decide +kernel
theorem wit_clock_lost : (getAp (apS 0 (slave0 0 0)) 0).master = false ∧ (getAp (apS 0 (slave0 0 0)) 0).nominal ≠ 0 ∧
    (getAp (apS 0 { run0 with clksrc := 0 }) 0).clksrc = 0 ∧ (getAp (apS 0 { run0 with clksrc := 2 }) 0).clksrc = 2 ∧
    (getAp (apS 0 { run0 with clksrc := 2 }) 4).state = 0 ∧ (getAp (apS 0 { run0 with clksrc := 2 }) 0).state = 1 ∧
    (getAp { apS 0 { run0 with clksrc := 2 } with ap := [(0, { run0 with clksrc := 2 }), (4, { state := 1 })] } 4).state = 1 ∧
    (getAp { apS 0 { run0 with clksrc := 2 } with ap := [(0, { run0 with clksrc := 2 }), (4, { state := 1 })] } 4).nominal ≠ 0 := by
  decide

/-! ## Rules stated whole -/

theorem wit_straps : ({ up with pending := [.opAdd 0] } : State).pending = .opAdd 0 :: [] ∧ (∃ t, step up = .next t) ∧
    (∀ vaon w, Instr.opAdd 0 ≠ .por vaon true w) := ⟨rfl, ⟨_, rfl⟩, by intro vaon w h; cases h⟩
theorem wit_boot_code : (∀ x ∈ [false, true], crownUp (romS 0 x 0) = true ∧ (romS 0 x 0).sec.rom = .trying 0 x) ∧
    (pushS (.trying 1 true)).sec.rom = .trying 1 true ∧ takesNext (askR (pushS (.trying 1 true)) goB) 0 = true ∧
    (getPort (romPort 2) 0).state = 2 ∧ (romPort 2).sec.rom = .trying 2 false ∧ (flashTable sfdp0).isSome = true ∧
    imageCode (romS 0 false 0).sec (flashImage []) ≠ 0 := by decide +kernel
theorem wit_vector_eight : (tallyFree (tallyS [] 0).tally).isSome = true ∧
    (tallyOldest (tallyS [(3, some (rec0 true 0x21))] 1000).tally).isSome = true ∧
    (tallyRecs (tallyS [(3, some (rec0 true 0x21))] 0).tally).find?
      (fun y => recOpen 0 y.2 && y.2.subject == 7 && y.2.cls == 0x21) ≠ none := by decide +kernel
/-- Ring 0 with one entry written and not yet taken. -/
def headS : State := { up with clients := [(0, { reg := true, rings := [(0, { ring0 with written := 1 })] })] }
theorem wit_cq_head : ringOn headS 0 0 ∧ (1 - (getRing headS 0 0).head : W32).toNat ≤ ((getRing headS 0 0).written - (getRing headS 0 0).head).toNat ∧
    ((getRing headS 0 0).written - (getRing headS 0 0).head).toNat < (2 - (getRing headS 0 0).head : W32).toNat := by decide

end Sys2Proof.Tests
end

section
/-! The writes of CRN_BEAD_CTRL (R39, R40). -/

namespace Sys2Proof.Machine

open Sys2Proof Sys2Proof.Ob

/-- The four cases in which R39 rejects a write. -/
theorem beadCtrlBad_iff (s : State) (v : W32) : beadCtrlBad s v = true ↔
    v.toNat % 2 ^ 16 < 16 ∨ bits v.toNat 18 16 = 7 ∨ (bits v.toNat 18 16 = 6 ∧ s.dom.inDomain = false) ∨
      (s.bead.refsel = 6 ∧ (v.setWidth 16 : W16) ≠ s.bead.period) := by
  simp only [beadCtrlBad, BitVec.toNat_setWidth, Bool.or_eq_true, Bool.and_eq_true, decide_eq_true_eq, beq_iff_eq, bne_iff_ne,
    Bool.not_eq_true', or_assoc]

theorem beadCtrl_rejected {s : State} {v : W32} (h : beadCtrlBad s v = true) :
    beadCtrl s v = { s with bead := { s.bead with badWrite := true } } :=
  if_pos h

theorem beadCtrl_accepted {s : State} {v : W32} (h : ¬ beadCtrlBad s v = true) :
    beadCtrl s v = { s with bead := { s.bead with
      refsel := BitVec.ofNat 3 (bits v.toNat 18 16), period := v.setWidth 16, pendingWr := true } } :=
  if_neg h

theorem exec_beadCtrlWrite_awake {s : State} (h : awake s) (v : W32) :
    exec (.beadCtrlWrite v) s = .next (beadCtrl s v) :=
  congrArg Host.Outcome.next (hostAccess_awake h.1 h.2 fun s => beadCtrl s v)

end Sys2Proof.Machine

namespace Sys2Proof.Ob

open Sys2Proof Sys2Proof.Machine

/-- Settles O8: the two clauses are the two branches of `beadCtrl`. The second is R40's, and before EN the model's choice of
log 65; its hypotheses exclude each of R39's four cases. -/
theorem beadControlWrites : Obligations.BeadControlWrites := by
  unfold Obligations.BeadControlWrites
  refine ⟨fun s v hup hbad => ?_, fun s v hup hperiod href hdomain hkept => ?_⟩
  · rw [exec_beadCtrlWrite_awake hup, beadCtrl_rejected ((beadCtrlBad_iff s v).2 hbad)]
  · have hok : ¬ beadCtrlBad s v = true := by
      rw [beadCtrlBad_iff]
      rintro (hsmall | hseven | ⟨hsix, hout⟩ | ⟨hcur, hchange⟩)
      · exact absurd hsmall (Nat.not_lt.2 hperiod)
      · exact href hseven
      · exact absurd (hdomain hsix) (by simp [hout])
      · exact hchange (hkept hcur)
    rw [exec_beadCtrlWrite_awake hup, beadCtrl_accepted hok]

end Sys2Proof.Ob
end

section
/-! The writes of CQ_HEADn (R49). -/

namespace Sys2Proof.Machine

open Sys2Proof Sys2Proof.Ob

/-- What a doorbell write asks of an entry into S1 or S2 (R436) stays within the power state. -/
theorem wakeCall_eq (s : State) : ∃ p, wakeCall s = { s with pwr := p } := by
  unfold wakeCall
  split
  · exact ⟨_, rfl⟩
  · exact ⟨s.pwr, rfl⟩

@[simp] theorem wakeCall_cmds (s : State) : (wakeCall s).cmds = s.cmds := by
  obtain ⟨_, h⟩ := wakeCall_eq s; rw [h]
@[simp] theorem wakeCall_tally (s : State) : (wakeCall s).tally = s.tally := by
  obtain ⟨_, h⟩ := wakeCall_eq s; rw [h]
@[simp] theorem wakeCall_io (s : State) : (wakeCall s).io = s.io := by
  obtain ⟨_, h⟩ := wakeCall_eq s; rw [h]
@[simp] theorem wakeCall_pile (s : State) : (wakeCall s).pile = s.pile := by
  obtain ⟨_, h⟩ := wakeCall_eq s; rw [h]
@[simp] theorem getClient_wakeCall (s : State) (n : Nat) : getClient (wakeCall s) n = getClient s n := by
  obtain ⟨_, h⟩ := wakeCall_eq s; rw [h]; rfl
@[simp] theorem getRing_wakeCall (s : State) (c n : Nat) : getRing (wakeCall s) c n = getRing s c n := by
  rw [getRing, getClient_wakeCall, getRing]

theorem pageAccess_awake {s : State} (h : awake s) (f : State → State) : pageAccess s f = f (wakeCall s) :=
  hostAccess_awake h.1 h.2 fun s => f (wakeCall s)

theorem exec_cqHeadWrite_paged {s : State} {c ring : Nat} (h : paged s c ring) (v : W32) :
    exec (.cqHeadWrite c ring v) s = .next (headWrite (wakeCall s) c ring v) := by
  obtain ⟨hup, hclient, hring, hreg⟩ := h
  refine congrArg Host.Outcome.next ((pageAccess_awake hup _).trans (if_pos ?_))
  simp [hclient, hring, hreg]

theorem headWrite_accepted {s : State} {c ring : Nat} {v : W32} (hen : (getRing s c ring).en = true)
    (hv : (v - (getRing s c ring).head).toNat ≤ ((getRing s c ring).written - (getRing s c ring).head).toNat) :
    headWrite s c ring v = setRing s c ring { getRing s c ring with head := v } :=
  if_pos (Bool.and_eq_true_iff.2 ⟨hen, decide_eq_true hv⟩)

theorem headWrite_rejected {s : State} {c ring : Nat} {v : W32}
    (hv : ((getRing s c ring).written - (getRing s c ring).head).toNat < (v - (getRing s c ring).head).toNat) :
    headWrite s c ring v = setBadHead s c ring :=
  if_neg fun h => absurd (of_decide_eq_true (Bool.and_eq_true_iff.1 h).2) (Nat.not_le.2 hv)

/-- Of the four bits of one status field of DB_STATUS, the ring's bit alone is set. -/
theorem getLsbD_or_ringBit (b : BitVec 4) {ring : Nat} (h : ringOk ring = true) (n : Nat) :
    (b ||| BitVec.ofNat 4 (2 ^ ring)).getLsbD n = (b.getLsbD n || decide (ring = n)) := by
  have hring : ring < 4 := of_decide_eq_true h
  rw [BitVec.getLsbD_or, BitVec.getLsbD_ofNat, Nat.testBit_two_pow]
  by_cases hn : ring = n
  · simp [← hn, hring]
  · simp [hn]

@[simp] theorem setBadHead_cmds (s : State) (c ring : Nat) : (setBadHead s c ring).cmds = s.cmds := rfl
@[simp] theorem setBadHead_tally (s : State) (c ring : Nat) : (setBadHead s c ring).tally = s.tally := rfl
@[simp] theorem setBadHead_io (s : State) (c ring : Nat) : (setBadHead s c ring).io = s.io := rfl
@[simp] theorem setBadHead_pile (s : State) (c ring : Nat) : (setBadHead s c ring).pile = s.pile := rfl

theorem getClient_setBadHead_same (s : State) (c ring : Nat) : getClient (setBadHead s c ring) c =
    { getClient s c with badHead := (getClient s c).badHead ||| BitVec.ofNat 4 (2 ^ ring) } :=
  getClient_setClient_same s c _

theorem getClient_setBadHead_ne (s : State) {c n : Nat} (ring : Nat) (h : n ≠ c) :
    getClient (setBadHead s c ring) n = getClient s n :=
  getClient_setClient_ne s c n _ h

theorem getLsbD_badHead_setBadHead (s : State) (c : Nat) {ring : Nat} (h : ringOk ring = true) (n : Nat) :
    (getClient (setBadHead s c ring) c).badHead.getLsbD n = ((getClient s c).badHead.getLsbD n || decide (ring = n)) := by
  rw [getClient_setBadHead_same]
  exact getLsbD_or_ringBit _ h n

end Sys2Proof.Machine

namespace Sys2Proof.Ob

open Sys2Proof Sys2Proof.Machine

/-- Settles O10: the two clauses are the two branches of `headWrite` for a ring that is on. -/
theorem cqHeadPassesNoUnwrittenEntry : Obligations.CqHeadPassesNoUnwrittenEntry := by
  unfold Obligations.CqHeadPassesNoUnwrittenEntry
  intro s c ring v ⟨hpage, hen⟩
  have ⟨_, _, hring, _⟩ := hpage
  rw [exec_cqHeadWrite_paged hpage]
  constructor
  · intro hfits
    rw [headWrite_accepted (by rwa [getRing_wakeCall]) (by rwa [getRing_wakeCall]), getRing_wakeCall]
  · intro hpasses
    rw [headWrite_rejected (by rwa [getRing_wakeCall])]
    refine ⟨_, rfl, ?_, fun n hn => ?_, ?_, fun n hn => ?_, by simp⟩
    · simp [getLsbD_badHead_setBadHead _ _ hring]
    · simp [getLsbD_badHead_setBadHead _ _ hring, hn.symm]
    · rw [getClient_setBadHead_same, getClient_wakeCall]
    · rw [getClient_setBadHead_ne _ _ hn, getClient_wakeCall]

end Sys2Proof.Ob
end

section
/-! What a command leaves true of the state when it answers a next one: `Keep`, carried over to outcomes, with the rule for a
state changed in some of its parts. -/

namespace Sys2Proof.Machine

open Sys2Proof

/-- The state an operation answers, if it answers one, keeps what `Keep` says. -/
def NextKeep (s : State) : Host.Outcome State Fault Refusal → Prop
  | .next t => Keep s t
  | .fault _ => True
  | .refused _ => True

theorem NextKeep.keep {s t : State} {o : Host.Outcome State Fault Refusal} (h : NextKeep s o) (e : o = .next t) : Keep s t := by
  subst e; exact h

theorem NextKeep.onlyIf {zz s t : State} {ok : Bool} (ht : Keep zz t) (hs : Keep zz s) : NextKeep zz (onlyIf ok s t) :=
  Keep.ite ht hs

theorem NextKeep.ite {s : State} {a b : Host.Outcome State Fault Refusal} {c : Prop} [Decidable c] (ha : NextKeep s a)
    (hb : NextKeep s b) : NextKeep s (if c then a else b) := by
  split
  · exact ha
  · exact hb

theorem AnsKeep.ite {s : State} {a b : Ans} {c : Prop} [Decidable c] (ha : AnsKeep s a) (hb : AnsKeep s b) :
    AnsKeep s (if c then a else b) := by
  split
  · exact ha
  · exact hb

/-- A refused request leaves the state alone. -/
theorem AnsKeep.no {s : State} {status : Nat} : AnsKeep s (no s status) := Keep.refl s

/-- A state that differs from `t` in some parts: each part `Keep` speaks of stands unless the rule for it is given. -/
theorem Keep.parts {s t u : State} (h : Keep s t) (pending : u.pending = t.pending := by rfl)
    (time : t.time ≤ u.time := by exact Nat.le_refl _) (sec : SecKeep t.sec u.sec := by exact SecKeep.refl _)
    (pile : PileKeep t.pile u.pile := by exact PileKeep.refl _) (pwr : PwrKeep t.pwr u.pwr := by exact PwrKeep.refl _)
    (bead : BeadKeep t.bead u.bead := by exact BeadKeep.refl _) (rst : RstKeep t.rst u.rst := by exact RstKeep.refl _) :
    Keep s u :=
  h.trans ⟨pending, time, sec, pile, pwr, bead, rst⟩

/-- A state that differs from `t` in parts that `Keep` does not speak of; unlike `Keep.parts` it reads `t` off the goal. -/
theorem Keep.others {s t : State} {free : Nat} {io : Io} {crown : Crown} {clients : Tab Client} {sched : Tab Sched}
    {cmds : List Cmd} {parts : Tab Part} {streams : Tab Stream} {sets : List WSet} {cores : Tab Core}
    {dieTlb : Tab (List TlbEnt)} {net : List Packet} {piles : Tab Pile} {memwin : Memwin} {inval : List Inval}
    {ports : Tab Port} {dom : Dom} {mail : Mail} {ap : Tab APort} {binds : Tab (Option Bind)} {dbg : Dbg} {mon : Mon}
    {tally : Tally} {health : Health} (h : Keep s t) :
    Keep s ⟨t.time, free, t.pending, io, t.bead, crown, clients, sched, cmds, parts, streams, sets, cores, dieTlb, net, t.pile,
      piles, memwin, inval, ports, dom, mail, ap, binds, t.sec, dbg, t.rst, t.pwr, mon, tally, health⟩ :=
  h.trans ⟨rfl, Nat.le_refl _, SecKeep.refl _, PileKeep.refl _, PwrKeep.refl _, BeadKeep.refl _, RstKeep.refl _⟩

end Sys2Proof.Machine
end

section
/-! The commands of the sequencer keep what `Keep` says (06). -/

namespace Sys2Proof.Machine

open Sys2Proof

variable {s : State} {core : Nat}

/-- An instruction that changes its unit's dispatch and goes on. -/
theorem issue_advance_keep {op : Nat} {f : Disp → Nat → Disp} : Keep s (issue s core op fun d w => advance s core (f d w)) :=
  issue_keep (.refl s) fun _ _ => advance_keep (.refl s)

@[simp] theorem execOpEnd_keep : NextKeep s (execOpEnd core s) :=
  issue_keep (.refl s) fun _ _ => .ite (setDisp_keep (.refl s)) (stall_keep (.refl s))

@[simp] theorem execOpWait_keep : NextKeep s (execOpWait core s) :=
  issue_keep (.refl s) fun _ _ => .ite (advance_keep (.refl s)) (stall_keep (.refl s))

@[simp] theorem execOpReckon_keep : NextKeep s (execOpReckon core s) :=
  issue_keep (.refl s) fun _ _ => setDisp_keep (.refl s)

@[simp] theorem execOpJal_keep : NextKeep s (execOpJal core s) :=
  issue_keep (.refl s) fun _ _ => goTo_keep (.refl s)

@[simp] theorem execOpJr_keep : NextKeep s (execOpJr core s) :=
  issue_keep (.refl s) fun _ _ => goTo_keep (.refl s)

@[simp] theorem execOpLoop_keep : NextKeep s (execOpLoop core s) :=
  issue_keep (.refl s) fun _ _ => .ite (advance_keep (.refl s)) (goTo_keep (.refl s))

@[simp] theorem execOpRkey_keep : NextKeep s (execOpRkey core s) :=
  issue_keep (.refl s) fun _ _ => .ite (advance_keep (.refl s)) (failOob_keep (.refl s))

@[simp] theorem execOpSiteput_keep : NextKeep s (execOpSiteput core s) := by
  refine issue_keep (.refl s) fun d w => ?_
  dsimp only
  split
  · exact .refl s
  · exact .ite (advance_keep (modCmd_keep (.refl s))) (failOob_keep (.refl s))

@[simp] theorem execOpSqgo_keep : NextKeep s (execOpSqgo core s) := by
  refine issue_keep (.refl s) fun d w => .ite (stall_keep (.refl s)) (.ite (stall_keep (.refl s)) ?_)
  split
  · exact failOob_keep (.refl s)
  · refine .ite (stall_keep (.refl s)) (.ite ?_ (failOob_keep (.refl s)))
    dsimp only
    split
    · exact advance_keep (putStream_keep (.refl s))
    · exact putStream_keep (.refl s)

@[simp] theorem execOpThim_keep : NextKeep s (execOpThim core s) :=
  issue_keep (.refl s) fun _ _ => .ite (stall_keep (.refl s)) (.ite (stall_keep (.refl s))
    (.ite (failOob_keep (.refl s)) (.ite (advance_keep (.refl s)) (failOob_keep (.refl s)))))

@[simp] theorem execOpSend_keep : NextKeep s (execOpSend core s) := by
  refine issueIf_keep (.refl s) fun d w => .ite (stall_keep (.refl s)) (.ite (stall_keep (.refl s))
    (.ite (failOob_keep (.refl s)) (.ite ?_ ?_)))
  · split
    · exact sendGlobal_keep (.refl s)
    · exact .refl s
  · split
    · exact failOob_keep (.refl s)
    · exact queueSend_keep (.refl s)

@[simp] theorem execOpHaloSend_keep : NextKeep s (execOpHaloSend core s) := by
  refine issueIf_keep (.refl s) fun d w => .ite (stall_keep (.refl s)) (.ite (stall_keep (.refl s))
    (.ite (failOob_keep (.refl s)) ?_))
  split
  · exact failOob_keep (.refl s)
  · exact .ite (queueSend_keep (.refl s)) (queueSend_keep (.refl s))

@[simp] theorem execOpRemoteReadRequest_keep : NextKeep s (execOpRemoteReadRequest core s) :=
  issueIf_keep (.refl s) fun _ _ => .ite (stall_keep (.refl s)) (.ite (stall_keep (.refl s)) (.ite (failOob_keep (.refl s))
    (.ite (failOob_keep (.refl s)) (.ite (startKill_keep (.refl s)) (queueSend_keep (.refl s))))))

@[simp] theorem execOpRecv_keep : NextKeep s (execOpRecv core s) :=
  issueIf_keep (.refl s) fun _ _ => .ite (stall_keep (.refl s)) (.ite (stall_keep (.refl s))
    (.ite (failOob_keep (.refl s)) (queueRecv_keep (.refl s))))

@[simp] theorem execOpHaloRecv_keep : NextKeep s (execOpHaloRecv core s) :=
  issueIf_keep (.refl s) fun _ _ => .ite (stall_keep (.refl s)) (.ite (stall_keep (.refl s))
    (.ite (failOob_keep (.refl s)) (queueRecv_keep (.refl s))))

@[simp] theorem execOpReplyRecv_keep : NextKeep s (execOpReplyRecv core s) :=
  issueIf_keep (.refl s) fun _ _ => .ite (stall_keep (.refl s)) (.ite (stall_keep (.refl s))
    (.ite (failOob_keep (.refl s)) (queueRecv_keep (.refl s))))

end Sys2Proof.Machine
end

section
/-! The commands of the streams, the mesh and remote reads keep what `Keep` says (10, 11). -/

namespace Sys2Proof.Machine

open Sys2Proof

variable {s : State} {core : Nat}

@[simp] theorem execQueueSetup_keep {q : Nat} : NextKeep s (execQueueSetup core q s) := by
  refine onUnit_keep (.refl s) fun d _ => ?_
  dsimp only
  split
  · split
    · exact putStream_keep (.refl s)
    · exact .refl s
  · exact .refl s

@[simp] theorem execTransferIssue_keep : NextKeep s (execTransferIssue core s) := by
  refine onUnit_keep (.refl s) fun d c => ?_
  have hskip : Keep s (putStream s core (skipAll (getCore s core).ls d)) := putStream_keep (.refl s)
  dsimp only
  split
  · exact hskip
  · refine .ite (setDisp_keep hskip) ?_
    split
    · exact setDisp_keep hskip
    · split
      · exact issueXfer_keep hskip
      · exact setDisp_keep hskip

@[simp] theorem execAgeLimitExceeded_keep {q : Nat} : NextKeep s (execAgeLimitExceeded core q s) :=
  onUnit_keep (.refl s) fun _ _ => .ite (setDisp_keep (.refl s)) (.refl s)

@[simp] theorem execRegulatorRefill_keep {q : Nat} : NextKeep s (execRegulatorRefill core q s) :=
  onUnit_keep (.refl s) fun _ _ => .ite (putStream_keep (.refl s)) (.refl s)

@[simp] theorem execThimbleIssue_keep : NextKeep s (execThimbleIssue core s) := by
  refine onUnit_keep (.refl s) fun d c => ?_
  split
  · exact .refl s
  · refine .ite (setDisp_keep (.refl s)) (.ite (.refl s) ?_)
    split
    · exact failOob_keep (.refl s)
    · exact setDisp_keep (hostRead_keep (noteRoute_keep (.refl s)))

@[simp] theorem execGatherIndexStream_keep {arming : Nat} : NextKeep s (execGatherIndexStream core arming s) := by
  unfold execGatherIndexStream
  dsimp only
  split
  · exact .ite (Keep.refl s) (.ite (.ite (setPile_keep (Keep.refl s).others) (Keep.refl s)) (Keep.refl s).others)
  · exact Keep.refl s

@[simp] theorem execGatherGrant_keep {arming : Nat} : NextKeep s (execGatherGrant core arming s) := by
  refine onUnit_keep (.refl s) fun d c => ?_
  split
  · split
    · exact failOob_keep (.refl s)
    · exact setDisp_keep (noteRoute_keep (.refl s))
  · exact .refl s

@[simp] theorem execTransferComplete_keep {xid : Nat} {data : Bytes} : NextKeep s (execTransferComplete core xid data s) := by
  refine onUnit_keep (.refl s) fun d c => ?_
  split
  · exact .refl s
  · exact .ite (endXfer_keep (.refl s)) (.ite (endXfer_keep (.refl s)) (.refl s))

@[simp] theorem execTransferFault_keep {xid : Nat} {refused : Option W64} :
    NextKeep s (execTransferFault core xid refused s) := by
  refine onUnit_keep (.refl s) fun d c => ?_
  split
  · exact .refl s
  · split
    · exact killPage_keep (.refl s)
    · exact startKill_keep (.refl s)
    · exact killUe_keep (.refl s)
    · split
      · exact startKill_keep (.refl s)
      · exact .refl s
    · exact .refl s

@[simp] theorem execTokenDone_keep {engine : Nat} : NextKeep s (execTokenDone core engine s) := by
  refine onUnit_keep (.refl s) fun d _ => .ite ?_ (.ite ?_ (.ite ?_ (.refl s)))
  · split
    · exact setDisp_keep (.refl s)
    · exact .refl s
  · split
    · exact .ite (putMsg_keep (.refl s)) (.refl s)
    · exact .refl s
  · split
    · exact .ite (putMsg_keep (.refl s)) (.refl s)
    · exact .refl s

@[simp] theorem execCreditRequestArrive_keep {dst src : Nat} : NextKeep s (execCreditRequestArrive dst src s) := by
  unfold execCreditRequestArrive
  split
  · next h =>
    split
    · exact putMsg_keep (takeNet_keep h)
    · exact takeNet_keep h
  · exact Keep.refl s

@[simp] theorem execGrantArrive_keep {src : Nat} : NextKeep s (execGrantArrive core src s) := by
  unfold execGrantArrive
  split
  · next h =>
    split
    · split
      · exact .ite (putMsg_keep (takeNet_keep h)) (takeNet_keep h)
      · exact takeNet_keep h
    · exact takeNet_keep h
  · exact Keep.refl s

@[simp] theorem execMessageArrive_keep {dst src : Nat} : NextKeep s (execMessageArrive dst src s) := by
  unfold execMessageArrive
  split
  · next h =>
    split
    · exact putMsg_keep (takeNet_keep h)
    · exact takeNet_keep h
  · exact Keep.refl s

@[simp] theorem execHaloReleaseArrive_keep {src : Nat} : NextKeep s (execHaloReleaseArrive core src s) := by
  unfold execHaloReleaseArrive
  split
  · next h =>
    split
    · exact putMsg_keep (takeNet_keep h)
    · exact takeNet_keep h
  · exact Keep.refl s

@[simp] theorem execSendRefused_keep {gen : W32} : NextKeep s (execSendRefused gen s) := by
  unfold execSendRefused
  split
  · exact Keep.ite (startKill_keep (.refl s)) (modCmd_keep (.refl s))
  · exact Keep.refl s

@[simp] theorem execRemoteSendArrive_keep {src seq dst : Nat} {gen : W32} {data : Bytes} :
    NextKeep s (execRemoteSendArrive src seq dst gen data s) :=
  .onlyIf (inboxRemote_keep (.refl s)) (.refl s)

@[simp] theorem execInboxMessage_keep {src seq dst : Nat} {data : InboxMsg} : NextKeep s (execInboxMessage src seq dst data s) :=
  .onlyIf (inboxRemote_keep (.refl s)) (.refl s)

@[simp] theorem execRemoteReadReply_keep {gen : W32} {data : Bytes} : NextKeep s (execRemoteReadReply core gen data s) := by
  unfold execRemoteReadReply
  split
  · exact Keep.refl s
  · split
    · exact Keep.refl s
    · exact putMsg_keep (.refl s)

@[simp] theorem execRemoteReadRetry_keep : NextKeep s (execRemoteReadRetry core s) := by
  refine onUnit_keep (.refl s) fun d _ => ?_
  split
  · exact .refl s
  · exact sendRead_keep (setDisp_keep (.refl s))

@[simp] theorem execRemoteReadTimeout_keep : NextKeep s (execRemoteReadTimeout core s) :=
  onUnit_keep (.refl s) fun _ _ => .ite (startKill_keep (.refl s)) (.refl s)

@[simp] theorem execRemoteReadServe_keep {src gen index offset bytes : Nat} :
    NextKeep s (execRemoteReadServe src gen index offset bytes s) := by
  refine .onlyIf ?_ (.refl s)
  split
  · exact sendReply_keep (noteServed_keep (.refl s))
  · exact sendCtl_keep (.refl s)
  · exact ueReport_keep (.refl s)
  · exact .refl s

end Sys2Proof.Machine
end

section
/-! The commands of the rings, the placer, the scheduler and the engine of commands keep what `Keep` says (02, 12). -/

namespace Sys2Proof.Machine

open Sys2Proof

variable {s : State} {id : Nat}

@[simp] theorem execSqTailWrite_keep {c ring : Nat} {v : W32} : NextKeep s (execSqTailWrite c ring v s) :=
  pageAccess_keep (.refl s) fun t => .ite (tailWrite_keep (.refl t)) (.refl t)

@[simp] theorem execCqHeadWrite_keep {c ring : Nat} {v : W32} : NextKeep s (execCqHeadWrite c ring v s) :=
  pageAccess_keep (.refl s) fun t => .ite (headWrite_keep (.refl t)) (.refl t)

@[simp] theorem execCancelWrite_keep {c ring : Nat} {v : W32} : NextKeep s (execCancelWrite c ring v s) :=
  pageAccess_keep (.refl s) fun t => .ite (cancelWriteAt_keep (.refl t)) (.refl t)

@[simp] theorem execDbCtrlStop_keep {c : Nat} {v : W32} : NextKeep s (execDbCtrlStop c v s) :=
  pageAccess_keep (.refl s) fun t => .ite (stopClient_keep (.refl t)) (.refl t)

@[simp] theorem execDbCtrlResume_keep {c : Nat} {v : W32} : NextKeep s (execDbCtrlResume c v s) :=
  pageAccess_keep (.refl s) fun t => .ite (resumeClient_keep (.refl t)) (.refl t)

@[simp] theorem execDoorbellUnmappedWrite_keep {c off width : Nat} {v : W64} :
    NextKeep s (execDoorbellUnmappedWrite c off width v s) :=
  pageAccess_keep (.refl s) fun t => .ite (pageWrite_keep (.refl t)) (.refl t)

@[simp] theorem execRingFault_keep {c ring : Nat} {addr : W64} : NextKeep s (execRingFault c ring addr s) :=
  .onlyIf (ringFail_keep (.refl s)) (.refl s)

@[simp] theorem execDescriptorFetch_keep {a : FetchAns} : NextKeep s (execDescriptorFetch a s) := by
  refine .ite (Keep.refl s) ?_
  split
  · exact Keep.refl s
  · split
    · exact Keep.refl s
    · dsimp only
      split
      · exact ringFail_keep (dmaRead_keep (setClient_keep (Keep.refl s).others))
      · exact fetched_keep (dmaRead_keep (setClient_keep (Keep.refl s).others))

@[simp] theorem execPlaceCommand_keep {part : Nat} : NextKeep s (execPlaceCommand part s) := by
  refine .ite (Keep.refl s) ?_
  split
  · exact Keep.refl s
  · split
    · exact Keep.refl s
    · next h => exact placeCmd_keep (setPart_keep (reserve_keep h))

@[simp] theorem execRun_keep : NextKeep s (execRun id s) := by
  unfold execRun
  split
  · exact Keep.refl s
  · refine .onlyIf (Keep.foldl (modCmd_keep (.refl s)) fun t core => ?_) (.refl s)
    split
    · exact .ite (setDisp_keep (.refl t)) (.refl t)
    · exact .refl t

@[simp] theorem execRunHeld_keep : NextKeep s (execRunHeld id s) := by
  unfold execRunHeld
  split
  · exact Keep.refl s
  · exact .onlyIf (modCmd_keep (.refl s)) (.refl s)

@[simp] theorem execSliceEnd_keep {part : Nat} : NextKeep s (execSliceEnd part s) :=
  .ite (Keep.refl s) (.ite (sliceStart_keep (.refl s))
    (.ite (sliceStart_keep (setPart_keep (sliceKill_keep (.refl s)))) (Keep.refl s)))

@[simp] theorem execSliceOverrunCharge_keep {part : Nat} : NextKeep s (execSliceOverrunCharge part s) :=
  .onlyIf (setPart_keep (Keep.foldl (.refl s) fun t _ => modAcct_keep (.refl t))) (.refl s)

@[simp] theorem execLoadSet_keep {img : HostAns} : NextKeep s (execLoadSet id img s) := by
  refine crownCmd_keep (.refl s) fun t c => withInput_keep (.refl t) fun u b => .ite (complete_keep (.refl u)) ?_
  split
  · exact complete_keep (.refl u)
  · exact atCommit_keep (modCmd_keep (.refl u))

@[simp] theorem execStateInit_keep : NextKeep s (execStateInit id s) := by
  refine crownCmd_keep (.refl s) fun t c => ?_
  split
  · exact .refl t
  · exact atCommit_keep (Keep.foldl (.refl t) fun u n => Keep.foldl (.refl u) fun v x => initObj_keep (.refl v))

@[simp] theorem execStateImport_keep {recs : HostAns} : NextKeep s (execStateImport id recs s) := by
  refine crownCmd_keep (.refl s) fun t c => withInput_keep (.refl t) fun u b => ?_
  split
  · exact complete_keep (.refl u)
  · exact .ite (atCommit_keep (modCmd_keep (Keep.foldl (.refl u) fun v x => putPayloads_keep (.refl v))))
      (complete_keep (.refl u))

@[simp] theorem execStateExport_keep : NextKeep s (execStateExport id s) := by
  refine crownCmd_keep (.refl s) fun t c => ?_
  split
  · exact killUe_keep (ueReport_keep (.refl t))
  · have hread : Keep t (((groupStreams c).flatMap fun st => (getStream t st).objs).foldl noteObj t) :=
      Keep.foldl (.refl t) fun u x => noteObj_keep (.refl u)
    exact withOutput_keep hread (atCommit_keep (stageWrite_keep hread))

/-- STREAM_OPEN, STREAM_CLOSE, EVICT_SET and AUDIO_BIND go to their commit. -/
theorem crownCmd_atCommit_keep {op : Nat} : Keep s (crownCmd s id op atCommit) :=
  crownCmd_keep (.refl s) fun t _ => atCommit_keep (.refl t)

@[simp] theorem execCopy_keep {src : HostAns} : NextKeep s (execCopy id src s) :=
  crownCmd_keep (.refl s) fun t _ => withInput_keep (.refl t) fun u _ =>
    withOutput_keep (.refl u) (atCommit_keep (stageWrite_keep (.refl u)))

@[simp] theorem execFence_keep : NextKeep s (execFence id s) := by
  unfold execFence
  split
  · exact Keep.refl s
  · exact .onlyIf (complete_keep (.refl s)) (.refl s)

@[simp] theorem execWaitRemote_keep : NextKeep s (execWaitRemote id s) := by
  unfold execWaitRemote
  split
  · exact Keep.refl s
  · exact .onlyIf (complete_keep (.refl s)) (.refl s)

@[simp] theorem execRemoteTokenTimeout_keep : NextKeep s (execRemoteTokenTimeout id s) := by
  unfold execRemoteTokenTimeout
  split
  · exact Keep.refl s
  · split
    · exact Keep.refl s
    · exact .onlyIf (complete_keep (.refl s)) (.refl s)

@[simp] theorem execSlotDiscard_keep {pile : Nat} {gen : W32} : NextKeep s (execSlotDiscard pile gen s) :=
  .onlyIf (killPile_keep (modHomed_keep (.refl s))) (.refl s)

@[simp] theorem execGangBarrierRelease_keep : NextKeep s (execGangBarrierRelease id s) := by
  unfold execGangBarrierRelease
  split
  · exact Keep.refl s
  · exact .ite (Keep.refl s) (.ite (runCommit_keep (.refl s))
      (.ite (Keep.foldl (.refl s) fun t _ => leaveBarrier_keep (.refl t)) (startKill_keep (.refl s))))

@[simp] theorem execKillDeliver_keep {core : Nat} : NextKeep s (execKillDeliver core s) := by
  unfold execKillDeliver
  split
  · split
    · next h => exact deliverKill_keep ((passTo_keep (.refl s)).trans (takeNet_keep h))
    · exact Keep.refl s
  · exact Keep.refl s

@[simp] theorem execMc0BroadcastArrive_keep {core part : Nat} {gen : W32} : NextKeep s (execMc0BroadcastArrive core part gen s) :=
  .onlyIf (deliverKill_keep (.refl s)) (.refl s)

@[simp] theorem execKillQuiescent_keep : NextKeep s (execKillQuiescent id s) := by
  unfold execKillQuiescent
  split
  · exact Keep.refl s
  · split
    · exact Keep.refl s
    · exact .ite (killOutcome_keep (Keep.foldl (.refl s) fun t _ => .ite (endDisp_keep (.refl t)) (.refl t))) (Keep.refl s)

@[simp] theorem execRunLimitExpiry_keep : NextKeep s (execRunLimitExpiry id s) := by
  unfold execRunLimitExpiry
  split
  · exact Keep.refl s
  · split
    · exact Keep.refl s
    · exact .onlyIf (startKill_keep (.refl s)) (.refl s)

@[simp] theorem execCreditDeadlock_keep : NextKeep s (execCreditDeadlock id s) := by
  unfold execCreditDeadlock
  split
  · exact Keep.refl s
  · exact .onlyIf (startKill_keep (passTo_keep (.refl s))) (.refl s)

@[simp] theorem execFaultResolve_keep : NextKeep s (execFaultResolve id s) := by
  unfold execFaultResolve
  split
  · exact Keep.refl s
  · split
    · exact Keep.refl s
    · refine .ite (Keep.refl s) ?_
      dsimp only
      split
      · exact modCmd_keep (.refl s)
      · exact modCmd_keep (finishMove_keep (.refl s))
      · split
        · next h => exact modCmd_keep (backRange_keep h)
        · exact modCmd_keep (.refl s)
      · exact modCmd_keep (.refl s)
      · exact modCmd_keep (ueReport_keep (.refl s))

@[simp] theorem execDigestCompute_keep : NextKeep s (execDigestCompute id s) := by
  unfold execDigestCompute
  split
  · exact Keep.refl s
  · refine .ite (Keep.refl s) ?_
    split
    · exact accept_keep (modCmd_keep (ueReport_keep (.refl s)))
    · exact digestReady_keep (Keep.foldl (.refl s) fun t _ => noteObj_keep (.refl t))

@[simp] theorem execTwinDigestArrive_keep : NextKeep s (execTwinDigestArrive s) := by
  unfold execTwinDigestArrive
  split
  · next h =>
    dsimp only
    split
    · exact twinCompare_keep (takeGot_keep h)
    · exact (takeGot_keep h).others
  · exact Keep.refl s

@[simp] theorem execTwinWaitTimeout_keep : NextKeep s (execTwinWaitTimeout id s) := by
  unfold execTwinWaitTimeout
  split
  · exact Keep.refl s
  · exact .onlyIf (twinLost_keep (.refl s)) (.refl s)

@[simp] theorem execTwinDigestDiscard_keep : NextKeep s (execTwinDigestDiscard s) := (Keep.refl s).others

@[simp] theorem execCommitStep_keep {refused : Option W64} : NextKeep s (execCommitStep id refused s) := by
  unfold execCommitStep
  split
  · exact Keep.refl s
  · exact .onlyIf (commitStep_keep (.refl s)) (.refl s)

@[simp] theorem execSlotFlip_keep {pile : Nat} {gen : FlipAns} : NextKeep s (execSlotFlip pile gen s) := by
  unfold execSlotFlip
  split
  · exact Keep.refl s
  · refine .onlyIf (.ite (commitSend_keep ?flipped) ?flipped) (.refl s)
    exact modHomed_keep (commitPublish_keep (.refl s))

end Sys2Proof.Machine
end

section
/-! The commands of the bead, the cores, the piles and translation keep what `Keep` says (01, 05, 07, 11). -/

namespace Sys2Proof.Machine

open Sys2Proof

variable {s : State} {core : Nat}

@[simp] theorem execBeadCtrlWrite_keep {v : W32} : NextKeep s (execBeadCtrlWrite v s) :=
  hostAccess_keep (.refl s) fun t => beadCtrl_keep (.refl t)

@[simp] theorem execBeadCountLoRead_keep : NextKeep s (execBeadCountLoRead s) :=
  hostAccess_keep (.refl s) fun t => rdata_keep ((Keep.refl t).parts (bead := beadKeep_of rfl rfl))

@[simp] theorem execBeadBoundary_keep {lost : Bool} : NextKeep s (execBeadBoundary lost s) :=
  .onlyIf (beadEdge_keep (beadDue_keep (.refl s))) (.refl s)

@[simp] theorem execBeadRefFallback_keep : NextKeep s (execBeadRefFallback s) :=
  .onlyIf (beadFallback_keep (.refl s)) (.refl s)

@[simp] theorem execCoreScrub_keep {mem word kind : Nat} : NextKeep s (execCoreScrub core mem word kind s) :=
  .ite (Keep.refl s) (.ite (setCore_keep (.refl s)) (.ite (coreFaulted_keep (.refl s)) (Keep.refl s)))

@[simp] theorem execCoreFault_keep {kind : Nat} {addr : W64} : NextKeep s (execCoreFault core kind addr s) :=
  .onlyIf (coreFaulted_keep (.refl s)) (.refl s)

@[simp] theorem execCoreRestore_keep {pass : Bool} : NextKeep s (execCoreRestore core pass s) := by
  unfold execCoreRestore
  dsimp only
  split
  · exact Keep.refl s
  · refine .ite (Keep.refl s) (Keep.ite (setCore_keep ?fixed).others (setCore_keep ?fixed))
    exact .ite (rewriteCore_keep (.refl s)) (.ite (setCore_keep (.refl s)) (.refl s))

@[simp] theorem execRankRelocate_keep {part rank : Nat} {handle : W32} : NextKeep s (execRankRelocate part handle rank s) := by
  unfold execRankRelocate
  split
  · exact Keep.refl s
  · split
    · exact Keep.refl s
    · exact .ite (Keep.refl s) (loadRank_keep (clearCode_keep (.refl s)).others)

@[simp] theorem execSetLost_keep {part : Nat} {handle : W32} : NextKeep s (execSetLost part handle s) := by
  unfold execSetLost
  split
  · exact Keep.refl s
  · refine .ite (Keep.refl s) (Keep.foldl (event_keep (evictSet_keep (.refl s))) fun t c => ?_)
    split
    · exact complete_keep (.refl t)
    · exact .refl t

@[simp] theorem execPileRead_keep {xid : Nat} {e1 e2 : ErrPat} : NextKeep s (execPileRead core xid e1 e2 s) := by
  unfold execPileRead
  split
  · exact Keep.refl s
  · refine .ite trivial ?_
    split
    · exact putXfer_keep (ueReport_keep (.refl s))
    · exact nextFree_keep (putXfer_keep (countCe_keep (.refl s)))

@[simp] theorem execPileWrite_keep {xid : Nat} {e1 e2 : ErrPat} : NextKeep s (execPileWrite core xid e1 e2 s) := by
  unfold execPileWrite
  split
  · exact Keep.refl s
  · refine .ite trivial (.ite (Keep.refl s) ?_)
    split
    · exact writeLine_keep (markWritten_keep (.refl s))
    · split
      · exact putXfer_keep (ueReport_keep (.refl s))
      · exact writeLine_keep (touchPage_keep (.refl s))

@[simp] theorem execPatrolScrub_keep {pile : Nat} {upset e1 e2 : ErrPat} : NextKeep s (execPatrolScrub pile upset e1 e2 s) :=
  .ite (Keep.refl s) (scrubNext_keep (scrubLine_keep ((Keep.refl s).parts (pile := pileKeep_of rfl))))

@[simp] theorem execPileRefresh_keep {pile channel : Nat} : NextKeep s (execPileRefresh pile channel s) :=
  .onlyIf (setPile_keep (.refl s)) (.refl s)

@[simp] theorem execDirectoryEccError_keep {pile : Nat} {streams : List Nat} {copyBad : Bool} :
    NextKeep s (execDirectoryEccError pile streams copyBad s) :=
  .onlyIf (Keep.foldl (.refl s) fun t _ => setStream_keep (.refl t)) (.refl s)

@[simp] theorem execSwapOut_keep {stream : Nat} {refused : Bool} : NextKeep s (execSwapOut stream refused s) := by
  refine .ite (Keep.refl s) ?_
  split
  · exact setStream_keep (endMove_keep (ueReport_keep (.refl s)))
  · split
    · exact endMove_keep (.refl s)
    · exact .ite (endMove_keep (.refl s))
        (swappedOut_keep (nextFree_keep (dmaWrite_keep (Keep.foldl (.refl s) fun t _ => noteObj_keep (.refl t)))))

@[simp] theorem execSwapIn_keep {stream : Nat} {img : HostAns} : NextKeep s (execSwapIn stream img s) := by
  refine .ite (Keep.refl s) ?_
  split
  · exact Keep.refl s
  · have hread : Keep s (swapRead s (getStream s stream)) := swapRead_keep (.refl s)
    dsimp only
    split
    · exact swapFail_keep hread
    · refine .ite (swapFail_keep hread) ?_
      split
      · exact hread
      · next h => exact setStream_keep (putEntries_keep (hread.trans (placeObjs_keep h)))

@[simp] theorem execStateMove_keep {stream pile : Nat} : NextKeep s (execStateMove stream pile s) := by
  refine .ite (Keep.refl s) ?_
  split
  · exact setStream_keep (endMove_keep (ueReport_keep (.refl s)))
  · refine .ite (endMove_keep (.refl s)) ?_
    split
    · exact endMove_keep (.refl s)
    · next h =>
      exact sendNet_keep (setStream_keep (putEntries_keep (Keep.foldl (placeObjs_keep h) fun t _ => noteObj_keep (.refl t))))

@[simp] theorem execHomeTableUpdate_keep : NextKeep s (execHomeTableUpdate core s) := by
  unfold execHomeTableUpdate
  split
  · next h => exact .ite (moveDone_keep (takeNet_keep h)) (Keep.refl s).others
  · exact Keep.refl s

@[simp] theorem execTlbWalk_keep {tlb part : Nat} {dva : W64} : NextKeep s (execTlbWalk tlb part dva s) := by
  refine .ite (Keep.refl s) (.ite (missDie_keep (.refl s)) ?_)
  dsimp only
  split
  · exact fillTlb_keep (missDie_keep (.refl s))
  · exact missDie_keep (.refl s)

@[simp] theorem execTlbInvalidate_keep {tlb : InvalAns} : NextKeep s (execTlbInvalidate tlb s) := by
  refine invalidate_keep ?_
  split
  · exact startMove_keep (.refl s)
  · exact .refl s

@[simp] theorem execCxlmemRead_keep {off : Nat} : NextKeep s (execCxlmemRead off s) :=
  hostAccess_keep (.refl s) fun t => winRead64_keep (.refl t)

@[simp] theorem execCxlmemWrite_keep {off : Nat} {data : Bytes} : NextKeep s (execCxlmemWrite off data s) :=
  hostAccess_keep (.refl s) fun t => winWrite64_keep (.refl t)

@[simp] theorem execMemwinCtrlWrite_keep {v : W32} : NextKeep s (execMemwinCtrlWrite v s) :=
  hostAccess_keep (.refl s) fun t => memwinCtrl_keep (.refl t)

@[simp] theorem execMemwinBaseWrite_keep {hi : Bool} {v : W32} : NextKeep s (execMemwinBaseWrite hi v s) :=
  hostAccess_keep (.refl s) fun t => memwinBase_keep (.refl t)

@[simp] theorem execPartDiesWrite_keep {n : Nat} {hi : Bool} {v : W32} : NextKeep s (execPartDiesWrite n hi v s) :=
  hostAccess_keep (.refl s) fun t => .ite (partDies_keep (.refl t)) (.refl t)

@[simp] theorem execPartCtrlWrite_keep {n : Nat} {v : W32} : NextKeep s (execPartCtrlWrite n v s) :=
  hostAccess_keep (.refl s) fun t => .ite (partCtrl_keep (.refl t)) (.refl t)

@[simp] theorem execPartQuotaWrite_keep {n : Nat} {v : W32} : NextKeep s (execPartQuotaWrite n v s) :=
  hostAccess_keep (.refl s) fun t => .ite (partQuota_keep (.refl t)) (.refl t)

@[simp] theorem execClientSchedWrite_keep {c : Nat} {v : W32} : NextKeep s (execClientSchedWrite c v s) :=
  hostAccess_keep (.refl s) fun t => .ite (clientSched_keep (.refl t)) (.refl t)

end Sys2Proof.Machine
end

section
/-! The commands of the Floine ports and of the domain keep what `Keep` says (13). -/

namespace Sys2Proof.Machine

open Sys2Proof

variable {s : State}

@[simp] theorem execPortCtrlWrite_keep {p : Nat} {v : W32} : NextKeep s (execPortCtrlWrite p v s) :=
  hostAccess_keep (.refl s) fun t => portCtrl_keep (.refl t)

@[simp] theorem execPortTraining_keep {p : Nat} {a : TrainAns} : NextKeep s (execPortTraining p a s) :=
  .ite (Keep.refl s) (.ite (setPort_keep (.refl s)) (.ite (setPort_keep (.refl s)) (reportLink_keep
    (.ite (sendCtl_keep (.ite (sendCtl_keep (event_keep (setPort_keep (.refl s)))) (event_keep (setPort_keep (.refl s)))))
      (.ite (sendCtl_keep (event_keep (setPort_keep (.refl s)))) (event_keep (setPort_keep (.refl s))))))))

@[simp] theorem execPortDown_keep {p cause : Nat} : NextKeep s (execPortDown p cause s) :=
  .onlyIf (portFalls_keep (.refl s)) (.refl s)

@[simp] theorem execFrameSend_keep {p : Nat} : NextKeep s (execFrameSend p s) := by
  refine .ite (Keep.refl s) ?_
  dsimp only
  split
  · exact putFrame_keep (moveOn_keep (.refl s))
  · exact .ite (moveOn_keep (.refl s)) (putFrame_keep (moveOn_keep (.refl s)))

@[simp] theorem execFrameReceive_keep {p : Nat} {f : FrameIn} : NextKeep s (execFrameReceive p f s) :=
  .ite (Keep.refl s) (.ite (setPort_keep (.refl s)) (.ite (takeFrame_keep (.refl s))
    (.ite (setPort_keep (.refl s)) (setPort_keep (.refl s)))))

@[simp] theorem execFrameReplay_keep {p : Nat} : NextKeep s (execFrameReplay p s) :=
  .onlyIf (setPort_keep (.refl s)) (.refl s)

@[simp] theorem execEqAdapt_keep {p : Nat} {req : List W16} : NextKeep s (execEqAdapt p req s) :=
  .onlyIf (setPort_keep (.refl s)) (.refl s)

@[simp] theorem execMarginMeasure_keep {p mv : Nat} : NextKeep s (execMarginMeasure p mv s) :=
  .onlyIf (setPort_keep (.refl s)).others (.refl s)

@[simp] theorem execLinkDelayMeasure_keep {p : Nat} : NextKeep s (execLinkDelayMeasure p s) := by
  unfold execLinkDelayMeasure
  dsimp only
  split
  · exact Keep.refl s
  · exact .onlyIf (setPort_keep (.refl s)) (.refl s)

@[simp] theorem execControlMessageArrive_keep {src seq : Nat} {ack : Bool} {m : Ctl} :
    NextKeep s (execControlMessageArrive src seq ack m s) :=
  .ite (Keep.refl s) (.ite (finishLeave_keep (Keep.refl s).others) (.ite (sendAck_keep (.refl s))
    (ctlActs_keep (sendAck_keep (Keep.refl s).others))))

@[simp] theorem execControlResend_keep {seq : Nat} : NextKeep s (execControlResend seq s) := by
  unfold execControlResend
  split
  · exact sendFl0_keep (Keep.refl s).others
  · split
    · exact sendMessage_keep (Keep.refl s).others
    · exact Keep.refl s

@[simp] theorem execAckTimeout_keep {seq : Nat} : NextKeep s (execAckTimeout seq s) := by
  unfold execAckTimeout
  split
  · exact Keep.refl s
  · refine .ite (reportGone_keep (event_keep ?dropped)) ?dropped
    exact finishLeave_keep (Keep.refl s).others

@[simp] theorem execMemberGone_keep : NextKeep s (execMemberGone s) := by
  unfold execMemberGone
  split
  · next h =>
    exact .ite (takeGot_keep h) (.ite (keeperDrops_keep (takeGot_keep h)) (memberLeft_keep (takeGot_keep h)))
  · exact Keep.refl s

@[simp] theorem execPackageNumberFree_keep {pkg : Nat} : NextKeep s (execPackageNumberFree pkg s) :=
  .onlyIf (Keep.refl s).others (.refl s)

@[simp] theorem execRouteUpdate_keep : NextKeep s (execRouteUpdate s) := by
  refine .ite (Keep.refl s) (.ite (keeperReroutes_keep (.refl s)) ?_)
  split
  · next h => exact Keep.ite (setRoute_keep (takeGot_keep h)) (takeGot_keep h)
  · exact Keep.refl s

@[simp] theorem execJoinRequest_keep {src : Nat} : NextKeep s (execJoinRequest src s) := by
  unfold execJoinRequest
  split
  · next h =>
    have hgot := takeGot_keep h
    exact .ite hgot (.ite (Keep.ite hgot (sendCtl_keep hgot))
      (.ite (sendCtl_keep (nextFree_keep hgot.others)) (judgeJoin_keep hgot)))
  · exact Keep.refl s

@[simp] theorem execJoinComplete_keep : NextKeep s (execJoinComplete s) := by
  unfold execJoinComplete
  split
  · exact Keep.refl s
  · split
    · next h => exact endSlow_keep (takeGot_keep h).others
    · split
      · next h =>
        split
        · next h' =>
          have hgot := (takeGot_keep h).trans (takeGot_keep h')
          exact endSlow_keep (reportLinks_keep (floodCtl_keep (becomeMember_keep (hgot.parts (bead := beadKeep_of rfl rfl)))))
        · exact Keep.refl s
      · exact Keep.refl s

@[simp] theorem execDomainFound_keep : NextKeep s (execDomainFound s) := by
  unfold execDomainFound
  split
  · exact Keep.refl s
  · exact .ite (Keep.refl s) (.ite (endSlow_keep (becomeMember_keep (Keep.refl s).others)) (endSlow_keep (Keep.refl s).others))

@[simp] theorem execKeeperClaim_keep {heard : Option Nat} : NextKeep s (execKeeperClaim heard s) := by
  refine .ite (Keep.refl s) ?_
  have hclaim : Keep s (match s.dom.claim with
      | some _ => s
      | none => floodCtl { s with dom := { s.dom with claim := some (selfPkg s, s.time) } } 0 (.claim (selfPkg s))) := by
    split
    · exact .refl s
    · exact floodCtl_keep (Keep.refl s).others
  dsimp only
  split
  · split
    · next h => exact adoptClaim_keep (hclaim.trans (takeGot_keep h))
    · exact hclaim
  · exact hclaim

@[simp] theorem execKeeperElect_keep : NextKeep s (execKeeperElect s) := by
  unfold execKeeperElect
  split
  · exact Keep.refl s
  · refine .ite (Keep.refl s) (Keep.ite (keeperReroutes_keep ?elected) ?elected)
    exact reportLinks_keep (event_keep (.refl s)).others

@[simp] theorem execDomainSplit_keep {port otherKeeper : Nat} : NextKeep s (execDomainSplit port otherKeeper s) :=
  .ite (Keep.refl s) (leaveDomain_keep (Keep.foldl (event_keep (.refl s)) fun t _ => memberLeft_keep (.refl t)))

@[simp] theorem execTimeMark_keep : NextKeep s (execTimeMark s) := by
  refine .ite (Keep.refl s) (.ite (.ite (Keep.refl s) (probeOne_keep (toChildren_keep (Keep.refl s).others))) ?_)
  split
  · next h => exact toChildren_keep (followMark_keep (takeGot_keep h))
  · exact Keep.refl s

@[simp] theorem execBeadMark_keep : NextKeep s (execBeadMark s) := by
  refine .ite (Keep.refl s) (.ite (.onlyIf (toChildren_keep (.refl s)) (.refl s)) ?_)
  split
  · next h => exact takeBeadMark_keep (toChildren_keep (takeGot_keep h))
  · exact Keep.refl s

@[simp] theorem execBeadAlignLost_keep : NextKeep s (execBeadAlignLost s) :=
  .onlyIf (event_keep (beadFallback_keep (.refl s))) (.refl s)

@[simp] theorem execSubscription_keep : NextKeep s (execSubscription s) := by
  unfold execSubscription
  split
  · next h => exact takeSub_keep (takeGot_keep h)
  · split
    · exact answerSub_keep (.refl s)
    · exact Keep.refl s

@[simp] theorem execSubscriptionReply_keep : NextKeep s (execSubscriptionReply s) := by
  unfold execSubscriptionReply
  split
  · next h => exact takeReport_keep (takeGot_keep h)
  · split
    · exact complete_keep (.refl s)
    · exact Keep.refl s

@[simp] theorem execSubscriptionRetry_keep {id : Nat} : NextKeep s (execSubscriptionRetry id s) := by
  unfold execSubscriptionRetry
  split
  · exact Keep.refl s
  · split
    · exact Keep.refl s
    · split
      · exact Keep.refl s
      · exact .onlyIf (.ite (subscribeOwn_keep (.refl s)) (sendCtl_keep (modCmd_keep (.refl s)))) (.refl s)

@[simp] theorem execAnnounceWrite_keep {n : Nat} {v : W32} : NextKeep s (execAnnounceWrite n v s) :=
  hostAccess_keep (.refl s) fun t => .ite (announce_keep (.refl t)) (.refl t)

@[simp] theorem execMirrorWrite_keep {w : Nat} {v : W32} : NextKeep s (execMirrorWrite w v s) :=
  hostAccess_keep (.refl s) fun t => .ite (mirrorSet_keep (.refl t)) (.refl t)

@[simp] theorem execHostLinkTrain_keep {m01 m23 : Bool} : NextKeep s (execHostLinkTrain m01 m23 s) :=
  .onlyIf (linkTrained_keep (.refl s)) (.refl s)

end Sys2Proof.Machine
end

section
/-! The mailbox, its requests, boot and identity keep what `Keep` says (14, 16). -/

namespace Sys2Proof.Machine

open Sys2Proof

variable {s : State} {m : Nat}

@[simp] theorem execMailboxDataWrite_keep {w : Nat} {v : W32} : NextKeep s (execMailboxDataWrite m w v s) :=
  hostAccess_keep (.refl s) fun t => .ite (mailData_keep (.refl t)) (.refl t)

@[simp] theorem execMailboxSend_keep {v : W32} : NextKeep s (execMailboxSend m v s) :=
  hostAccess_keep (.refl s) fun t => .ite (mailSend_keep (.refl t)) (.refl t)

@[simp] theorem execMailboxClear_keep {v : W32} : NextKeep s (execMailboxClear m v s) :=
  hostAccess_keep (.refl s) fun t => .ite (mailClear_keep (.refl t)) (.refl t)

@[simp] theorem execMailboxTake_keep : NextKeep s (execMailboxTake m s) :=
  .onlyIf (setReqs_keep (setH2f_keep (.refl s))) (.refl s)

@[simp] theorem execMailboxReply_keep : NextKeep s (execMailboxReply m s) := by
  refine .ite (Keep.refl s) ?_
  split
  · exact settleBad_keep (settleStop_keep (.refl s))
  · exact msix_keep (setF2h_keep (setReplies_keep (.refl s)))

@[simp] theorem execStop_keep : NextKeep s (execStop m s) := by
  refine request_keep (.refl s) fun t b => .ite .no (.ite (endStops_keep ?begun) ?begun)
  exact Keep.foldl (.refl t) fun u _ => beginStop_keep (.refl u)

@[simp] theorem execResume_keep : NextKeep s (execResume m s) :=
  request_keep (.refl s) fun t _ => .ite .no (Keep.foldl (.refl t) fun u _ => resumeClient_keep (.refl u))

@[simp] theorem execClientRegister_keep : NextKeep s (execClientRegister m s) :=
  request_keep (.refl s) fun t _ => .ite .no (.ite .no (.ite .no (setClient_keep (.refl t))))

@[simp] theorem execClientUnregister_keep : NextKeep s (execClientUnregister m s) :=
  request_keep (.refl s) fun t _ => .ite .no (.ite .no (unregister_keep (.refl t)))

@[simp] theorem execRingSet_keep : NextKeep s (execRingSet m s) :=
  request_keep (.refl s) fun t _ => .ite .no (.ite .no (setClient_keep (setRing_keep (.refl t))))

@[simp] theorem execMap_keep : NextKeep s (execMap m s) := by
  refine request_keep (.refl s) fun t b => ?_
  dsimp only
  -- the pages enter as a list of their own: their walk is not to be evaluated
  generalize pagesOf t (rPart b) (rDva b) (rBytes b) = pages
  refine .ite .no (.ite .no ?_)
  split
  · next h =>
    split at h
    · exact mapLazy_keep h
    · exact mapBacked_keep h
  · exact .no

@[simp] theorem execUnmap_keep : NextKeep s (execUnmap m s) := by
  refine request_keep (.refl s) fun t b => ?_
  dsimp only
  generalize mappedPages t (rPart b) (rDva b) (rBytes b) = pages
  exact .ite .no (.ite .no (.ite (Keep.foldl (.refl t) fun u _ => setPte_keep (.refl u))
    (unmapPages_keep (Keep.foldl (.refl t) fun u _ => finishMove_keep (.refl u)))))

@[simp] theorem execBack_keep : NextKeep s (execBack m s) := by
  refine request_keep (.refl s) fun t b => .ite .no ?_
  split
  · next h => exact backPages_keep h
  · exact .no

@[simp] theorem execSwapArea_keep : NextKeep s (execSwapArea m s) :=
  request_keep (.refl s) fun t _ => .ite .no (.ite .no (setPart_keep (.refl t)))

@[simp] theorem execExportSet_keep : NextKeep s (execExportSet m s) :=
  request_keep (.refl s) fun t _ => .ite .no (.ite .no (Keep.refl t).others)

@[simp] theorem execStreamRead_keep : NextKeep s (execStreamRead m s) :=
  request_keep (.refl s) fun t _ => .ite .no (Keep.refl t)

@[simp] theorem execStreamPlace_keep : NextKeep s (execStreamPlace m s) :=
  request_keep (.refl s) fun t _ => .ite .no (.ite .no (.ite (Keep.refl t) (setStream_keep (.refl t))))

@[simp] theorem execDomainSet_keep : NextKeep s (execDomainSet m s) :=
  request_keep (.refl s) fun t _ => .ite .no (.ite .no (Keep.refl t).others)

@[simp] theorem execDomainJoin_keep : NextKeep s (execDomainJoin m s) :=
  request_keep (.refl s) fun t _ => .ite .no (.ite .no (.ite .no (askJoin_keep (Keep.refl t).others)))

@[simp] theorem execDomainLeave_keep : NextKeep s (execDomainLeave m s) :=
  request_keep (.refl s) fun t _ => .ite .no (.ite (leaveDomain_keep (.refl t)) (startLeave_keep (.refl t)))

@[simp] theorem execFlashRead_keep {a : ImgAns} : NextKeep s (execFlashRead a s) := by
  unfold execFlashRead
  split
  · refine .ite (Keep.refl s) ?_
    split
    · exact sourceFails_keep (.refl s)
    · split
      · exact sourceFails_keep (.refl s)
      · exact Keep.ite (sourceFails_keep (wire_keep (.refl s))) (checkImage_keep (wire_keep (.refl s)))
  · exact Keep.refl s

@[simp] theorem execImageWindowWrite_keep {off : Nat} {data : Bytes} : NextKeep s (execImageWindowWrite off data s) :=
  hostAccess_keep (.refl s) fun t => .ite (.refl t)
    (setSec_keep (.refl t) (secKeep_of rfl rfl rfl rfl rfl rfl rfl rfl rfl rfl rfl))

@[simp] theorem execBootChunk_keep : NextKeep s (execBootChunk m s) :=
  request_keep (.refl s) fun t _ => .ite .no
    (setSec_keep (.refl t) (secKeep_of rfl rfl rfl rfl rfl rfl rfl rfl rfl rfl rfl))

@[simp] theorem execBootGo_keep : NextKeep s (execBootGo m s) := by
  refine request_keep (.refl s) fun t b => ?_
  dsimp only
  split
  · exact checkImage_keep (.refl t)
  · exact checkImage_keep (.refl t)
  · exact .no

@[simp] theorem execBootFetch_keep : NextKeep s (execBootFetch s) := by
  refine .ite (Keep.refl s) ?_
  split
  · next h => exact Keep.ite (sendImage_keep (takeGot_keep h)) (takeGot_keep h)
  · exact Keep.refl s

@[simp] theorem execBootMediumSwitch_keep : NextKeep s (execBootMediumSwitch s) :=
  .ite (romTrain_keep (setSec_keep (.refl s) mediumTo_sec)) (Keep.refl s)

@[simp] theorem execBootPeerTimeout_keep : NextKeep s (execBootPeerTimeout s) :=
  .onlyIf (sourceFails_keep (.refl s)) (.refl s)

@[simp] theorem execPeerImageArrive_keep {b : Bytes} : NextKeep s (execPeerImageArrive b s) := by
  unfold execPeerImageArrive
  split
  · exact .onlyIf (checkImage_keep (.refl s)) (.refl s)
  · exact Keep.refl s

@[simp] theorem execFirmwareReady_keep : NextKeep s (execFirmwareReady s) := by
  refine .onlyIf ((Keep.refl s).parts (bead := ?_)) (.refl s)
  dsimp only
  split
  · exact .refl s.bead
  · exact beadKeep_of rfl rfl

/-- ROLLBACK_ADVANCE raises the rollback count and never lowers it. -/
@[simp] theorem execRollbackAdvance_keep : NextKeep s (execRollbackAdvance m s) :=
  request_keep (.refl s) fun t _ => .ite .no (setSec_keep (.refl t)
    ⟨⟨rfl, rfl, rfl, rfl, rfl, rfl⟩, ⟨Nat.le_max_left _ _, Nat.le_refl _⟩, fun h => ⟨h, rfl, rfl⟩⟩)

/-- OWNER_PROVISION sets the owner keys only while none are set. -/
@[simp] theorem execOwnerProvision_keep {blk : HostAns} : NextKeep s (execOwnerProvision m blk s) := by
  refine request_keep (.refl s) fun t b => ?_
  split
  · exact .no
  · next hfree =>
    refine .ite .no ?_
    have hread : ∀ {p : Option Nat} {a n : Nat}, Keep t (dmaRead t p a n) := dmaRead_keep (.refl t)
    dsimp only
    split
    · exact hread
    · exact .ite hread (setSec_keep hread
        ⟨⟨rfl, rfl, rfl, rfl, rfl, rfl⟩, ⟨Nat.le_refl _, Nat.le_refl _⟩, fun h => absurd h hfree⟩)

@[simp] theorem execIdentityRead_keep {refused : Bool} : NextKeep s (execIdentityRead m refused s) :=
  request_keep (.refl s) fun t _ => .ite .no (.ite (dmaFaulted_keep (.refl t)) (dmaWrite_keep (.refl t)))

/-- A report held changes neither fuses nor straps. -/
theorem holdReport_keep {t : State} {r : HeldReport} (h : holdReport s r = .ok t) : Keep s t := by
  simp only [holdReport] at h
  split at h
  · cases h
  · split at h
    · cases h
    · cases h
      exact setSec_keep (.refl s) (secKeep_of rfl rfl rfl rfl rfl rfl rfl rfl rfl rfl rfl)

@[simp] theorem execAttest_keep : NextKeep s (execAttest m s) := by
  refine request_keep (.refl s) fun t b => .ite .no ?_
  split
  · exact .no
  · next h => exact holdReport_keep h

@[simp] theorem execReportSign_keep {refused : Bool} : NextKeep s (execReportSign refused s) := by
  unfold execReportSign
  split
  · exact Keep.refl s
  · refine .ite (Keep.refl s) ?_
    have hsign : ∀ {l : List HeldReport} {n : Nat}, Keep s (setSec s fun x => { x with held := l, sigsLeft := n }) :=
      setSec_keep (.refl s) (secKeep_of rfl rfl rfl rfl rfl rfl rfl rfl rfl rfl rfl)
    dsimp only
    split
    · exact wire_keep hsign
    · exact Keep.ite (dmaFaulted_keep hsign) (dmaWrite_keep (dmaWrite_keep hsign))

@[simp] theorem execLmsTreeReady_keep : NextKeep s (execLmsTreeReady s) :=
  .onlyIf (setSec_keep (.refl s) (secKeep_of rfl rfl rfl rfl rfl rfl rfl rfl rfl rfl rfl)) (.refl s)

@[simp] theorem execMctpAttest_keep {nonce : Bytes} : NextKeep s (execMctpAttest nonce s) := by
  refine .ite (Keep.refl s) (.ite (wire_keep (.refl s)) ?_)
  split
  · exact wire_keep (.refl s)
  · next h => exact holdReport_keep h

@[simp] theorem execMctpIdentity_keep : NextKeep s (execMctpIdentity s) :=
  .ite (Keep.refl s) (.ite (wire_keep (.refl s)) (wire_keep (.refl s)))

end Sys2Proof.Machine
end

section
/-! Resets but POR, power, the monitor and the rules keep what `Keep` says (17, 18). -/

namespace Sys2Proof.Machine

open Sys2Proof

variable {s : State}

@[simp] theorem execPinReset_keep : NextKeep s (execPinReset s) :=
  packageReset_keep (.ite (Keep.refl s).parts (.refl s))

@[simp] theorem execHostReset_keep {linkLoss : Bool} : NextKeep s (execHostReset linkLoss s) :=
  .onlyIf (packageReset_keep (.refl s)) (.refl s)

@[simp] theorem execFwRestart_keep : NextKeep s (execFwRestart s) :=
  .ite (Keep.refl s) (.ite (setCause_keep (.refl s)) (firmwareReset_keep (setCause_keep (.refl s))))

@[simp] theorem execWdogExpiry_keep : NextKeep s (execWdogExpiry s) :=
  .ite (Keep.refl s) (.ite (setCause_keep (.refl s)) (.ite (firmwareReset_keep (setCause_keep (.refl s)))
    (packageReset_keep (.refl s))))

@[simp] theorem execThermReset_keep : NextKeep s (execThermReset s) := thermal_keep (.refl s)

@[simp] theorem execSupplyReset_keep : NextKeep s (execSupplyReset s) := packageReset_keep (.refl s)

@[simp] theorem execLinkReset_keep : NextKeep s (execLinkReset s) := by
  unfold execLinkReset
  split
  · next h => exact .onlyIf (packageReset_keep (takeGot_keep h)) (takeGot_keep h)
  · exact Keep.refl s

/-- A breach of the supplies' order touches the sequence register and the count of overstress, no fuse that `Keep` names. -/
@[simp] theorem execSeqBreach_keep {bits : BitVec 6} : NextKeep s (execSeqBreach bits s) := by
  refine Keep.ite (packageReset_keep ?noted) ?noted
  exact (Keep.refl s).parts (pwr := pwrKeep_of rfl) (sec := secKeep_of rfl rfl rfl rfl rfl rfl rfl rfl rfl rfl rfl)

@[simp] theorem execResetReleaseStep_keep {t : SelfTest} : NextKeep s (execResetReleaseStep t s) := by
  refine .ite (Keep.refl s) ?_
  split
  · exact atStep_keep (.refl s)
  · exact releaseClocks_keep (.refl s)
  · exact selfTest_keep (.refl s)
  · exact .ite (Keep.refl s) (releaseCrown_keep (.refl s))
  · exact initPiles_keep (.refl s)
  · exact releaseDone_keep (.refl s)
  · exact atStep_keep (.refl s)

@[simp] theorem execRefRecoveryTimeout_keep : NextKeep s (execRefRecoveryTimeout s) :=
  .onlyIf ((Keep.refl s).parts (pwr := pwrKeep_of rfl)) (.refl s)

@[simp] theorem execClockGoodChange_keep {block : Byte} {good : Bool} : NextKeep s (execClockGoodChange block good s) := by
  have hbad : ∀ {l : List Byte}, Keep s { s with rst := { s.rst with clkBad := l } } :=
    (Keep.refl s).parts (rst := rstKeep_of rfl rfl)
  exact .ite (Keep.refl s) (.ite (Keep.ite (earlyCaught_keep hbad) hbad)
    (.ite (Keep.refl s) (Keep.ite (blockResets_keep hbad) hbad)))

@[simp] theorem execS1Entry_keep : NextKeep s (execS1Entry s) :=
  .ite (Keep.refl s) (.ite (.onlyIf (coresDown_keep (.refl s)) (.refl s))
    (.ite (coresRise_keep (passTo_keep (.refl s))) (coresDown_keep (passTo_keep (.refl s)))))

@[simp] theorem execS1Exit_keep : NextKeep s (execS1Exit s) :=
  .onlyIf (coresRise_keep (.ite (.refl s) (passTo_keep (.refl s)))) (.refl s)

@[simp] theorem execS2Entry_keep : NextKeep s (execS2Entry s) :=
  .ite (Keep.refl s) (.ite (.onlyIf (s2Down_keep (.refl s)) (.refl s)) (.ite (s2Undo_keep (.refl s))
    (s2Down_keep (.ite (passTo_keep (.refl s)) (.refl s)))))

@[simp] theorem execS2Wake_keep : NextKeep s (execS2Wake s) := .onlyIf (s2Leave_keep (.refl s)) (.refl s)

@[simp] theorem execLinkPairOff_keep {pair : Nat} : NextKeep s (execLinkPairOff pair s) :=
  .onlyIf ((Keep.refl s).parts (pwr := pwrKeep_of rfl)) (.refl s)

@[simp] theorem execRefLost_keep : NextKeep s (execRefLost s) := refLoss_keep (.refl s)

@[simp] theorem execAvsReadback_keep {g mv amps : Nat} : NextKeep s (execAvsReadback g mv amps s) :=
  .onlyIf (setVddc_keep (.refl s)) (.refl s)

@[simp] theorem execAvsFault_keep {g kind : Nat} : NextKeep s (execAvsFault g kind s) :=
  .onlyIf (event_keep (setVddc_keep (.refl s))) (.refl s)

@[simp] theorem execAvsFaultClear_keep {g : Nat} {v : W32} : NextKeep s (execAvsFaultClear g v s) :=
  hostAccess_keep (.refl s) fun t => .ite (vddcWrite_keep (.refl t)) (.refl t)

@[simp] theorem execDroopTrip_keep {die : Nat} : NextKeep s (execDroopTrip die s) :=
  .onlyIf ((Keep.refl s).parts (pwr := pwrKeep_of rfl)) (.refl s)

@[simp] theorem execDroopRecover_keep {die : Nat} : NextKeep s (execDroopRecover die s) :=
  (Keep.refl s).parts (pwr := pwrKeep_of rfl)

@[simp] theorem execGovernorTick_keep {need : List Nat} {hot cool : List Bool} {ci cp ca : List Nat} :
    NextKeep s (execGovernorTick need hot cool ci cp ca s) := by
  refine .ite (Keep.refl s) ?_
  have hgov : Keep s ((List.range 8).foldl (fun t g => governGroup t need hot cool ci cp ca g) s) :=
    Keep.foldl (.refl s) fun t _ => governGroup_keep (.refl t)
  dsimp only
  generalize (List.range 8).foldl (fun t g => governGroup t need hot cool ci cp ca g) s = governed at hgov ⊢
  exact hgov.parts (pwr := pwrKeep_of rfl)

@[simp] theorem execFlowPulse_keep {f : Nat} : NextKeep s (execFlowPulse f s) :=
  .onlyIf (Keep.refl s).others (.refl s)

@[simp] theorem execMonitorTick_keep {samples : List (Nat × W32)} : NextKeep s (execMonitorTick samples s) := by
  refine .ite (Keep.refl s) (Keep.others (.ite (applyRules_keep ?counted) ?counted))
  refine countRules_keep (Keep.foldl ?_ fun t _ => sampleChan_keep (.refl t))
  exact .ite (rulesAct_keep (passTo_keep (.refl s))) (passTo_keep (.refl s))

@[simp] theorem execRuleActivate_keep {r : Nat} : NextKeep s (execRuleActivate r s) :=
  .onlyIf (rulesAct_keep (.refl s)) (.refl s)

@[simp] theorem execRuleDeactivate_keep {r : Nat} : NextKeep s (execRuleDeactivate r s) :=
  .onlyIf (rulesAct_keep (.refl s)) (.refl s)

end Sys2Proof.Machine
end

section
/-! The audio ports, the TAP, the tally and the health records keep what `Keep` says (15, 17, 19). -/

namespace Sys2Proof.Machine

open Sys2Proof

variable {s : State}

@[simp] theorem execAudPortStart_keep {p mclk : Nat} {v : W32} : NextKeep s (execAudPortStart p v mclk s) :=
  audReg_keep (.refl s) fun t => audCtrl_keep (.refl t)

@[simp] theorem execAudPortStop_keep {p : Nat} {v : W32} : NextKeep s (execAudPortStop p v s) :=
  audReg_keep (.refl s) fun t => audCtrl_keep (.refl t)

@[simp] theorem execAudMaskWrite_keep {p width : Nat} {v : W32} : NextKeep s (execAudMaskWrite p v width s) :=
  audReg_keep (.refl s) fun t => .ite (audMask_keep (.refl t)) (.refl t)

@[simp] theorem execAudFrame_keep {p : Nat} {din : List W32} : NextKeep s (execAudFrame p din s) :=
  .ite (portFrame_keep (.refl s)) (.ite (Keep.refl s) (.ite
    (.ite (Keep.refl s) (.ite (frameEdge_keep (setAp_keep (wordGone_keep (.refl s)))) (frameEdge_keep (.refl s))))
    (.ite (frameEdge_keep (.ite (setAp_keep (.refl s)) (.refl s))) (Keep.refl s))))

@[simp] theorem execAudResync_keep {p : Nat} {mid : Bool} {din : List W32} : NextKeep s (execAudResync p mid din s) := by
  unfold execAudResync
  dsimp only
  split
  · exact Keep.refl s
  · refine .ite (Keep.refl s) (.ite (clockGone_keep (.refl s)) (slotsPass_keep (.ite ?skipped (startFrame_keep ?skipped))))
    exact setAp_keep (Keep.foldl (.refl s) fun t _ => slotSkip_keep (.refl t))

@[simp] theorem execAudRateUpdate_keep {p : Nat} {up : Bool} : NextKeep s (execAudRateUpdate p up s) := by
  refine .ite (Keep.refl s) (Keep.ite (refLostNow_keep ?told) ?told)
  exact .ite (event_keep (setAp_keep (.refl s))) (setAp_keep (.refl s))

@[simp] theorem execAudClockLost_keep {p : Nat} : NextKeep s (execAudClockLost p s) :=
  .ite (Keep.refl s) (.ite (Keep.ite (clockGone_keep (.refl s)) (.refl s)) (.ite (Keep.refl s)
    (Keep.ite (wordGone_keep (passTo_keep (.refl s))) (clockGone_keep (passTo_keep (.refl s))))))

@[simp] theorem execWordClockReturn_keep : NextKeep s (execWordClockReturn s) :=
  .onlyIf (frameEdge_keep (setAp_keep (.refl s))) (.refl s)

@[simp] theorem execSetdasa_keep {addr : BitVec 7} : NextKeep s (execSetdasa addr s) := .onlyIf (Keep.refl s).others (.refl s)

@[simp] theorem execIdcode_keep : NextKeep s (execIdcode s) := .onlyIf (wire_keep (loadIr_keep (.refl s))) (.refl s)

@[simp] theorem execSamplePreload_keep {bsr : Bytes} : NextKeep s (execSamplePreload bsr s) :=
  .onlyIf (loadIr_keep (.refl s)).others (.refl s)

@[simp] theorem execExtest_keep : NextKeep s (execExtest s) := .onlyIf (openSession_keep (loadIr_keep (.refl s))) (.refl s)

@[simp] theorem execResetPkg_keep : NextKeep s (execResetPkg s) :=
  .onlyIf (packageReset_keep (openSession_keep (loadIr_keep (.refl s)))) (.refl s)

@[simp] theorem execForceRel_keep {block : Byte} : NextKeep s (execForceRel block s) :=
  .onlyIf (forceBlock_keep (openSession_keep (loadIr_keep (.refl s)))) (.refl s)

@[simp] theorem execEotasDebugAccess_keep {code : Byte} : NextKeep s (execEotasDebugAccess code s) :=
  .onlyIf (openSession_keep (loadIr_keep (.refl s))) (.refl s)

@[simp] theorem execBypass_keep {code : Byte} : NextKeep s (execBypass code s) :=
  .onlyIf (.ite (loadIr_keep (.refl s)) (openSession_keep (loadIr_keep (.refl s)))) (.refl s)

@[simp] theorem execTapReset_keep : NextKeep s (execTapReset s) := .onlyIf (Keep.refl s).others (.refl s)

@[simp] theorem execTallyReport_keep {reporter subject : W32} {cls : Nat} {d0 d1 : W64} :
    NextKeep s (execTallyReport reporter subject cls d0 d1 s) :=
  .onlyIf (report_keep (.refl s)) (.refl s)

@[simp] theorem execTallyRecordClose_keep {slot : Nat} : NextKeep s (execTallyRecordClose slot s) := by
  unfold execTallyRecordClose
  split
  · exact Keep.refl s
  · exact .onlyIf (Keep.refl s).others (.refl s)

@[simp] theorem execTallyIrqGapEnd_keep : NextKeep s (execTallyIrqGapEnd s) :=
  .onlyIf (msix_keep (Keep.refl s).others) (.refl s)

@[simp] theorem execTallyAck_keep {v : W32} : NextKeep s (execTallyAck v s) :=
  hostAccess_keep (.refl s) fun t => tallyAck_keep (.refl t)

/-- What AGE_DAY writes, of the state at the day's end. -/
def dayOlder (t : State) : State :=
  { t with
    sec := { t.sec with age := min (t.sec.age + 1) 8192, dayAt := t.time }
    health := { t.health with
      dayMin := []
      margins := t.health.dayMin.foldl (fun m x => tput [] m x.1 (((x.2 - 1) :: tget [] m x.1).take 90)) t.health.margins } }

/-- With the day's end named, no proof evaluates the passing of its nanoseconds. -/
theorem execAgeDay_eq : execAgeDay s = .next (dayOlder (passTo s (s.sec.dayAt + 86400000000000))) := rfl

theorem dayOlder_keep {zz : State} (h : Keep zz s) : Keep zz (dayOlder s) :=
  h.parts (sec := secKeep_of rfl rfl rfl rfl rfl rfl rfl rfl rfl rfl rfl)

@[simp] theorem execAgeDay_keep : NextKeep s (execAgeDay s) := by
  rw [execAgeDay_eq]
  exact dayOlder_keep (passTo_keep (.refl s))

@[simp] theorem execWearMeasure_keep {d : List (Nat × List (Nat × Nat))} : NextKeep s (execWearMeasure d s) :=
  .ite (Keep.refl s) (Keep.foldl (packageEnt_keep (Keep.foldl (.refl s) fun t _ => putEnt_keep (.refl t)))
    fun t _ => warnEnt_keep (.refl t))

@[simp] theorem execTelemetryCopy_keep : NextKeep s (execTelemetryCopy s) := .onlyIf (Keep.refl s).others (.refl s)

@[simp] theorem execMctpTelemetryRead_keep {off len : Nat} : NextKeep s (execMctpTelemetryRead off len s) :=
  .ite (Keep.refl s) (.ite (wire_keep (.refl s)) (.ite (wire_keep (.refl s)) (wire_keep (.refl s))))

@[simp] theorem execMctpMonitorRead_keep : NextKeep s (execMctpMonitorRead s) := .onlyIf (wire_keep (.refl s)) (.refl s)

@[simp] theorem execRegisterWrite_keep {off width : Nat} {v : W64} : NextKeep s (execRegisterWrite off width v s) :=
  hostAccess_keep (.refl s) fun t => barWrite_keep (.refl t)

@[simp] theorem execAccountingLoRead_keep {c k : Nat} : NextKeep s (execAccountingLoRead c k s) :=
  hostAccess_keep (.refl s) fun t => .ite (rdata_keep (setClient_keep (.refl t))) (.refl t)

end Sys2Proof.Machine
end

section
/-! Every command but a power-on reset that PWROK ends keeps what `Keep` says, and so does the step that takes it. -/

namespace Sys2Proof.Machine

open Sys2Proof

/-- The commands that sample the straps: a power-on reset that the rise of PWROK ends (R420). -/
def SamplesStraps (c : Instr) : Prop := ∃ vaon w, c = .por vaon true w

/-- A power-on reset that PWROK does not end leaves the straps as they were sampled. -/
@[simp] theorem execPor_keep {s : State} {vaon : Bool} {w : Straps} : NextKeep s (execPor vaon false w s) := by
  obtain ⟨hpending, htime, hsec, hpile, hpwr, hbead⟩ := alwaysOnReset_stands s vaon false w
  exact ⟨hpending, htime.ge, hsec, hpile, hpwr, hbead, rstKeep_of rfl rfl⟩

/-- One case for each arm of the dispatch. The arms of one shape share a rule; each other arm has its own lemma above. -/
theorem exec_keep {s : State} {c : Instr} (hc : ¬ SamplesStraps c) : NextKeep s (exec c s) := by
  cases c with
  | por vaon pwrok w =>
    cases pwrok with
    | false => exact execPor_keep
    | true => exact absurd ⟨vaon, w, rfl⟩ hc
  | opAdd | opSub | opMul | opAnd | opOr | opXor | opShl | opShr | opSar | opSlt | opSltu | opMin | opMax | opLih | opDivu
  | opRemu => exact alu_keep (.refl s)
  | opBeq | opBne | opBlt | opBge | opBltu | opBgeu => exact branch_keep (.refl s)
  | opLd64 | opLd32 => exact lsLoad_keep (.refl s)
  | opSt64 | opSt32 => exact lsStore_keep (.refl s)
  | opNop | opAadd | opAmov | opArd | opSrd | opSwc => exact issue_advance_keep
  | opCbld | opTlb | opTld | opTswp | opMrow | opVop | opVfn | opVred | opVcvt | opVrnd | opVcor | opVdw | opCarry
  | opSample => exact launch_keep (.refl s)
  | evictSet | streamOpen | streamClose | audioBind => exact crownCmd_atCommit_keep
  | _ => simp [exec]

theorem step_of_pending_cons {s : State} {c : Instr} {rest : List Instr} (h : s.pending = c :: rest) :
    step s = exec c { s with pending := rest } := by
  rw [step, h]

theorem step_of_pending_nil {s : State} (h : s.pending = []) : step s = .next (idleTick s) := by
  rw [step, h]

/-- What `Keep` says of the straps as they were sampled. -/
theorem Keep.straps {s t : State} (h : Keep s t) :
    t.sec.bootsel = s.sec.bootsel ∧ t.rst.clksel = s.rst.clksel ∧ t.rst.stmand = s.rst.stmand := by
  obtain ⟨_, _, ⟨⟨_, _, _, _, _, hbootsel⟩, _⟩, _, _, _, hclksel, hstmand⟩ := h
  exact ⟨hbootsel, hclksel, hstmand⟩

end Sys2Proof.Machine

namespace Sys2Proof.Ob

open Sys2Proof Sys2Proof.Machine

/-- Settles O7: every command but a POR that PWROK ends keeps the straps (`exec_keep`), and so does a nanosecond that passes on
an empty queue; that POR answers `alwaysOnReset`, which takes all three from its operand. -/
theorem onlyPowerOnSamplesStraps : Obligations.OnlyPowerOnSamplesStraps := by
  unfold Obligations.OnlyPowerOnSamplesStraps
  refine ⟨fun s t c rest hpending hstep hc => ?_, fun s t hpending hstep => ?_, fun s vaon w => ?_⟩
  · have hother : ¬ SamplesStraps c := fun ⟨vaon, w, h⟩ => hc vaon w h
    rw [step_of_pending_cons hpending] at hstep
    -- the step runs on the state with the queue's rest, whose straps are those of `s`
    exact ((exec_keep hother).keep hstep).straps
  · rw [step_of_pending_nil hpending] at hstep
    cases hstep
    exact (idleTick_keep (.refl s)).straps
  · exact ⟨alwaysOnReset s vaon true w, rfl, rfl, rfl, rfl⟩

end Sys2Proof.Ob
end

section
/-! The tally's interrupt: opening a record, adding to an open one, and the end of the gap (R455, R457). -/

namespace Sys2Proof.Machine

open Sys2Proof Sys2Proof.Ob

/-- The open record of a subject and class, with its slot: what a report looks for first (R455). -/
abbrev openRecOf (t : Tally) (subject : W32) (cls : Nat) : Option (Nat × Rec) :=
  (tallyRecs t).find? fun y => recOpen t.clock y.2 && y.2.subject == subject && y.2.cls == cls

/-- IRQ_GAP_US has passed since the tally raised its vector last, or it has raised none (R457). -/
def irqGapOver (s : State) : Prop := ∀ u, s.tally.lastIrq = some u → u + s.tally.gapUs * 1000 ≤ s.time

theorem irqGapOver_iff_all (s : State) :
    irqGapOver s ↔ (s.tally.lastIrq.all fun u => decide (u + s.tally.gapUs * 1000 ≤ s.time)) = true := by
  rw [irqGapOver]
  cases s.tally.lastIrq <;> simp

theorem not_irqGapOver {s : State} {u : Nat} (hlast : s.tally.lastIrq = some u)
    (hwithin : s.time < u + s.tally.gapUs * 1000) : ¬ irqGapOver s :=
  fun hover => absurd (hover u hlast) (Nat.not_le.2 hwithin)

/-! ### A record of a class has opened -/

theorem tallyIrq_disabled {s : State} {cls : Nat} (h : irqEnabled s.tally cls = false) :
    (tallyIrq s cls).io.msix = s.io.msix ∧ (tallyIrq s cls).tally.pendingIrq = s.tally.pendingIrq := by
  rw [tallyIrq, if_neg (by simp [h])]
  exact ⟨rfl, rfl⟩

theorem tallyIrq_raises {s : State} {cls : Nat} (hen : irqEnabled s.tally cls = true) (hover : irqGapOver s) :
    (tallyIrq s cls).io.msix = s.io.msix ++ [8] ∧ (tallyIrq s cls).tally.lastIrq = some s.time := by
  rw [tallyIrq, if_pos hen]
  cases hlast : s.tally.lastIrq with
  | none => exact ⟨rfl, rfl⟩
  | some u =>
    simp only [if_neg (Nat.not_lt.2 (hover u hlast))]
    exact ⟨rfl, rfl⟩

theorem tallyIrq_withinGap {s : State} {cls u : Nat} (hen : irqEnabled s.tally cls = true)
    (hlast : s.tally.lastIrq = some u) (hwithin : s.time < u + s.tally.gapUs * 1000) :
    (tallyIrq s cls).io.msix = s.io.msix ∧ (tallyIrq s cls).tally.pendingIrq = true := by
  simp only [tallyIrq, if_pos hen, hlast, if_pos hwithin, and_self]

/-! ### A report -/

theorem exec_tallyReport_awake {s : State} (h : awake s) {cls : Nat} (hcls : eventClass cls = true)
    (reporter subject : W32) (d0 d1 : W64) : exec (.tallyReport reporter subject cls d0 d1) s =
      .next (tallyAdd s { reporter := reporter &&& 0x0FFFFFFF, subject := subject, cls := cls, d0 := d0, d1 := d1 }) := by
  obtain ⟨hup, hon⟩ := h
  have hd1 : ¬ d1Off s = true := by simpa [d1Off] using hon
  show execTallyReport reporter subject cls d0 d1 s = _
  rw [execTallyReport, onlyIf, if_pos hcls, report, if_neg hd1, if_pos hup]

/-- A report of an open record's subject and class only rewrites a slot. -/
theorem tallyAdd_toOpen {s : State} {r : Report} (h : openRecOf s.tally r.subject r.cls ≠ none) :
    ∃ slots, tallyAdd s r = { s with tally := { s.tally with slots := slots } } := by
  obtain ⟨⟨i, q⟩, hfound⟩ := Option.ne_none_iff_exists'.1 h
  rw [openRecOf] at hfound
  exact ⟨_, by rw [tallyAdd, hfound]⟩

/-- With no open record of its own and a slot free or to be reused, a report opens a record: it changes the slots, the
next number and LOST, and then the interrupt of its class is due. -/
theorem tallyAdd_opens {s : State} {r : Report} (hnone : openRecOf s.tally r.subject r.cls = none)
    (hslot : (tallyFree s.tally).isSome = true ∨ (tallyOldest s.tally).isSome = true) :
    ∃ slots nextSeq lost, tallyAdd s r =
      tallyIrq { s with tally := { s.tally with slots := slots, nextSeq := nextSeq, lost := lost } } r.cls := by
  rw [openRecOf] at hnone
  cases hfree : tallyFree s.tally with
  | some i => exact ⟨_, _, s.tally.lost, by rw [tallyAdd, hnone]; simp only [hfree]; rfl⟩
  | none =>
    obtain ⟨i, hold⟩ := Option.isSome_iff_exists.1 (hslot.resolve_left (by simp [hfree]))
    exact ⟨_, _, _, by rw [tallyAdd, hnone]; simp only [hfree, hold]; rfl⟩

/-! ### The end of the gap -/

theorem execTallyIrqGapEnd_raises {s : State} (hpending : s.tally.pendingIrq = true) (hover : irqGapOver s) :
    execTallyIrqGapEnd s =
      .next (msix { s with tally := { s.tally with pendingIrq := false, lastIrq := some s.time } } 8) := by
  rw [execTallyIrqGapEnd, onlyIf, if_pos (Bool.and_eq_true_iff.2 ⟨hpending, (irqGapOver_iff_all s).1 hover⟩)]

theorem execTallyIrqGapEnd_waits {s : State} (h : s.tally.pendingIrq = false ∨ ¬ irqGapOver s) :
    execTallyIrqGapEnd s = .next s := by
  refine congrArg Host.Outcome.next (if_neg fun hdue => ?_)
  obtain ⟨hpending, hover⟩ := Bool.and_eq_true_iff.1 hdue
  rcases h with hidle | hwithin
  · simp [hidle] at hpending
  · exact hwithin ((irqGapOver_iff_all s).2 hover)

end Sys2Proof.Machine

namespace Sys2Proof.Ob

open Sys2Proof Sys2Proof.Machine

/-- Settles O58: a report that opens a record ends in `tallyIrq`, whose three branches are the class not enabled, the gap over
and the gap running; one added to an open record never reaches it, and the end of the gap is `execTallyIrqGapEnd`'s guard. -/
theorem tallyRaisesVectorEight : Obligations.TallyRaisesVectorEight := by
  unfold Obligations.TallyRaisesVectorEight
  refine ⟨fun s r x cls d0 d1 hcls hup => ⟨fun hnone hslot => ?_, fun hopen => ?_⟩,
    fun s hpending => ⟨fun hover => ?_, fun u hlast hwithin => ?_⟩, fun s hidle => ?_⟩
  · refine ⟨_, exec_tallyReport_awake hup hcls r x d0 d1, ?_⟩
    -- opening the record changes nothing the interrupt looks at
    obtain ⟨slots, nextSeq, lost, hopens⟩ := tallyAdd_opens
      (r := { reporter := r &&& 0x0FFFFFFF, subject := x, cls := cls, d0 := d0, d1 := d1 }) hnone hslot
    rw [hopens]
    exact ⟨fun hoff => tallyIrq_disabled hoff, fun hen hover => tallyIrq_raises hen hover,
      fun u hen hlast hwithin => tallyIrq_withinGap hen hlast hwithin⟩
  · obtain ⟨slots, hadds⟩ := tallyAdd_toOpen
      (r := { reporter := r &&& 0x0FFFFFFF, subject := x, cls := cls, d0 := d0, d1 := d1 }) hopen
    exact ⟨_, exec_tallyReport_awake hup hcls r x d0 d1, by rw [hadds], by rw [hadds]⟩
  · exact execTallyIrqGapEnd_raises hpending hover
  · exact execTallyIrqGapEnd_waits (.inr (not_irqGapOver hlast hwithin))
  · exact execTallyIrqGapEnd_waits (.inl hidle)

end Sys2Proof.Ob
end

section
/-! What every step keeps, a power-on reset that samples the straps included. -/

namespace Sys2Proof.Machine

open Sys2Proof

/-- What `Keep` says, but for the queue and for the straps, which a power-on reset samples anew (R420). -/
def StepKeep (s t : State) : Prop :=
  s.time ≤ t.time ∧ SecKeep { s.sec with bootsel := t.sec.bootsel } t.sec ∧ PileKeep s.pile t.pile ∧ PwrKeep s.pwr t.pwr ∧
    BeadKeep s.bead t.bead

theorem Keep.stepKeep {s t : State} (h : Keep s t) : StepKeep s t := by
  obtain ⟨_, htime, ⟨⟨hu, hs, hd, hl, ht, hb⟩, hcounts, howner⟩, hpile, hpwr, hbead, _⟩ := h
  exact ⟨htime, ⟨⟨hu, hs, hd, hl, ht, rfl⟩, hcounts, howner⟩, hpile, hpwr, hbead⟩

/-- Every command leaves the rest of the queue, and keeps what every step keeps. -/
theorem exec_stepKeep {s t : State} {c : Instr} (h : exec c s = .next t) : t.pending = s.pending ∧ StepKeep s t := by
  by_cases hc : SamplesStraps c
  · obtain ⟨vaon, w, rfl⟩ := hc
    cases h
    obtain ⟨hpending, htime, hsec, hpile, hpwr, hbead⟩ := alwaysOnReset_stands s vaon true w
    exact ⟨hpending, htime.ge, hsec, hpile, hpwr, hbead⟩
  · have hkeep := (exec_keep hc).keep h
    exact ⟨hkeep.1, hkeep.stepKeep⟩

theorem step_stepKeep {s t : State} (h : step s = .next t) : StepKeep s t := by
  cases hpending : s.pending with
  | nil =>
    rw [step_of_pending_nil hpending] at h
    cases h
    exact (idleTick_keep (.refl s)).stepKeep
  | cons c rest =>
    rw [step_of_pending_cons hpending] at h
    exact (exec_stepKeep h).2

end Sys2Proof.Machine

namespace Sys2Proof.Ob

open Sys2Proof Sys2Proof.Machine

/-- Settles O3: pile memory changes only through `memPut`, which keeps the canonical form, or is emptied. -/
theorem everyStepKeepsPileMemoryCanonical : Obligations.EveryStepKeepsPileMemoryCanonical := by
  unfold Obligations.EveryStepKeepsPileMemoryCanonical
  intro s t hwf hstep
  obtain ⟨_, _, hpile, _⟩ := step_stepKeep hstep
  exact hpile hwf

/-- Settles O4: `SecKeep` names the fuses, and the straps it also names are no part of the statement. -/
theorem noStepClearsFuses : Obligations.NoStepClearsFuses := by
  unfold Obligations.NoStepClearsFuses
  intro s t hstep
  obtain ⟨_, ⟨⟨huds, hserial, hdigest, hlms, htree, _⟩, ⟨hroll, hleaf⟩, howner⟩, _⟩ := step_stepKeep hstep
  exact ⟨huds, hserial, hdigest, hlms, htree, hroll, hleaf, howner⟩

/-- Settles O5: `PwrKeep` and `BeadKeep` for the step. -/
theorem everyStepKeepsLegalModes : Obligations.EveryStepKeepsLegalModes := by
  unfold Obligations.EveryStepKeepsLegalModes
  intro s t ⟨hcur, hrefsel, hactive⟩ hstep
  obtain ⟨_, _, _, hpwr, hbead⟩ := step_stepKeep hstep
  exact ⟨BitVec.lt_def.2 (hpwr (BitVec.lt_def.1 hcur)), hbead ⟨hrefsel, hactive⟩⟩

/-- Settles O6: the command runs on the state with the queue's rest, and no command touches the queue or turns time back. -/
theorem everyStepKeepsTheQueueInOrder : Obligations.EveryStepKeepsTheQueueInOrder := by
  unfold Obligations.EveryStepKeepsTheQueueInOrder
  intro s t c rest hpending hstep
  rw [step_of_pending_cons hpending] at hstep
  obtain ⟨hrest, htime, _⟩ := exec_stepKeep hstep
  exact ⟨hrest, htime⟩

end Sys2Proof.Ob
end

section
/-! A step takes the front command; what reset leaves (R37, R312, R455; notes/assumptions/2.md, 15.md). -/

namespace Sys2Proof.Ob

open Sys2Proof Sys2Proof.Machine

/-- Settles O1: the queue's front is what `step` matches on, and a nanosecond on an empty queue is `pass_passed 1`. -/
theorem stepRunsTheFrontCommand : Obligations.StepRunsTheFrontCommand := by
  unfold Obligations.StepRunsTheFrontCommand
  refine ⟨fun s c rest => step_of_pending_cons rfl, fun s hempty => ?_, fun s nbits w => ⟨rfl, rfl⟩⟩
  obtain ⟨hbead, hclients, hcmds, hstreams, hpile, hdma, hmsix, _, hsec, hls, htime, hpending, _, _, _, _, _, _, _, _, _, _, _,
    _, _, _, _, _, _, hclock⟩ := pass_passed 1 s
  exact ⟨idleTick s, step_of_pending_nil hempty, htime, hpending.trans hempty, hbead, hclients, hcmds, hclock, hstreams, hpile,
    hdma, hmsix, hsec, hls⟩

/-- Settles O2: each value is a field's default in the declaration of the state, and an empty table reads its default. -/
theorem resetLeavesTheRegisterTables : Obligations.ResetLeavesTheRegisterTables := by
  unfold Obligations.ResetLeavesTheRegisterTables
  refine ⟨⟨rfl, rfl, rfl, rfl, rfl, rfl, rfl, rfl, rfl, rfl, fun c => rfl, fun p => rfl, rfl, rfl, rfl, rfl, rfl, rfl, rfl⟩,
    rfl, ?_, ?_, ?_⟩ <;> decide

end Sys2Proof.Ob
end

section
/-! The scalar instructions (R163, R176): what each of them makes of its operands, as numbers. -/

namespace Sys2Proof.Machine

open Sys2Proof Sys2Proof.Ob

/-! ### The operations of R176 as integers -/

theorem add_eq_ofNat (a x : W64) : a + x = BitVec.ofNat 64 (a.toNat + x.toNat) := by
  rw [BitVec.ofNat_add, BitVec.ofNat_toNat, BitVec.ofNat_toNat, BitVec.setWidth_eq, BitVec.setWidth_eq]

theorem sub_eq_ofInt (a x : W64) : a - x = BitVec.ofInt 64 ((a.toNat : Int) - x.toNat) := by
  apply BitVec.eq_of_toInt_eq
  rw [BitVec.toInt_sub, BitVec.toInt_ofInt, BitVec.toInt_eq_toNat_bmod, BitVec.toInt_eq_toNat_bmod, Int.bmod_sub_bmod,
    Int.sub_bmod_bmod]

theorem mul_eq_ofNat (a x : W64) : a * x = BitVec.ofNat 64 (a.toNat * x.toNat) :=
  BitVec.eq_of_toNat_eq (by rw [BitVec.toNat_mul, BitVec.toNat_ofNat])

/-- A signed comparison decides a choice between two words as it does between their integers. -/
theorem min_eq_ofInt (a x : W64) : (if x.slt a then x else a) = BitVec.ofInt 64 (min a.toInt x.toInt) := by
  rw [BitVec.slt_eq_decide]
  by_cases h : x.toInt < a.toInt
  · rw [if_pos (by simpa using h), min_eq_right h.le, BitVec.ofInt_toInt]
  · rw [if_neg (by simpa using h), min_eq_left (not_lt.1 h), BitVec.ofInt_toInt]

theorem max_eq_ofInt (a x : W64) : (if a.slt x then x else a) = BitVec.ofInt 64 (max a.toInt x.toInt) := by
  rw [BitVec.slt_eq_decide]
  by_cases h : a.toInt < x.toInt
  · rw [if_pos (by simpa using h), max_eq_right h.le, BitVec.ofInt_toInt]
  · rw [if_neg (by simpa using h), max_eq_left (not_lt.1 h), BitVec.ofInt_toInt]

/-- The quotient of R176: all ones where the divisor is 0. -/
theorem divu_eq_ofNat (a x : W64) :
    (if x = 0 then -1 else a / x) = BitVec.ofNat 64 (if x.toNat = 0 then 2 ^ 64 - 1 else a.toNat / x.toNat) := by
  by_cases h : x = 0
  · rw [if_pos h, if_pos (by simp [h])]
    rfl
  · have h0 : ¬ x.toNat = 0 := fun h0 => h (BitVec.eq_of_toNat_eq h0)
    rw [if_neg h, if_neg h0, ← BitVec.toNat_udiv, BitVec.ofNat_toNat, BitVec.setWidth_eq]

/-- The remainder of R176: the dividend where the divisor is 0. -/
theorem remu_eq_ofNat (a x : W64) : (if x = 0 then a else a % x) = BitVec.ofNat 64 (a.toNat % x.toNat) := by
  by_cases h : x = 0
  · simp [h]
  · rw [if_neg h, ← BitVec.toNat_umod, BitVec.ofNat_toNat, BitVec.setWidth_eq]

theorem shl_eq_ofNat (a x : W64) : a <<< shamt x = BitVec.ofNat 64 (a.toNat * 2 ^ (x.toNat % 64)) :=
  BitVec.eq_of_toNat_eq (by rw [BitVec.toNat_shiftLeft, BitVec.toNat_ofNat, Nat.shiftLeft_eq, shamt])

theorem shr_eq_ofNat (a x : W64) : a >>> shamt x = BitVec.ofNat 64 (a.toNat / 2 ^ (x.toNat % 64)) := by
  rw [← shamt, ← Nat.shiftRight_eq_div_pow, ← BitVec.toNat_ushiftRight, BitVec.ofNat_toNat, BitVec.setWidth_eq]

theorem sar_eq_ofInt (a x : W64) : a.sshiftRight (shamt x) = BitVec.ofInt 64 (a.toInt / 2 ^ (x.toNat % 64)) := by
  rw [← shamt, BitVec.sshiftRight, Int.shiftRight_eq_div_pow]
  norm_cast

/-- LIH joins two halves: the low half of `a` below that of `x`. -/
theorem lih_eq_ofNat (a x : W64) : (x <<< 32) ||| ((a.setWidth 32).setWidth 64) =
    BitVec.ofNat 64 (x.toNat % 2 ^ 32 * 2 ^ 32 + a.toNat % 2 ^ 32) := by
  apply BitVec.eq_of_toNat_eq
  have hx : x.toNat <<< 32 % 2 ^ 64 = 2 ^ 32 * (x.toNat % 2 ^ 32) := by rw [Nat.shiftLeft_eq]; omega
  have ha : a.toNat % 2 ^ 32 < 2 ^ 32 := Nat.mod_lt _ (by decide)
  rw [BitVec.toNat_or, BitVec.toNat_shiftLeft, BitVec.toNat_setWidth, BitVec.toNat_setWidth, BitVec.toNat_ofNat, hx,
    Nat.mod_eq_of_lt (a := a.toNat % 2 ^ 32) (by omega), ← Nat.two_pow_add_eq_or_of_lt ha]
  omega

/-! ### The address registers -/

theorem aadd_eq_ofNat (a : W32) (x : W64) : a + x.setWidth 32 = BitVec.ofNat 32 (a.toNat + x.toNat) :=
  BitVec.eq_of_toNat_eq (by simp)

theorem amov_eq_ofNat (a : W64) (n : Nat) : a.setWidth 32 + BitVec.ofNat 32 n = BitVec.ofNat 32 (a.toNat + n) :=
  BitVec.eq_of_toNat_eq (by simp)

theorem ard_eq_ofNat (a : W32) : a.setWidth 64 = BitVec.ofNat 64 a.toNat := (BitVec.ofNat_toNat 64 a).symm

/-! ### The register file (R163) -/

@[simp] theorem sreg_zero (d : Disp) : sreg d 0 = 0 := rfl
@[simp] theorem setSreg_zero (d : Disp) (v : W64) : setSreg d 0 v = d := rfl

theorem sreg_setSreg_same (d : Disp) {i : Nat} (h : i ≠ 0) (v : W64) : sreg (setSreg d i v) i = v := by
  rw [sreg, if_neg h, setSreg, if_neg h, tget_tput_same]

theorem sreg_setSreg_ne (d : Disp) {i j : Nat} (hi : i ≠ 0) (h : j ≠ i) (v : W64) : sreg (setSreg d i v) j = sreg d j := by
  rw [sreg, setSreg, if_neg hi, sreg, tget_tput_ne _ _ _ _ _ h]

/-! ### Issue -/

/-- An instruction that is issued and changes the dispatch of its core but not the code index goes on at the next word. -/
theorem issue_advance_at {s : State} {core : Nat} {d e : Disp} {w op : Nat} (h : ready s core d w op) (f : Disp → Nat → Disp)
    (he : f d w = e) (h0 : e.pc = d.pc) (h1 : e.codeBase = d.codeBase) (h2 : e.codeSpan = d.codeSpan) :
    issue s core op (fun d w => advance s core (f d w)) = nextOf s core e d.pc := by
  rw [issue_at h.1, he]
  exact advance_at h e h0 h1 h2

theorem issue_setSreg_at {s : State} {core : Nat} {d : Disp} {w op : Nat} (h : ready s core d w op) (i : Disp → Nat → Nat)
    (v : Disp → Nat → W64) : issue s core op (fun d w => advance s core (setSreg d (i d w) (v d w))) =
      nextOf s core (setSreg d (i d w) (v d w)) d.pc := by
  obtain ⟨h0, h1, h2⟩ := setSreg_pc d (i d w) (v d w)
  exact issue_advance_at h (fun d w => setSreg d (i d w) (v d w)) rfl h0 h1 h2

/-- What an arithmetic instruction answers, its operation given by what it makes of the two operands. -/
theorem exec_alu {s : State} {core : Nat} {d : Disp} {w op : Nat} (h : ready s core d w op) {f : W64 → W64 → W64} {v : W64}
    (hv : f (sreg d (fA w)) (opX d w) = v) :
    (.next (alu s core op f) : Host.Outcome State Fault Refusal) = .next (nextOf s core (setSreg d (fD w) v) d.pc) := by
  rw [alu_at h, hv]

end Sys2Proof.Machine

namespace Sys2Proof.Ob

open Sys2Proof Sys2Proof.Machine

/-- Settles O13: `exec_alu` for each of the arithmetic instructions, with its operation as a function of the integers. -/
theorem scalarInstructions : Obligations.ScalarInstructions := by
  unfold Obligations.ScalarInstructions
  refine ⟨?arithmetic, ?bitwise, ?addresses⟩
  case arithmetic =>
    rintro s core d w _ _ rfl rfl
    refine ⟨fun h => exec_alu h (add_eq_ofNat _ _), fun h => exec_alu h (sub_eq_ofInt _ _), fun h => exec_alu h (mul_eq_ofNat _ _),
      fun h => exec_alu h (min_eq_ofInt _ _), fun h => exec_alu h (max_eq_ofInt _ _), fun h => exec_alu h ?_,
      fun h => exec_alu h ?_, fun h => exec_alu h (divu_eq_ofNat _ _), fun h => exec_alu h (remu_eq_ofNat _ _)⟩
    · simp only [BitVec.slt_eq_decide, decide_eq_true_eq]
    · simp only [BitVec.ult_eq_decide, decide_eq_true_eq]
  case bitwise =>
    rintro s core d w _ _ rfl rfl
    exact ⟨fun h => ⟨_, fun i _ => BitVec.getLsbD_and, exec_alu h rfl⟩, fun h => ⟨_, fun i _ => BitVec.getLsbD_or, exec_alu h rfl⟩,
      fun h => ⟨_, fun i _ => BitVec.getLsbD_xor, exec_alu h rfl⟩, fun h => exec_alu h (shl_eq_ofNat _ _),
      fun h => exec_alu h (shr_eq_ofNat _ _), fun h => exec_alu h (sar_eq_ofInt _ _), fun h => exec_alu h (lih_eq_ofNat _ _)⟩
  case addresses =>
    intro s core d w
    refine ⟨fun h => ?_, fun h => ?_, fun h => ?_, fun h => ?_, fun v => ⟨rfl, rfl⟩,
      fun i v hi => ⟨sreg_setSreg_same d hi v, fun j hj => sreg_setSreg_ne d hi hj v⟩⟩
    · rw [← aadd_eq_ofNat]
      exact congrArg Host.Outcome.next (issue_advance_at h (fun d w => setAreg d (fD w) (areg d (fA w) + (opX d w).setWidth 32))
        rfl rfl rfl rfl)
    · rw [← amov_eq_ofNat]
      exact congrArg Host.Outcome.next (issue_advance_at h
        (fun d w => setAreg d (fD w) ((sreg d (fA w)).setWidth 32 + BitVec.ofNat 32 (fImm w))) rfl rfl rfl rfl)
    · rw [← ard_eq_ofNat]
      exact congrArg Host.Outcome.next (issue_setSreg_at h (fun _ w => fD w) fun d w => (areg d (fA w)).setWidth 64)
    · exact congrArg Host.Outcome.next (issue_advance_at h (fun d _ => d) rfl rfl rfl rfl)

end Sys2Proof.Ob
end

section
/-! The instructions that change the flow of a program, wait or join a barrier (R172 to R174). -/

namespace Sys2Proof.Machine

open Sys2Proof Sys2Proof.Ob

/-- A branch goes to its target where its condition holds, and to the next word elsewhere. -/
theorem branch_at {s : State} {core : Nat} {d : Disp} {w op pc : Nat} {c : W64 → W64 → Bool} (h : atWord s core d w op)
    (hpc : pc = if c (sreg d (fA w)) (sreg d (fB w)) = true then fTarget w else d.pc + 1) (hheld : codeHeld s core d pc) :
    branch s core op c = setDisp s core (gone d pc) := by
  unfold branch
  rw [issue_at h]
  split at hpc
  · next hc => rw [if_pos hc, ← hpc]; exact goTo_at d pc hheld rfl rfl
  · next hc => rw [if_neg hc, advance, ← hpc]; exact goTo_at d pc hheld rfl rfl

/-- A jump that has written a scalar register goes on at its target, if the code window holds a word there. -/
theorem goTo_setSreg_at {s : State} {core : Nat} {d : Disp} {pc : Nat} (h : codeHeld s core d pc) (i : Nat) (v : W64) :
    goTo s core (setSreg d i v) pc = setDisp s core (gone (setSreg d i v) pc) := by
  obtain ⟨_, hbase, hspan⟩ := setSreg_pc d i v
  exact goTo_at _ _ h hbase hspan

/-- A core that would reach an invalid-code mark ends its command (R171). -/
theorem advance_invalid_ends {s : State} {core : Nat} {d : Disp} (h : codeWord (getCore s core) d (d.pc + 1) = none)
    (hruns : runs s d.cmd) : ending (advance s core d) d.cmd 0x0003 0 := by
  rw [advance, goTo, h]
  exact failOob_ends (s := setDisp s core (gone d (d.pc + 1))) (d := gone d (d.pc + 1)) hruns

/-! ### Tokens -/

/-- Bit `i` of a number as 32 bits. -/
theorem getLsbD_ofNat_of_lt (n : Nat) {i : Nat} (h : i < 32) : (BitVec.ofNat 32 n).getLsbD i = decide (n / 2 ^ i % 2 = 1) := by
  rw [BitVec.getLsbD_ofNat, Nat.testBit_eq_decide_div_mod_eq]
  simp [h]

/-- WAIT's condition: no token whose bit IMM has is pending. -/
theorem tokens_and_eq_zero_iff (d : Disp) (n : Nat) :
    d.tokens &&& BitVec.ofNat 32 n = 0 ↔ ∀ i, i < 32 → n / 2 ^ i % 2 = 1 → tokPending d i = false := by
  constructor
  · intro h i hi hbit
    have : (d.tokens &&& BitVec.ofNat 32 n).getLsbD i = false := by rw [h]; simp
    rw [BitVec.getLsbD_and, getLsbD_ofNat_of_lt n hi, decide_eq_true hbit, Bool.and_true] at this
    exact this
  · intro h
    refine BitVec.eq_of_getLsbD_eq fun i hi => ?_
    rw [BitVec.getLsbD_and, getLsbD_ofNat_of_lt n hi]
    by_cases hbit : n / 2 ^ i % 2 = 1
    · rw [show d.tokens.getLsbD i = false from h i hi hbit]
      simp
    · simp [hbit]

end Sys2Proof.Machine

namespace Sys2Proof.Ob

open Sys2Proof Sys2Proof.Machine

/-- Settles O14: `branch_at` for each branch with its condition as one of integers, `goTo_setSreg_at` for the jumps, and the two
outcomes of each instruction that waits. -/
theorem controlFlowInstructions : Obligations.ControlFlowInstructions := by
  unfold Obligations.ControlFlowInstructions
  refine ⟨?branches, ?jumps, ?waits⟩
  case branches =>
    rintro s core d w _ _ rfl rfl
    refine ⟨fun pc hpc h hheld => congrArg Host.Outcome.next (branch_at h ?_ hheld),
      fun pc hpc h hheld => congrArg Host.Outcome.next (branch_at h ?_ hheld),
      fun pc hpc h hheld => congrArg Host.Outcome.next (branch_at h ?_ hheld),
      fun pc hpc h hheld => congrArg Host.Outcome.next (branch_at h ?_ hheld),
      fun pc hpc h hheld => congrArg Host.Outcome.next (branch_at h ?_ hheld),
      fun pc hpc h hheld => congrArg Host.Outcome.next (branch_at h ?_ hheld)⟩
    · simpa only [beq_iff_eq] using hpc
    · simpa only [bne_iff_ne, ne_eq, ite_not] using hpc
    · simpa only [BitVec.slt_eq_decide, decide_eq_true_eq] using hpc
    · simpa only [BitVec.slt_eq_decide, Bool.not_eq_true', decide_eq_false_iff_not, not_lt] using hpc
    · simpa only [BitVec.ult_eq_decide, decide_eq_true_eq] using hpc
    · simpa only [BitVec.ult_eq_decide, Bool.not_eq_true', decide_eq_false_iff_not, not_lt] using hpc
  case jumps =>
    intro s core d w
    refine ⟨fun h hheld => ?_, fun pc hpc h hheld => ?_, fun v pc hv hpc h hheld => ?_, fun h hmark hruns => ?_⟩
    · exact congrArg Host.Outcome.next ((issue_at h _).trans (goTo_setSreg_at hheld _ _))
    · subst hpc
      exact congrArg Host.Outcome.next ((issue_at h _).trans (goTo_at d _ hheld rfl rfl))
    · subst hv
      refine congrArg Host.Outcome.next ((issue_at h _).trans ?_)
      split at hpc
      · next hz =>
        obtain ⟨hkeep, _⟩ := setSreg_pc d (fA w) (sreg d (fA w) - 1)
        simp only [if_pos hz, advance, hkeep, ← hpc]
        exact goTo_setSreg_at hheld _ _
      · next hz =>
        simp only [if_neg hz, ← hpc]
        exact goTo_setSreg_at hheld _ _
    · exact ⟨_, congrArg Host.Outcome.next (issue_at h _), advance_invalid_ends hmark hruns⟩
  case waits =>
    intro s core d w
    refine ⟨fun h hdone => ?_, fun i hi hbit hpending h => ?_, fun h => congrArg Host.Outcome.next (issue_at h _),
      fun h hnone => ?_, fun h hsome => ?_⟩
    · refine congrArg Host.Outcome.next ((issue_at h.1 _).trans ?_)
      rw [if_pos ((tokens_and_eq_zero_iff d _).2 hdone)]
      exact advance_at h d rfl rfl rfl
    · refine congrArg Host.Outcome.next ((issue_at h _).trans ?_)
      have hwaits : ¬ d.tokens &&& BitVec.ofNat 32 (fImm w) = 0 := fun hz => by
        simp [(tokens_and_eq_zero_iff d _).1 hz i hi hbit] at hpending
      rw [if_neg hwaits]
      rfl
    · exact congrArg Host.Outcome.next ((issue_at h _).trans (if_pos hnone))
    · exact congrArg Host.Outcome.next ((issue_at h _).trans (if_neg hsome))

end Sys2Proof.Ob
end

section
/-! The windows of the local store (R164, R165): what is read after a write to the scratch window. -/

namespace Sys2Proof.Machine

open Sys2Proof

/-! ### The list of scratch bytes -/

theorem scrGet_cons (j o : Nat) (v : Byte) (t : List (Nat × Byte)) :
    scrGet ((j, v) :: t) o = if j = o then some v else scrGet t o := by
  by_cases h : j = o <;> simp [scrGet, h]

theorem scrGet_scrPut (l : List (Nat × Byte)) (k o : Nat) (v : Byte) :
    scrGet (scrPut l k v) o = if k = o then some v else scrGet l o := by
  induction l with
  | nil => rw [scrPut, scrGet_cons]
  | cons x t ih =>
    obtain ⟨j, w⟩ := x
    rw [scrPut]
    split
    · rw [scrGet_cons]
    · split
      · next hk => subst hk; rw [scrGet_cons, scrGet_cons]; split <;> rfl
      · next hk =>
        rw [scrGet_cons, scrGet_cons, ih]
        by_cases hj : j = o
        · rw [if_pos hj, if_pos hj, if_neg fun h => hk (h.trans hj.symm)]
        · rw [if_neg hj, if_neg hj]

/-- Of the bytes written from `k` on, each stands at its offset; every other offset reads as before. -/
theorem scrGet_scrPutAll (b : Bytes) (l : List (Nat × Byte)) (k o : Nat) :
    scrGet (scrPutAll l k b) o = if k ≤ o ∧ o < k + b.length then b[o - k]? else scrGet l o := by
  induction b generalizing l k with
  | nil => simp [scrPutAll]
  | cons x t ih =>
    rw [scrPutAll, ih, scrGet_scrPut, List.length_cons]
    rcases Nat.lt_trichotomy o k with h | h | h
    · rw [if_neg (by omega), if_neg (by omega), if_neg (by omega)]
    · subst h
      rw [if_neg (by omega), if_pos rfl, if_pos (by omega)]
      simp
    · by_cases hin : o < k + (t.length + 1)
      · rw [if_pos (by omega), if_pos (by omega), show o - k = o - (k + 1) + 1 by omega]
        rfl
      · rw [if_neg (by omega), if_neg (by omega), if_neg (by omega)]

/-! ### Addresses -/

/-- Within a range that lies in its window, the offset counts on and the window stays the same. -/
theorem winOk_step {d : Disp} {a n i : Nat} (h : winOk d a n = true) (hi : i < n) :
    winOff (a + i) = winOff a + i ∧ winScratch (a + i) = winScratch a := by
  simp only [winOk, Bool.and_eq_true, decide_eq_true_eq, beq_iff_eq, winOff, bits] at h
  obtain ⟨⟨hlt, hresv⟩, hfits⟩ := h
  have hspan : a % 2 ^ 22 + n ≤ 4194304 := by
    have := le_trans (of_decide_eq_true hfits) (Nat.min_le_left _ _)
    simpa using this
  constructor
  · simp only [winOff, bits]
    omega
  · have : (a + i) / 2 ^ 31 % 2 = a / 2 ^ 31 % 2 := by omega
    simp only [winScratch, bitOf, this]

theorem winOk_of_winWritable {d : Disp} {a n : Nat} (h : winWritable d a n = true) :
    winOk d a n = true ∧ winScratch a = true := by
  simpa [winWritable, Bool.and_eq_true] using h

/-! ### Reads after a write -/

@[simp] theorem winRead_length (ls : Tab Byte) (d : Disp) (a n : Nat) : (winRead ls d a n).length = n := by simp [winRead]

theorem winByte_scratch (ls : Tab Byte) (d : Disp) {a : Nat} (h : winScratch a = true) :
    winByte ls d a = (scrGet d.scr (winOff a)).getD (Config.freeByte d.scrTag (winOff a)) := by
  rw [winByte, if_pos h]
  cases scrGet d.scr (winOff a) <;> rfl

theorem winByte_resident (ls : Tab Byte) (d : Disp) {a : Nat} (h : winScratch a = false) :
    winByte ls d a = tget 0 ls (d.resBase + winOff a) := by
  rw [winByte, if_neg (by simp [h])]

/-- A scratch byte after a write: the byte written there, or what it was before. -/
theorem winByte_winWrite (ls : Tab Byte) (d : Disp) (a : Nat) (b : Bytes) {x : Nat} (hx : winScratch x = true) :
    winByte ls (winWrite d a b) x =
      if winOff a ≤ winOff x ∧ winOff x < winOff a + b.length then (b[winOff x - winOff a]?).getD 0 else winByte ls d x := by
  rw [winByte_scratch ls _ hx, winByte_scratch ls d hx, winWrite, scrGet_scrPutAll]
  dsimp only
  split
  · next h => rw [List.getElem?_eq_getElem (by omega)]; rfl
  · rfl

/-- The resident window does not change. -/
theorem winByte_winWrite_resident (ls : Tab Byte) (d : Disp) (a : Nat) (b : Bytes) {x : Nat} (hx : winScratch x = false) :
    winByte ls (winWrite d a b) x = winByte ls d x := by
  rw [winByte_resident ls _ hx, winByte_resident ls d hx]
  rfl

theorem winByte_winWrite_outside (ls : Tab Byte) (d : Disp) {a x : Nat} (b : Bytes) (hx : winScratch x = true)
    (h : winOff x < winOff a ∨ winOff a + b.length ≤ winOff x) : winByte ls (winWrite d a b) x = winByte ls d x := by
  rw [winByte_winWrite ls d a b hx, if_neg (by omega)]

/-- The bytes written to a range of the scratch window read back. -/
theorem winRead_winWrite_same (ls : Tab Byte) {d : Disp} {a n : Nat} {b : Bytes} (hb : b.length = n)
    (h : winWritable d a n = true) : winRead ls (winWrite d a b) a n = b := by
  obtain ⟨hok, hscr⟩ := winOk_of_winWritable h
  apply List.ext_getElem (by simp [hb])
  intro i hi hib
  have hin : i < n := by simpa using hi
  obtain ⟨hoff, hwin⟩ := winOk_step hok hin
  simp only [winRead, List.getElem_map, List.getElem_range]
  rw [winByte_winWrite ls d a b (hwin.trans hscr), if_pos (by omega), hoff, Nat.add_sub_cancel_left,
    List.getElem?_eq_getElem hib]
  rfl

/-! ### Numbers and their bytes -/

/-- The low `n` bytes of a number are the number modulo 2^(8n). -/
theorem ofLE_leN_mod (n v : Nat) : ofLE (leN n v) = v % 256 ^ n := by
  induction n generalizing v with
  | zero => simp [leN, ofLE, Nat.mod_one]
  | succ n ih =>
    have hpow : 256 ^ (n + 1) = 256 * 256 ^ n := by rw [Nat.pow_succ, Nat.mul_comm]
    rw [leN, ofLE, ih, BitVec.toNat_ofNat, hpow, Nat.mod_mul]

theorem ofLE_lt (b : Bytes) : ofLE b < 256 ^ b.length := by
  induction b with
  | nil => simp [ofLE]
  | cons x t ih =>
    have hx : x.toNat < 256 := x.isLt
    simp only [ofLE, List.length_cons, Nat.pow_succ]
    omega

end Sys2Proof.Machine
end

section
/-! The local store, the status space, the random keys and the site reports of the sequencer (R165, R177, R187, R190). -/

namespace Sys2Proof.Machine

open Sys2Proof Sys2Proof.Ob

/-! ### Loads and stores -/

theorem lsLoad_at {s : State} {core : Nat} {d : Disp} {w op n : Nat} (h : ready s core d w op) (halign : lsAddr d w % n = 0)
    (hok : winOk d (lsAddr d w) n = true) : lsLoad s core op n =
      nextOf s core (setSreg d (fD w) (BitVec.ofNat 64 (ofLE (winRead (getCore s core).ls d (lsAddr d w) n)))) d.pc := by
  obtain ⟨h0, h1, h2⟩ := setSreg_pc d (fD w) (BitVec.ofNat 64 (ofLE (winRead (getCore s core).ls d (lsAddr d w) n)))
  rw [lsLoad, issue_at h.1, if_pos ⟨halign, hok⟩]
  exact advance_at h _ h0 h1 h2

theorem lsStore_at {s : State} {core : Nat} {d : Disp} {w op n : Nat} (h : ready s core d w op) (halign : lsAddr d w % n = 0)
    (hok : winWritable d (lsAddr d w) n = true) :
    lsStore s core op n = nextOf s core (winWrite d (lsAddr d w) (leN n (sreg d (fB w)).toNat)) d.pc := by
  rw [lsStore, issue_at h.1, if_pos ⟨halign, hok⟩]
  exact advance_at h _ rfl rfl rfl

/-- What a store of `n` bytes leaves: the low bytes at their place, the rest of the dispatch and of the window as it was. -/
theorem store_effect (ls : Tab Byte) (d : Disp) {a n : Nat} (v : Nat) (hok : winWritable d a n = true) :
    ofLE (winRead ls (winWrite d a (leN n v)) a n) = v % 256 ^ n ∧
      winWrite d a (leN n v) = { d with scr := (winWrite d a (leN n v)).scr } ∧
      ∀ b, winScratch b = true → (winOff b < winOff a ∨ winOff a + n ≤ winOff b) →
        winByte ls (winWrite d a (leN n v)) b = winByte ls d b := by
  refine ⟨?_, rfl, fun b hb hout => winByte_winWrite_outside ls d _ hb (by simpa using hout)⟩
  rw [winRead_winWrite_same ls (length_leN n v) hok, ofLE_leN_mod]

theorem lsStore_fails {s : State} {core : Nat} {d : Disp} {w op n : Nat} (h : atWord s core d w op)
    (hbad : ¬ (lsAddr d w % n = 0 ∧ winWritable d (lsAddr d w) n = true)) : lsStore s core op n = failOob s d := by
  rw [lsStore, issue_at h, if_neg hbad]

theorem lsLoad_fails {s : State} {core : Nat} {d : Disp} {w op n : Nat} (h : atWord s core d w op)
    (hbad : ¬ (lsAddr d w % n = 0 ∧ winOk d (lsAddr d w) n = true)) : lsLoad s core op n = failOob s d := by
  rw [lsLoad, issue_at h, if_neg hbad]

/-! ### The status space -/

/-- SRD's offsets, each with what is there (R177). -/
theorem statusReg_of {s : State} {core : Nat} {d : Disp} {off : Nat} {v : W64}
    (h : (off = 0x000 ∧ v = BitVec.ofNat 64 d.flags.toNat) ∨ (off = 0x008 ∧ v = s.bead.count) ∨
      (off = 0x0E0 ∧ v = BitVec.ofNat 64 (coreHealth s core)) ∨ (off = 0x0F8 ∧ v = (getCore s core).runCycles) ∨
      ∃ n, n < 10 ∧ off = 0x100 + 8 * n ∧ v = tget 0 (getCore s core).stall n) : statusReg s core d off = v := by
  rcases h with ⟨rfl, rfl⟩ | ⟨rfl, rfl⟩ | ⟨rfl, rfl⟩ | ⟨rfl, rfl⟩ | ⟨n, hn, rfl, rfl⟩
  · exact (BitVec.ofNat_toNat 64 d.flags).symm
  · rfl
  · rfl
  · rfl
  · simp only [statusReg, if_neg (show ¬ 0x100 + 8 * n = 0x000 by omega), if_neg (show ¬ 0x100 + 8 * n = 0x008 by omega),
      if_neg (show ¬ 0x100 + 8 * n = 0x0E0 by omega), if_neg (show ¬ 0x100 + 8 * n = 0x0F8 by omega),
      show (0x100 + 8 * n - 0x100) / 8 = n by omega]

theorem getLsbD_clearFlags (f : Fl) (v : W64) {i : Nat} (h : i < 4) :
    (clearFlags f v).getLsbD i = (f.getLsbD i && !v.getLsbD i) := by
  simp [clearFlags, h]

/-! ### Keys and site reports -/

theorem execOpRkey_at {s : State} {core : Nat} {d : Disp} {w : Nat} (h : ready s core d w 0x7C)
    (hok : winOk d (areg d (fP w)).toNat 32 = true) : execOpRkey core s = .next (nextOf s core { d with
      keys := tput 0 d.keys (fImm w % 16)
        (BitVec.ofNat 256 (ofLE (winRead (getCore s core).ls d (areg d (fP w)).toNat 32))) } d.pc) := by
  rw [execOpRkey, issue_at h.1]
  simp only [if_pos hok]
  exact congrArg Host.Outcome.next (advance_at h _ rfl rfl rfl)

theorem execOpSiteput_at {s : State} {core : Nat} {d : Disp} {w : Nat} {c : Cmd} {x : WSet} (h : ready s core d w 0x7D)
    (hc : getCmd s d.cmd = some c) (hx : findSet s d.part d.handle = some x)
    (hok : winOk d (areg d (fP w)).toNat 16 = true)
    (hput : siteputOk c d x.sites.length (sreg d (fS w)).toNat (fImm w % 64) = true) :
    execOpSiteput core s = .next (setDisp (modCmd s d.cmd fun c => { c with
      reports := c.reports ++ [siteRep d.rank (sreg d (fS w)).toNat (fImm w % 64)
        (winRead (getCore s core).ls d (areg d (fP w)).toNat 16)] }) core (gone d (d.pc + 1))) := by
  rw [execOpSiteput, issue_at h.1]
  simp only [hx, hc, hok, hput, Bool.and_self, if_true]
  exact congrArg Host.Outcome.next (goTo_at (s := modCmd s d.cmd _) d (d.pc + 1) h.2 rfl rfl)

theorem execOpSiteput_fails {s : State} {core : Nat} {d : Disp} {w : Nat} {c : Cmd} {x : WSet} (h : atWord s core d w 0x7D)
    (hc : getCmd s d.cmd = some c) (hx : findSet s d.part d.handle = some x)
    (hput : siteputOk c d x.sites.length (sreg d (fS w)).toNat (fImm w % 64) = false) :
    execOpSiteput core s = .next (failOob s d) := by
  rw [execOpSiteput, issue_at h]
  simp only [hx, hc, hput, Bool.and_false, Bool.false_eq_true, if_false]

end Sys2Proof.Machine

namespace Sys2Proof.Ob

open Sys2Proof Sys2Proof.Machine

/-- Settles O15: the accesses by `lsLoad_at`, `lsStore_at` and `store_effect`, the status space by `statusReg_of`, and the two
outcomes of SITEPUT's checks. -/
theorem storeStatusAndKeyInstructions : Obligations.StoreStatusAndKeyInstructions := by
  unfold Obligations.StoreStatusAndKeyInstructions
  refine ⟨?store, ?status, ?rkey, ?siteput, ?siteputFails⟩
  case store =>
    rintro s core d w _ rfl
    refine ⟨fun h ha hok => congrArg Host.Outcome.next (lsLoad_at h ha hok),
      fun h ha hok => congrArg Host.Outcome.next (lsLoad_at h ha hok), fun h ha hok => ?_, fun h ha hok => ?_,
      fun h hbad hruns => ?_, fun h hbad hruns => ?_⟩
    · obtain ⟨hval, heq, hframe⟩ := store_effect (getCore s core).ls d (sreg d (fB w)).toNat hok
      refine ⟨_, congrArg Host.Outcome.next (lsStore_at h ha hok), hval.trans (Nat.mod_eq_of_lt ?_), heq, hframe⟩
      exact (sreg d (fB w)).isLt
    · obtain ⟨hval, heq, hframe⟩ := store_effect (getCore s core).ls d (sreg d (fB w)).toNat hok
      exact ⟨_, congrArg Host.Outcome.next (lsStore_at h ha hok), hval, heq, hframe⟩
    · refine ⟨_, congrArg Host.Outcome.next (lsStore_fails h ?_), failOob_ends hruns⟩
      rintro ⟨halign, hw⟩
      obtain ⟨hok, hscr⟩ := winOk_of_winWritable hw
      rcases hbad with hbad | hbad | hbad
      · exact hbad halign
      · exact Bool.false_ne_true (hbad.symm.trans hscr)
      · exact Bool.false_ne_true (hbad.symm.trans hok)
    · refine ⟨_, congrArg Host.Outcome.next (lsLoad_fails h ?_), failOob_ends hruns⟩
      rintro ⟨halign, hok⟩
      rcases hbad with hbad | hbad
      · exact hbad halign
      · exact Bool.false_ne_true (hbad.symm.trans hok)
  case status =>
    intro s core d w
    refine ⟨fun v h hv => ?_, fun h => ⟨_, ?_, fun i hi => getLsbD_clearFlags _ _ hi⟩⟩
    · rw [← statusReg_of hv]
      exact congrArg Host.Outcome.next (issue_setSreg_at h (fun _ w => fD w) fun d w => statusReg s core d (fImm w))
    · exact congrArg Host.Outcome.next
        (issue_advance_at h (fun d w => { d with flags := clearFlags d.flags (sreg d (fB w)) }) rfl rfl rfl rfl)
  case rkey =>
    intro s core d w h hok
    refine ⟨_, execOpRkey_at h hok, rfl, ?_, fun k hk => tget_tput_ne _ _ _ _ _ hk⟩
    have hlt := ofLE_lt (winRead (getCore s core).ls d (areg d (fP w)).toNat 32)
    rw [winRead_length] at hlt
    rw [tget_tput_same, BitVec.toNat_ofNat, show 2 ^ 256 = 256 ^ 32 by norm_num, Nat.mod_eq_of_lt hlt]
  case siteput =>
    rintro s core d w c x _ h hc hx hok rfl hidx hsite hlenC hrep
    have hput : siteputOk c d x.sites.length (sreg d (fS w)).toNat (fImm w % 64) = true := by
      simp [siteputOk, hrep, hidx, hsite, hlenC]
    refine ⟨_, _, execOpSiteput_at h hc hx hok hput, getDisp_setDisp_same _ _ _,
      getCmd_modCmd_same s d.cmd _ c hc fun _ => rfl, ?_, rfl, rfl, rfl⟩
    rw [hrep]
    rfl
  case siteputFails =>
    intro s core d w x h hx hbad hruns
    obtain ⟨c, hc, hstage⟩ := hruns
    refine ⟨_, execOpSiteput_fails h hc hx ?_, failOob_ends ⟨c, hc, hstage⟩⟩
    rcases hbad with hbad | hbad
    · simp [siteputOk, Nat.not_lt.2 hbad]
    · simp [siteputOk, Nat.not_lt.2 hbad]

end Sys2Proof.Ob
end

section
/-! What the engines find and leave (R134, R137, R142 to R145): a launch on the dispatch without flags of its own, tables filled in
ascending order, the accumulator memory. -/

namespace Sys2Proof.Machine

open Sys2Proof Sys2Proof.Ob

/-! ### Launches -/

/-- Two dispatches stand at the same word and have the same operations queued. -/
def SameIssue (e d : Disp) : Prop :=
  e.pc = d.pc ∧ e.codeBase = d.codeBase ∧ e.codeSpan = d.codeSpan ∧ e.launches = d.launches

theorem SameIssue.refl (d : Disp) : SameIssue d d := ⟨rfl, rfl, rfl, rfl⟩
theorem SameIssue.blank (d : Disp) : SameIssue (blank d) d := ⟨rfl, rfl, rfl, rfl⟩

/-- A launch whose checks pass, as the instruction's meaning answers it. -/
theorem next_launch {s : State} {core : Nat} {d : Disp} {w op eng : Nat} (h : launchable s core d w op eng)
    {f : Tab Byte → Disp → Nat → Option Disp} {e : Disp} (hf : f (getCore s core).ls (blank d) w = some e)
    (hs : SameIssue e d) : (.next (launch s core op eng f) : Host.Outcome State Fault Refusal) =
      .next (nextOf s core (launched d e eng (fT w)) d.pc) := by
  obtain ⟨h0, h1, h2, h3⟩ := hs
  rw [launch_at h f e hf h0 h1 h2 h3]

theorem next_launch_stalls {s : State} {core : Nat} {d : Disp} {w op eng : Nat} (h : atWord s core d w op)
    (f : Tab Byte → Disp → Nat → Option Disp) (hs : tokPending d (fT w) = true ∨ 4 ≤ (tget [] d.launches eng).length) :
    (.next (launch s core op eng f) : Host.Outcome State Fault Refusal) = .next (setDisp s core { d with stallOn := some 0 }) := by
  rw [launch_stalls h f hs]
  rfl

/-- A launch that a check refuses ends its command. -/
theorem next_launch_fails {s : State} {core : Nat} {d : Disp} {w op eng : Nat} (h : launchable s core d w op eng)
    {f : Tab Byte → Disp → Nat → Option Disp} (hf : f (getCore s core).ls (blank d) w = none) (hr : runs s d.cmd) :
    ∃ t, (.next (launch s core op eng f) : Host.Outcome State Fault Refusal) = .next t ∧ ending t d.cmd 0x0003 0 :=
  ⟨_, congrArg Host.Outcome.next (launch_fails h f hf), failOob_ends hr⟩

/-! ### The dispatch without flags of its own reads as the dispatch -/

section Blank

variable (ls : Tab Byte) (d : Disp)

@[simp] theorem areg_blank (i : Nat) : areg (blank d) i = areg d i := rfl
@[simp] theorem sreg_blank (i : Nat) : sreg (blank d) i = sreg d i := rfl
@[simp] theorem winOk_blank (a n : Nat) : winOk (blank d) a n = winOk d a n := rfl
@[simp] theorem rngOk_blank (a n : Nat) : rngOk (blank d) a n = rngOk d a n := rfl
@[simp] theorem rngW_blank (a n : Nat) : rngW (blank d) a n = rngW d a n := rfl
@[simp] theorem winByte_blank (a : Nat) : winByte ls (blank d) a = winByte ls d a := rfl
@[simp] theorem winRead_blank (a n : Nat) : winRead ls (blank d) a n = winRead ls d a n := rfl
@[simp] theorem wbAt_blank (a : Nat) : wbAt ls (blank d) a = wbAt ls d a := rfl
@[simp] theorem blockAt_blank (w n : Nat) : blockAt ls (blank d) w n = blockAt ls d w n := rfl
@[simp] theorem accGet_blank (r j : Nat) : accGet (blank d) r j = accGet d r j := rfl

end Blank

theorem blockAt_unaligned {ls : Tab Byte} {d : Disp} {w n : Nat} (h : (areg d (fP w)).toNat % 64 ≠ 0) :
    blockAt ls d w n = none := by
  simp [blockAt, h]

/-! ### Tables filled in ascending order -/

/-- A table with its entries below `n` written anew. -/
theorem tget_foldl_tput {α : Type} [DecidableEq α] (x : α) (f : Nat → α) (t : Tab α) (n k : Nat) :
    tget x ((List.range n).foldl (fun t i => tput x t i (f i)) t) k = if k < n then f k else tget x t k := by
  induction n with
  | zero => simp
  | succ n ih =>
    rw [List.range_succ, List.foldl_append]
    simp only [List.foldl_cons, List.foldl_nil]
    by_cases hk : k = n
    · subst hk
      rw [tget_tput_same, if_pos (by omega)]
    · rw [tget_tput_ne _ _ _ _ _ hk, ih]
      by_cases hlt : k < n
      · rw [if_pos hlt, if_pos (by omega)]
      · rw [if_neg hlt, if_neg (by omega)]

/-! ### The accumulator memory -/

/-- `e` is `d` but for the accumulator and the flags. -/
def AccOnly (d e : Disp) : Prop := e = { d with acc := e.acc, flags := e.flags }

theorem AccOnly.refl (d : Disp) : AccOnly d d := rfl
theorem AccOnly.trans {d e f : Disp} (h : AccOnly d e) (h' : AccOnly e f) : AccOnly d f := by
  unfold AccOnly at *
  rw [h']
  rw [h]

theorem AccOnly.orFlags (d : Disp) (f : Fl) : AccOnly d (orFlags d f) := rfl
theorem AccOnly.accPut (d : Disp) (r j : Nat) (v : W32) : AccOnly d (accPut d r j v) := rfl

theorem AccOnly.foldl {α : Type} {f : Disp → α → Disp} (h : ∀ d x, AccOnly d (f d x)) (l : List α) (d : Disp) :
    AccOnly d (l.foldl f d) := by
  induction l generalizing d with
  | nil => exact .refl d
  | cons x l ih => exact (h d x).trans (ih (f d x))

/-- What follows for a launch: the word and the queues of the engines stand. -/
theorem AccOnly.sameIssue {d e : Disp} (h : AccOnly (blank d) e) : SameIssue e d := by
  rw [h]
  exact ⟨rfl, rfl, rfl, rfl⟩

theorem AccOnly.of_blank {d e : Disp} (h : AccOnly (blank d) e) : AccOnly d e := by
  unfold AccOnly at *
  rw [h]
  rfl

/-- Only the accumulator and the flags apart, the windows read the same. -/
theorem AccOnly.winByte_eq {d e : Disp} (h : AccOnly d e) (ls : Tab Byte) (a : Nat) : winByte ls e a = winByte ls d a := by
  rw [h]
  rfl

theorem AccOnly.winRead_eq {d e : Disp} (h : AccOnly d e) (ls : Tab Byte) (a n : Nat) : winRead ls e a n = winRead ls d a n := by
  rw [h]
  rfl

@[simp] theorem accGet_orFlags (d : Disp) (f : Fl) (r j : Nat) : accGet (orFlags d f) r j = accGet d r j := rfl

@[simp] theorem accGet_accPut_same (d : Disp) (r j : Nat) (v : W32) : accGet (accPut d r j v) r j = v :=
  tget_tput_same _ _ _ _

theorem accGet_accPut_ne (d : Disp) {r j r' j' : Nat} (v : W32) (hj : j < 32) (hj' : j' < 32) (h : r' ≠ r ∨ j' ≠ j) :
    accGet (accPut d r j v) r' j' = accGet d r' j' :=
  tget_tput_ne _ _ _ _ _ (by omega)

/-! ### Tokens and the ends of operations -/

theorem tokPending_tokDone (d : Disp) (t : Nat) {i : Nat} (hi : i < 32) :
    tokPending (tokDone d t) i = (tokPending d i && i != t) := by
  simp only [tokPending, tokDone, BitVec.getLsbD_and, BitVec.getLsbD_not, BitVec.getLsbD_ofNat, Nat.testBit_two_pow, hi,
    decide_true, Bool.true_and]
  by_cases h : i = t
  · simp [h]
  · simp [h, Ne.symm h]

end Sys2Proof.Machine
end

section
/-! The matrix engine (R94, R106, R137, R142 to R145). -/

namespace Sys2Proof.Machine

open Sys2Proof Sys2Proof.Ob

/-! ### Codebooks and tiles -/

/-- CBLD of a checked block: the buffer that IMM[0] names takes the entries, the other stands. -/
theorem cbldDo_at {ls : Tab Byte} {d : Disp} {w a n : Nat} {h : WBlock} (ha : a = (areg d (fP w)).toNat)
    (hn : n = if h.wide then 256 else 16) (hblk : wbAt ls d a = some h) (hok : winOk d (a + 16) (wbCbBytes h) = true) :
    ∃ e, cbldDo ls (blank d) w = some e ∧ e = { blank d with cb0 := e.cb0, cb1 := e.cb1 } ∧
      ∃ new old : Tab (BitVec 13), (if bitOf (fImm w) 0 then e.cb1 = new ∧ old = d.cb1 ∧ e.cb0 = d.cb0
          else e.cb0 = new ∧ old = d.cb0 ∧ e.cb1 = d.cb1) ∧
        (∀ i, i < n → (tget 0 new i).toNat = ofLE (winRead ls d (a + 16 + 2 * i) 2) % 8192) ∧
        ∀ i, n ≤ i → tget 0 new i = tget 0 old i := by
  have hentries : ∀ t : Tab (BitVec 13), ∀ i, i < n → (tget 0 ((List.range n).foldl (fun t i =>
      tput 0 t i (BitVec.ofNat 13 (ofLE (winRead ls d (a + 16 + 2 * i) 2)))) t) i).toNat =
        ofLE (winRead ls d (a + 16 + 2 * i) 2) % 8192 := by
    intro t i hi
    rw [tget_foldl_tput, if_pos hi, BitVec.toNat_ofNat]
  have hrest : ∀ t : Tab (BitVec 13), ∀ i, n ≤ i → tget 0 ((List.range n).foldl (fun t i =>
      tput 0 t i (BitVec.ofNat 13 (ofLE (winRead ls d (a + 16 + 2 * i) 2)))) t) i = tget 0 t i := by
    intro t i hi
    rw [tget_foldl_tput, if_neg (Nat.not_lt.2 hi)]
  subst ha
  simp only [cbldDo, areg_blank, wbAt_blank, hblk, winOk_blank, hok, if_true, winRead_blank, ← hn]
  by_cases hb : bitOf (fImm w) 0 = true
  · rw [if_pos hb]
    refine ⟨_, rfl, rfl, ?_⟩
    rw [hb]
    exact ⟨_, _, ⟨rfl, rfl, rfl⟩, hentries d.cb1, hrest d.cb1⟩
  · rw [if_neg hb]
    refine ⟨_, rfl, rfl, ?_⟩
    rw [Bool.eq_false_iff.2 hb]
    exact ⟨_, _, ⟨rfl, rfl, rfl⟩, hentries d.cb0, hrest d.cb0⟩

/-- TLB of a group of a checked block: what stands at row `k`, column `j` of the shadow tile. -/
theorem tlbDo_at {ls : Tab Byte} {d : Disp} {w a g : Nat} {h : WBlock} (ha : a = (areg d (fP w)).toNat)
    (hg : g = (sreg d (fS w) + BitVec.ofNat 64 (bits (fImm w) 10 0)).toNat) (hblk : wbAt ls d a = some h)
    (hlt : g < (h.depth + 31) / 32) (hok : winOk d a (wbRemOff h) = true) :
    ∃ e, tlbDo ls (blank d) w = some e ∧ e = { blank d with shadow := e.shadow } ∧ e.shadow.rows = min 32 (h.depth - 32 * g) ∧
      e.shadow.cols = h.channels ∧ ∀ k j, k < 32 → j < 32 → tget 0 e.shadow.w (32 * k + j) =
        tlbElem ls d a h (if bitOf (fImm w) 11 then d.cb1 else d.cb0) (32 * g + k) j := by
  subst ha
  subst hg
  simp only [tlbDo, areg_blank, sreg_blank, wbAt_blank, hblk, winOk_blank, hok, hlt, decide_true, Bool.and_self, if_true]
  refine ⟨_, rfl, rfl, rfl, rfl, fun k j hk hj => ?_⟩
  rw [tget_foldl_tput, if_pos (by omega), show (32 * k + j) / 32 = k by omega, show (32 * k + j) % 32 = j by omega]
  rfl

theorem tlbElem_eq (ls : Tab Byte) (d : Disp) (a : Nat) (h : WBlock) (cb : Tab (BitVec 13)) (k j : Nat) :
    tlbElem ls d a h cb k j =
      if h.depth ≤ k ∨ (h.esc = true ∧ wbIndex h (fun o => (winByte ls d (a + wbIdxOff h + o)).toNat) k j = wbEscIdx h) then 0
      else tget 0 cb (wbIndex h (fun o => (winByte ls d (a + wbIdxOff h + o)).toNat) k j) := by
  unfold tlbElem
  by_cases hk : h.depth ≤ k
  · rw [if_pos hk, if_pos (.inl hk)]
  · rw [if_neg hk]
    simp only [Bool.and_eq_true, beq_iff_eq, hk, false_or]

theorem tldDo_at {ls : Tab Byte} {d : Disp} {w a : Nat} (ha : a = (areg d (fP w)).toNat) (hok : winOk d a 2048 = true) :
    ∃ e, tldDo ls (blank d) w = some e ∧ e = { blank d with shadow := e.shadow } ∧ e.shadow.rows = 32 ∧ e.shadow.cols = 32 ∧
      ∀ i, i < 1024 → (tget 0 e.shadow.w i).toNat = ofLE (winRead ls d (a + 2 * i) 2) % 8192 := by
  subst ha
  simp only [tldDo, areg_blank, winOk_blank, hok, if_true]
  refine ⟨_, rfl, rfl, rfl, rfl, fun i hi => ?_⟩
  rw [tget_foldl_tput, if_pos hi, BitVec.toNat_ofNat]
  rfl

/-! ### Row streams -/

/-- What MROW puts at column `j` of the row it meets, before the columns of padding channels are discarded (R94, R95). -/
def mrowElem (d : Disp) (chain : Bool) (row : Nat) (ops : List (Fp × Fl)) (j : Nat) : W32 × Fl :=
  fin32w (groupStep (if chain then dec32 (accGet d row j) else Fp.zero) (colPairs d.active ops j))

/-- The first `n` columns of a row: each is written in its turn, unless its channel is padding. -/
theorem accGet_foldl_cols (v : Nat → W32 × Fl) (cols row : Nat) (d : Disp) {n r j : Nat} (hn : n ≤ 32) (hj : j < 32) :
    accGet ((List.range n).foldl (fun t j => orFlags (if j < cols then accPut t row j (v j).1 else t) (v j).2) d) r j =
      if r = row ∧ j < n ∧ j < cols then (v j).1 else accGet d r j := by
  induction n with
  | zero => simp
  | succ n ih =>
    rw [List.range_succ, List.foldl_append, List.foldl_cons, List.foldl_nil, accGet_orFlags]
    specialize ih (by omega)
    by_cases hcol : n < cols
    · rw [if_pos hcol]
      by_cases hhere : r = row ∧ j = n
      · obtain ⟨rfl, rfl⟩ := hhere
        rw [accGet_accPut_same, if_pos ⟨rfl, by omega, hcol⟩]
      · rw [accGet_accPut_ne _ _ (by omega) hj (by tauto), ih]
        exact if_congr (by constructor <;> (rintro ⟨h1, h2, h3⟩; refine ⟨h1, ?_, h3⟩; omega)) rfl rfl
    · rw [if_neg hcol, ih]
      exact if_congr (by constructor <;> (rintro ⟨h1, h2, h3⟩; refine ⟨h1, ?_, h3⟩; omega)) rfl rfl

theorem accOnly_mrowRow (d : Disp) (chain : Bool) (row : Nat) (ops : List (Fp × Fl)) : AccOnly d (mrowRow d chain row ops) := by
  refine (AccOnly.orFlags d _).trans (.foldl (fun t j => ?_) _ _)
  dsimp only
  split
  · exact (AccOnly.accPut _ _ _ _).trans (.orFlags _ _)
  · exact .orFlags _ _

/-- One row meets the active tile. -/
theorem accGet_mrowRow (d : Disp) (chain : Bool) (row : Nat) (ops : List (Fp × Fl)) {r j : Nat} (hj : j < 32) :
    accGet (mrowRow d chain row ops) r j =
      if r = row ∧ j < d.active.cols then (mrowElem d chain row ops j).1 else accGet d r j := by
  have h := accGet_foldl_cols (mrowElem d chain row ops) d.active.cols row (orFlags d (ops.foldl (fun f o => f ||| o.2) 0))
    (n := 32) (r := r) le_rfl hj
  rw [accGet_orFlags] at h
  exact h.trans (if_congr (by simp [hj]) rfl rfl)

/-- What a stream of the first `n` rows of `ra` leaves: each row as it meets the tile, the others as they were. -/
theorem mrow_rows (d : Disp) (chain : Bool) (ra n : Nat) (ops : Nat → List (Fp × Fl)) :
    AccOnly d ((List.range n).foldl (fun t i => mrowRow t chain (ra + i) (ops i)) d) ∧
      ∀ r j, j < 32 → accGet ((List.range n).foldl (fun t i => mrowRow t chain (ra + i) (ops i)) d) r j =
        if ra ≤ r ∧ r < ra + n ∧ j < d.active.cols then (mrowElem d chain r (ops (r - ra)) j).1 else accGet d r j := by
  refine ⟨.foldl (fun t i => accOnly_mrowRow t chain (ra + i) (ops i)) _ d, ?_⟩
  induction n with
  | zero => intro r j _; rw [if_neg (by omega)]; rfl
  | succ n ih =>
    intro r j hj
    have honly : AccOnly d ((List.range n).foldl (fun t i => mrowRow t chain (ra + i) (ops i)) d) :=
      .foldl (fun t i => accOnly_mrowRow t chain (ra + i) (ops i)) _ d
    rw [List.range_succ, List.foldl_append, List.foldl_cons, List.foldl_nil, accGet_mrowRow _ _ _ _ hj]
    generalize (List.range n).foldl (fun t i => mrowRow t chain (ra + i) (ops i)) d = e at ih honly
    have hactive : e.active = d.active := by rw [honly]
    rw [hactive]
    by_cases hhere : r = ra + n
    · subst hhere
      by_cases hcol : j < d.active.cols
      · rw [if_pos ⟨rfl, hcol⟩, if_pos ⟨by omega, by omega, hcol⟩, Nat.add_sub_cancel_left]
        -- the row itself is still as it was
        have hrow : accGet e (ra + n) j = accGet d (ra + n) j := by rw [ih _ _ hj, if_neg (by omega)]
        rw [mrowElem, mrowElem, hrow, hactive]
      · rw [if_neg (by tauto), if_neg (by tauto), ih _ _ hj, if_neg (by omega)]
    · rw [if_neg (by tauto), ih _ _ hj]
      exact if_congr (by constructor <;> (rintro ⟨h1, h2, h3⟩; refine ⟨h1, ?_, h3⟩; omega)) rfl rfl

theorem bits_low (v hi : Nat) : bits v hi 0 = v % 2 ^ (hi + 1) := by simp [bits]

/-- The operands of a row are read in the windows alone. -/
theorem rowOps_blank (ls : Tab Byte) (d : Disp) (fmt a mt : Nat) : rowOps ls (blank d) fmt a mt = rowOps ls d fmt a mt := rfl

/-- MROW with a block in order streams its M rows. -/
theorem mrowDo_at {ls : Tab Byte} {d : Disp} {w : Nat} {b : Bytes} {src stride m ra fmt mt : Nat} {chain : Bool}
    (hblk : blockAt ls d w 64 = some b) (hsrc : src = fieldLE b 0 4) (hstride : stride = fieldLE b 4 4)
    (hm : m = fieldLE b 8 2) (hra : ra = fieldLE b 10 2) (hfmt : fmt = fieldLE b 12 1 % 16)
    (hchain : chain = bitOf (fieldLE b 12 1) 4) (hmt : mt = fieldLE b 16 4)
    (hzero : bits (fieldLE b 12 1) 7 5 = 0 ∧ zeros b 13 3 = true ∧ zeros b 20 44 = true)
    (hranges : stride % 16 = 0 ∧ m ≤ 1024 ∧ ra ≤ 1023 ∧ ra + m ≤ 1024 ∧ fmt ≤ 7)
    (hread : m = 0 ∨ winOk d src ((m - 1) * stride + 32 * fmtBytes fmt) = true)
    (hmeta : fmt < 6 ∨ m = 0 ∨ winOk d mt (8 * m) = true) :
    mrowDo ls (blank d) w = some ((List.range m).foldl
      (fun t i => mrowRow t chain (ra + i) (rowOps ls d fmt (src + i * stride) (mt + 8 * i))) (blank d)) := by
  obtain ⟨hz1, hz2, hz3⟩ := hzero
  obtain ⟨hr1, hr2, hr3, hr4, hr5⟩ := hranges
  have hread' : (m == 0 || winOk d src ((m - 1) * stride + 32 * fmtBytes fmt)) = true := by
    simpa only [Bool.or_eq_true, beq_iff_eq] using hread
  have hmeta' : (!(fmt == 6 || fmt == 7) || rngOk d mt (8 * m)) = true := by
    rcases hmeta with h | h | h
    · simp [show fmt ≠ 6 by omega, show fmt ≠ 7 by omega]
    · simp [rngOk, h]
    · simp [rngOk, h]
  have hb : bits (fieldLE b 12 1) 3 0 = fmt := (bits_low _ _).trans hfmt.symm
  simp only [mrowDo, blockAt_blank, hblk, ← hsrc, ← hstride, ← hm, ← hra, hb, ← hchain, ← hmt, hz1, hz2, hz3, hr1, hr2, hr3, hr4,
    hr5, winOk_blank, rngOk_blank, rowOps_blank, hread', hmeta', decide_true, beq_self_eq_true, Bool.and_self, if_true]

end Sys2Proof.Machine

namespace Sys2Proof.Ob

open Sys2Proof Sys2Proof.Machine

/-- The end of an operation (R106): its token is clear and its flags stand. -/
theorem tokenDone_at {s : State} {core eng t : Nat} {f : BitVec 4} {r : List (Nat × BitVec 4)} {d : Disp} {c : Cmd}
    (heng : eng < 4) (h : onCore s core d c) (hq : tget [] d.launches eng = (t, f) :: r) :
    exec (.tokenDone core eng) s =
      .next (setDisp s core (tokDone { d with launches := tput [] d.launches eng r, flags := d.flags ||| f } t)) := by
  obtain ⟨hd, hc, hstarted, hgen, hcgen⟩ := h
  refine congrArg Host.Outcome.next ?_
  simp [onUnit, hd, hc, hstarted, hgen, hcgen, heng, hq]

/-- Settles O16: what a launch does with no room or a bad block, then each tile instruction, and MROW by `mrow_rows`. That a launch
takes its effect as it is issued, its token and flags at the end, is the model's choice (log entry 4), and so is what a codebook load of
16 entries leaves of its buffer (log entry 82). -/
theorem launchesAndMatrixEngine : Obligations.LaunchesAndMatrixEngine := by
  unfold Obligations.LaunchesAndMatrixEngine
  refine ⟨⟨?launches, ?tokenDone⟩, ⟨?cbld, ?tlb, ?tld, ?tswp⟩, ?mrow⟩
  case launches =>
    intro s core d w
    refine ⟨fun h hs => next_launch_stalls h vopDo hs, fun h hs => next_launch_stalls h mrowDo hs,
      fun h hs => next_launch_stalls h (carryDo (sitesOf s core)) hs, fun h ha hr => next_launch_fails h ?_ hr,
      fun h ha hr => next_launch_fails h ?_ hr⟩
    · rw [vopDo, blockAt_blank, blockAt_unaligned ha]
    · rw [sampleDo, blockAt_blank, blockAt_unaligned ha]
  case tokenDone =>
    intro s core eng t f r d c heng h hq
    exact ⟨_, tokenDone_at heng h hq, tget_tput_same _ _ _ _, fun i hi => tokPending_tokDone _ t hi, rfl⟩
  case cbld =>
    intro s core d w h a n ha hn hl hblk hok
    obtain ⟨e, hdo, he, hbuf⟩ := cbldDo_at ha hn hblk hok
    refine ⟨e, next_launch hl hdo ?_, he, hbuf⟩
    rw [he]
    exact .refl d
  case tlb =>
    intro s core d w h a g ha hg hl hblk hlt hok
    obtain ⟨e, hdo, he, hrows, hcols, helem⟩ := tlbDo_at ha hg hblk hlt hok
    refine ⟨e, next_launch hl hdo ?_, he, fun k j i hk hj hi => ⟨hrows, hcols, ?_⟩⟩
    · rw [he]
      exact .refl d
    · rw [helem k j hk hj, tlbElem_eq, hi]
  case tld =>
    intro s core d w a ha hl hok
    obtain ⟨e, hdo, he, hrows, hcols, helem⟩ := tldDo_at ha hok
    refine ⟨e, next_launch hl hdo ?_, he, hrows, hcols, helem⟩
    rw [he]
    exact .refl d
  case tswp =>
    intro s core d w hl
    exact next_launch (e := { blank d with active := d.shadow, shadow := d.active }) hl rfl (.refl d)
  case mrow =>
    intro s core d w b src stride m ra fmt mt chain hl hblk hsrc hstride hm hra hfmt hchain hmt hz1 hz2 hz3 hr1 hr2 hr3 hr4 hr5
      hread hmeta
    obtain ⟨honly, hrows⟩ := mrow_rows (blank d) chain ra m
      fun i => rowOps (getCore s core).ls d fmt (src + i * stride) (mt + 8 * i)
    refine ⟨_, next_launch hl (mrowDo_at hblk hsrc hstride hm hra hfmt hchain hmt ⟨hz1, hz2, hz3⟩ ⟨hr1, hr2, hr3, hr4, hr5⟩
      hread hmeta) honly.sameIssue, honly.of_blank, fun i j hi hj => ?_, fun r j hr hj => ?_⟩
    · rw [hrows _ _ hj, Nat.add_sub_cancel_left, accGet_blank]
      by_cases hcol : j < d.active.cols
      · rw [if_pos ⟨by omega, by omega, hcol⟩, if_neg (by omega)]
        rfl
      · rw [if_neg (fun ⟨_, _, h⟩ => hcol h), if_pos (by omega)]
    · rw [hrows _ _ hj, if_neg (by omega), accGet_blank]

end Sys2Proof.Ob
end

section
/-! The element-wise operations of the vector engine (R137, R147, R148, R181, R241, R242). -/

namespace Sys2Proof.Machine

open Sys2Proof Sys2Proof.Ob

theorem SameIssue.vWrite {d e : Disp} (h : SameIssue e d) (dst code : Nat) (l : List (Nat × Fl)) :
    SameIssue (vWrite e dst code l) d := by
  unfold Machine.vWrite
  split <;> exact h

theorem vRanges_blank (d : Disp) (v : VBlk) (n m : Nat) : vRanges (blank d) v n m = vRanges d v n m := rfl
theorem vEl_blank (ls : Tab Byte) (d : Disp) (code a : Nat) (bc : Bool) (i : Nat) :
    vEl ls (blank d) code a bc i = vEl ls d code a bc i := rfl
theorem srBits_blank (d : Disp) (sr : Bool) (key site step idx : Nat) :
    srBits (blank d) sr key site step idx = srBits d sr key site step idx := rfl

theorem getElem?_map_range {α : Type} (f : Nat → α) {n i : Nat} (h : i < n) : ((List.range n).map f)[i]? = some (f i) := by
  rw [List.getElem?_map, List.getElem?_range h]
  rfl

/-! ### The vector operations with a block in order -/

theorem two_le_vopSrcs {opc : Nat} (h : opc ≤ 10) : 2 ≤ vopSrcs opc ↔ opc ≤ 6 := by
  unfold vopSrcs
  split
  · omega
  · split <;> omega

theorem three_le_vopSrcs (opc : Nat) : 3 ≤ vopSrcs opc ↔ opc = 3 := by
  unfold vopSrcs
  split
  · omega
  · split <;> omega

theorem vopDo_at {ls : Tab Byte} {d : Disp} {w : Nat} {blk : Bytes} {v : VBlk} (hblk : blockAt ls d w 64 = some blk)
    (hv : v = vblk blk) (hrsv : vblkRsv blk = true) (hopc : v.opc ≤ 10) (hin : v.inF ≤ 5) (hout : v.outF ≤ 5)
    (hsr : v.sr = false) (hmix : v.mixer = false) (halpha : v.alpha = 0)
    (hran : vRanges d v (vopSrcs v.opc) (v.count * fmtBytes v.outF) = true) :
    vopDo ls (blank d) w = some (vWrite (blank d) v.dst v.outF ((List.range v.count).map fun i =>
      vopEl v.opc v.inF v.outF (vEl ls d v.inF v.a false i) (if v.opc ≤ 6 then vEl ls d v.inF v.b v.bb i else 0)
        (if v.opc = 3 then vEl ls d v.inF v.c v.cb i else 0))) := by
  simp only [vopDo, blockAt_blank, hblk, ← hv, hrsv, hopc, hin, hout, hsr, hmix, halpha, vRanges_blank, hran, vEl_blank,
    two_le_vopSrcs hopc, three_le_vopSrcs, decide_true, Bool.not_false, beq_self_eq_true, Bool.and_self, if_true]

theorem vfnDo_at {ls : Tab Byte} {d : Disp} {w : Nat} {blk : Bytes} {v : VBlk} (hblk : blockAt ls d w 64 = some blk)
    (hv : v = vblk blk) (hrsv : vblkRsv blk = true) (hopc : v.opc ≤ 13) (hin : v.inF ≤ 5) (hout : v.outF ≤ 5)
    (hsr : v.sr = false) (hmix : v.mixer = false) (halpha : v.opc = 2 ∨ v.alpha = 0)
    (hran : vRanges d v 1 (v.count * fmtBytes v.outF) = true) :
    vfnDo ls (blank d) w = some (vWrite (blank d) v.dst v.outF ((List.range v.count).map fun i =>
      let r := elemEval v.opc v.alpha (to32 (widen v.inF (vEl ls d v.inF v.a false i)))
      let o := convFp v.outF (dec32 r.1) none
      (o.1, r.2 ||| o.2))) := by
  have halpha' : (v.opc == 2 || v.alpha == 0) = true := by simpa only [Bool.or_eq_true, beq_iff_eq] using halpha
  simp only [vfnDo, blockAt_blank, hblk, ← hv, hrsv, hopc, hin, hout, hsr, hmix, halpha', vRanges_blank, hran, vEl_blank,
    decide_true, Bool.not_false, Bool.and_self, if_true]

theorem vcvtDo_at {ls : Tab Byte} {d : Disp} {w : Nat} {blk : Bytes} {v : VBlk} (hblk : blockAt ls d w 64 = some blk)
    (hv : v = vblk blk) (hrsv : vblkRsv blk = true) (hopc : v.opc = 0) (hin : cvtFmt v.inF = true) (hout : cvtFmt v.outF = true)
    (hsr : v.sr = false ∨ (srOk v.outF = true ∧ idxOk v.rindex v.count = true)) (hmix : v.mixer = false) (halpha : v.alpha = 0)
    (hran : vRanges d v 1 (v.count * fmtBytes v.outF) = true) :
    vcvtDo ls (blank d) w = some (vWrite (blank d) v.dst v.outF ((List.range v.count).map fun i =>
      convOut v.outF (widen v.inF (vEl ls d v.inF v.a false i)) (srBits d v.sr v.key v.rsite v.rstep (v.rindex + i)))) := by
  have hsr' : (!v.sr || (srOk v.outF && idxOk v.rindex v.count)) = true := by
    simpa only [Bool.or_eq_true, Bool.not_eq_true', Bool.and_eq_true] using hsr
  simp only [vcvtDo, blockAt_blank, hblk, ← hv, hrsv, hopc, hin, hout, hsr', hmix, halpha, vRanges_blank, hran, vEl_blank,
    srBits_blank, Bool.not_false, beq_self_eq_true, Bool.and_self, if_true]

/-- VRND from a key slot: the counter-mode words of its indices. -/
theorem vrndDo_key_at {ls : Tab Byte} {d : Disp} {w : Nat} {blk : Bytes} {v : VBlk} (hblk : blockAt ls d w 64 = some blk)
    (hv : v = vblk blk) (hrsv : vblkRsv blk = true) (hopc : v.opc ≤ 1) (hin : v.inF = 0)
    (hout : v.outF = if v.opc = 0 then 10 else 0) (hsr : v.sr = false) (halpha : v.alpha = 0) (hmix : v.mixer = false)
    (hidx : idxOk v.rindex v.count = true) (hran : vRanges d v 0 (v.count * 4) = true) :
    vrndDo ls (blank d) w = some (vWrite (blank d) v.dst 0
      (((List.range v.count).map fun i => keyWord d v.key 0 v.rsite v.rstep (v.rindex + i)).map
        fun x => (if v.opc = 0 then x.toNat else (uniform x).toNat, 0))) := by
  have hout' : (v.outF == if v.opc = 0 then 10 else 0) = true := beq_iff_eq.2 hout
  simp only [vrndDo, blockAt_blank, hblk, ← hv, hrsv, hopc, hin, hout', hsr, hmix, halpha, hidx, vRanges_blank, hran, decide_true,
    Bool.not_false, Bool.false_eq_true, Bool.false_or, beq_self_eq_true, Bool.and_self, if_true, if_false] <;> rfl

/-- VRND from the lane mixers, which step on. -/
theorem vrndDo_mixer_at {ls : Tab Byte} {d : Disp} {w : Nat} {blk : Bytes} {v : VBlk} (hblk : blockAt ls d w 64 = some blk)
    (hv : v = vblk blk) (hrsv : vblkRsv blk = true) (hopc : v.opc ≤ 1) (hin : v.inF = 0)
    (hout : v.outF = if v.opc = 0 then 10 else 0) (hsr : v.sr = false) (halpha : v.alpha = 0) (hmix : v.mixer = true)
    (hran : vRanges d v 0 (v.count * 4) = true) :
    vrndDo ls (blank d) w = some (vWrite { blank d with mixers := (mixFill v.count 0 d.mixers).2 } v.dst 0
      ((mixFill v.count 0 d.mixers).1.map fun x => (if v.opc = 0 then x.toNat else (uniform x).toNat, 0))) := by
  have hout' : (v.outF == if v.opc = 0 then 10 else 0) = true := beq_iff_eq.2 hout
  simp only [vrndDo, blockAt_blank, hblk, ← hv, hrsv, hopc, hin, hout', hsr, hmix, halpha, vRanges_blank, hran, decide_true,
    Bool.not_false, Bool.true_or, beq_self_eq_true, Bool.and_self, if_true] <;> rfl

/-! ### The lane mixers -/

theorem length_mixFill (n i : Nat) (t : Tab (BitVec 128)) : (mixFill n i t).1.length = n := by
  induction n generalizing i t with
  | zero => rfl
  | succ n ih => simp only [mixFill, List.length_cons, ih]

/-- As long as no lane comes twice, each element takes the next word of its own lane. -/
theorem getElem?_mixFill {n j : Nat} (i : Nat) (t : Tab (BitVec 128)) (hj : j < n) (hlane : i + j < 64) :
    (mixFill n i t).1[j]? = some (mixerWord (mixerNext (tget 0 t (i + j)))) := by
  induction n generalizing i j t with
  | zero => omega
  | succ n ih =>
    cases j with
    | zero => simp only [mixFill, Nat.add_zero, List.getElem?_cons_zero, Nat.mod_eq_of_lt (show i < 64 by omega)]
    | succ j =>
      simp only [mixFill, List.getElem?_cons_succ]
      rw [ih (i + 1) _ (by omega) (by omega), tget_tput_ne _ _ _ _ _ (by omega), show i + 1 + j = i + (j + 1) by omega]

end Sys2Proof.Machine

namespace Sys2Proof.Ob

open Sys2Proof Sys2Proof.Machine

/-- Settles O17: each operation's checks pass, so that it writes the list of its elements; the mixers' words by
`getElem?_mixFill`. That an operation takes its effect as it is issued is the model's choice (log 4). -/
theorem vectorElementwise : Obligations.VectorElementwise := by
  unfold Obligations.VectorElementwise
  rintro s core d w blk v _ rfl hblk hv hrsv
  refine ⟨?vop, ?vfn, ?vcvt, ?vrndKey, ?vrndMixer⟩
  case vop =>
    intro hl hopc hin hout hsr hmix halpha hran
    exact ⟨_, by simp, fun i hi => getElem?_map_range _ hi,
      next_launch hl (vopDo_at hblk hv hrsv hopc hin hout hsr hmix halpha hran) ((SameIssue.blank d).vWrite _ _ _)⟩
  case vfn =>
    intro hl hopc hin hout hsr hmix halpha hran
    refine ⟨_, by simp, fun i hi => ?_,
      next_launch hl (vfnDo_at hblk hv hrsv hopc hin hout hsr hmix halpha hran) ((SameIssue.blank d).vWrite _ _ _)⟩
    rw [getElem?_map_range _ hi]
    rfl
  case vcvt =>
    intro hl hopc hin hout hsr hmix halpha hran
    exact ⟨_, by simp, fun i hi => getElem?_map_range _ hi,
      next_launch hl (vcvtDo_at hblk hv hrsv hopc hin hout hsr hmix halpha hran) ((SameIssue.blank d).vWrite _ _ _)⟩
  case vrndKey =>
    intro hl hopc hin hout hsr halpha hmix hidx hran
    refine ⟨_, by simp, fun i x hi hx => ?_,
      next_launch hl (vrndDo_key_at hblk hv hrsv hopc hin hout hsr halpha hmix hidx hran) ((SameIssue.blank d).vWrite _ _ _)⟩
    rw [List.getElem?_map, getElem?_map_range _ hi, hx]
    rfl
  case vrndMixer =>
    intro hl hopc hin hout hsr halpha hmix hran
    refine ⟨_, _, by simp [length_mixFill], fun i x hi hlane hx => ?_,
      next_launch hl (vrndDo_mixer_at hblk hv hrsv hopc hin hout hsr halpha hmix hran)
        (SameIssue.vWrite (e := { blank d with mixers := _ }) ⟨rfl, rfl, rfl, rfl⟩ _ _ _)⟩
    rw [List.getElem?_map, getElem?_mixFill 0 d.mixers hi (by omega), hx, Nat.zero_add]
    rfl

end Sys2Proof.Ob
end

section
/-! The functions with exact results and the reductions of the vector engine (R98, R99, R147, R148, R181). -/

namespace Sys2Proof.Machine

open Sys2Proof Sys2Proof.Ob

/-! ### Signs within one format -/

/-- The sign bit of a format of element code 0 to 4 is the top bit of its bytes. -/
theorem signBit_fmtOf {f : Nat} (h : f ≤ 4) : (fmtOf f).eb + (fmtOf f).fb + 1 = 8 * fmtBytes f := by
  interval_cases f <;> decide

/-- COPY, ABS and NEG within one format: on the bits alone. -/
theorem vopEl_signs {f x : Nat} (y z : Nat) (h : f ≤ 4) (hx : x < 2 ^ (8 * fmtBytes f)) :
    vopEl 8 f f x y z = (x, 0) ∧ vopEl 9 f f x y z = (x % 2 ^ (8 * fmtBytes f - 1), 0) ∧
      vopEl 10 f f x y z = ((x + 2 ^ (8 * fmtBytes f - 1)) % 2 ^ (8 * fmtBytes f), 0) := by
  rw [← signBit_fmtOf h, Nat.pow_succ] at hx
  rw [← signBit_fmtOf h, Nat.add_sub_cancel, Nat.pow_succ]
  generalize htop : 2 ^ ((fmtOf f).eb + (fmtOf f).fb) = top at hx
  have hraw : x % (2 * top) = x := Nat.mod_eq_of_lt (by omega)
  refine ⟨?_, ?_, ?_⟩
  · simp [vopEl, htop, hraw]
  · simp [vopEl, htop, hraw]
  · simp only [vopEl, htop, hraw]
    by_cases hneg : top ≤ x
    · have : (x + top) % (top * 2) = x - top := by
        rw [Nat.mod_eq_sub_mod (by omega), Nat.mod_eq_of_lt (by omega)]
        omega
      simp [hneg, this]
    · simp [hneg, Nat.mod_eq_of_lt (show x + top < top * 2 by omega)]

/-! ### Element-wise functions -/

@[simp] theorem isNan32_posInf : isNan32 posInf = false := by decide
@[simp] theorem isNan32_negInf : isNan32 negInf = false := by decide
@[simp] theorem isNan32_nan32 : isNan32 nan32 = true := by decide

theorem elemEval_nan (fn : Nat) (al : W32) {x : W32} (h : isNan32 x = true) : elemEval fn al x = (nan32, 0) := by
  rw [elemEval, if_pos h]

/-- The results that the table gives at an infinity (sigmoid and tanh). -/
theorem elemEval_infinities (al : W32) :
    elemEval 3 al posInf = (one32, 0) ∧ elemEval 3 al negInf = (0, 0) ∧ elemEval 4 al posInf = (one32, 0) ∧
      elemEval 4 al negInf = (0xBF800000, 0) := by
  have hne : posInf ≠ negInf := by decide
  refine ⟨?_, ?_, ?_, ?_⟩
  · simp [elemEval, hne]
  · simp [elemEval]
  · simp [elemEval, hne]
  · simp [elemEval]
    decide

/-! ### Reductions -/

theorem fltLt_iff (a b : W32) : fltLt a b = true ↔ ordKey (dec32 a) < ordKey (dec32 b) := by simp [fltLt]

theorem fltLt_false_iff (a b : W32) : fltLt a b = false ↔ ordKey (dec32 b) ≤ ordKey (dec32 a) := by simp [fltLt]

theorem argBest_cons {big : Bool} {i : Nat} {x : W32} {t : List W32} (ht : t ≠ []) :
    argBest big i (x :: t) =
      if isNan32 x then (nan32, i)
      else if isNan32 (argBest big (i + 1) t).1 then argBest big (i + 1) t
      else if (if big then fltLt x (argBest big (i + 1) t).1 else fltLt (argBest big (i + 1) t).1 x) then argBest big (i + 1) t
      else (x, i) := by
  cases t with
  | nil => exact absurd rfl ht
  | cons y t => rfl

/-- A NaN among the elements wins (R99). -/
theorem argBest_nan (big : Bool) (l : List W32) (i : Nat) (h : ∃ x ∈ l, isNan32 x = true) : (argBest big i l).1 = nan32 := by
  induction l generalizing i with
  | nil => simp at h
  | cons x t ih =>
    by_cases hx : isNan32 x = true
    · cases t with
      | nil => simp [argBest, hx]
      | cons y t => rw [argBest_cons (List.cons_ne_nil y t), if_pos hx]
    · obtain ⟨y, hy, hn⟩ := h
      rcases List.mem_cons.1 hy with rfl | hy
      · exact absurd hn hx
      · have hr := ih (i + 1) ⟨y, hy, hn⟩
        rw [argBest_cons (List.ne_nil_of_mem hy), if_neg hx, if_pos (by rw [hr]; exact isNan32_nan32), hr]

/-- Among numbers the largest is chosen, at its lowest index: no element exceeds it, and every earlier one is smaller. -/
theorem argBest_max {l : List W32} {v : W32} {n : Nat} (i : Nat) (hl : l ≠ []) (hnum : ∀ x ∈ l, isNan32 x = false)
    (h : argBest true i l = (v, n)) : ∃ k, n = i + k ∧ l[k]? = some v ∧ (∀ x ∈ l, fltLt v x = false) ∧
      ∀ j x, j < k → l[j]? = some x → fltLt x v = true := by
  induction l generalizing i v n with
  | nil => exact absurd rfl hl
  | cons x t ih =>
    have hx : isNan32 x = false := hnum x (by simp)
    by_cases ht : t = []
    · subst ht
      simp only [argBest, hx, Bool.false_eq_true, if_false, Prod.mk.injEq] at h
      obtain ⟨rfl, rfl⟩ := h
      exact ⟨0, rfl, rfl, by simp [fltLt], fun j y hj _ => absurd hj (Nat.not_lt_zero j)⟩
    · generalize hr : argBest true (i + 1) t = r at *
      obtain ⟨u, m⟩ := r
      obtain ⟨k, hm, hat, hmax, hfirst⟩ := ih (i + 1) ht (fun y hy => hnum y (by simp [hy])) hr
      have hu : isNan32 u = false := hnum u (List.mem_cons_of_mem _ (List.mem_of_getElem? hat))
      rw [argBest_cons ht, hr] at h
      simp only [hx, hu, Bool.false_eq_true, if_false, if_true] at h
      split at h
      · next hlt =>
        -- the first element is smaller: the best of the others
        cases h
        refine ⟨k + 1, by omega, by simpa using hat, fun y hy => ?_, fun j y hj hy => ?_⟩
        · rcases List.mem_cons.1 hy with rfl | hy
          · rw [fltLt_iff] at hlt
            rw [fltLt_false_iff]
            omega
          · exact hmax y hy
        · cases j with
          | zero =>
            simp only [List.getElem?_cons_zero, Option.some.injEq] at hy
            exact hy ▸ hlt
          | succ j => exact hfirst j y (by omega) (by simpa using hy)
      · next hge =>
        -- no other exceeds the first element
        cases h
        refine ⟨0, rfl, rfl, fun y hy => ?_, fun j y hj _ => absurd hj (Nat.not_lt_zero j)⟩
        rw [Bool.not_eq_true, fltLt_false_iff] at hge
        rcases List.mem_cons.1 hy with rfl | hy
        · simp [fltLt]
        · have hy' := (fltLt_false_iff _ _).1 (hmax y hy)
          rw [fltLt_false_iff]
          omega

theorem pairwise_one (x : W32) : pairwise 1 [x] = (x, 0) := rfl

theorem pairwise_two (x y : W32) : pairwise 2 [x, y] = fadd x y := by
  rw [pairwise]
  · simp [show Nat.log2 1 = 0 by decide, show List.take 1 [x, y] = [x] from rfl, pairwise_one]
  · simp
  · simp

/-! ### VRED with a block in order -/

theorem vredDo_at {ls : Tab Byte} {d : Disp} {w : Nat} {blk : Bytes} {v : VBlk} (hblk : blockAt ls d w 64 = some blk)
    (hv : v = vblk blk) (hrsv : vblkRsv blk = true) (hopc : v.opc ≤ 6) (hin : v.inF ≤ 5) (hout : v.outF = 0)
    (hsr : v.sr = false) (hmix : v.mixer = false) (halpha : v.alpha = 0)
    (hran : vRanges d v 1 (if v.count = 0 then 0 else if v.opc = 4 ∨ v.opc = 5 then 8 else 4) = true) :
    vredDo ls (blank d) w =
      if v.count = 0 then some (blank d)
      else
        let l := (List.range v.count).map fun i => to32 (widen v.inF (vEl ls d v.inF v.a false i))
        let best := argBest (v.opc == 2 || v.opc == 4 || v.opc == 6) 0 (if v.opc = 6 then l.map absW else l)
        if v.opc = 0 then
          some (vWrite (blank d) v.dst 0
            [((if isNan32 (pairwise l.length l).1 then nan32 else (pairwise l.length l).1).toNat, (pairwise l.length l).2)])
        else if v.opc = 1 then
          let sq := l.map fun x => fmul x x
          let r := pairwise l.length (sq.map Prod.fst)
          some (vWrite (blank d) v.dst 0 [(r.1.toNat, sq.foldl (fun f x => f ||| x.2) r.2)])
        else if v.opc = 4 ∨ v.opc = 5 then
          some (vWrite (blank d) v.dst 0 [(best.1.toNat, 0),
            (if v.rindex + best.2 < 2 ^ 32 then v.rindex + best.2 else (Config.freeW32 d.scrTag).toNat, 0)])
        else some (vWrite (blank d) v.dst 0 [(best.1.toNat, 0)]) := by
  simp only [vredDo, blockAt_blank, hblk, ← hv, hrsv, hopc, hin, hout, hsr, hmix, halpha, vRanges_blank, vEl_blank,
    Bool.or_eq_true, beq_iff_eq, hran, decide_true, Bool.not_false, beq_self_eq_true, Bool.and_self, if_true] <;> rfl

end Sys2Proof.Machine

namespace Sys2Proof.Ob

open Sys2Proof Sys2Proof.Machine

/-- Settles O18: the windows by `winRead_winWrite_same`, the exact rules branch by branch, VRED by `vredDo_at` and `argBest_max`.
That VRED takes its effect as it is issued, and that an index of ARGMAX beyond 32 bits is free, are the model's choices (log entries 4
and 85). -/
theorem vectorFunctionsAndReductions : Obligations.VectorFunctionsAndReductions := by
  unfold Obligations.VectorFunctionsAndReductions
  refine ⟨⟨fun ls d a b hw => ⟨winRead_winWrite_same ls rfl hw, fun x hx hout => winByte_winWrite_outside ls d b hx hout⟩,
    fun f x y z hf hx => vopEl_signs y z hf hx, ?functions, fun fn al x hx => elemEval_nan fn al hx⟩,
    ?vred, ?largest, fun l b h => argBest_nan b l 0 h, fun x y => ⟨pairwise_one x, pairwise_two x y⟩⟩
  case functions =>
    intro al x hx
    obtain ⟨hsig, hsig', htanh, htanh'⟩ := elemEval_infinities al
    refine ⟨?_, ?_, hsig, hsig', htanh, htanh', fun hbig => ?_, fun hz => ⟨?_, ?_⟩, fun hz hneg => ?_⟩
    · simp [elemEval, hx]
    · simp [elemEval, hx]
    · simp [elemEval, hx, show fltLt 0x42B17218#32 x = true from hbig]
    · simp [elemEval, hx, hz]
    · simp [elemEval, hx, hz]
    · simp [elemEval, hx, hz, hneg]
  case vred =>
    rintro s core d w blk v l hl hblk hv hrsv hopc hin hout hsr hmix halpha hran rfl
    have hdo := vredDo_at hblk hv hrsv hopc hin hout hsr hmix halpha hran
    refine ⟨fun h0 => next_launch hl (hdo.trans (if_pos h0)) (.blank d), fun big m hbig hm => ⟨fun h0 hop => ?_, fun h0 hop => ?_⟩,
      fun h0 hop => ?_, fun h0 hop => ?_⟩
    · subst hbig hm
      refine next_launch hl (hdo.trans ?_) ((SameIssue.blank d).vWrite _ _ _)
      simp only [if_neg h0, if_neg (show ¬ v.opc = 0 by omega), if_neg (show ¬ v.opc = 1 by omega),
        if_neg (show ¬ (v.opc = 4 ∨ v.opc = 5) by omega)]
    · subst hbig hm
      simp only [if_neg h0, if_neg (show ¬ v.opc = 0 by omega), if_neg (show ¬ v.opc = 1 by omega), if_pos hop] at hdo
      exact ⟨_, fun hlt => if_pos hlt, next_launch hl hdo ((SameIssue.blank d).vWrite _ _ _)⟩
    · simp only [if_neg h0, if_pos hop] at hdo
      exact ⟨_, next_launch hl hdo ((SameIssue.blank d).vWrite _ _ _)⟩
    · simp only [if_neg h0, if_neg (show ¬ v.opc = 0 by omega), if_pos hop] at hdo
      rw [List.map_map] at hdo
      exact ⟨_, next_launch hl hdo ((SameIssue.blank d).vWrite _ _ _)⟩
  case largest =>
    intro l v i hl hnum h
    obtain ⟨k, hk, hat, hmax, hfirst⟩ := argBest_max 0 hl hnum h
    rw [Nat.zero_add] at hk
    subst hk
    exact ⟨hat, hmax, hfirst⟩

end Sys2Proof.Ob
end

section
/-! The gate pipeline and the sampling unit (R137, R152, R184, R185, R246, R247). -/

namespace Sys2Proof.Machine

open Sys2Proof Sys2Proof.Ob

/-! ### What changes only the scratch window and the flags -/

/-- `e` is `d` but for the scratch window and the flags. -/
def ScrOnly (d e : Disp) : Prop := e = { d with scr := e.scr, flags := e.flags }

theorem ScrOnly.refl (d : Disp) : ScrOnly d d := rfl

theorem ScrOnly.trans {d e f : Disp} (h : ScrOnly d e) (h' : ScrOnly e f) : ScrOnly d f := by
  unfold ScrOnly at *
  rw [h']
  rw [h]

theorem ScrOnly.winWrite (d : Disp) (a : Nat) (b : Bytes) : ScrOnly d (winWrite d a b) := rfl
theorem ScrOnly.orFlags (d : Disp) (f : Fl) : ScrOnly d (orFlags d f) := rfl

theorem ScrOnly.vWrite (d : Disp) (dst code : Nat) (l : List (Nat × Fl)) : ScrOnly d (vWrite d dst code l) := by
  unfold Machine.vWrite
  split
  · exact .orFlags _ _
  · exact (ScrOnly.winWrite _ _ _).trans (.orFlags _ _)

theorem ScrOnly.foldl {α : Type} {f : Disp → α → Disp} (h : ∀ d x, ScrOnly d (f d x)) (l : List α) (d : Disp) :
    ScrOnly d (l.foldl f d) := by
  induction l generalizing d with
  | nil => exact .refl d
  | cons x l ih => exact (h d x).trans (ih (f d x))

theorem ScrOnly.sameIssue {d e : Disp} (h : ScrOnly (blank d) e) : SameIssue e d := by
  rw [h]
  exact ⟨rfl, rfl, rfl, rfl⟩

theorem ScrOnly.of_blank {d e : Disp} (h : ScrOnly (blank d) e) : ScrOnly d e := by
  unfold ScrOnly at *
  rw [h]
  rfl

/-! ### Carries -/

theorem carryOk_blank (ls : Tab Byte) (d : Disp) (sites : List Site) (b : Bytes) (x : CBlk) :
    carryOk ls (blank d) sites b x = (carryFields sites b x && carryRanges ls d x) := rfl

theorem scrOnly_tplBatch (ls : Tab Byte) (sites : List Site) (x : CBlk) (t : Tpl) (d : Disp) (b : Nat) :
    ScrOnly d (tplBatch ls sites x t d b).1 := by
  unfold tplBatch
  dsimp only
  split
  · exact ((ScrOnly.winWrite _ _ _).trans (.winWrite _ _ _)).trans (.orFlags _ _)
  · exact (ScrOnly.winWrite _ _ _).trans (.orFlags _ _)

/-- The batch rows of a template, one after another, write their state rows and nothing else. -/
theorem scrOnly_tplBatches (ls : Tab Byte) (sites : List Site) (x : CBlk) (t : Tpl) (l : List Nat)
    (acc : Disp × List (List W32)) : ScrOnly acc.1 (l.foldl (fun acc b =>
      ((tplBatch ls sites x t acc.1 b).1, acc.2 ++ (tplBatch ls sites x t acc.1 b).2)) acc).1 := by
  induction l generalizing acc with
  | nil => exact .refl _
  | cons b l ih => exact (scrOnly_tplBatch ls sites x t acc.1 b).trans (ih _)

theorem scrOnly_carryRows (ls : Tab Byte) (d : Disp) (sites : List Site) (x : CBlk) : ScrOnly d (carryRows ls d sites x).1 := by
  unfold carryRows
  split
  · exact scrOnly_tplBatches ls sites x _ _ _
  · exact .orFlags _ _

theorem scrOnly_carryCode (ls : Tab Byte) (site : Site) (x : CBlk) (d : Disp) (i : Nat) (xs : List W32) (h : List HistEnt) :
    ScrOnly d (carryCode ls site x d i xs h) := by
  unfold carryCode
  dsimp only
  split
  · exact ((((ScrOnly.winWrite _ _ _).trans (.winWrite _ _ _)).trans (.winWrite _ _ _)).trans (.winWrite _ _ _)).trans
      (.orFlags _ _)
  · exact (((((ScrOnly.winWrite _ _ _).trans (.winWrite _ _ _)).trans (.winWrite _ _ _)).trans (.winWrite _ _ _)).trans
      (.winWrite _ _ _)).trans (.orFlags _ _)

/-- One output row, coded or converted. -/
def carryRow (sites : List Site) (ls : Tab Byte) (x : CBlk) (hists : List (Option (List HistEnt))) (t : Disp)
    (p : Nat × List W32) : Disp :=
  if coding x then
    match sites[x.site]?, hists[p.1]? with
    | some st, some (some h) => carryCode ls st x t p.1 p.2 h
    | _, _ => t
  else carryConv x t p.1 p.2

theorem scrOnly_carryRow (sites : List Site) (ls : Tab Byte) (x : CBlk) (hists : List (Option (List HistEnt))) (t : Disp)
    (p : Nat × List W32) : ScrOnly t (carryRow sites ls x hists t p) := by
  unfold carryRow
  split
  · split
    · exact scrOnly_carryCode _ _ _ _ _ _ _
    · exact .refl t
  · exact .vWrite _ _ _ _

/-- A whole pass: states first, then the output rows. -/
theorem scrOnly_carryPass (ls : Tab Byte) (d : Disp) (sites : List Site) (x : CBlk) (hists : List (Option (List HistEnt)))
    (l : List (Nat × List W32)) : ScrOnly d (l.foldl (carryRow sites ls x hists) (carryRows ls d sites x).1) :=
  (scrOnly_carryRows ls d sites x).trans (.foldl (scrOnly_carryRow sites ls x hists) l _)

/-- CARRY with a block in order: nothing for no element, else the rows one after another. -/
theorem carryDo_at {sites : List Site} {ls : Tab Byte} {d : Disp} {w : Nat} {b : Bytes} {x : CBlk}
    (hblk : blockAt ls d w 128 = some b) (hx : x = cblk b) (hfields : carryFields sites b x = true)
    (hran : carryRanges ls d x = true) :
    carryDo sites ls (blank d) w =
      if carryEmpty x then some (blank d)
      else if coding x && ((List.range x.rows).map fun i => histAt ls d (x.hist + 128 * i)).any Option.isNone then none
      else some (((List.range x.rows).zip (carryRows ls (blank d) sites x).2).foldl
        (carryRow sites ls x ((List.range x.rows).map fun i => histAt ls d (x.hist + 128 * i)))
        (carryRows ls (blank d) sites x).1) := by
  simp only [carryDo, blockAt_blank, hblk, ← hx, carryOk_blank, hfields, hran, Bool.and_self, Bool.not_true, Bool.false_eq_true,
    if_false] <;> rfl

theorem carryDo_fails {sites : List Site} {ls : Tab Byte} {d : Disp} {w : Nat} {b : Bytes}
    (hblk : blockAt ls d w 128 = some b) (hfields : carryFields sites b (cblk b) = false) : carryDo sites ls (blank d) w = none := by
  simp only [carryDo, blockAt_blank, hblk, carryOk_blank, hfields, Bool.false_and, Bool.not_false, if_true]

/-- The element of a row without a template: the function of its gate value. -/
def carryElem (ls : Tab Byte) (d : Disp) (x : CBlk) (j : Nat) : W32 × Fl :=
  let y := gateVal ls d x one32 0 0 j
  let r := elemEval x.func x.alpha y.1
  (r.1, y.2 ||| r.2)

/-- The one row of a carry without a template and without row scales. -/
theorem carryRows_single {ls : Tab Byte} {d : Disp} {sites : List Site} {x : CBlk} (htpl : isTpl x.func = false)
    (hscale : x.rowScale = false) (hrows : x.rows = 1) : ∃ f, carryRows ls (blank d) sites x =
      (orFlags (blank d) f, [(List.range x.ch).map fun j => (carryElem ls d x j).1]) := by
  simp only [carryRows, htpl, hrows, Bool.false_eq_true, if_false, sRow, hscale, List.range_one, List.map_cons, List.map_nil,
    List.map_map]
  exact ⟨_, rfl⟩

/-- A carried row that is neither coded nor rounded stochastically, as a list of elements written. -/
theorem carryConv_zero {x : CBlk} (hsr : x.sr = false) (d : Disp) (g : Nat → W32) :
    carryConv x d 0 ((List.range x.ch).map g) =
      vWrite d x.out x.outF ((List.range x.ch).map fun j => convOut x.outF (dec32 (g j)) none) := by
  have hzip : (List.range x.ch).zip ((List.range x.ch).map g) = (List.range x.ch).map fun j => (j, g j) := by
    apply List.ext_getElem
    · simp
    · intro i h1 h2
      simp
  simp only [carryConv, hzip, List.map_map, srBits, hsr, Bool.false_eq_true, if_false, Nat.zero_mul, Nat.add_zero]
  rfl

/-! ### Sampling -/

theorem sampleOk_blank (d : Disp) (b : Bytes) (x : SBlk) : sampleOk (blank d) b x = sampleOk d b x := rfl

theorem sampleDo_empty {ls : Tab Byte} {d : Disp} {w : Nat} {b : Bytes} {x : SBlk} (hblk : blockAt ls d w 64 = some b)
    (hx : x = sblk b) (hok : sampleOk d b x = true) (hv : x.v = 0) : sampleDo ls (blank d) w = some (blank d) := by
  simp only [sampleDo, blockAt_blank, hblk, ← hx, sampleOk_blank, hok, Bool.not_true, Bool.false_eq_true, if_false, hv, if_true]

/-- SAMPLE of at least one entry writes 12 bytes. -/
theorem sampleDo_at {ls : Tab Byte} {d : Disp} {w : Nat} {b : Bytes} {x : SBlk} (hblk : blockAt ls d w 64 = some b)
    (hx : x = sblk b) (hok : sampleOk d b x = true) (hv : x.v ≠ 0) :
    sampleDo ls (blank d) w =
      let raw := (List.range x.v).map (sampleScaled ls (blank d) x)
      let r := drawOf (blank d) x (topkKeep x.topk (raw.map fun (y : Bool × W32 × Fl) => (y.1, y.2.1)))
      let idx := match r.1 with | some c => x.rindex + c | none => 0xFFFFFFFF
      some (orFlags (winWrite (blank d) x.dst (leN 4 idx ++ leN 4 r.2.1.toNat ++ leN 4 r.2.2.1.toNat))
        (raw.foldl (fun f y => f ||| y.2.2) r.2.2.2)) := by
  simp only [sampleDo, blockAt_blank, hblk, ← hx, sampleOk_blank, hok, Bool.not_true, Bool.false_eq_true, if_false, hv] <;> rfl

theorem isNan32_of_isFin32 {v : W32} (h : isFin32 v = true) : isNan32 v = false := by
  unfold isFin32 at h
  unfold isNan32
  cases hd : dec32 v <;> simp_all [Fp.isFin, Fp.isNan]

theorem ne_posInf_of_isFin32 {v : W32} (h : isFin32 v = true) : v ≠ posInf := by
  rintro rfl
  exact absurd h (by decide)

theorem ne_negInf_of_isFin32 {v : W32} (h : isFin32 v = true) : v ≠ negInf := by
  rintro rfl
  exact absurd h (by decide)

/-- A finite score without a mask and at greedy temperature is kept as it is. -/
theorem sampleScaled_greedy {ls : Tab Byte} {d : Disp} {x : SBlk} {k : Nat} (hfin : isFin32 (winW32 ls d (x.scores + 4 * k)) = true)
    (htemp : x.temp = 0) (hmask : x.maskEn = false) : sampleScaled ls d x k = (true, winW32 ls d (x.scores + 4 * k), 0) := by
  simp [sampleScaled, isNan32_of_isFin32 hfin, htemp, hmask]

/-- The greedy draw over finite kept scores takes the best of them, with LOGP +0. -/
theorem drawOf_greedy {d : Disp} {x : SBlk} {l : List W32} (htemp : x.temp = 0) (hl : l ≠ []) (hfin : ∀ y ∈ l, isFin32 y = true) :
    drawOf d x (l.map fun y => (true, y)) = (some (argBest true 0 l).2, 0, (argBest true 0 l).1, 0) := by
  have hsome : ((l.map fun y => (true, y)).all fun y => !y.1 || y.2 == negInf) = false := by
    obtain ⟨y, t, rfl⟩ := List.exists_cons_of_ne_nil hl
    simp [ne_negInf_of_isFin32 (hfin y (by simp))]
  have hzip : ((List.range (l.map fun y => (true, y)).length).zip (l.map fun y => (true, y))).map
      (fun (y : Nat × Bool × W32) => sampleZ d x y.1 y.2) = l.map fun y => (y, 0) := by
    apply List.ext_getElem
    · simp
    · intro i h1 h2
      simp [sampleZ, htemp]
  have hinfs : (((List.range (l.map fun y => (true, y)).length).zip (l.map fun y => (true, y))).filter
      fun (y : Nat × Bool × W32) => y.2.1 && y.2.2 == posInf) = [] := by
    rw [List.filter_eq_nil_iff]
    rintro ⟨i, k, y⟩ hy
    obtain ⟨z, hz, he⟩ := List.mem_map.1 (List.of_mem_zip hy).2
    cases he
    simp [ne_posInf_of_isFin32 (hfin _ hz)]
  have hflags : ∀ m : List W32, (m.map fun y => (y, (0 : Fl))).foldl (fun g y => g ||| y.2) (0 : Fl) = 0 := by
    intro m
    induction m with
    | nil => rfl
    | cons y m ih => simpa using ih
  simp only [drawOf, hsome, Bool.false_eq_true, if_false, hinfs, hzip, hflags, htemp, if_true, List.map_map]
  rw [show (Prod.fst ∘ fun y : W32 => (y, (0 : Fl))) = id from rfl, List.map_id]

end Sys2Proof.Machine

namespace Sys2Proof.Ob

open Sys2Proof Sys2Proof.Machine

/-- SAMPLE of greedy temperature over finite scores. -/
theorem sampleDo_greedy {ls : Tab Byte} {d : Disp} {w : Nat} {b : Bytes} {x : SBlk} {l : List W32} {v : W32} {i : Nat}
    (hblk : blockAt ls d w 64 = some b) (hx : x = sblk b) (hok : sampleOk d b x = true)
    (hl : l = (List.range x.v).map (fun k => winW32 ls d (x.scores + 4 * k))) (hne : l ≠ []) (hfin : ∀ y ∈ l, isFin32 y = true)
    (htemp : x.temp = 0) (hmask : x.maskEn = false) (htopk : x.topk = 0) (hbest : argBest true 0 l = (v, i)) :
    sampleDo ls (blank d) w = some (winWrite (blank d) x.dst (leN 4 (x.rindex + i) ++ leN 4 0 ++ leN 4 v.toNat)) := by
  have hv : x.v ≠ 0 := by
    intro h0
    exact hne (by rw [hl, h0]; rfl)
  have hraw : (List.range x.v).map (sampleScaled ls (blank d) x) = l.map fun y => (true, y, 0) := by
    rw [hl, List.map_map]
    refine List.map_congr_left fun k hk => ?_
    exact sampleScaled_greedy (d := blank d) (hfin _ (hl ▸ List.mem_map_of_mem hk)) htemp hmask
  have hflags : ∀ m : List W32, (m.map fun y => (true, y, (0 : Fl))).foldl (fun f y => f ||| y.2.2) (0 : Fl) = 0 := by
    intro m
    induction m with
    | nil => rfl
    | cons y m ih => simpa using ih
  have hdraw := drawOf_greedy (d := blank d) htemp hne hfin
  rw [sampleDo_at hblk hx hok hv]
  simp only [hraw, List.map_map, htopk, topkKeep, if_true]
  rw [show ((fun (y : Bool × W32 × Fl) => (y.1, y.2.1)) ∘ fun y => (true, y, 0)) = fun y : W32 => (true, y) from rfl, hdraw, hbest]
  simp only [hflags, Machine.orFlags]
  simp [winWrite]

/-- Settles O20. That CARRY and SAMPLE take their effect as they are issued is the model's choice (log 4), and so is that a
template launch of 0 rows waives the ranges alone (log 40). -/
theorem carryAndSample : Obligations.CarryAndSample := by
  unfold Obligations.CarryAndSample
  refine ⟨?carry, ?carryFails, ?sample⟩
  case carry =>
    rintro s core d w b x _ rfl hl hblk hx hfields
    refine ⟨fun h0 hran => ?_, fun hch hrow hran hcod htpl hsr hscale hone => ?_, fun hch hrow hran hhist => ?_⟩
    · refine next_launch hl ((carryDo_at hblk hx hfields hran).trans (if_pos ?_)) (.blank d)
      simpa [carryEmpty] using h0
    · obtain ⟨f, hrows⟩ := carryRows_single (ls := (getCore s core).ls) (d := d) (sites := sitesOf s core) htpl hscale hone
      have hsome : carryEmpty x = false := by simp [carryEmpty]; omega
      have hdo := carryDo_at hblk hx hfields hran
      simp only [hsome, hcod, Bool.false_and, Bool.false_eq_true, if_false, hrows, hone, List.range_one, List.zip_cons_cons,
        List.zip_nil_right, List.foldl_cons, List.foldl_nil, carryRow, carryConv_zero hsr] at hdo
      refine ⟨_, f, by simp, fun j hj => ?_, next_launch hl hdo ?_⟩
      · rw [getElem?_map_range _ hj]
        rfl
      · exact ((ScrOnly.orFlags _ _).trans (.vWrite _ _ _ _)).sameIssue
    · have hsome : carryEmpty x = false := by simp [carryEmpty]; omega
      have hhists : (coding x && ((List.range x.rows).map fun i =>
          histAt (getCore s core).ls d (x.hist + 128 * i)).any Option.isNone) = false := by
        rw [Bool.and_eq_false_imp]
        intro hc
        simpa [List.any_eq_false, Option.isSome_iff_ne_none] using hhist hc
      have hdo := carryDo_at hblk hx hfields hran
      rw [hsome, hhists] at hdo
      have honly := fun hists l => scrOnly_carryPass (getCore s core).ls (blank d) (sitesOf s core) x hists l
      exact ⟨_, next_launch hl hdo (honly _ _).sameIssue, (honly _ _).of_blank⟩
  case carryFails =>
    intro s core d w b hl hr hblk hfields
    exact next_launch_fails hl (carryDo_fails hblk hfields) hr
  case sample =>
    rintro s core d w b x _ rfl hl hblk hx hok
    refine ⟨fun hv => next_launch hl (sampleDo_empty hblk hx hok hv) (.blank d), ?_,
      fun l v i hlist hne hfin htemp hmask htopk hbest => ?_⟩
    · by_cases hv : x.v = 0
      · exact ⟨_, next_launch hl (sampleDo_empty hblk hx hok hv) (.blank d), rfl⟩
      · have honly := fun b f => (ScrOnly.winWrite (blank d) x.dst b).trans (ScrOnly.orFlags _ f)
        exact ⟨_, next_launch hl (sampleDo_at hblk hx hok hv) (honly _ _).sameIssue, (honly _ _).of_blank⟩
    · exact next_launch hl (sampleDo_greedy hblk hx hok hlist hne hfin htemp hmask htopk hbest)
        (ScrOnly.winWrite (blank d) x.dst _).sameIssue

end Sys2Proof.Ob
end

section
/-! The bead: what a boundary, a fallback and the registers of the bead do (O9). -/

namespace Sys2Proof.Machine

open Sys2Proof Sys2Proof.Ob

/-- A fallback changes no more of the bead than the reference, the flag and the time its samples count from. -/
theorem beadFallback_fields (s : State) : (beadFallback s).bead.count = s.bead.count ∧ (beadFallback s).bead.edge = s.bead.edge ∧
    (beadFallback s).bead.samples = s.bead.samples ∧ (beadFallback s).bead.en = s.bead.en ∧
    (beadFallback s).bead.period = s.bead.period ∧ (beadFallback s).bead.refsel = s.bead.refsel :=
  ⟨rfl, rfl, rfl, rfl, rfl, rfl⟩

/-- `t` is `s` but for the bead and the domain's alignment. -/
def BeadOnly (s t : State) : Prop := ∃ (b : Bead) (al : Bool), t = { s with bead := b, dom := { s.dom with aligned := al } }

theorem beadFallback_beadOnly (s : State) : BeadOnly s (beadFallback s) := ⟨_, _, rfl⟩

theorem beadLatch_beadOnly (s : State) : BeadOnly s (beadLatch s) := by
  unfold beadLatch
  dsimp only
  split
  · split
    · exact ⟨_, _, rfl⟩
    · exact ⟨_, _, rfl⟩
  · exact ⟨s.bead, s.dom.aligned, rfl⟩

/-- A latch changes the active setting and the flags that go with it, and no other field of the bead. -/
theorem beadLatch_fields (s : State) : (beadLatch s).bead.count = s.bead.count ∧ (beadLatch s).bead.edge = s.bead.edge ∧
    (beadLatch s).bead.samples = s.bead.samples ∧ (beadLatch s).bead.en = s.bead.en ∧
    (beadLatch s).bead.period = s.bead.period ∧ (beadLatch s).bead.refsel = s.bead.refsel := by
  unfold beadLatch
  dsimp only
  split
  · split
    · exact ⟨rfl, rfl, rfl, rfl, rfl, rfl⟩
    · exact ⟨rfl, rfl, rfl, rfl, rfl, rfl⟩
  · exact ⟨rfl, rfl, rfl, rfl, rfl, rfl⟩

theorem beadLatch_nothingPending {s : State} (h : s.bead.pendingWr = false) : beadLatch s = s := by
  simp [beadLatch, h]

theorem beadLatch_applies {s : State} (h : s.bead.pendingWr = true) (hr : refRuns s s.bead.refsel = true)
    (ha : awaitsDomain s = false) : (beadLatch s).bead.curPeriod = s.bead.period ∧
      (beadLatch s).bead.activeRef = s.bead.refsel ∧ (beadLatch s).bead.pendingWr = false := by
  simp [beadLatch, h, hr, ha]

/-- Up to the slices of the partitions and the beads that RUNs wait, a boundary without a loss is a latch in the next bead. -/
theorem beadEdge_eq (s : State) : ∃ parts cmds,
    beadEdge s false = { beadLatch (nextBead s) with parts := parts, cmds := cmds } := ⟨_, _, rfl⟩

/-- Waiting for the end of a bead leaves all but the time. -/
theorem beadDue_passed (s : State) : ∃ n, Passed n s (beadDue s) ∧
    (refClocked s.bead.activeRef = true → n = 0) ∧
    (refClocked s.bead.activeRef = false → beadEnd3 s.bead ≤ 3 * (s.time + n)) := by
  unfold beadDue
  split
  · next h => exact ⟨0, by simp [Passed], fun _ => rfl, by simp [h]⟩
  · next h =>
    obtain ⟨n, hp, hn⟩ := passTo_passed s ((beadEnd3 s.bead + 2) / 3)
    exact ⟨n, hp, fun h' => absurd h' h, fun _ => by omega⟩

theorem refRuns_congr {s t : State} (ha : t.ap = s.ap) (hi : t.dom.inDomain = s.dom.inDomain) (hk : t.dom.keeper = s.dom.keeper)
    (r : BitVec 3) : refRuns t r = refRuns s r := by simp [refRuns, getAp, ha, hi, hk]

theorem awaitsDomain_nextBead (s : State) : awaitsDomain (nextBead s) = awaitsDomain s := rfl

theorem execBeadBoundary_full {s : State} (h : s.bead.en = true)
    (hf : refClocked s.bead.activeRef = true → s.bead.curPeriod.toNat ≤ s.bead.samples) (lost : Bool) :
    exec (.beadBoundary lost) s = .next (beadEdge (beadDue s) lost) := by
  have : (s.bead.en && beadFull s) = true := by
    simp only [h, beadFull, Bool.true_and, Bool.or_eq_true, Bool.not_eq_true', decide_eq_true_eq]
    cases hr : refClocked s.bead.activeRef
    · exact .inl rfl
    · exact .inr (hf hr)
  simp [exec, execBeadBoundary, onlyIf, this]

theorem execBeadBoundary_short {s : State} (hr : refClocked s.bead.activeRef = true)
    (hs : s.bead.samples < s.bead.curPeriod.toNat) (lost : Bool) : exec (.beadBoundary lost) s = .next s := by
  simp [exec, execBeadBoundary, onlyIf, beadFull, hr, hs]

/-- A boundary ends one bead and starts the next. -/
theorem beadEdge_starts {s : State} {t : State} (ht : t = beadEdge s false) :
    t.bead.count = s.bead.count + 1 ∧ t.time = s.time ∧ t.bead.edge = s.time ∧ t.bead.samples = 0 ∧ t.bead.en = s.bead.en ∧
      t.bead.period = s.bead.period ∧ t.bead.refsel = s.bead.refsel ∧
      (s.bead.pendingWr = false → t.bead.curPeriod = s.bead.curPeriod ∧ t.bead.activeRef = s.bead.activeRef) ∧
      (s.bead.pendingWr = true → refRuns s s.bead.refsel = true → awaitsDomain s = false →
        t.bead.curPeriod = s.bead.period ∧ t.bead.activeRef = s.bead.refsel ∧ t.bead.pendingWr = false) ∧
      t.clients = s.clients ∧ t.streams = s.streams ∧ t.pile = s.pile ∧ t.tally = s.tally ∧ t.cores = s.cores := by
  obtain ⟨parts, cmds, he⟩ := beadEdge_eq s
  obtain ⟨b, al, hb⟩ := beadLatch_beadOnly (nextBead s)
  obtain ⟨f1, f2, f3, f4, f5, f6⟩ := beadLatch_fields (nextBead s)
  have hl : t.bead = (beadLatch (nextBead s)).bead := by rw [ht, he]
  refine ⟨by rw [hl, f1]; rfl, by rw [ht, he, hb]; rfl, by rw [hl, f2]; rfl, by rw [hl, f3]; rfl, by rw [hl, f4]; rfl,
    by rw [hl, f5]; rfl, by rw [hl, f6]; rfl, fun h => ?_, fun h hr ha => ?_, by rw [ht, he, hb]; rfl, by rw [ht, he, hb]; rfl,
    by rw [ht, he, hb]; rfl, by rw [ht, he, hb]; rfl, by rw [ht, he, hb]; rfl⟩
  · rw [hl, beadLatch_nothingPending (show (nextBead s).bead.pendingWr = false from h)]; exact ⟨rfl, rfl⟩
  · rw [hl]
    exact beadLatch_applies (s := nextBead s) h ((refRuns_congr rfl rfl rfl _).trans hr) ha

/-- The two halves of a 64-bit count. -/
theorem count_halves (v : W64) : (v >>> 32).setWidth 32 = BitVec.ofNat 32 (v.toNat / 2 ^ 32) ∧
    (v.setWidth 32).setWidth 64 = BitVec.ofNat 64 (v.toNat % 2 ^ 32) := by
  constructor <;> apply BitVec.eq_of_toNat_eq <;> simp [Nat.shiftRight_eq_div_pow]

/-- Settles O9. A boundary is `beadDue`, which only lets time pass, then `beadEdge`; that the internal bead ends no earlier than
62,500 thirds of a nanosecond for each sample is the model's reading of 48 kHz (notes/assumptions/16.md). -/
theorem beadBoundariesAndReads : Obligations.BeadBoundariesAndReads := by
  unfold Obligations.BeadBoundariesAndReads
  refine ⟨⟨fun s hen hfull => ?_, fun s lost _ hr hs => execBeadBoundary_short hr hs lost⟩, fun s ha => ?_,
    fun s hen hr => ?_, fun s v ha => ?_⟩
  · refine ⟨_, execBeadBoundary_full hen hfull false, ?_⟩
    obtain ⟨n, hp, hclk, hint⟩ := beadDue_passed s
    simp only [Passed] at hp
    obtain ⟨p1, p2, p3, p4, p5, _, _, _, _, p10, p11, _, p13, _, _, _, _, _, p19, p20, _⟩ := hp
    obtain ⟨e1, e2, e3, e4, e5, e6, e7, e8, e9, e10, e11, e12, e13, e14⟩ := beadEdge_starts (s := beadDue s) rfl
    have hruns : refRuns (beadDue s) s.bead.refsel = refRuns s s.bead.refsel := refRuns_congr p20 (by rw [p19]) (by rw [p19]) _
    have hwaits : awaitsDomain (beadDue s) = awaitsDomain s := by simp [awaitsDomain, p1, p19]
    rw [p1] at e1 e5 e6 e7 e8 e9
    refine ⟨e1, e3.trans e2.symm, e4, fun h => by rw [e2, p11, hclk h]; rfl, fun h => ?_, e8,
      fun h1 h2 h3 => e9 h1 (hruns.trans h2) (hwaits.trans h3), e5.trans hen, e6, e7, e10.trans p2, e11.trans p4, e12.trans p5,
      by rw [e13, p13], fun k => ?_⟩
    · have := hint (by simp [refClocked, h])
      rw [e2, p11]; exact this
    · simp only [getCore, e14]; exact p10 k
  · obtain ⟨h1, h2⟩ := count_halves s.bead.count
    simp only [exec, execBeadCountLoRead, hostAccess_awake ha.1 ha.2, rdata, h1, h2]
  · have hr' : (s.bead.activeRef != 0) = true := by simpa using hr
    rw [exec, execBeadRefFallback, hen, hr']; rfl
  · have hb : bits (v.toNat % 4294967296) 19 0 = v.toNat % 1048576 := by simp [bits]
    simp [exec, execRegisterWrite, hostAccess_awake ha.1 ha.2, barWrite, regWrite, crnWrite, hb]

end Sys2Proof.Machine
end

section
/-! What the end, the kill and the cancellation of commands leave, and what an event that is reported leaves. -/

namespace Sys2Proof.Machine

open Sys2Proof

/-- What the completion, the requeueing and the kill of commands leave: all but the commands, the accounts and rings of the
clients, the extents that a command held, the subscriptions and messages of the domain, and what leaves the package. -/
structure Ended (s t : State) : Prop where
  time : t.time = s.time
  pending : t.pending = s.pending
  bead : t.bead = s.bead
  sched : t.sched = s.sched
  parts : t.parts = s.parts
  streams : t.streams = s.streams
  sets : t.sets = s.sets
  cores : t.cores = s.cores
  dieTlb : t.dieTlb = s.dieTlb
  mem : t.pile.mem = s.pile.mem
  piles : t.piles = s.piles
  memwin : t.memwin = s.memwin
  inval : t.inval = s.inval
  mail : t.mail = s.mail
  ap : t.ap = s.ap
  binds : t.binds = s.binds
  sec : t.sec = s.sec
  dbg : t.dbg = s.dbg
  rst : t.rst = s.rst
  pwr : t.pwr = s.pwr
  mon : t.mon = s.mon
  tally : t.tally = s.tally
  health : t.health = s.health

theorem Ended.refl (s : State) : Ended s s := by constructor <;> rfl

theorem Ended.trans {s t u : State} (a : Ended s t) (b : Ended t u) : Ended s u := by
  constructor
  case time => exact b.time.trans a.time
  case pending => exact b.pending.trans a.pending
  case bead => exact b.bead.trans a.bead
  case sched => exact b.sched.trans a.sched
  case parts => exact b.parts.trans a.parts
  case streams => exact b.streams.trans a.streams
  case sets => exact b.sets.trans a.sets
  case cores => exact b.cores.trans a.cores
  case dieTlb => exact b.dieTlb.trans a.dieTlb
  case mem => exact b.mem.trans a.mem
  case piles => exact b.piles.trans a.piles
  case memwin => exact b.memwin.trans a.memwin
  case inval => exact b.inval.trans a.inval
  case mail => exact b.mail.trans a.mail
  case ap => exact b.ap.trans a.ap
  case binds => exact b.binds.trans a.binds
  case sec => exact b.sec.trans a.sec
  case dbg => exact b.dbg.trans a.dbg
  case rst => exact b.rst.trans a.rst
  case pwr => exact b.pwr.trans a.pwr
  case mon => exact b.mon.trans a.mon
  case tally => exact b.tally.trans a.tally
  case health => exact b.health.trans a.health

theorem Ended.foldl {α : Type} {f : State → α → State} (h : ∀ t x, Ended t (f t x)) :
    ∀ (l : List α) (s : State), Ended s (l.foldl f s)
  | [], s => Ended.refl s
  | x :: l, s => (h s x).trans (Ended.foldl h l (f s x))

theorem Told.ended {s t : State} (h : Told s t) : Ended s t := by
  obtain ⟨h1, _, _, h4, h5, _, _, _, h9, h10, h11, h12, h13, h14, h15, h16, h17, h18, _, h20, h21, h22, h23, h24, h25, h26, h27,
    h28, h29⟩ := h
  exact ⟨h11, h12, h1, h28, h18, h4, h17, h10, h29, congrArg PileMem.mem h5, h23, h24, h25, h16, h20, h27, h9, h26, h14, h15,
    h21, h13, h22⟩

theorem modCmd_ended (s : State) (id : Nat) (f : Cmd → Cmd) : Ended s (modCmd s id f) := by constructor <;> rfl
theorem modAcct_ended (s : State) (c : Nat) (f : Acct → Acct) : Ended s (modAcct s c f) := by constructor <;> rfl
theorem setClient_ended (s : State) (c : Nat) (x : Client) : Ended s (setClient s c x) := by constructor <;> rfl
theorem setRing_ended (s : State) (c n : Nat) (r : Ring) : Ended s (setRing s c n r) := by constructor <;> rfl
theorem freeExtents_ended (s : State) (f : Extent → Bool) : Ended s (freeExtents s f) := by constructor <;> rfl
theorem dropCmd_ended (s : State) (c : Cmd) : Ended s (dropCmd s c) := by constructor <;> rfl

theorem withdraw_ended (s : State) (c : Cmd) : Ended s (withdraw s c) := by
  unfold withdraw
  split
  · split
    · exact (sendCtl_told _ _ _).ended
    · exact Ended.refl s
  · exact Ended.refl s

theorem writeEntry_ended (s : State) (c : Cmd) (status addr : Nat) (overrun : Bool) :
    Ended s (writeEntry s c status addr overrun) := by
  have hw : Ended s (if status = stCancelled then withdraw s c else s) := by
    split
    · exact withdraw_ended s c
    · exact Ended.refl s
  unfold writeEntry
  generalize (if status = stCancelled then withdraw s c else s) = u at hw ⊢
  dsimp only
  split
  · exact hw
  · refine hw.trans ?_
    split <;> constructor <;> rfl

theorem retireOne_ended (s : State) (c : Cmd) (status addr : Nat) (overrun keepNews : Bool) :
    Ended s (dropCmd (writeEntry (releaseCmd s c keepNews) c status addr overrun) c) :=
  ((freeExtents_ended s _).trans (writeEntry_ended _ c status addr overrun)).trans (dropCmd_ended _ c)

theorem retire_ended (s : State) (c : Cmd) (status addr : Nat) (overrun keepNews : Bool) :
    Ended s (retire s c status addr overrun keepNews) := by
  unfold retire
  dsimp only
  split
  · exact retireOne_ended s c status addr overrun keepNews
  · exact (retireOne_ended s c status addr overrun keepNews).trans (Ended.foldl (fun t x => retireOne_ended t x _ _ _ _) _ _)

/-- A completion damages no stream unless its cause is a line that cannot be corrected. -/
theorem complete_ended {status : Nat} (h : status ≠ stMemUncorrectable) (s : State) (c : Cmd) (addr : Nat) :
    Ended s (complete s c status addr) := by
  unfold complete
  rw [if_neg h]
  exact retire_ended s c status addr false false

theorem startKill_ended (s : State) (id : Nat) (k : KillKind) (slice : Bool) : Ended s (startKill s id k slice) := by
  unfold startKill
  split
  · exact Ended.refl s
  next c _ =>
    split
    · exact ((modCmd_ended s id _).trans (cancelReads_told _ _ _).ended).trans
        (Told.foldl (fun t core => (sendNet_same _ _).told) _ _).ended
    · split
      · split
        · exact modCmd_ended s id _
        · exact Ended.refl s
      · split
        · exact Ended.refl s
        · exact modCmd_ended s id _
      · exact Ended.refl s
    · exact Ended.refl s

theorem requeue_ended (s : State) (c : Cmd) (counted : Bool) : Ended s (requeue s c counted) :=
  (freeExtents_ended s _).trans (modCmd_ended _ _ _)

theorem cancelCmd_ended (s : State) (id : Nat) : Ended s (cancelCmd s id) := by
  unfold cancelCmd
  split
  · exact Ended.refl s
  next c _ =>
    split
    · split
      · exact modCmd_ended s id _
      · exact complete_ended (by decide) s c 0
    · exact startKill_ended s id _ _
    · exact startKill_ended s id _ _
    · exact Ended.refl s

theorem cancelRange_ended (s : State) (c ring : Nat) (q : W32) : Ended s (cancelRange s c ring q) := by
  unfold cancelRange
  dsimp only
  split
  · exact Ended.foldl cancelCmd_ended _ s
  · exact (Ended.foldl cancelCmd_ended _ s).trans (setRing_ended _ _ _ _)

theorem stopClient_ended (s : State) (c : Nat) : Ended s (stopClient s c) := by
  unfold stopClient
  dsimp only
  split
  · exact Ended.refl s
  · refine (Ended.foldl (fun t ring => ?_) _ s).trans (setClient_ended _ _ _)
    split
    · exact cancelRange_ended t c ring _
    · exact Ended.refl t

theorem stopClient_stopped (s : State) (c : Nat) : (getClient (stopClient s c) c).stopped = true := by
  unfold stopClient
  split
  · next h => exact h
  · simp

/-! ## Events -/

/-- `t` is `s` but for the tally and the vectors raised. -/
def TallyOnly (s t : State) : Prop := ∃ ty m, t = { s with tally := ty, io := { s.io with msix := m } }

theorem TallyOnly.refl (s : State) : TallyOnly s s := ⟨s.tally, s.io.msix, rfl⟩

theorem TallyOnly.trans {s t u : State} (a : TallyOnly s t) (b : TallyOnly t u) : TallyOnly s u := by
  obtain ⟨_, _, rfl⟩ := a
  obtain ⟨_, _, rfl⟩ := b
  exact ⟨_, _, rfl⟩

theorem tallyIrq_tallyOnly (s : State) (cls : Nat) : TallyOnly s (tallyIrq s cls) := by
  unfold tallyIrq
  split
  · split
    · split
      · exact ⟨_, s.io.msix, rfl⟩
      · exact ⟨_, _, rfl⟩
    · exact ⟨_, _, rfl⟩
  · exact TallyOnly.refl s

theorem tallyOpen_tallyOnly (s : State) (i : Nat) (r : Report) : TallyOnly s (tallyOpen s i r) :=
  (show TallyOnly s { s with tally := _ } from ⟨_, s.io.msix, rfl⟩).trans (tallyIrq_tallyOnly _ _)

theorem tallyAdd_tallyOnly (s : State) (r : Report) : TallyOnly s (tallyAdd s r) := by
  unfold tallyAdd
  split
  · exact ⟨_, s.io.msix, rfl⟩
  · split
    · exact tallyOpen_tallyOnly s _ r
    · split
      · exact (show TallyOnly s { s with tally := _ } from ⟨_, s.io.msix, rfl⟩).trans (tallyOpen_tallyOnly _ _ _)
      · exact ⟨_, s.io.msix, rfl⟩

theorem report_tallyOnly (s : State) (r : Report) : TallyOnly s (report s r) := by
  unfold report
  split
  · split <;> exact ⟨_, s.io.msix, rfl⟩
  · split
    · exact tallyAdd_tallyOnly s r
    · exact TallyOnly.refl s

theorem event_tallyOnly (s : State) (loc cls : Nat) (subject : W32) (d0 d1 : Nat) :
    TallyOnly s (event s loc cls subject d0 d1) := report_tallyOnly s _

/-- The first report to an empty tally opens its record in slot 0. -/
theorem tallyAdd_first {s : State} (h : s.tally.slots = []) (r : Report) :
    tget none (tallyAdd s r).tally.slots 0 = some (newRec s r) := by
  have hslots : ∀ (u : State) (cls : Nat), (tallyIrq u cls).tally.slots = u.tally.slots := by
    intro u cls
    unfold tallyIrq
    split
    · split
      · split <;> rfl
      · rfl
    · rfl
  have hfree : tallyFree s.tally = some 0 := by
    rw [tallyFree, show (256 : Nat) = 255 + 1 from rfl, List.range_succ_eq_map, List.find?_cons]
    simp only [h, tget_nil, Option.isNone_none]
  have hnone : tallyRecs s.tally = [] := by simp [tallyRecs, h]
  simp [tallyAdd, hnone, hfree, tallyOpen, hslots]

end Sys2Proof.Machine
end

section
/-! The writes of a doorbell page but SQ_HEAD (O11). -/

namespace Sys2Proof.Machine

open Sys2Proof Sys2Proof.Ob

@[simp] theorem wakeCall_streams (s : State) : (wakeCall s).streams = s.streams := by
  obtain ⟨_, h⟩ := wakeCall_eq s; rw [h]
@[simp] theorem wakeCall_cores (s : State) : (wakeCall s).cores = s.cores := by
  obtain ⟨_, h⟩ := wakeCall_eq s; rw [h]
@[simp] theorem wakeCall_bead (s : State) : (wakeCall s).bead = s.bead := by
  obtain ⟨_, h⟩ := wakeCall_eq s; rw [h]
@[simp] theorem wakeCall_sets (s : State) : (wakeCall s).sets = s.sets := by
  obtain ⟨_, h⟩ := wakeCall_eq s; rw [h]
@[simp] theorem wakeCall_parts (s : State) : (wakeCall s).parts = s.parts := by
  obtain ⟨_, h⟩ := wakeCall_eq s; rw [h]

/-- A doorbell asks for an abort of the entry, and the package stays awake. -/
theorem wakeCall_awake {s : State} (h : awake s) : awake (wakeCall s) := by
  unfold wakeCall
  split
  · exact h
  · exact h

theorem exec_sqTailWrite_paged {s : State} {c ring : Nat} (h : paged s c ring) (v : W32) :
    exec (.sqTailWrite c ring v) s = .next (tailWrite (wakeCall s) c ring v) := by
  obtain ⟨hup, hclient, hring, hreg⟩ := h
  refine congrArg Host.Outcome.next ((pageAccess_awake hup _).trans (if_pos ?_))
  simp [hclient, hring, hreg]

theorem exec_cancelWrite_paged {s : State} {c ring : Nat} (h : paged s c ring) (v : W32) :
    exec (.cancelWrite c ring v) s = .next (cancelWriteAt (wakeCall s) c ring v) := by
  obtain ⟨hup, hclient, hring, hreg⟩ := h
  refine congrArg Host.Outcome.next ((pageAccess_awake hup _).trans (if_pos ?_))
  simp [hclient, hring, hreg]

theorem tailWrite_accepted {s : State} {c ring : Nat} {v : W32} (hen : (getRing s c ring).en = true)
    (ht : (v - (getRing s c ring).tail).toNat ≤ 2 ^ (getRing s c ring).log2)
    (hh : (v - (getRing s c ring).head).toNat ≤ 2 ^ (getRing s c ring).log2) :
    tailWrite s c ring v = setRing s c ring { getRing s c ring with tail := v } :=
  if_pos (Bool.and_eq_true_iff.2 ⟨hen, Bool.and_eq_true_iff.2 ⟨decide_eq_true ht, decide_eq_true hh⟩⟩)

theorem tailWrite_rejected {s : State} {c ring : Nat} {v : W32}
    (h : (getRing s c ring).en = false ∨ 2 ^ (getRing s c ring).log2 < (v - (getRing s c ring).tail).toNat ∨
      2 ^ (getRing s c ring).log2 < (v - (getRing s c ring).head).toNat) :
    tailWrite s c ring v = event (setBadTail s c ring) crownLoc 0x01 (subjKind 2 c) ring v.toNat :=
  if_neg fun hc => by
    obtain ⟨hen, hfit⟩ := Bool.and_eq_true_iff.1 hc
    obtain ⟨ht, hh⟩ := Bool.and_eq_true_iff.1 hfit
    rcases h with h | h | h
    · simp [h] at hen
    · exact absurd (of_decide_eq_true ht) (Nat.not_le.2 h)
    · exact absurd (of_decide_eq_true hh) (Nat.not_le.2 h)

/-- An event of an awake package is added to the tally. -/
theorem event_awake {s : State} (h : awake s) (loc cls : Nat) (subject : W32) (d0 d1 : Nat) :
    event s loc cls subject d0 d1 = tallyAdd s
      { reporter := BitVec.ofNat 32 (selfAddr s loc), subject := subject, cls := cls,
        d0 := BitVec.ofNat 64 d0, d1 := BitVec.ofNat 64 d1 } := by
  have hd1 : ¬ d1Off s = true := by simpa [d1Off] using h.2
  rw [event, report, if_neg hd1, if_pos h.1]

theorem badTail_setBadTail (s : State) (c : Nat) {ring : Nat} (h : ringOk ring = true) :
    (getClient (setBadTail s c ring) c).badTail.getLsbD ring = true := by
  have hc : getClient (setBadTail s c ring) c =
      { getClient s c with badTail := (getClient s c).badTail ||| BitVec.ofNat 4 (2 ^ ring) } := getClient_setClient_same s c _
  rw [hc]
  simp only [getLsbD_or_ringBit _ h, decide_true, Bool.or_true]

theorem rings_setBadTail (s : State) (c ring : Nat) :
    (getClient (setBadTail s c ring) c).rings = (getClient s c).rings := by
  simp [setBadTail]

/-- A CANCEL of a ring none of whose commands is fetched covers the numbers from the first not yet fetched. -/
theorem cancelRange_unfetched {s : State} {c ring : Nat} (h : ∀ x ∈ s.cmds, ¬ (x.client = c ∧ x.ring = ring))
    (hn : 0 < ((getRing s c ring).tail - (getRing s c ring).fetched).toNat) :
    cancelRange s c ring (getRing s c ring).fetched = setRing s c ring { getRing s c ring with
      cover := (getRing s c ring).cover ++
        [((getRing s c ring).fetched, ((getRing s c ring).tail - (getRing s c ring).fetched).toNat)] } := by
  have hhit : ∀ p : Cmd → Bool, (s.cmds.filter fun x => x.client == c && x.ring == ring && p x) = [] := by
    intro p
    rw [List.filter_eq_nil_iff]
    intro x hx hp
    simp only [Bool.and_eq_true, beq_iff_eq] at hp
    exact h x hx hp.1
  have hne : ((getRing s c ring).tail - (getRing s c ring).fetched).toNat ≠ 0 := Nat.ne_of_gt hn
  unfold cancelRange
  simp only [hhit, List.map_nil, List.foldl_nil, or_self, if_neg hne, Nat.lt_irrefl, if_false, Nat.min_self]

/-- A word that names no register of a doorbell page, or reaches none, does nothing (R483). -/
theorem pageWrite_noRegister {s : State} {c off width : Nat} (v : W64)
    (h : (getClient s c).reg = false ∨ width ≠ 4 ∨ off % 8 ≠ 0 ∨ 0x190 ≤ off) : pageWrite s c off width v = s := by
  unfold pageWrite
  by_cases hr : width ≠ 4 ∨ (!(getClient s c).reg) = true
  · rw [if_pos hr]
  · rw [if_neg hr]
    have hoff : off % 8 ≠ 0 ∨ 0x190 ≤ off := by
      rcases h with h | h | h
      · exact absurd (.inr (by simp [h])) hr
      · exact absurd (.inl h) hr
      · exact h
    dsimp only
    rw [if_neg (by omega), if_neg (by omega), if_neg (by omega), if_neg (by omega), if_neg (by omega)]

/-- Settles O11: each write is the register's own function on `wakeCall s`. -/
theorem doorbellPageWrites : Obligations.DoorbellPageWrites := by
  unfold Obligations.DoorbellPageWrites
  refine ⟨⟨fun s c ring v ⟨hpage, hen⟩ ht hh => ?_, fun s c ring v hpage hbad => ?_⟩,
    fun s c ring ⟨hpage, hen⟩ hnone hn hle => ?_, fun s c ring v ⟨hpage, hen⟩ hfar => ?_,
    fun s c v hup hclient hreg h0 h1 => ?_, fun s c v hup hclient hreg h0 h1 => ?_, fun s c v hup h0 h1 => ?_,
    fun s c off width v hup h => ?_⟩
  · rw [exec_sqTailWrite_paged hpage, tailWrite_accepted (by simpa using hen) (by simpa using ht) (by simpa using hh),
      getRing_wakeCall]
  · have ⟨hup, _, hring, _⟩ := hpage
    have hup' : awake (setBadTail (wakeCall s) c ring) := wakeCall_awake hup
    rw [exec_sqTailWrite_paged hpage, tailWrite_rejected (by simpa using hbad)]
    refine ⟨_, rfl, ?_⟩
    obtain ⟨ty, m, he⟩ := event_tallyOnly (setBadTail (wakeCall s) c ring) crownLoc 0x01 (subjKind 2 c) ring v.toNat
    refine ⟨by rw [he]; exact badTail_setBadTail _ c hring, ?_, fun hslots => ?_, by rw [he]; exact wakeCall_cmds s,
      by rw [he]; exact wakeCall_streams s, by rw [he]; exact wakeCall_cores s, by rw [he]; exact wakeCall_pile s,
      by rw [he]; exact wakeCall_bead s⟩
    · rw [he]
      show tget {} (getClient (setBadTail (wakeCall s) c ring) c).rings ring = _
      rw [rings_setBadTail, getClient_wakeCall]; rfl
    · rw [event_awake hup', tallyAdd_first (by simpa [setBadTail] using hslots)]
      exact ⟨_, rfl, rfl, rfl⟩
  · rw [exec_cancelWrite_paged hpage, cancelWriteAt, getRing_wakeCall]
    rw [if_pos (Bool.and_eq_true_iff.2 ⟨hen, decide_eq_true hle⟩)]
    have := cancelRange_unfetched (s := wakeCall s) (c := c) (ring := ring) (by simpa using hnone) (by simpa using hn)
    rw [getRing_wakeCall] at this
    exact congrArg Host.Outcome.next this
  · rw [exec_cancelWrite_paged hpage, cancelWriteAt, getRing_wakeCall,
      if_neg (by simpa [hen] using hfar)]
    exact ⟨_, rfl, badTail_setBadTail _ c hpage.2.2.1, wakeCall_cmds s⟩
  · refine ⟨stopClient (wakeCall s) c, ?_, stopClient_stopped _ c, ?_⟩
    · exact congrArg Host.Outcome.next ((pageAccess_awake hup _).trans (if_pos (by simp only [getClient_wakeCall, hclient, hreg, h0, h1]; decide)))
    · have hend := stopClient_ended (wakeCall s) c
      exact ⟨hend.bead.trans (wakeCall_bead s), hend.sets.trans (wakeCall_sets s), hend.parts.trans (wakeCall_parts s)⟩
  · refine congrArg Host.Outcome.next ((pageAccess_awake hup _).trans ((if_pos (by simp only [getClient_wakeCall, hclient, hreg, h0, h1]; decide)).trans ?_))
    rw [resumeClient, getClient_wakeCall]
  · exact ⟨congrArg Host.Outcome.next ((pageAccess_awake hup _).trans (if_neg (by simp only [h1]; simp))),
      congrArg Host.Outcome.next ((pageAccess_awake hup _).trans (if_neg (by simp only [h0]; simp)))⟩
  · refine congrArg Host.Outcome.next ((pageAccess_awake hup _).trans ?_)
    split
    · exact pageWrite_noRegister v (by simpa using h)
    · rfl

end Sys2Proof.Machine
end

section
/-! The completion entry of a command (R46, R47), field by field, and the end of a command that is the only one left. -/

namespace Sys2Proof.Machine

open Sys2Proof

/-! ## Fields of bytes put together -/

theorem slice_append_right (a b : Bytes) (o n : Nat) : slice (a ++ b) (a.length + o) n = slice b o n := by
  unfold slice
  refine List.map_congr_left fun i _ => ?_
  rw [List.getElem?_append_right (by omega), show a.length + o + i - a.length = o + i by omega]

/-- A field past the first bytes is a field of the rest. -/
theorem fieldLE_append_right {a : Bytes} {k : Nat} (ha : a.length = k) (b : Bytes) (o n : Nat) :
    fieldLE (a ++ b) (k + o) n = fieldLE b o n := by
  subst ha
  rw [fieldLE, slice_append_right, fieldLE]

/-- A field at the end of the bytes. -/
theorem fieldLE_leN (n v : Nat) (h : v < 256 ^ n) : fieldLE (leN n v) 0 n = v := by
  simpa using fieldLE_leN_append n v [] h

/-! ## The entry -/

@[simp] theorem entryOf_length (s : State) (r : Ring) (c : Cmd) (status addr : Nat) (overrun : Bool) :
    (entryOf s r c status addr overrun).length = 32 := by
  simp [entryOf]

theorem entryOf_cookie (s : State) (r : Ring) (c : Cmd) (status addr : Nat) (overrun : Bool) :
    fieldLE (entryOf s r c status addr overrun) 0 8 = c.desc.cookie.toNat := by
  simp only [entryOf, List.append_assoc]
  exact fieldLE_leN_append 8 _ _ (by have := c.desc.cookie.isLt; omega)

theorem entryOf_status (s : State) (r : Ring) (c : Cmd) {status : Nat} (h : status < 2 ^ 16) (addr : Nat) (overrun : Bool) :
    fieldLE (entryOf s r c status addr overrun) 8 2 = status := by
  simp only [entryOf, List.append_assoc]
  rw [show 8 = 8 + 0 from rfl, fieldLE_append_right (length_leN 8 _)]
  exact fieldLE_leN_append 2 _ _ (by omega)

/-- A command dispatched in the bead it ends in has taken one bead (R47). -/
theorem entryOf_used (s : State) (r : Ring) {c : Cmd} (h0 : c.dispatches ≠ 0) (h : c.firstBead = s.bead.count)
    (status addr : Nat) (overrun : Bool) : fieldLE (entryOf s r c status addr overrun) 12 4 = 1 := by
  simp only [entryOf, List.append_assoc, if_neg h0, h]
  rw [show 12 = 8 + (2 + (1 + (1 + 0))) from rfl, fieldLE_append_right (length_leN 8 _), fieldLE_append_right (length_leN 2 _),
    fieldLE_append_right (length_leN 1 _), fieldLE_append_right (length_leN 1 _)]
  have hs := slice_append_left (leN 4 (s.bead.count.toNat + 2 ^ 64 - s.bead.count.toNat + 1)) (leN 8 s.bead.count.toNat ++ leN 8 addr)
  rw [length_leN] at hs
  rw [fieldLE, hs, ofLE_leN_mod]
  omega

theorem entryOf_bead (s : State) (r : Ring) (c : Cmd) (status addr : Nat) (overrun : Bool) :
    fieldLE (entryOf s r c status addr overrun) 16 8 = s.bead.count.toNat := by
  simp only [entryOf, List.append_assoc]
  rw [show 16 = 8 + (2 + (1 + (1 + (4 + 0)))) from rfl, fieldLE_append_right (length_leN 8 _),
    fieldLE_append_right (length_leN 2 _), fieldLE_append_right (length_leN 1 _), fieldLE_append_right (length_leN 1 _),
    fieldLE_append_right (length_leN 4 _)]
  exact fieldLE_leN_append 8 _ _ (by have := s.bead.count.isLt; omega)

theorem entryOf_addr (s : State) (r : Ring) (c : Cmd) (status : Nat) {addr : Nat} (h : addr < 2 ^ 64) (overrun : Bool) :
    fieldLE (entryOf s r c status addr overrun) 24 8 = addr := by
  simp only [entryOf, List.append_assoc]
  rw [show 24 = 8 + (2 + (1 + (1 + (4 + (8 + 0))))) from rfl, fieldLE_append_right (length_leN 8 _),
    fieldLE_append_right (length_leN 2 _), fieldLE_append_right (length_leN 1 _), fieldLE_append_right (length_leN 1 _),
    fieldLE_append_right (length_leN 4 _), fieldLE_append_right (length_leN 8 _)]
  exact fieldLE_leN 8 _ (by omega)

/-! ## A completion -/

/-- The DMA write of an entry at its place in the ring (R46). -/
def entryDma (s : State) (c : Cmd) (b : Bytes) : DmaWrite :=
  { addr := (getRing s c.client c.ring).cqBase.toNat +
      32 * ((getRing s c.client c.ring).written.toNat % 2 ^ (getRing s c.client c.ring).log2)
    data := b }

/-- An entry written, and counted by its ring and its client. -/
def noteEntry (s : State) (c : Cmd) (b : Bytes) : State :=
  modAcct (setRing { s with io := { s.io with dma := s.io.dma ++ [entryDma s c b] } } c.client c.ring
    { getRing s c.client c.ring with written := (getRing s c.client c.ring).written + 1 }) c.client
    fun a => { a with retired := a.retired + 1 }

theorem getRing_noteEntry (s : State) (c : Cmd) (b : Bytes) : getRing (noteEntry s c b) c.client c.ring =
    { getRing s c.client c.ring with written := (getRing s c.client c.ring).written + 1 } := by
  simp [noteEntry, modAcct, getRing, getClient]

theorem acct_noteEntry (s : State) (c : Cmd) (b : Bytes) : (getClient (noteEntry s c b) c.client).acct =
    { (getClient s c.client).acct with retired := (getClient s c.client).acct.retired + 1 } := by
  simp [noteEntry, modAcct, getClient]

/-- On a ring that is not faulted an entry is written, and the ring's vector raised where the descriptor asks for it. -/
theorem writeEntry_eq {s : State} {c : Cmd} {status : Nat} (hw : status ≠ stCancelled ∨ c.dep = none)
    (hf : (getRing s c.client c.ring).fault = false) (hl : c.lost = false) (addr : Nat) (overrun : Bool) :
    ∃ m, writeEntry s c status addr overrun =
      { noteEntry s c (entryOf s (getRing s c.client c.ring) c status addr overrun) with
        io := { (noteEntry s c (entryOf s (getRing s c.client c.ring) c status addr overrun)).io with msix := m } } := by
  have hs : (if status = stCancelled then withdraw s c else s) = s := by
    split
    · next h => rw [withdraw, hw.resolve_left (fun hn => hn h)]
    · rfl
  rw [writeEntry, hs]
  simp only [hf, hl, Bool.or_self, Bool.false_eq_true, if_false]
  split
  · exact ⟨s.io.msix ++ [(getRing s c.client c.ring).vector], by simp only [noteEntry, hf]; rfl⟩
  · exact ⟨s.io.msix, by simp only [noteEntry, hf]; rfl⟩

/-- What an entry of a ring that is not faulted writes, counts and steps on. -/
theorem writeEntry_writes {s : State} {c : Cmd} {status : Nat} (hw : status ≠ stCancelled ∨ c.dep = none)
    (hf : (getRing s c.client c.ring).fault = false) (hl : c.lost = false) (addr : Nat) (overrun : Bool) :
    ∀ t, t = writeEntry s c status addr overrun → t.cmds = s.cmds ∧
      t.io.dma = s.io.dma ++ [entryDma s c (entryOf s (getRing s c.client c.ring) c status addr overrun)] ∧
      t.io.reads = s.io.reads ∧ t.crown = s.crown ∧
      getRing t c.client c.ring = { getRing s c.client c.ring with written := (getRing s c.client c.ring).written + 1 } ∧
      (getClient t c.client).acct =
        { (getClient s c.client).acct with retired := (getClient s c.client).acct.retired + 1 } := by
  intro t ht
  obtain ⟨m, he⟩ := writeEntry_eq hw hf hl addr overrun
  rw [he] at ht
  subst ht
  exact ⟨rfl, rfl, rfl, rfl, getRing_noteEntry s c _, acct_noteEntry s c _⟩

/-- A completion entry leaves every command. -/
theorem writeEntry_cmds (s : State) (c : Cmd) (status addr : Nat) (overrun : Bool) :
    (writeEntry s c status addr overrun).cmds = s.cmds := by
  have hw : (if status = stCancelled then withdraw s c else s).cmds = s.cmds := by
    split
    · unfold withdraw
      split
      · split
        · exact (sendCtl_told _ _ _).2.2.1
        · rfl
      · rfl
    · rfl
  unfold writeEntry
  generalize (if status = stCancelled then withdraw s c else s) = u at hw ⊢
  dsimp only
  split
  · exact hw
  · split
    · exact hw
    · exact hw

/-- The end of a command that no other outlives cancels none: it is its own entry and its own leaving. -/
theorem retire_last {s : State} {c : Cmd} (h : ∀ x ∈ s.cmds, x.id = c.id) {status : Nat} (addr : Nat) (overrun keepNews : Bool) :
    retire s c status addr overrun keepNews = dropCmd (writeEntry (releaseCmd s c keepNews) c status addr overrun) c := by
  have hcmds : (writeEntry (releaseCmd s c keepNews) c status addr overrun).cmds = s.cmds :=
    writeEntry_cmds (releaseCmd s c keepNews) c status addr overrun
  have hdrop : (dropCmd (writeEntry (releaseCmd s c keepNews) c status addr overrun) c).cmds = [] := by
    show (writeEntry (releaseCmd s c keepNews) c status addr overrun).cmds.filter (fun x => x.id != c.id) = []
    rw [hcmds, List.filter_eq_nil_iff]
    intro x hx
    simp [h x hx]
  unfold retire
  dsimp only
  split
  · rfl
  · rw [hdrop]; rfl

/-- The last command, with its ring in order, ends with its entry: nothing is left of it but its accounts. -/
theorem retire_last_writes {s : State} {c : Cmd} (h : ∀ x ∈ s.cmds, x.id = c.id) {status : Nat}
    (hw : status ≠ stCancelled ∨ c.dep = none) (hf : (getRing s c.client c.ring).fault = false) (hl : c.lost = false)
    (addr : Nat) (overrun keepNews : Bool) : ∀ t, t = retire s c status addr overrun keepNews → t.cmds = [] ∧
      t.io.dma = s.io.dma ++ [entryDma s c (entryOf s (getRing s c.client c.ring) c status addr overrun)] ∧
      t.io.reads = s.io.reads ∧ t.crown = s.crown ∧
      getRing t c.client c.ring = { getRing s c.client c.ring with written := (getRing s c.client c.ring).written + 1 } ∧
      (getClient t c.client).acct = { (getClient s c.client).acct with
        retired := (getClient s c.client).acct.retired + 1
        queueNs := (getClient s c.client).acct.queueNs +
          BitVec.ofNat 64 (c.queueNs + (if c.dispatches = 0 then s.time - c.waitFrom else 0)) } := by
  intro t ht
  rw [retire_last h] at ht
  obtain ⟨hcmds, hdma, hreads, hcrown, hring, hacct⟩ :=
    writeEntry_writes (s := releaseCmd s c keepNews) hw hf hl addr overrun _ rfl
  have htime : (writeEntry (releaseCmd s c keepNews) c status addr overrun).time = s.time :=
    (writeEntry_ended (releaseCmd s c keepNews) c status addr overrun).time
  subst ht
  refine ⟨?_, hdma, hreads, hcrown, ?_, ?_⟩
  · show (writeEntry (releaseCmd s c keepNews) c status addr overrun).cmds.filter (fun x => x.id != c.id) = []
    rw [hcmds, List.filter_eq_nil_iff]
    intro x hx
    simp [h x hx]
  · have : getRing (dropCmd (writeEntry (releaseCmd s c keepNews) c status addr overrun) c) c.client c.ring =
        getRing (writeEntry (releaseCmd s c keepNews) c status addr overrun) c.client c.ring := by
      simp [dropCmd, modAcct, getRing, getClient]
    exact this.trans hring
  · have : (getClient (dropCmd (writeEntry (releaseCmd s c keepNews) c status addr overrun) c) c.client).acct =
        { (getClient (writeEntry (releaseCmd s c keepNews) c status addr overrun) c.client).acct with
          queueNs := (getClient (writeEntry (releaseCmd s c keepNews) c status addr overrun) c.client).acct.queueNs +
            BitVec.ofNat 64 (c.queueNs + (if c.dispatches = 0 then
              (writeEntry (releaseCmd s c keepNews) c status addr overrun).time - c.waitFrom else 0)) } := by
      simp [dropCmd, modAcct, getClient]
    rw [this, hacct, htime]
    rfl

end Sys2Proof.Machine
end

section
/-! Ring faults and the fetch of descriptors (O12). -/

namespace Sys2Proof.Machine

open Sys2Proof Sys2Proof.Ob

theorem getRing_congr {s t : State} {c : Nat} (h : (getClient t c).rings = (getClient s c).rings) (n : Nat) :
    getRing t c n = getRing s c n := by rw [getRing, h, getRing]

/-! ## A fault -/

/-- FAULT of the ring and its bit of DB_STATUS. -/
def faulted (s : State) (c ring : Nat) : State :=
  setClient (setRing s c ring { getRing s c ring with fault := true }) c
    { getClient (setRing s c ring { getRing s c ring with fault := true }) c with
      faultSt := (getClient (setRing s c ring { getRing s c ring with fault := true }) c).faultSt ||| BitVec.ofNat 4 (2 ^ ring) }

/-- The commands of a faulted pair lose their completions. -/
def loseOf (c ring : Nat) (q : Cmd) : Cmd := if q.client == c && q.ring == ring then { q with lost := true } else q

theorem ringFail_eq (s : State) (c ring a : Nat) : ∃ ty m, ringFail s c ring a =
    { faulted s c ring with cmds := s.cmds.map (loseOf c ring), tally := ty, io := { s.io with msix := m } } :=
  event_tallyOnly { faulted s c ring with cmds := s.cmds.map (loseOf c ring) } crownLoc 0x02 (subjKind 2 c) ring a

theorem getRing_faulted_same (s : State) (c ring : Nat) :
    getRing (faulted s c ring) c ring = { getRing s c ring with fault := true } := by
  simp [faulted, getRing, getClient, setRing]

theorem getRing_faulted_ne (s : State) (c : Nat) {ring n : Nat} (h : n ≠ ring) :
    getRing (faulted s c ring) c n = getRing s c n := by
  simp [faulted, getRing, getClient, setRing, tget_tput_ne _ _ _ _ _ h]

theorem getClient_faulted_ne (s : State) {c d : Nat} (ring : Nat) (h : d ≠ c) :
    getClient (faulted s c ring) d = getClient s d := by
  rw [faulted, getClient_setClient_ne _ _ _ _ h, getClient_setRing_ne _ _ _ _ _ h]

theorem faultSt_faulted (s : State) (c : Nat) {ring : Nat} (h : ringOk ring = true) :
    (getClient (faulted s c ring) c).faultSt.getLsbD ring = true := by
  rw [faulted, getClient_setClient_same]
  simp only [getLsbD_or_ringBit _ h, decide_true, Bool.or_true]

/-! ## The turn of a fetch -/

/-- The state in which the fetch's turn has been taken and the descriptor asked for. -/
def turned (s : State) (c left ring : Nat) (q : W32) : State :=
  dmaRead (setClient { s with crown := { s.crown with fetchClient := c, fetchLeft := left } } c
      { getClient s c with ringPos := (ring + 1) % 4 })
    none ((getRing s c ring).sqBase.toNat + 64 * (q.toNat % 2 ^ (getRing s c ring).log2)) 64

theorem execDescriptorFetch_turn {s : State} (h : awake s) {c left ring : Nat} {q : W32} (hc : nextClient s = some (c, left))
    (hr : nextRing s c = some ring) (hq : fetchAt s c ring = some q) (f : FetchAns) :
    exec (.descriptorFetch f) s = .next (match f.desc with
      | .refused ad => ringFail (turned s c left ring q) c ring ad.toNat
      | .data b => fetched (turned s c left ring q) c ring q b f) := by
  have hd1 : ¬ d1Off s = true := by simpa [d1Off] using h.2
  have hn : ¬ (!crownUp s || d1Off s) = true := by simp [h.1, hd1]
  show execDescriptorFetch f s = _
  rw [execDescriptorFetch, if_neg hn, hc]
  simp only [hr, hq, Option.bind_some, Option.map_some]
  cases f.desc <;> rfl

theorem getClient_turned (s : State) (c left ring : Nat) (q : W32) :
    getClient (turned s c left ring q) c = { getClient s c with ringPos := (ring + 1) % 4 } :=
  getClient_setClient_same _ c _

theorem getRing_turned (s : State) (c left ring : Nat) (q : W32) (n : Nat) :
    getRing (turned s c left ring q) c n = getRing s c n := by
  rw [getRing, getClient_turned, getRing]

theorem turned_reads (s : State) (c left ring : Nat) (q : W32) :
    (turned s c left ring q).io.reads = s.io.reads ++ [slotRead s c ring q] := rfl

/-- A ring that is fetched from is not faulted. -/
theorem nextRing_notFaulted {s : State} {c ring : Nat} (h : nextRing s c = some ring) : (getRing s c ring).fault = false := by
  have := List.find?_some h
  simp only [ringReady, Bool.and_eq_true, Bool.not_eq_true'] at this
  exact this.1.2

/-! ## Validation -/

/-- What `noteFetch` leaves of a ring: all that an entry needs. -/
theorem noteFetch_ring (s : State) (c ring : Nat) (q : W32) : ∃ f d cv, getRing (noteFetch s c ring q) c ring =
    { getRing s c ring with fetched := f, done := d, cover := cv } := by
  have : getRing (noteFetch s c ring q) c ring = getRing (setRing s c ring _) c ring := rfl
  exact ⟨_, _, _, this.trans (getRing_setRing_same s c ring _)⟩

theorem fetchedCmd_ring (s t : State) (c ring : Nat) (q : W32) (b : Bytes) :
    getRing s (fetchedCmd t c ring q b).client (fetchedCmd t c ring q b).ring = getRing s c ring := rfl

theorem ringPos_noteFetch (s : State) (c left ring : Nat) (q : W32) :
    (getClient (noteFetch (turned s c left ring q) c ring q) c).ringPos = (ring + 1) % 4 := by
  have h : ∀ r, (getClient (setRing (turned s c left ring q) c ring r) c).ringPos =
      (getClient (turned s c left ring q) c).ringPos := fun r => by simp [setRing]
  exact (h _).trans (congrArg Client.ringPos (getClient_turned s c left ring q))

theorem acct_noteFetch (s : State) (c left ring : Nat) (q : W32) :
    (getClient (noteFetch (turned s c left ring q) c ring q) c).acct = (getClient s c).acct := by
  have h : ∀ r, (getClient (setRing (turned s c left ring q) c ring r) c).acct =
      (getClient (turned s c left ring q) c).acct := fun r => by simp [setRing]
  exact (h _).trans ((congrArg Client.acct (getClient_turned s c left ring q)).trans rfl)

/-- A FENCE that breaks no check of step 1 and names no dependency and no bead passes validation. -/
theorem validate_fence {s : State} {c : Cmd} {r : Ring} (hop : c.desc.opcode = 0x0A) (htok : c.desc.token = 0)
    (hbead : c.desc.bead = 0) (h1 : step1 r c.ring c.seq c.desc = true) (hdr src : HostAns) :
    validate s c r (.data []) hdr src = .pass s { c with arg := [] } := by
  have hopn : c.desc.opcode.toNat = 0x0A := by rw [hop]; rfl
  have hfirst : c.desc.first = 0 := by
    simp [step1, hopn, hasGroup, opRUN, opINIT, opEXPORT, opIMPORT, opOPEN, opCLOSE, opBIND] at h1
    tauto
  have h2 : step2 c.desc = true := by
    simp [step2, hopn, htok, hasGroup, usesLenA, usesArg, usesOut, opRUN, opLOAD, opINIT, opEXPORT, opIMPORT, opOPEN, opCLOSE,
      opCOPY, opBIND]
  have he : isEmpty c.desc = false := by
    simp [isEmpty, hopn, hasGroup, opRUN, opLOAD, opINIT, opEXPORT, opIMPORT, opOPEN, opCLOSE, opCOPY, opBIND]
  have hcop : cop c = 0x0A := hopn
  have hgroup : groupCount c = 0 := by
    simp [groupCount, hcop, hasGroup, opRUN, opINIT, opEXPORT, opIMPORT, opOPEN, opCLOSE, opBIND]
  have h4 : step4 s c = true := by simp [step4, groupStreams, hgroup, groupFirst, hfirst]
  have h5 : step5 s c = true := by simp [step5, groupStreams, hgroup]
  have h6 : step6 s c = true := by
    simp [step6, hcop, hbead, usesArg, usesOut, opRUN, opLOAD, opEVICT, opINIT, opEXPORT, opIMPORT, opOPEN, opCOPY, opBIND]
  have hl : validateLate s { c with arg := [] } src = .pass s { c with arg := [] } := by
    have hcop' : cop { c with arg := [] } = 0x0A := hopn
    simp [validateLate, hcop', step7, step8, opRUN, opLOAD, opINIT, opEXPORT, opIMPORT, opBIND]
  simp [validate, h1, h2, he, h4, h5, h6, hl, hcop, opLOAD]

/-- A descriptor that breaks the first check is rejected with BAD_OPCODE. -/
theorem validate_badOpcode {s : State} {c : Cmd} {r : Ring} (h1 : step1 r c.ring c.seq c.desc = false) (g : Got)
    (hdr src : HostAns) : validate s c r g hdr src = .reject stBadOpcode 0 := by
  simp [validate, h1]

/-- A descriptor whose argument block is not read. -/
theorem argRead_unwanted {s : State} {c : Cmd} (h : wantsArg c.desc = false) (a : HostAns) : argRead s c a = (s, .data []) := by
  simp [argRead, h]

theorem wantsArg_fence {d : Desc} (h : d.opcode = 0x0A) : wantsArg d = false := by
  have hopn : d.opcode.toNat = 0x0A := by rw [h]; rfl
  simp [wantsArg, hopn, opRUN, opOPEN, opBIND]

theorem fetched_uncovered {s : State} {c ring : Nat} {q : W32} {b : Bytes} (h : covered (getRing s c ring) q = false)
    (hw : wantsArg (parseDesc b) = false) (a : FetchAns) : fetched s c ring q b a =
      settle (noteFetch s c ring q) (fetchedCmd s c ring q b) (getRing s c ring) (.data []) a.arg a.src := by
  have hw' : wantsArg (fetchedCmd s c ring q b).desc = false := hw
  simp only [fetched, h, Bool.false_eq_true, if_false, argRead_unwanted hw']

/-- A command without a token is queued after every other, and waits from now. -/
theorem enqueue_noToken {s : State} {c : Cmd} (h : c.desc.token = 0) : enqueue s c = { s with
    pwr := { s.pwr with idleFrom := s.time }
    cmds := s.cmds ++ [{ c with stage := .queued, valBead := s.bead.count, waitFrom := s.time, dep := none }] } := by
  simp only [enqueue, h, if_true]

/-- The command of a fetched descriptor as it is queued. -/
def queuedCmd (s : State) (c ring : Nat) (q : W32) (b : Bytes) : Cmd :=
  { fetchedCmd s c ring q b with arg := [], stage := .queued, valBead := s.bead.count, waitFrom := s.time, dep := none }

theorem fetchedCmd_desc (s : State) (c ring : Nat) (q : W32) (b : Bytes) : (fetchedCmd s c ring q b).desc = parseDesc b := rfl

/-- A fetched FENCE is queued after every other command. -/
theorem fetched_fence {s : State} {c ring : Nat} {q : W32} {b : Bytes} (hcov : covered (getRing s c ring) q = false)
    (hop : (parseDesc b).opcode = 0x0A) (htok : (parseDesc b).token = 0) (hbead : (parseDesc b).bead = 0)
    (h1 : step1 (getRing s c ring) ring q (parseDesc b) = true) (f : FetchAns) :
    fetched s c ring q b f = { noteFetch s c ring q with
      pwr := { s.pwr with idleFrom := s.time }, cmds := s.cmds ++ [queuedCmd s c ring q b] } := by
  have hv : validate (noteFetch s c ring q) (fetchedCmd s c ring q b) (getRing s c ring) (.data []) f.arg f.src =
      .pass (noteFetch s c ring q) { fetchedCmd s c ring q b with arg := [] } :=
    validate_fence (by rw [fetchedCmd_desc]; exact hop) (by rw [fetchedCmd_desc]; exact htok) (by rw [fetchedCmd_desc]; exact hbead)
      (by rw [fetchedCmd_desc]; exact h1) f.arg f.src
  rw [fetched_uncovered hcov (wantsArg_fence hop)]
  unfold settle
  rw [hv]
  exact enqueue_noToken (by rw [← fetchedCmd_desc s c ring q b] at htok; exact htok)

/-- A descriptor that breaks the first check retires with BAD_OPCODE. -/
theorem fetched_badOpcode {s : State} {c ring : Nat} {q : W32} {b : Bytes} (hcov : covered (getRing s c ring) q = false)
    (hw : wantsArg (parseDesc b) = false) (h1 : step1 (getRing s c ring) ring q (parseDesc b) = false) (f : FetchAns) :
    fetched s c ring q b f =
      retire (noteFetch s c ring q) (fetchedCmd s c ring q b) stBadOpcode 0 false false := by
  have hv : validate (noteFetch s c ring q) (fetchedCmd s c ring q b) (getRing s c ring) (.data []) f.arg f.src =
      .reject stBadOpcode 0 := validate_badOpcode (by rw [fetchedCmd_desc]; exact h1) (.data []) f.arg f.src
  have hst : ¬ (stBadOpcode = stMemUncorrectable ∧ wantsArg (fetchedCmd s c ring q b).desc = false) :=
    fun h => absurd h.1 (by decide)
  rw [fetched_uncovered hcov hw]
  unfold settle
  rw [hv]
  exact congrArg (fun u => retire u (fetchedCmd s c ring q b) stBadOpcode 0 false false) (if_neg hst)

/-- Settles O12: a refused access is `ringFail`, a FENCE passes all eight steps and is enqueued, and a rejected descriptor
retires at once. -/
theorem ringFaultsAndFetches : Obligations.RingFaultsAndFetches := by
  unfold Obligations.RingFaultsAndFetches
  refine ⟨⟨fun s c ring a hclient hring hen hfault => ?_, fun s f a c left ring q hup hf hc hr hq => ?_⟩,
    fun s f b c left ring q hup hf hc hr hq hcov hop htok hbead h1 => ?_,
    fun s f b c left ring q hup hf hc hr hq hnone hcov hw h1 => ?_⟩
  · obtain ⟨ty, m, he⟩ := ringFail_eq s c ring a.toNat
    refine ⟨_, congrArg Host.Outcome.next (if_pos (by simp [hclient, hring, hen, hfault])), ?_⟩
    rw [he]
    exact ⟨getRing_faulted_same s c ring, faultSt_faulted s c hring, fun n hn => getRing_faulted_ne s c hn,
      fun d hd => getClient_faulted_ne s ring hd, rfl, rfl, rfl, rfl⟩
  · refine ⟨_, execDescriptorFetch_turn hup hc hr hq f, ?_⟩
    rw [hf]
    obtain ⟨ty, m, he⟩ := ringFail_eq (turned s c left ring q) c ring a.toNat
    simp only [he]
    have hring : getRing (faulted (turned s c left ring q) c ring) c ring = { getRing s c ring with fault := true } := by
      rw [getRing_faulted_same, getRing_turned]
    refine ⟨congrArg Ring.fault hring, (congrArg Ring.fetched hring).trans rfl, rfl, rfl⟩
  · have hcov' : covered (getRing (turned s c left ring q) c ring) q = false := by rwa [getRing_turned]
    have hexec := execDescriptorFetch_turn hup hc hr hq f
    rw [hf] at hexec
    simp only [fetched_fence hcov' hop htok hbead (by rw [getRing_turned]; exact h1)] at hexec
    refine ⟨_, queuedCmd (turned s c left ring q) c ring q b, hexec,
      rfl, rfl, rfl, rfl, rfl, ?_, ?_, rfl, rfl, rfl, rfl, rfl, rfl, rfl, rfl, ?_, rfl, rfl, rfl, rfl, rfl, rfl⟩
    · exact congrArg Ring.pasid (getRing_turned s c left ring q ring)
    · exact (congrArg Client.part (getClient_turned s c left ring q)).trans rfl
    · exact ringPos_noteFetch s c left ring q
  · have hcov' : covered (getRing (turned s c left ring q) c ring) q = false := by rwa [getRing_turned]
    have hexec := execDescriptorFetch_turn hup hc hr hq f
    rw [hf] at hexec
    simp only [fetched_badOpcode hcov' hw (by rw [getRing_turned]; exact h1)] at hexec
    -- the ring that the entry is written to is the one the fetch was made from
    obtain ⟨fe, d, cv, hnote⟩ := noteFetch_ring (turned s c left ring q) c ring q
    rw [getRing_turned] at hnote
    have hcmds : (noteFetch (turned s c left ring q) c ring q).cmds = [] := hnone
    obtain ⟨e1, e2, e3, e4, e5, e6⟩ := retire_last_writes (s := noteFetch (turned s c left ring q) c ring q)
      (c := fetchedCmd (turned s c left ring q) c ring q b) (status := stBadOpcode)
      (by rw [hcmds]; intro x hx; cases hx) (.inl (by decide)) (by rw [fetchedCmd_ring, hnote]; exact nextRing_notFaulted hr) rfl
      0 false false _ rfl
    have hend := retire_ended (noteFetch (turned s c left ring q) c ring q) (fetchedCmd (turned s c left ring q) c ring q b)
      stBadOpcode 0 false false
    refine ⟨_, _, hexec, e1, e3, e2, ?_, entryOf_length _ _ _ _ _ _, entryOf_cookie _ _ _ _ _ _, entryOf_status _ _ _ (by decide) _ _, ?_, ?_,
      hend.streams, hend.cores⟩
    · rw [entryDma, fetchedCmd_ring, hnote]
    · exact (congrArg Ring.written e5).trans (by rw [fetchedCmd_ring, hnote])
    · exact (congrArg Acct.retired e6).trans (congrArg (· + 1) (congrArg Acct.retired (acct_noteFetch s c left ring q)))

end Sys2Proof.Machine
end

section
/-! What the stream unit leaves as its queues settle (R251, R266, R302): the rows still to come, the regulator and the rest of the
dispatch. -/

namespace Sys2Proof.Machine

open Sys2Proof Sys2Proof.Ob

/-! ## One queue -/

@[simp] theorem getQ_setQ_same (d : Disp) (q : Nat) (x : Queue) : getQ (setQ d q x) q = x := by simp [getQ, setQ]
theorem getQ_setQ_ne (d : Disp) {q p : Nat} (x : Queue) (h : p ≠ q) : getQ (setQ d q x) p = getQ d p :=
  tget_tput_ne _ _ _ _ _ h

/-- An arming whose index stream has, or has not, been sent. -/
def gathered (g : Bool) (a : Arming) : Arming := { a with gather := g }

@[simp] theorem armDone_gathered (g : Bool) (a : Arming) : armDone (gathered g a) = armDone a := rfl

/-- What settling leaves of a queue: its regulator and half, an arming at its head that has something to issue, and its last. -/
structure QTidy (x y : Queue) : Prop where
  ceiling : y.ceiling = x.ceiling
  rate : y.rate = x.rate
  burst : y.burst = x.burst
  age : y.age = x.age
  bucket : y.bucket = x.bucket
  half : y.half = x.half
  empty : x.arms = [] → y.arms = []
  head : ∀ a r, x.arms = a :: r → armDone a = false → ∃ g, y.arms = gathered g a :: r ∧ (a.offload = false → g = a.gather)
  last : ∀ pre a, x.arms = pre ++ [a] → armDone a = false → ∃ pre' g, y.arms = pre' ++ [gathered g a]

theorem QTidy.of_arms {x y : Queue} (hc : y.ceiling = x.ceiling) (hr : y.rate = x.rate) (hb : y.burst = x.burst)
    (hg : y.age = x.age) (hk : y.bucket = x.bucket) (hh : y.half = x.half) (ha : y.arms = x.arms) : QTidy x y :=
  ⟨hc, hr, hb, hg, hk, hh, fun h => ha.trans h, fun a _ h _ => ⟨a.gather, ha.trans h, fun _ => rfl⟩,
    fun pre a h _ => ⟨pre, a.gather, ha.trans h⟩⟩

theorem QTidy.refl (x : Queue) : QTidy x x := QTidy.of_arms rfl rfl rfl rfl rfl rfl rfl

theorem QTidy.trans {x y z : Queue} (h : QTidy x y) (k : QTidy y z) : QTidy x z where
  ceiling := k.ceiling.trans h.ceiling
  rate := k.rate.trans h.rate
  burst := k.burst.trans h.burst
  age := k.age.trans h.age
  bucket := k.bucket.trans h.bucket
  half := k.half.trans h.half
  empty hx := k.empty (h.empty hx)
  head a r hx ha := by
    obtain ⟨g, hy, hg⟩ := h.head a r hx ha
    obtain ⟨g', hz, hg'⟩ := k.head (gathered g a) r hy ha
    exact ⟨g', hz, fun ho => (hg' ho).trans (hg ho)⟩
  last pre a hx ha := by
    obtain ⟨pre', g, hy⟩ := h.last pre a hx ha
    obtain ⟨pre'', g', hz⟩ := k.last pre' (gathered g a) hy ha
    exact ⟨pre'', g', hz⟩

/-- An arming with nothing left to issue leaves the head of its queue. -/
theorem QTidy.pop {x y : Queue} {a : Arming} {t : List Arming} (hx : x.arms = a :: t) (ha : armDone a = true)
    (hy : y.arms = t) (hc : y.ceiling = x.ceiling) (hr : y.rate = x.rate) (hb : y.burst = x.burst)
    (hg : y.age = x.age) (hk : y.bucket = x.bucket) (hh : y.half = x.half) : QTidy x y where
  ceiling := hc
  rate := hr
  burst := hb
  age := hg
  bucket := hk
  half := hh
  empty h := absurd (hx.symm.trans h) (by simp)
  head b r h hb' := by
    rw [hx] at h
    injection h with h1 h2
    rw [h1, hb'] at ha
    exact absurd ha (by simp)
  last pre b h hb' := by
    rw [hx] at h
    cases pre with
    | nil =>
      injection h with h1 h2
      rw [h1, hb'] at ha
      exact absurd ha (by simp)
    | cons p ps =>
      injection h with h1 h2
      exact ⟨ps, b.gather, hy.trans h2⟩

/-! ## The queues of a dispatch -/

/-- The dispatch `d` with its queues settled: the queues and the tokens of what has ended are all that changes. -/
structure Tidied (d e : Disp) : Prop where
  rest : e = { d with queues := e.queues, tokens := e.tokens }
  queue : ∀ q, QTidy (getQ d q) (getQ e q)

theorem Tidied.refl (d : Disp) : Tidied d d := ⟨rfl, fun _ => QTidy.refl _⟩

theorem Tidied.trans {d e f : Disp} (h : Tidied d e) (k : Tidied e f) : Tidied d f := by
  refine ⟨?_, fun q => (h.queue q).trans (k.queue q)⟩
  rw [k.rest, h.rest]

/-- A change of one queue that settles it. -/
theorem Tidied.setQ {d : Disp} {q : Nat} {x : Queue} (h : QTidy (getQ d q) x) : Tidied d (setQ d q x) := by
  refine ⟨rfl, fun p => ?_⟩
  by_cases hp : p = q
  · subst hp; rwa [getQ_setQ_same]
  · rw [getQ_setQ_ne _ _ hp]; exact QTidy.refl _

theorem Tidied.tokDone {d e : Disp} (h : Tidied d e) (t : Nat) : Tidied d (tokDone e t) :=
  ⟨by rw [Machine.tokDone, h.rest], h.queue⟩

theorem settleQ_tidied : ∀ (fuel q : Nat) (d : Disp), Tidied d (settleQ fuel q d)
  | 0, _, d => Tidied.refl d
  | fuel + 1, q, d => by
    unfold settleQ
    cases ha : (getQ d q).arms with
    | nil => exact Tidied.refl d
    | cons a t =>
      dsimp only
      split
      · next hd =>
        refine Tidied.trans ?_ (settleQ_tidied fuel q _)
        split
        · refine Tidied.setQ ?_
          exact QTidy.pop ha hd rfl rfl rfl rfl rfl rfl rfl
        · refine Tidied.tokDone (Tidied.setQ ?_) _
          exact QTidy.pop ha hd rfl rfl rfl rfl rfl rfl rfl
      · exact Tidied.refl d

theorem markElig_tidied (time : Nat) (d : Disp) (q : Nat) : Tidied d (markElig time d q) :=
  Tidied.setQ (QTidy.of_arms rfl rfl rfl rfl rfl rfl rfl)

theorem Tidied.foldl {f : Disp → Nat → Disp} (h : ∀ d q, Tidied d (f d q)) :
    ∀ (l : List Nat) (d : Disp), Tidied d (l.foldl f d)
  | [], d => Tidied.refl d
  | q :: l, d => (h d q).trans (Tidied.foldl h l (f d q))

theorem tidyD_tidied (time : Nat) (d : Disp) : Tidied d (tidyD time d) :=
  Tidied.foldl (fun d q => (settleQ_tidied 5 q d).trans (markElig_tidied time _ q)) _ d

/-! ## The dispatch put back -/

/-- `t` is `s` but for the dispatch of one core, which is now `e`, and for the gathers at the base dies and on the mesh. -/
structure Streamed (core : Nat) (s t : State) (e : Disp) : Prop where
  rest : ∃ ps n cs, t = { s with piles := ps, net := n, cores := cs }
  here : getCore t core = { getCore s core with disp := some e }
  others : ∀ k, k ≠ core → getCore t k = getCore s k

theorem Streamed.disp {core : Nat} {s t : State} {e : Disp} (h : Streamed core s t e) : getDisp t core = some e := by
  rw [getDisp, h.here]

theorem Streamed.setDisp {core : Nat} {s t : State} {d e : Disp} (h : Streamed core s t d) : Streamed core s (setDisp t core e) e := by
  obtain ⟨ps, n, cs, rfl⟩ := h.rest
  refine ⟨⟨ps, n, _, rfl⟩, ?_, fun k hk => ?_⟩
  · rw [getCore_setDisp_same, h.here]
  · rw [getCore_setDisp_ne _ _ _ _ hk, h.others k hk]

/-- An index stream, of class 2, joins the mesh at once. -/
theorem Streamed.sendGather {core : Nat} {s t : State} {e : Disp} (h : Streamed core s t e) (g : W32) (aid p : Nat) :
    Streamed core s (sendNet t (.gather core g aid p)) e := by
  obtain ⟨ps, n, cs, rfl⟩ := h.rest
  have hsend : ∀ u : State, sendNet u (.gather core g aid p) = { u with net := u.net ++ [.gather core g aid p] } := by
    intro u
    rw [sendNet, if_neg (by simp [pktClass])]
  rw [hsend]
  exact ⟨⟨ps, _, cs, rfl⟩, h.here, h.others⟩

theorem streamed_dropGathers (s : State) (core : Nat) (d e : Disp) :
    Streamed core s (setDisp (dropGathers s core d) core e) e :=
  ⟨⟨_, s.net, _, rfl⟩, by rw [getCore_setDisp_same]; rfl, fun k hk => by rw [getCore_setDisp_ne _ _ _ _ hk]; rfl⟩

/-- One queue's index stream is sent, or nothing happens. -/
def sendGather (core : Nat) (t : State) (q : Nat) : State :=
  match getDisp t core with
  | none => t
  | some d =>
    match (getQ d q).arms with
    | a :: r =>
      if a.offload && !a.gather && decide (gatherPile t core a.mesh < 16) then
        sendNet (setDisp t core (setQ d q { getQ d q with arms := { a with gather := true } :: r }))
          (.gather core d.gen a.aid (gatherPile t core a.mesh))
      else t
    | [] => t

theorem sendGathers_eq (s : State) (core : Nat) (d : Disp) :
    sendGathers s core d = (List.range 8).foldl (sendGather core) (setDisp s core d) := by
  unfold sendGathers
  congr 1

theorem sendGather_streamed {core : Nat} {s t : State} {e : Disp} (h : Streamed core s t e) (q : Nat) :
    ∃ f, Streamed core s (sendGather core t q) f ∧ Tidied e f := by
  unfold sendGather
  rw [h.disp]
  dsimp only
  cases ha : (getQ e q).arms with
  | nil => exact ⟨e, h, Tidied.refl e⟩
  | cons a r =>
    dsimp only
    split
    · next hs =>
      simp only [Bool.and_eq_true] at hs
      refine ⟨_, h.setDisp.sendGather _ _ _, Tidied.setQ ⟨rfl, rfl, rfl, rfl, rfl, rfl, fun h0 => ?_, fun b t hb _ => ?_, fun pre b hb _ => ?_⟩⟩
      · rw [ha] at h0; exact absurd h0 (by simp)
      · rw [ha] at hb
        injection hb with h1 h2
        subst h1 h2
        exact ⟨true, rfl, fun ho => by simp [ho] at hs⟩
      · rw [ha] at hb
        cases pre with
        | nil =>
          injection hb with h1 h2
          subst h1 h2
          exact ⟨[], true, rfl⟩
        | cons p ps =>
          injection hb with h1 h2
          subst h1 h2
          exact ⟨gathered true a :: ps, b.gather, rfl⟩
    · exact ⟨e, h, Tidied.refl e⟩

theorem sendGathers_streamed {core : Nat} {s : State} : ∀ (l : List Nat) {t : State} {e : Disp}, Streamed core s t e →
    ∃ f, Streamed core s (l.foldl (sendGather core) t) f ∧ Tidied e f
  | [], _, e, h => ⟨e, h, Tidied.refl e⟩
  | q :: l, _, _, h => by
    obtain ⟨f, hf, htf⟩ := sendGather_streamed h q
    obtain ⟨g, hg, htg⟩ := sendGathers_streamed l hf
    exact ⟨g, hg, htf.trans htg⟩

/-- A dispatch put back with its queues settled: nothing else of the state changes but the gathers. -/
theorem putStream_streamed (s : State) (core : Nat) (d : Disp) : ∃ e, Streamed core s (putStream s core d) e ∧ Tidied d e := by
  unfold putStream
  dsimp only
  rw [sendGathers_eq]
  obtain ⟨e, he, hte⟩ := sendGathers_streamed (List.range 8) (streamed_dropGathers s core (tidyD s.time d) (tidyD s.time d))
  exact ⟨e, he, (tidyD_tidied s.time d).trans hte⟩

/-- An event of a dispatch that has started. -/
theorem onUnit_at {s : State} {core : Nat} {d : Disp} {c : Cmd} (h : onCore s core d c) (f : Disp → Cmd → State) :
    onUnit s core f = f d c := by
  obtain ⟨hd, hc, hstarted, hgen, hcgen⟩ := h
  rw [onUnit, hd]
  dsimp only
  rw [hc]
  exact if_pos (by rw [hstarted, hgen, hcgen]; simp)

end Sys2Proof.Machine
end

section
/-! Stream queues are armed, set up and regulated (O21). -/

namespace Sys2Proof.Machine

open Sys2Proof Sys2Proof.Ob

/-- The queue that SQGO arms, with the arming and its half turned (R252, R259). -/
def armedQueue (d : Disp) (w : Nat) (b : Bytes) : Queue :=
  { getQ d (fImm w % 8) with
    arms := (getQ d (fImm w % 8)).arms ++
      [armOf d.nextX (areg d (fP w)).toNat (fT w) (getQ d (fImm w % 8)).half b (sreg d (fS w))]
    half := if fieldLE b 40 1 == 0 && bitOf (fieldLE b 41 1) 5 then !(getQ d (fImm w % 8)).half else (getQ d (fImm w % 8)).half }

/-- The dispatch after SQGO, before its queues are settled. -/
def armedDisp (d : Disp) (w : Nat) (b : Bytes) : Disp :=
  tokSet (setQ { d with nextX := d.nextX + 1 } (fImm w % 8) (armedQueue d w b)) (fT w)

section Sqgo

variable {s : State} {core : Nat} {d : Disp} {w : Nat} {b : Bytes}

theorem execOpSqgo_inFlight (h : atWord s core d w 0x70) (hb : blockAt (getCore s core).ls d w 64 = some b)
    (ht : tokPending d (fT w) = false) (hl : (getQ d (fImm w % 8)).arms.length < 4)
    (hf : inFlight d (areg d (fP w)).toNat = true) : exec (.opSqgo core) s = .next (stall s core d 6) := by
  refine congrArg Host.Outcome.next ((issue_at h _).trans ?_)
  simp only [ht, Nat.not_le.2 hl, hb, hf, if_true, if_false, Bool.false_eq_true]

theorem execOpSqgo_refused (h : atWord s core d w 0x70) (hb : blockAt (getCore s core).ls d w 64 = some b)
    (ht : tokPending d (fT w) = false) (hl : (getQ d (fImm w % 8)).arms.length < 4)
    (hf : inFlight d (areg d (fP w)).toNat = false) (hd : sdescOk d b (sreg d (fS w)) = false) (hs : setupOk b = false) :
    exec (.opSqgo core) s = .next (failOob s d) := by
  refine congrArg Host.Outcome.next ((issue_at h _).trans ?_)
  simp only [ht, Nat.not_le.2 hl, hb, hf, hd, hs, if_false, Bool.false_eq_true, Bool.and_false, Bool.or_self]

/-- A good transfer descriptor is armed: the queues are settled with it, and the sequencer goes on. -/
theorem execOpSqgo_arms (h : ready s core d w 0x70) (hb : blockAt (getCore s core).ls d w 64 = some b)
    (ht : tokPending d (fT w) = false) (hl : (getQ d (fImm w % 8)).arms.length < 4)
    (hf : inFlight d (areg d (fP w)).toNat = false) (hk : fieldLE b 40 1 = 0) (hd : sdescOk d b (sreg d (fS w)) = true) :
    ∃ t e, Streamed core s t e ∧ Tidied (armedDisp d w b) e ∧
      exec (.opSqgo core) s = .next (setDisp t core (gone e (d.pc + 1))) := by
  obtain ⟨e, he, hte⟩ := putStream_streamed s core (armedDisp d w b)
  refine ⟨_, e, he, hte, ?_⟩
  have hpc : e.pc = d.pc := by rw [hte.rest]; rfl
  have hbase : e.codeBase = d.codeBase := by rw [hte.rest]; rfl
  have hspan : e.codeSpan = d.codeSpan := by rw [hte.rest]; rfl
  have himem : (getCore (putStream s core (armedDisp d w b)) core).imem = (getCore s core).imem := by rw [he.here]
  have hheld : codeHeld (putStream s core (armedDisp d w b)) core d (d.pc + 1) := by
    have hc := h.2
    rw [codeHeld] at hc ⊢
    rw [codeWord] at hc ⊢
    rwa [himem]
  have hadv : advance (putStream s core (armedDisp d w b)) core e =
      setDisp (putStream s core (armedDisp d w b)) core (gone e (d.pc + 1)) := by
    rw [advance, hpc]
    exact goTo_at e _ hheld hbase hspan
  refine congrArg Host.Outcome.next ((issue_at h.1 _).trans ?_)
  have hok : ((fieldLE b 40 1 == 1 && setupOk b) || (fieldLE b 40 1 == 0 && sdescOk d b (sreg d (fS w)))) = true := by
    simp [hk, hd]
  simp only [ht, Nat.not_le.2 hl, hb, hf, if_false, Bool.false_eq_true, hok, if_true]
  have hdisp := he.disp
  unfold armedDisp armedQueue at hdisp hadv
  rw [hdisp]
  exact hadv

end Sqgo

/-- Settles O21. Arming, set-up and refill each put the dispatch back through `putStream`, of which `Tidied` says what settling its
queues can change: the last arming of a queue that has something to issue stays the last. -/
theorem streamQueues : Obligations.StreamQueues := by
  unfold Obligations.StreamQueues
  refine ⟨fun s core d w b a q add ha hq hadd hb ht hl => ?_, fun s core q d c hon =>
    ⟨fun x r ceil rate burst age harms hset hq => ?_, fun hq hr => ?_, fun ho => ?_⟩⟩
  · subst ha hq hadd
    refine ⟨fun hr hf hk hd hrow hcnt => ?_, fun hw hf => execOpSqgo_inFlight hw hb ht hl hf, fun hw hf hd hs hruns =>
      ⟨_, execOpSqgo_refused hw hb ht hl hf hd hs, failOob_ends hruns⟩⟩
    obtain ⟨t, e, hst, htid, hexec⟩ := execOpSqgo_arms hr hb ht hl hf hk hd
    have hq := htid.queue (fImm w % 8)
    have hqarm : getQ (armedDisp d w b) (fImm w % 8) = armedQueue d w b := getQ_setQ_same _ _ _
    rw [hqarm] at hq
    have harm : armOf d.nextX (areg d (fP w)).toNat (fT w) (getQ d (fImm w % 8)).half b (sreg d (fS w)) =
        { aid := d.nextX, addr := (areg d (fP w)).toNat, token := fT w, mesh := BitVec.ofNat 64 (fieldLE b 0 8) + sreg d (fS w)
          loc := fieldLE b 8 4 + (if bitOf (fieldLE b 41 1) 5 && (getQ d (fImm w % 8)).half then fieldLE b 36 4 else 0)
          lstride := fieldLE b 12 4, rowBytes := fieldLE b 16 4, count := fieldLE b 20 4
          mstride := BitVec.ofNat 64 (fieldLE b 24 8), index := fieldLE b 32 4, offload := bitOf (fieldLE b 41 1) 6
          idx := bitOf (fieldLE b 41 1) 4, write := bitOf (fieldLE b 41 1) 3
          xfer := 64 * 2 ^ bits (fieldLE b 41 1) 2 0 } := by
      simp [armOf, hk]
    obtain ⟨pre, g, hlast⟩ := hq.last (getQ d (fImm w % 8)).arms _ rfl (by rw [harm]; simp [armDone, hrow, hcnt])
    rw [harm] at hlast
    obtain ⟨ps, n, cs, hrest⟩ := hst.rest
    refine ⟨_, gone e (d.pc + 1), pre, _, hexec, getDisp_setDisp_same _ _ _, rfl, hlast, rfl, rfl, rfl, rfl, rfl, rfl, rfl, rfl, rfl,
      rfl, rfl, rfl, ?_, ?_, ?_, ?_, ?_, ?_, ?_, ?_⟩
    · refine hq.half.trans ?_
      simp only [armedQueue, hk, beq_self_eq_true, Bool.true_and]
      cases bitOf (fieldLE b 41 1) 5 <;> simp
    · exact (congrArg Disp.s htid.rest).trans rfl
    · exact (congrArg Disp.a htid.rest).trans rfl
    · exact (congrArg Disp.scr htid.rest).trans rfl
    · exact (congrArg Disp.xfers htid.rest).trans rfl
    · rw [hrest]; rfl
    · rw [hrest]; rfl
    · rw [hrest]; rfl
  · have hexec : exec (.queueSetup core q) s = .next (putStream s core (tokDone (setQ d q { getQ d q with
        arms := r, ceiling := ceil, rate := rate, burst := burst, age := age, bucket := burst, eligAt := none }) x.token)) := by
      refine congrArg Host.Outcome.next ((onUnit_at hon _).trans ?_)
      dsimp only
      rw [harms]
      dsimp only
      rw [hset]
    obtain ⟨e, hst, htid⟩ := putStream_streamed s core (tokDone (setQ d q { getQ d q with
      arms := r, ceiling := ceil, rate := rate, burst := burst, age := age, bucket := burst, eligAt := none }) x.token)
    have hqt := htid.queue q
    have hset' : ∀ (y : Queue) (n : Nat), getQ (tokDone (setQ d q y) n) q = y := fun y n => getQ_setQ_same d q y
    rw [hset'] at hqt
    obtain ⟨ps, n, cs, hrest⟩ := hst.rest
    refine ⟨_, e, hexec, hst.disp, hqt.ceiling, hqt.rate, hqt.burst, hqt.age, hqt.bucket, ?_, ?_, by rw [hrest], by rw [hrest]⟩
    · exact (congrArg Disp.xfers htid.rest).trans rfl
    · exact (congrArg Disp.scr htid.rest).trans rfl
  · have hexec : exec (.regulatorRefill core q) s = .next (putStream s core (setQ d q { getQ d q with
        bucket := min ((getQ d q).bucket + ((getQ d q).rate : Int)) ((getQ d q).burst : Int) })) :=
      congrArg Host.Outcome.next ((onUnit_at hon _).trans (if_pos ⟨hq, hr⟩))
    obtain ⟨e, hst, htid⟩ := putStream_streamed s core (setQ d q { getQ d q with
      bucket := min ((getQ d q).bucket + ((getQ d q).rate : Int)) ((getQ d q).burst : Int) })
    obtain ⟨ps, n, cs, hrest⟩ := hst.rest
    refine ⟨_, e, hexec, hst.disp, ?_, fun p hp => ?_, ?_, by rw [hrest]⟩
    · have := (htid.queue q).bucket
      rwa [getQ_setQ_same] at this
    · have := (htid.queue p).bucket
      rwa [getQ_setQ_ne _ _ hp] at this
    · exact (congrArg Disp.xfers htid.rest).trans rfl
  · exact congrArg Host.Outcome.next ((onUnit_at hon _).trans (if_pos ho))

end Sys2Proof.Machine
end

section
/-! Transfers issue, land and fail (O22). -/

namespace Sys2Proof.Machine

open Sys2Proof Sys2Proof.Ob

theorem getCmd_id {s : State} {id : Nat} {c : Cmd} (h : getCmd s id = some c) : c.id = id := by
  have := List.find?_some h
  simpa using this

/-! ## Rows passed over -/

theorem skipRows_noIndex {ls : Tab Byte} {a : Arming} (h : a.idx = false) : ∀ (fuel : Nat) (d : Disp), skipRows ls fuel d a = (d, a)
  | 0, _ => rfl
  | fuel + 1, d => by simp [skipRows, h]

/-- The rows at the head of one queue that are passed over. -/
def skipHead (ls : Tab Byte) (d : Disp) (q : Nat) : Disp :=
  match (getQ d q).arms with
  | a :: t => setQ (skipRows ls (a.count - a.row) d a).1 q { getQ (skipRows ls (a.count - a.row) d a).1 q with
      arms := (skipRows ls (a.count - a.row) d a).2 :: t }
  | [] => d

theorem skipAll_eq (ls : Tab Byte) (d : Disp) : skipAll ls d = (List.range 8).foldl (skipHead ls) d := rfl

/-- An arming at the head of a queue reads no row indices. -/
def headsDirect (d : Disp) : Prop := ∀ q a r, (getQ d q).arms = a :: r → a.idx = false

theorem skipHead_direct {ls : Tab Byte} {d : Disp} (h : headsDirect d) (q : Nat) :
    Tidied d (skipHead ls d q) ∧ headsDirect (skipHead ls d q) := by
  unfold skipHead
  cases ha : (getQ d q).arms with
  | nil => exact ⟨Tidied.refl d, h⟩
  | cons a t =>
    dsimp only
    rw [skipRows_noIndex (h q a t ha)]
    dsimp only
    refine ⟨Tidied.setQ (QTidy.of_arms rfl rfl rfl rfl rfl rfl ha.symm), fun p b r hb => ?_⟩
    by_cases hp : p = q
    · subst hp
      rw [getQ_setQ_same] at hb
      exact h p b r (ha.trans hb)
    · rw [getQ_setQ_ne _ _ hp] at hb
      exact h p b r hb

theorem skipAll_tidied {ls : Tab Byte} {d : Disp} (h : headsDirect d) : Tidied d (skipAll ls d) := by
  rw [skipAll_eq]
  generalize List.range 8 = l
  induction l generalizing d with
  | nil => exact Tidied.refl d
  | cons q l ih =>
    obtain ⟨ht, hd⟩ := skipHead_direct (ls := ls) h q
    exact ht.trans (ih hd)

/-! ## The queue that issues -/

theorem eligible_empty {d : Disp} {q : Nat} (h : (getQ d q).arms = []) : eligible d q = false := by
  simp [eligible, h]

/-- With one queue eligible, and no age limit on it, that queue issues. -/
theorem pickQueue_only {now q : Nat} {d : Disp} (hq : q < 8) (he : eligible d q = true) (hage : (getQ d q).age = 0)
    (ho : ∀ p, p ≠ q → eligible d p = false) : pickQueue now d = some q := by
  have hover : ∀ p, overAge now d p = false := by
    intro p
    by_cases hp : p = q
    · subst hp; simp [overAge, hage]
    · simp [overAge, ho p hp]
  have hany : anyOver now d = false := by simp [anyOver, hover]
  have hl : (List.range 8).filter (eligible d) = [q] := by
    have : (List.range 8).filter (eligible d) = (List.range 8).filter (fun p => p == q) := by
      refine List.filter_congr fun p _ => ?_
      by_cases hp : p = q
      · subst hp; simp [he]
      · simp [ho p hp, hp]
    rw [this]
    interval_cases q <;> rfl
  simp only [pickQueue, hany, Bool.false_eq_true, if_false, hl, leastBy]

/-! ## The end of a transfer -/

/-- A transfer that ends frees its tag; beside it only queues and tokens change. -/
theorem endXfer_streamed (s : State) (core : Nat) (d : Disp) (x : Xfer) : ∃ e, Streamed core s (endXfer s core d x) e ∧
    e = { freeTag d x with queues := e.queues, tokens := e.tokens } := by
  unfold endXfer
  split
  · exact ⟨_, ⟨⟨s.piles, s.net, _, rfl⟩, getCore_setDisp_same _ _ _, fun k hk => getCore_setDisp_ne _ _ _ _ hk⟩, rfl⟩
  · split
    · obtain ⟨e, he, ht⟩ := putStream_streamed s core (tokDone (dropArm (freeTag d x) x) x.token)
      exact ⟨e, he, ht.rest⟩
    · obtain ⟨e, he, ht⟩ := putStream_streamed s core (freeTag d x)
      exact ⟨e, he, ht.rest⟩

/-- Without staged output a command's own reads see what the host gave. -/
theorem ownOutput_unwritten {c : Cmd} (h : c.wrote = []) (s : State) (a : Nat) (b : Bytes) : ownOutput s c a b = b := by
  unfold ownOutput
  split
  · rfl
  · simp only [h, List.any_nil, Bool.false_eq_true, if_false]
    exact List.map_snd_zip (by simp)

theorem slice_all {b : Bytes} {n : Nat} (h : b.length = n) : slice b 0 n = b := by
  subst h
  simpa using slice_append_left b []

/-! ## A host read issues -/

/-- A read of host memory, of an address in its range, waits for the host. -/
theorem route_hostRead {s : State} {core : Nat} {d : Disp} {c : Cmd} {m : W64} {n : Nat} (tr : Nat → Trans)
    (h : meshRange 0 m n = true) : route s core d c tr 0 false m n = some (.host, [], none) := by
  simp [route, h]

/-- The head of a queue is an arming of a host read: the transfer asks the host, and the arming steps past it. -/
theorem issueXfer_host {s : State} {core q : Nat} {d : Disp} {c : Cmd} {a : Arming} {rest : List Arming}
    (hk : meshKind a.mesh = 0) (hoff : a.offload = false) (hidx : a.idx = false) (hw : a.write = false)
    (h1 : meshRange 0 (a.mesh + BitVec.ofNat 64 a.row * a.mstride) 1 = true)
    (hn : meshRange 0 (a.mesh + BitVec.ofNat 64 a.row * a.mstride + BitVec.ofNat 64 a.off) (nextBytes a) = true) :
    issueXfer s core q d c a rest = putStream (dmaRead s (some c.pasid.toNat)
        (bits (a.mesh + BitVec.ofNat 64 a.row * a.mstride + BitVec.ofNat 64 a.off).toNat 61 0) (nextBytes a)) core
      (takeTag d q a rest (nextXfer (getCore s core).ls q d a .host [] none)) := by
  have hrow : xferRow (getCore s core).ls d a = a.mesh + BitVec.ofNat 64 a.row * a.mstride := by
    simp [xferRow, rowIndex, hidx]
  unfold issueXfer
  simp only [hrow, hk, h1, hoff, hw, Bool.not_true, Bool.false_eq_true, if_false, Bool.false_and, route_hostRead _ hn]
  rfl

/-- With no transfer out and no rate set, a queue whose head has something to issue is eligible. -/
theorem eligible_first {d : Disp} {q : Nat} {a : Arming} {r : List Arming} (ha : (getQ d q).arms = a :: r) (hs : a.setup = none)
    (hd : armDone a = false) (hx : d.xfers = []) (hc : 0 < (getQ d q).ceiling) (hr : (getQ d q).rate = 0) :
    eligible d q = true := by
  have htags : queueTags d q = 0 := by simp [queueTags, hx]
  simp only [eligible, ha, hs, hd, htags, hr, hc]
  rfl

/-- The dispatch in or out of priority mode, as its oldest transfer has it (R266). -/
def prioDisp (now : Nat) (d : Disp) : Disp := { d with prio := anyOver now d }

/-- The only queue that has something to issue, a row of host memory, asks the host for it. -/
theorem execTransferIssue_host {s : State} {core q : Nat} {d e : Disp} {c : Cmd} {a : Arming} (hon : onCore s core d c)
    (hq : q < 8) (hs : Streamed core s (putStream s core (skipAll (getCore s core).ls d)) e) (hx : e.xfers = [])
    (ha : (getQ e q).arms = [a]) (hother : ∀ p, p ≠ q → (getQ e p).arms = []) (hrate : (getQ e q).rate = 0)
    (hceil : 0 < (getQ e q).ceiling) (hage : (getQ e q).age = 0) (hset : a.setup = none) (hdone : armDone a = false)
    (hk : meshKind a.mesh = 0) (hoff : a.offload = false) (hidx : a.idx = false) (hw : a.write = false)
    (h1 : meshRange 0 (a.mesh + BitVec.ofNat 64 a.row * a.mstride) 1 = true)
    (hn : meshRange 0 (a.mesh + BitVec.ofNat 64 a.row * a.mstride + BitVec.ofNat 64 a.off) (nextBytes a) = true) :
    exec (.transferIssue core) s = .next (putStream (dmaRead (putStream s core (skipAll (getCore s core).ls d))
        (some c.pasid.toNat)
        (bits (a.mesh + BitVec.ofNat 64 a.row * a.mstride + BitVec.ofNat 64 a.off).toNat 61 0) (nextBytes a)) core
      (takeTag (prioDisp s.time e) q a [] (nextXfer (getCore s core).ls q (prioDisp s.time e) a .host [] none))) := by
  have hls : (getCore (putStream s core (skipAll (getCore s core).ls d)) core).ls = (getCore s core).ls := by rw [hs.here]
  have htags : ¬ 64 ≤ mainTags (prioDisp s.time e) := by simp [mainTags, prioDisp, hx]
  have hpick : pickQueue s.time (prioDisp s.time e) = some q :=
    pickQueue_only hq (eligible_first (d := prioDisp s.time e) ha hset hdone hx hceil hrate) hage
      fun p hp => eligible_empty (d := prioDisp s.time e) (hother p hp)
  have hissue := issueXfer_host (s := putStream s core (skipAll (getCore s core).ls d)) (core := core) (q := q)
    (d := prioDisp s.time e) (c := c) (rest := []) hk hoff hidx hw h1 hn
  rw [hls] at hissue
  refine congrArg Host.Outcome.next ((onUnit_at hon _).trans ?_)
  dsimp only
  rw [hs.disp]
  show (if 64 ≤ mainTags (prioDisp s.time e) then _ else _) = _
  rw [if_neg htags]
  show (match pickQueue s.time (prioDisp s.time e) with | none => _ | some q => _) = _
  rw [hpick]
  show (match (getQ (prioDisp s.time e) q).arms with | a :: t => _ | [] => _) = _
  rw [show (getQ (prioDisp s.time e) q).arms = [a] from ha]
  exact hissue

/-- Settles O22. Settling leaves the one arming that has something to issue (`Tidied`), so its queue is the one that is picked;
the ends of transfers and their faults are `endXfer` and the causes of `killPage` and `killUe`. -/
theorem transfersServeOrFault : Obligations.TransfersServeOrFault := by
  unfold Obligations.TransfersServeOrFault
  refine ⟨⟨fun s core q d c x a hon hq hqs harms hout hxf hrate hceil hage hset hoff hidx hw hrow hro hx hk h1 hn => ?_,
    fun s core xid d c x b hon hfind hstat hwrote hlen hwin => ?_⟩, fun s core xid d c x r hon hfind hrun => ?_⟩
  · have hgetq : getQ d q = x := by simp [getQ, hqs, tget]
    have hother : ∀ p, p ≠ q → getQ d p = {} := fun p hp => by simp [getQ, hqs, tget, Ne.symm hp]
    have hdirect : headsDirect d := by
      intro p b t hb
      by_cases hp : p = q
      · subst hp
        rw [hgetq, harms] at hb
        injection hb with hb1
        rw [← hb1]; exact hidx
      · rw [hother p hp] at hb; exact absurd hb (by simp)
    obtain ⟨e1, hs1, ht1⟩ := putStream_streamed s core (skipAll (getCore s core).ls d)
    have htid := (skipAll_tidied (ls := (getCore s core).ls) hdirect).trans ht1
    have hdone : armDone a = false := by
      simp only [armDone, Bool.and_eq_false_imp, Bool.or_eq_false_iff]
      intro _
      exact ⟨beq_eq_false_iff_ne.2 (by omega), decide_eq_false (by omega)⟩
    have hqt := htid.queue q
    rw [hgetq] at hqt
    obtain ⟨g, harm1, hg⟩ := hqt.head a [] harms hdone
    rw [hg hoff, show gathered a.gather a = a from rfl] at harm1
    have hempty : ∀ p, p ≠ q → (getQ e1 p).arms = [] := fun p hp => (htid.queue p).empty (by rw [hother p hp])
    have hx1 : e1.xfers = [] := ((congrArg Disp.xfers htid.rest).trans rfl).trans hxf
    have hexec := execTransferIssue_host hon hq hs1 hx1 harm1 hempty (hqt.rate.trans hrate) (by rw [hqt.ceiling]; exact hceil)
      (hqt.age.trans hage) hset hdone hk hoff hidx hw h1 hn
    obtain ⟨ps, n, cs, hrest⟩ := hs1.rest
    generalize hy : nextXfer (getCore s core).ls q (prioDisp s.time e1) a .host [] none = y at hexec
    generalize hu : dmaRead (putStream s core (skipAll (getCore s core).ls d)) (some c.pasid.toNat)
        (bits (a.mesh + BitVec.ofNat 64 a.row * a.mstride + BitVec.ofNat 64 a.off).toNat 61 0) (nextBytes a) = u at hexec
    obtain ⟨e2, hs2, ht2⟩ := putStream_streamed u core (takeTag (prioDisp s.time e1) q a [] y)
    obtain ⟨ps2, n2, cs2, hrest2⟩ := hs2.rest
    have hmesh : y.mesh = a.mesh + BitVec.ofNat 64 a.row * a.mstride + BitVec.ofNat 64 a.off := by
      rw [← hy]; simp [nextXfer, xferRow, rowIndex, hidx]
    have hnx : e1.nextX = d.nextX := (congrArg Disp.nextX htid.rest).trans rfl
    refine ⟨_, e2, y, hexec, hs2.disp, ?_, ?_, ?_, by rw [← hy]; rfl, by rw [← hy]; rfl, by rw [← hy]; exact hw, hmesh,
      by rw [← hy]; rfl, by rw [← hy]; rfl, by rw [← hy]; rfl, ?_, ?_, ?_, ?_, ?_⟩
    · refine (congrArg Disp.xfers ht2.rest).trans ?_
      show e1.xfers ++ [y] = [y]
      rw [hx1]; rfl
    · rw [← hy]; exact hnx
    · refine (congrArg Disp.nextX ht2.rest).trans ?_
      show e1.nextX + 1 = _
      rw [hnx]
    · refine (congrArg Disp.scr ht2.rest).trans ?_
      exact (congrArg Disp.scr htid.rest).trans rfl
    · rw [hrest2, ← hu, hrest]; rfl
    · rw [hrest2, ← hu, hrest]; rfl
    · rw [hrest2, ← hu, hrest, hmesh, show y.bytes = nextBytes a by rw [← hy]; rfl]; rfl
    · rw [hrest2, ← hu, hrest]; rfl
  · have hexec : exec (.transferComplete core xid b) s = .next (endXfer s core (winWrite d x.loc b) x) := by
      refine congrArg Host.Outcome.next ((onUnit_at hon _).trans ?_)
      rw [hfind]
      simp only [hstat, ownOutput_unwritten hwrote, slice_all hlen]
      rfl
    obtain ⟨e, hst, he⟩ := endXfer_streamed s core (winWrite d x.loc b) x
    obtain ⟨ps, n, cs, hrest⟩ := hst.rest
    refine ⟨_, e, hexec, hst.disp, ?_, ?_, fun z hz hout => ?_, ?_, ?_, ?_, by rw [hrest], by rw [hrest], by rw [hrest]⟩
    · rw [he]; exact winRead_winWrite_same _ hlen hwin
    · rw [he]; rfl
    · rw [he]; exact winByte_winWrite_outside _ d b hz (by rw [hlen]; exact hout)
    · rw [he]; rfl
    · rw [he]; rfl
    · rw [he]; rfl
  · have hid : getCmd s c.id = some c := by
      have := hon.2.1
      rwa [← getCmd_id this] at this
    have hends : ∀ k slice, ∃ c1 kl, getCmd (startKill s c.id k slice) c.id = some c1 ∧ c1.stage = .killing ∧
        c1.kill = some kl ∧ kl.kind = k := fun k slice => ⟨_, _, startKill_running hid hrun k slice, rfl, rfl, rfl⟩
    have hexec : exec (.transferFault core xid r) s = .next (match x.stat with
        | .badPage a => killPage s c x.write a
        | .badAddr a => startKill s c.id (.ends stPageFault a) false
        | .badLine pa => killUe s c pa
        | .host => (match r with | some a => startKill s c.id (.ends stPageFault a.toNat) false | none => s)
        | _ => s) := by
      refine congrArg Host.Outcome.next ((onUnit_at hon _).trans ?_)
      rw [hfind] <;> rfl
    refine ⟨fun a hstat hr => ?_, fun a hstat => ?_, fun a e hstat hwalk => ?_, fun pa hstat hue => ?_⟩
    · subst hr
      rw [hstat] at hexec
      exact ⟨_, hexec, hends _ _⟩
    · rw [hstat] at hexec
      exact ⟨_, hexec, hends _ _⟩
    · rw [hstat] at hexec
      refine ⟨_, hexec, ?_⟩
      simp only [killPage, hwalk]
      exact hends _ _
    · rw [hstat] at hexec
      have hmod : getCmd (modCmd s c.id fun c => { c with lastUe := some (pa, c.dispatches) }) c.id =
          some { c with lastUe := some (pa, c.dispatches) } := getCmd_modCmd_same s c.id _ c hid fun _ => rfl
      have hkill := startKill_running hmod hrun .counted false
      have hue' : killUe s c pa =
          startKill (modCmd s c.id fun c => { c with lastUe := some (pa, c.dispatches) }) c.id .counted false := by
        simp only [killUe, hue]
      rw [← hue'] at hkill
      exact ⟨_, _, _, hexec, hkill, rfl, rfl, rfl, rfl⟩

end Sys2Proof.Machine
end

section
/-! Thimbles and offloaded gathers (O23). -/

namespace Sys2Proof.Machine

open Sys2Proof Sys2Proof.Ob

/-- The packet is an index stream of the arming. -/
def isGather (core aid : Nat) (p : Packet) : Bool := match p with | .gather c _ a _ => c == core && a == aid | _ => false

theorem isGather_iff {core aid : Nat} {p : Packet} : isGather core aid p = true ↔ ∃ g q, p = .gather core g aid q := by
  unfold isGather
  split
  · next c g a q =>
    simp only [Bool.and_eq_true, beq_iff_eq, Packet.gather.injEq]
    constructor
    · rintro ⟨rfl, rfl⟩; exact ⟨g, q, rfl, rfl, rfl, rfl⟩
    · rintro ⟨_, _, hc, _, ha, _⟩; exact ⟨hc, ha⟩
  · next h =>
    simp only [Bool.false_eq_true, false_iff]
    rintro ⟨g, q, rfl⟩
    exact h _ _ _ _ rfl

/-- The first packet with a property, behind others without it, is found and leaves alone. -/
theorem find_and_erase {hit : Packet → Bool} {x : Packet} {pre : List Packet} (post : List Packet) (hx : hit x = true)
    (hpre : ∀ p ∈ pre, hit p = false) : (pre ++ x :: post).find? hit = some x ∧ (pre ++ x :: post).erase x = pre ++ post := by
  have hnone : pre.find? hit = none := List.find?_eq_none.2 fun p hp => by simp [hpre p hp]
  constructor
  · rw [List.find?_append, hnone]
    simp [hx]
  · have hmem : x ∉ pre := fun h => by simp [hpre x h] at hx
    rw [List.erase_append_right _ hmem, List.erase_cons_head]

/-- The oldest index stream of an arming, while the mesh is on and it heads its class. -/
theorem execGatherIndexStream_head {s : State} {core aid pile : Nat} {g : W32} {pre post : List Packet}
    (hnet : s.net = pre ++ .gather core g aid pile :: post) (hpre : ∀ p ∈ pre, ∀ g' p', p ≠ .gather core g' aid p')
    (hon : meshOn s = true) (hhead : headOf s 2 core (pileLoc pile) = some (.gather core g aid pile)) :
    exec (.gatherIndexStream core aid) s =
      (if genCurrent s g && (getDisp s core).any fun d => d.gen == g && armAlive d aid then
        if (getPile s pile).gathers.length < 64 then
          .next (setPile { s with net := pre ++ post } pile { getPile s pile with
            gathers := (getPile s pile).gathers ++ [{ core := core, aid := aid, gen := g }] })
        else .next s
      else .next { s with net := pre ++ post }) := by
  have hfalse : ∀ p ∈ pre, isGather core aid p = false := fun p hp =>
    Bool.eq_false_iff.2 fun h => by
      obtain ⟨g', q, rfl⟩ := isGather_iff.1 h
      exact hpre _ hp g' q rfl
  obtain ⟨hfind, herase⟩ := find_and_erase post (isGather_iff.2 ⟨g, pile, rfl⟩) hfalse
  rw [← hnet] at hfind herase
  show execGatherIndexStream core aid s = _
  unfold execGatherIndexStream
  dsimp only
  show (match s.net.find? (isGather core aid) with | some (.gather c g a p) => _ | _ => _) = _
  rw [hfind]
  simp only [hon, hhead, herase, bne_self_eq_false, Bool.not_true, Bool.or_self, Bool.false_eq_true, if_false]

/-- Settles O23. -/
theorem thimblesAndGathers : Obligations.ThimblesAndGathers := by
  unfold Obligations.ThimblesAndGathers
  refine ⟨⟨fun s core d w b a ha hr ht hl hmod hwin hb hok => ?_, fun s core d c x r hon hthims => ⟨fun h0 => ?_, fun h0 htags hw hk hm => ?_⟩⟩,
    fun s core aid pile g pre post hnet hpre hmesh hhead => ?_, fun s core aid p d c x l b e hon hat hfind hroute => ?_⟩
  · subst ha hb
    have hlow : bits (fieldLE (winRead (getCore s core).ls d (areg d (fP w)).toNat 32) 12 1) 6 0 =
        fieldLE (winRead (getCore s core).ls d (areg d (fP w)).toNat 32) 12 1 % 128 := by simp [bits]
    refine congrArg Host.Outcome.next ((issue_at hr.1 _).trans ?_)
    simp only [ht, Nat.not_le.2 hl, hmod, hwin, hok, hlow, if_true, if_false, Bool.false_eq_true, beq_self_eq_true, Bool.and_self,
      Bool.not_true]
    exact advance_at hr _ rfl rfl rfl
  · refine congrArg Host.Outcome.next ((onUnit_at hon _).trans ?_)
    rw [hthims]
    exact if_pos h0
  · refine congrArg Host.Outcome.next ((onUnit_at hon _).trans ?_)
    rw [hthims]
    dsimp only
    rw [if_neg h0, if_neg (Nat.not_le.2 htags), hk, hw, route_hostRead _ hm]
    rfl
  · have hexec := execGatherIndexStream_head hnet hpre hmesh hhead
    refine ⟨fun d hd hg hal hgen hlen => ?_, fun d hd hg hal hgen hlen => ?_, fun hgen => ?_⟩
    · rw [if_pos (by simp [hd, hg, hal, hgen]), if_pos hlen] at hexec
      exact ⟨_, hexec, rfl, by rw [getPile_setPile_same], fun p hp => getPile_setPile_ne _ _ _ _ hp, rfl, rfl⟩
    · rw [if_pos (by simp [hd, hg, hal, hgen]), if_neg (Nat.not_lt.2 hlen)] at hexec
      exact hexec
    · rw [if_neg (by simp [hgen])] at hexec
      exact hexec
  · refine congrArg Host.Outcome.next ((onUnit_at hon _).trans ?_)
    rw [hat, hfind]
    dsimp only
    rw [hroute]
    rfl

end Sys2Proof.Machine
end

section
/-! O24: the base dies serve the line pieces of transfers (R256, R282, R284, R295). -/

namespace Sys2Proof.Machine

open Sys2Proof Sys2Proof.Ob

/-! ### Lines and the bytes they hold -/

theorem memGet_memPut_same (m : Tab Byte) (a : Nat) (b : Bytes) : memGet (memPut m a b) a b.length = b := by
  apply List.ext_getElem (by simp)
  intro i _ hi
  simp only [memGet, List.getElem_map, List.getElem_range]
  rw [memPut_inside b m a i hi, List.getElem?_eq_getElem hi]
  rfl

/-- A line with no flips to correct, while the erasures are few enough, is read at once (R282, R283). -/
theorem serveLine_clean {s : State} {line : Nat} (he : lineErrs s line = []) (hc : correctable s line [] = true) :
    serveLine s line [] [] = some ([], []) ∧ readTwice s line [] = false := by
  have hdec : decodeLine s line (errXor (lineErrs s line) []) = some ([], []) := by
    simp [he, errXor, decodeLine, hc]
  simp [serveLine, readTwice, hdec]

theorem lineData_noFlips (s : State) (pa n : Nat) : lineData s pa n [] = memGet s.pile.mem pa n := by
  simp [lineData, memGet, flipByte]

@[simp] theorem countCe_clean (s : State) (pa : Nat) : countCe s pa [] false = s := by simp [countCe, bumpCe, b2n]

/-- Every line that whole lines' bytes touch lies in them. -/
theorem lineWhole_of_mem {pa n l : Nat} (h : pa % 64 = 0) (hn : n % 64 = 0) (hl : l ∈ linesOf pa n) : lineWhole pa n l = true := by
  unfold linesOf at hl
  split at hl
  · cases hl
  · obtain ⟨i, hi, rfl⟩ := List.mem_map.1 hl
    rw [List.mem_range] at hi
    simp only [lineWhole, Bool.and_eq_true, decide_eq_true_eq]
    omega

/-- A write of whole lines merges nothing: its bytes stand, and memory is else as it was (R284). -/
theorem pmWrite_whole_mem (s : State) {pa : Nat} {b : Bytes} (h : pa % 64 = 0) (hb : b.length % 64 = 0) :
    (pmWrite s pa b).pile.mem = memPut s.pile.mem pa b := by
  have hmerged : mergedLines s pa b.length = [] :=
    List.filter_eq_nil_iff.2 fun l hl => by simp [lineWhole_of_mem h hb hl]
  have hbad : badMerge s pa b.length = [] :=
    List.filter_eq_nil_iff.2 fun l hl => by simp [lineWhole_of_mem h hb hl]
  simp only [pmWrite, hmerged, hbad, List.foldl_nil]

/-! ### The transfer goes on -/

theorem putXfer_at {s : State} {core : Nat} {d : Disp} (h : getDisp s core = some d) (x : Xfer) :
    putXfer s core x = setDisp s core (setXfer d x) := by rw [putXfer, h]

/-- Every transfer of the number is the one that was set. -/
theorem mem_setXfer {d : Disp} {x y : Xfer} (hy : y ∈ (setXfer d x).xfers) (hid : y.xid = x.xid) : y = x := by
  obtain ⟨z, _, rfl⟩ := List.mem_map.1 hy
  by_cases hz : (z.xid == x.xid) = true
  · rw [if_pos hz]
  · rw [if_neg hz] at hid
    exact absurd (beq_iff_eq.2 hid) hz

/-- The transfer that a line piece belongs to is of the dispatch that the core holds. -/
theorem lineJob_disp {s : State} {core xid : Nat} {w : Bool} {j : LineJob} (h : lineJob s core xid w = some j) :
    getDisp s core = some j.d := by
  unfold lineJob at h
  split at h
  · cases h
  next d hd =>
    split at h
    next c x hc hx =>
      split at h
      · split at h
        · cases h; exact hd
        · cases h
      · cases h
    · cases h

theorem slotUnwritten_noEntry (s : State) (g : W32) {x : Xfer} (h : x.entry = none) : slotUnwritten s g x = none := by
  simp [slotUnwritten, h]

theorem markWritten_written {s : State} {g : W32} {x : Xfer} (h : slotUnwritten s g x = none) : markWritten s g x = s := by
  rw [markWritten, h]

theorem noteWrote_unstaged (s : State) {j : LineJob} (h : pieceOf j.c j.pa = none) : noteWrote s j = s := by
  rw [noteWrote, h]

/-! ### The operations -/

theorem execPileRead_noLine {s : State} {core xid : Nat} {j : LineJob} (hj : lineJob s core xid false = some j)
    (hp : paOk s j.pa = false) (e1 e2 : ErrPat) : execPileRead core xid e1 e2 s = .fault (.noSuchLine j.pa) := by
  simp [execPileRead, hj, hp]

theorem execPileWrite_noLine {s : State} {core xid : Nat} {j : LineJob} (hj : lineJob s core xid true = some j)
    (hp : paOk s j.pa = false) (e1 e2 : ErrPat) : execPileWrite core xid e1 e2 s = .fault (.noSuchLine j.pa) := by
  simp [execPileWrite, hj, hp]

theorem execPileRead_clean {s : State} {core xid : Nat} {j : LineJob} (hj : lineJob s core xid false = some j)
    (hp : paOk s j.pa = true) (he : lineErrs s (j.pa / 64 * 64) = []) (hc : correctable s (j.pa / 64 * 64) [] = true)
    (hentry : j.x.entry = none) :
    execPileRead core xid [] [] s = .next (nextFree (setDisp s core (setXfer j.d
      { j.x with data := j.x.data ++ memGet s.pile.mem j.pa j.n, stat := restStat j.rest }))) := by
  obtain ⟨hserve, htwice⟩ := serveLine_clean he hc
  simp [execPileRead, hj, hp, hserve, htwice, slotUnwritten_noEntry s j.d.gen hentry, lineData_noFlips,
    putXfer_at (lineJob_disp hj)]

theorem execPileWrite_line {s : State} {core xid : Nat} {j : LineJob} (hj : lineJob s core xid true = some j)
    (hp : paOk s j.pa = true) (hbusy : channelBusy j = false) (hslot : slotUnwritten s j.d.gen j.x = none)
    (hpiece : pieceOf j.c j.pa = none) (hn : j.n = 64) (hrest : j.rest = []) (hbytes : j.x.bytes = 64)
    (hlen : j.x.data.length = 64) :
    execPileWrite core xid [] [] s =
      .next (setDisp (pmWrite s j.pa j.x.data) core (setXfer j.d { j.x with stat := .served })) := by
  have hdata : slice j.x.data (j.x.bytes - (j.n + sumN (j.rest.map Prod.snd))) j.n = j.x.data := by
    simp [hn, hrest, hbytes, sumN, slice_all hlen]
  have hdisp : getDisp (pmWrite s j.pa j.x.data) core = some j.d := lineJob_disp hj
  have hline : writeLine s core j [] [] =
      setDisp (pmWrite s j.pa j.x.data) core (setXfer j.d { j.x with stat := .served }) := by
    rw [writeLine, if_pos hn, hdata, noteWrote_unstaged _ hpiece, putXfer_at hdisp, hrest]
    rfl
  simp only [execPileWrite, hj, hp, hbusy, hpiece, markWritten_written hslot, hline]
  rfl

/-- Settles O24: a line without errors is read as memory holds it, a whole line is written without a merge. That an
address of no pile stops the machine is the model's own choice: R279 says that no such address is generated. -/
theorem pileReadsAndWrites : Obligations.PileReadsAndWrites := by
  intro s core xid j
  refine ⟨fun e1 e2 hj hp => execPileRead_noLine hj hp e1 e2, fun e1 e2 hj hp => execPileWrite_noLine hj hp e1 e2,
    ?_, ?_⟩
  · intro hj hp he hc hentry
    refine ⟨_, _, execPileRead_clean hj hp he hc hentry, getDisp_setDisp_same _ _ _, ?_, rfl, rfl, rfl⟩
    intro y hy hid
    rw [mem_setXfer hy hid]
    exact ⟨rfl, rfl⟩
  · intro hj hp hbusy hslot hpiece hn hrest hbytes hlen hal
    have hmem : (pmWrite s j.pa j.x.data).pile.mem = memPut s.pile.mem j.pa j.x.data := pmWrite_whole_mem s hal (by omega)
    refine ⟨_, _, execPileWrite_line hj hp hbusy hslot hpiece hn hrest hbytes hlen, getDisp_setDisp_same _ _ _,
      ?_, ?_, ?_, rfl, rfl⟩
    · calc memGet (pmWrite s j.pa j.x.data).pile.mem j.pa 64 = memGet (memPut s.pile.mem j.pa j.x.data) j.pa j.x.data.length := by
            rw [hmem, hlen]
        _ = j.x.data := memGet_memPut_same _ _ _
    · intro a ha
      exact (congrArg (tget 0 · a) hmem).trans (memPut_outside _ _ _ _ (by omega))
    · intro y hy hid
      rw [mem_setXfer hy hid]

end Sys2Proof.Machine
end

section
/-! What leaves the package: flits queued at the ports, and what the Crown sends in FL0 (R340, R341, R343). -/

namespace Sys2Proof.Machine

open Sys2Proof

/-- Queueing flits changes the ports and uses free bytes. -/
theorem queueFlits_eq (s : State) (cls dst n : Nat) : ∃ ps fr, queueFlits s cls dst n = { s with ports := ps, free := fr } := by
  unfold queueFlits
  split
  · exact ⟨_, _, rfl⟩
  · exact ⟨_, _, rfl⟩

/-- A remote read request leaves on the wire (R356). -/
theorem sendRead_eq (s : State) (dst core : Nat) (g : W32) (b : Bytes) : ∃ ps fr, sendRead s dst core g b =
    { s with io := { s.io with wire := s.io.wire ++ [.readRequest dst core (entryDie core) g b] }, ports := ps, free := fr } :=
  queueFlits_eq _ _ _ _

/-- So does the reply to one (R357). -/
theorem sendReply_eq (s : State) (dst core : Nat) (g : W32) (b : Bytes) : ∃ ps fr, sendReply s dst core g b =
    { s with io := { s.io with wire := s.io.wire ++ [.readReply dst core g b] }, ports := ps, free := fr } :=
  queueFlits_eq _ _ _ _

/-- The state once the Crown has put `sent` on the wire in FL0, while `rest` waits for its allowance of which `n` is left. -/
def injected (s : State) (sent rest : List (Nat × Wire)) (n : Nat) (ps : Tab Port) (fr : Nat) : State :=
  { s with
    io := { s.io with wire := s.io.wire ++ sent.map Prod.snd }
    crown := { s.crown with fl0 := n, fl0Wait := rest }
    ports := ps
    free := fr }

/-- Of a list, the Crown sends as much as its allowance lets it, in order; the rest waits. -/
theorem injectFl0_eq : ∀ (l : List (Nat × Wire)) (s : State), ∃ sent rest n ps fr, l = sent ++ rest ∧
    n + sent.length = s.crown.fl0 ∧ (rest ≠ [] → n = 0) ∧ injectFl0 l s = injected s sent rest n ps fr
  | [], s => ⟨[], [], s.crown.fl0, s.ports, s.free, rfl, rfl, fun h => absurd rfl h, by simp [injectFl0, injected]⟩
  | (dst, w) :: t, s => by
    rw [injectFl0]
    split
    · next hpos =>
      obtain ⟨ps, fr, hq⟩ := queueFlits_eq (wire { s with crown := { s.crown with fl0 := s.crown.fl0 - 1 } } w) 0 dst 1
      rw [hq]
      obtain ⟨sent, rest, n, ps', fr', hl, hn, hr, he⟩ :=
        injectFl0_eq t { (wire { s with crown := { s.crown with fl0 := s.crown.fl0 - 1 } } w) with ports := ps, free := fr }
      refine ⟨(dst, w) :: sent, rest, n, ps', fr', by rw [hl]; rfl, ?_, hr, ?_⟩
      · have hn' : n + sent.length = s.crown.fl0 - 1 := hn
        rw [List.length_cons]
        omega
      · rw [he]
        simp [injected, wire]
    · next hpos =>
      refine ⟨[], (dst, w) :: t, s.crown.fl0, s.ports, s.free, rfl, rfl, fun _ => by omega, ?_⟩
      simp [injected]

/-- What FL0 takes at once when the allowance lasts for all of it. -/
theorem injectFl0_all {l : List (Nat × Wire)} {s : State} (h : l.length ≤ s.crown.fl0) :
    ∃ ps fr, injectFl0 l s = injected s l [] (s.crown.fl0 - l.length) ps fr := by
  obtain ⟨sent, rest, n, ps, fr, hl, hn, hr, he⟩ := injectFl0_eq l s
  have hrest : rest = [] := by
    by_contra hne
    have hpos := List.length_pos_iff.2 hne
    have hn0 := hr hne
    have hlen := congrArg List.length hl
    rw [List.length_append] at hlen
    omega
  subst hrest
  rw [List.append_nil] at hl
  subst hl
  exact ⟨ps, fr, by rw [he, show s.crown.fl0 - l.length = n by omega]⟩

/-- With nothing waiting and an allowance, one flit of FL0 leaves at once. -/
theorem sendFl0_now {s : State} (hw : s.crown.fl0Wait = []) (hn : 0 < s.crown.fl0) (dst : Nat) (w : Wire) :
    ∃ ps fr, sendFl0 s dst w = injected s [(dst, w)] [] (s.crown.fl0 - 1) ps fr := by
  rw [sendFl0, hw, List.nil_append]
  exact injectFl0_all (l := [(dst, w)]) hn

/-- However the allowance stands, what is sent in FL0 is on the wire or waits. -/
theorem sendFl0_or_waits (s : State) (dst : Nat) (w : Wire) : ∃ sent rest n ps fr,
    sendFl0 s dst w = injected s sent rest n ps fr ∧ s.crown.fl0Wait ++ [(dst, w)] = sent ++ rest ∧
      (w ∈ sent.map Prod.snd ∨ (dst, w) ∈ rest) := by
  obtain ⟨sent, rest, n, ps, fr, hl, _, _, he⟩ := injectFl0_eq (s.crown.fl0Wait ++ [(dst, w)]) s
  refine ⟨sent, rest, n, ps, fr, he, hl, ?_⟩
  have hmem : (dst, w) ∈ sent ++ rest := hl ▸ List.mem_append_right _ (List.mem_singleton.2 rfl)
  rcases List.mem_append.1 hmem with h | h
  · exact .inl (List.mem_map.2 ⟨_, h, rfl⟩)
  · exact .inr h

/-- A control message is numbered and kept, with the times of its sending (R343). -/
def keptCtl (s : State) (dst : Nat) (m : Ctl) : State :=
  { s with dom := { s.dom with
    ctlSeq := s.dom.ctlSeq + 1
    ctl := s.dom.ctl ++ [{ seq := s.dom.ctlSeq, dst := dst, m := m, firstAt := s.time, sentAt := s.time }] } }

theorem sendCtl_eq (s : State) (dst : Nat) (m : Ctl) :
    sendCtl s dst m = sendFl0 (keptCtl s dst m) dst (.ctl dst s.dom.ctlSeq m) := rfl

theorem sendCtl_now {s : State} (hw : s.crown.fl0Wait = []) (hn : 0 < s.crown.fl0) (dst : Nat) (m : Ctl) :
    ∃ ps fr, sendCtl s dst m =
      injected (keptCtl s dst m) [(dst, .ctl dst s.dom.ctlSeq m)] [] (s.crown.fl0 - 1) ps fr :=
  sendFl0_now (s := keptCtl s dst m) hw hn dst _

theorem sendAck_now {s : State} (hw : s.crown.fl0Wait = []) (hn : 0 < s.crown.fl0) (dst seq : Nat) :
    ∃ ps fr, sendAck s dst seq = injected s [(dst, .ctlAck dst seq)] [] (s.crown.fl0 - 1) ps fr :=
  sendFl0_now hw hn dst _

/-- A control message that is sent stands on the wire or waits, and is kept (R341, R343). -/
theorem sendCtl_sends (s : State) (dst : Nat) (m : Ctl) : Ob.sends (sendCtl s dst m) dst m := by
  obtain ⟨sent, rest, n, ps, fr, he, _, hin⟩ := sendFl0_or_waits (keptCtl s dst m) dst (.ctl dst s.dom.ctlSeq m)
  rw [sendCtl_eq, he]
  refine ⟨s.dom.ctlSeq, ⟨_, List.mem_append_right _ (List.mem_singleton.2 rfl), rfl, rfl, rfl⟩, ?_⟩
  rcases hin with h | h
  · exact .inl (List.mem_append_right _ h)
  · exact .inr h

end Sys2Proof.Machine
end

section
/-! The message unit: what its queues do when there is one thing to do, and O25. -/

namespace Sys2Proof.Machine

open Sys2Proof Sys2Proof.Ob

/-! ### Empty queues -/

theorem pumpRecv_empty {core : Nat} {s : State} {d : Disp} (h : d.recvQ = []) : ∀ fuel, pumpRecv core fuel s d = (s, d)
  | 0 => rfl
  | fuel + 1 => by rw [pumpRecv, h]

theorem grantLoop_empty {core : Nat} {s : State} {d : Disp} (h : d.requests = []) : ∀ fuel, grantLoop core fuel s d = (s, d)
  | 0 => rfl
  | fuel + 1 => by rw [grantLoop, h]

theorem pumpSend_empty {core : Nat} {s : State} {d : Disp} (h : d.sendQ = []) : ∀ fuel, pumpSend core fuel s d = (s, d)
  | 0 => rfl
  | fuel + 1 => by rw [pumpSend, h]

/-- With no RECV and no request waiting the unit only sends. -/
theorem putMsg_sends {s t : State} {core : Nat} {d e : Disp} (hr : d.recvQ = []) (hq : d.requests = [])
    (h : pumpSend core (d.sendQ.length + 1) s d = (t, e)) : putMsg s core d = setDisp t core { e with blockedAt := none } := by
  simp only [putMsg, pumpRecv_empty hr, grantLoop_empty hq, h]

/-- With no SEND and no request waiting the unit only receives. -/
theorem putMsg_receives {s t : State} {core : Nat} {d e : Disp} (h : pumpRecv core (d.recvQ.length + 1) s d = (t, e))
    (hs : e.sendQ = []) (hq : e.requests = []) : putMsg s core d = setDisp t core { e with blockedAt := none } := by
  simp only [putMsg, h, pumpSend_empty hs, grantLoop_empty hq]

/-- With nothing waiting the unit leaves its queues. -/
theorem putMsg_idle {s : State} {core : Nat} {d : Disp} (hr : d.recvQ = []) (hq : d.requests = []) (hs : d.sendQ = []) :
    putMsg s core d = setDisp s core { d with blockedAt := none } := putMsg_sends hr hq (pumpSend_empty hs _)

/-! ### The sequencer goes on -/

theorem codeHeld_of_imem {s t : State} {core pc : Nat} {d : Disp} (h : codeHeld s core d pc)
    (hi : (getCore t core).imem = (getCore s core).imem) : codeHeld t core d pc := by
  rw [codeHeld, codeWord] at h ⊢
  rwa [hi]

theorem putAdvance_at {s t : State} {core w op : Nat} {d d1 e : Disp} (h : ready s core d w op)
    (hm : putMsg s core d1 = setDisp t core { e with blockedAt := none }) (ht : (getCore t core).imem = (getCore s core).imem)
    (hpc : e.pc = d.pc) (hbase : e.codeBase = d.codeBase) (hspan : e.codeSpan = d.codeSpan) :
    putAdvance s core d1 = setDisp (setDisp t core { e with blockedAt := none }) core (gone e (d.pc + 1)) := by
  have hheld : codeHeld (setDisp t core { e with blockedAt := none }) core d (d.pc + 1) :=
    codeHeld_of_imem h.2 ((congrArg Core.imem (getCore_setDisp_same _ _ _)).trans ht)
  simp only [putAdvance, hm, getDisp_setDisp_same]
  have hnext : e.pc + 1 = d.pc + 1 := by rw [hpc]
  show goTo _ core { e with blockedAt := none } (e.pc + 1) = _
  rw [hnext]
  exact goTo_at (d := d) _ _ hheld hbase hspan

/-! ### Tokens -/

theorem tokPending_tokSet (d : Disp) (t : Nat) {i : Nat} (hi : i < 32) :
    tokPending (tokSet d t) i = (tokPending d i || i == t) := by
  simp only [tokPending, tokSet, BitVec.getLsbD_or, BitVec.getLsbD_ofNat, Nat.testBit_two_pow, hi, decide_true, Bool.true_and]
  by_cases h : i = t
  · simp [h]
  · simp [h, Ne.symm h]

/-! ### A SEND at the head of an empty send queue -/

/-- The dispatch with one SEND of a message queued, its token pending. -/
def withSend (d : Disp) (x : SendEnt) : Disp := tokSet { d with sendQ := d.sendQ ++ [x] } x.token

/-- The dispatch whose only SEND has asked for space. -/
def asking (d : Disp) (x : SendEnt) : Disp := { withSend d x with sendQ := [{ x with asked := true }] }

/-- The dispatch whose only SEND, a remote read of `n` bytes, has left. -/
def reading (d : Disp) (x : SendEnt) (n now : Nat) (b : Bytes) : Disp :=
  tokDone { withSend d x with
    sendQ := [], readHold := d.readHold + n / 64
    reads := d.reads ++ [{ bytes := n, request := b, dst := x.dst, at_ := now }] } x.token

/-- The SEND asks the receiver for space (R271). -/
theorem pumpSend_asks {s : State} {core fuel : Nat} {d : Disp} {x : SendEnt} (hq : d.sendQ = [x]) (hf : x.flits ≠ 0)
    (hr : x.read = none) (ha : x.asked = false) : pumpSend core (fuel + 1) s d =
      (sendNet s (.request core x.dst d.gen x.flits), { d with sendQ := [{ x with asked := true }] }) := by
  rw [pumpSend, hq]
  simp only [hf, hr, ha, if_false]
  rfl

/-- A remote read with room for its reply leaves (R356). -/
theorem pumpSend_reads {s : State} {core fuel n : Nat} {d : Disp} {x : SendEnt} {b : Bytes} (hq : d.sendQ = [x])
    (hf : x.flits ≠ 0) (hr : x.read = some (n, b)) (hroom : n / 64 ≤ rxFree d) : pumpSend core (fuel + 1) s d =
      (sendRead s x.dst core d.gen b, tokDone { d with
        sendQ := [], readHold := d.readHold + n / 64
        reads := d.reads ++ [{ bytes := n, request := b, dst := x.dst, at_ := s.time }] } x.token) := by
  rw [pumpSend, hq]
  simp only [hf, hr, hroom, if_false, if_true]
  exact pumpSend_empty rfl fuel

theorem sendNet_request (s : State) (a b n : Nat) (g : W32) :
    sendNet s (.request a b g n) = { s with net := s.net ++ [.request a b g n] } := rfl

/-- A SEND of a message, alone in the unit, asks for space; the core goes on (R188, R271). -/
theorem queueSend_asks {s : State} {core w : Nat} {d d1 : Disp} {x : SendEnt} (h : ready s core d w 0x78)
    (hq : d1.sendQ = []) (hr : d1.recvQ = []) (hreq : d1.requests = []) (hf : x.flits ≠ 0) (hread : x.read = none)
    (ha : x.asked = false) (hpc : d1.pc = d.pc) (hbase : d1.codeBase = d.codeBase) (hspan : d1.codeSpan = d.codeSpan) :
    queueSend s core d1 x = setDisp (setDisp { s with net := s.net ++ [.request core x.dst d1.gen x.flits] } core
        { asking d1 x with blockedAt := none }) core (gone (asking d1 x) (d.pc + 1)) := by
  have hqueue : (withSend d1 x).sendQ = [x] := by simp [withSend, tokSet, hq]
  have hpump := pumpSend_asks (s := s) (core := core) (fuel := (withSend d1 x).sendQ.length) hqueue hf hread ha
  exact putAdvance_at (e := asking d1 x) h (putMsg_sends (e := asking d1 x) hr hreq hpump) rfl hpc hbase hspan

/-- A remote read with room, alone in the unit, leaves; the core goes on. -/
theorem queueSend_reads {s : State} {core w n : Nat} {d : Disp} {x : SendEnt} {b : Bytes} (h : ready s core d w 0x78)
    (hq : d.sendQ = []) (hr : d.recvQ = []) (hreq : d.requests = []) (hf : x.flits ≠ 0) (hread : x.read = some (n, b))
    (hroom : n / 64 ≤ rxFree d) : queueSend s core d x =
      setDisp (setDisp (sendRead s x.dst core d.gen b) core { reading d x n s.time b with blockedAt := none }) core
        (gone (reading d x n s.time b) (d.pc + 1)) := by
  have hqueue : (withSend d x).sendQ = [x] := by simp [withSend, tokSet, hq]
  have hpump := pumpSend_reads (s := s) (core := core) (fuel := (withSend d x).sendQ.length) hqueue hf hread hroom
  refine putAdvance_at (e := reading d x n s.time b) h (putMsg_sends (e := reading d x n s.time b) hr hreq hpump) ?_ rfl rfl rfl
  obtain ⟨ps, fr, hs⟩ := sendRead_eq s x.dst core d.gen b
  exact (congrArg (fun t => (getCore t core).imem) hs).trans rfl

/-- A message for another package is held until the commit (R62, R63). -/
theorem holdMsg_first {s : State} {core w dst a n : Nat} {d : Disp} {c : Cmd} (h : ready s core d w 0x78) (hheld : c.held = [])
    (hn : n ≤ 64) : holdMsg s core d c dst a n =
      nextOf (modCmd s c.id fun c => { c with held := c.held ++ [{ dst := dst, data := winRead (getCore s core).ls d a (64 * n) }] })
        core d d.pc := by
  rw [holdMsg, hheld, if_pos (show sumN (List.map (fun h => flitsOf h.data) ([] : List Held)) + n ≤ 4096 by
    simp only [List.map_nil, sumN, List.foldl_nil]; omega)]
  exact goTo_at (s := modCmd s c.id _) (d := d) d _ h.2 rfl rfl

section Send

variable {s : State} {core a n w : Nat} {d : Disp}

theorem execOpSend_local {dst : Nat} (h : ready s core d w 0x78) (ht : tokPending d (fT w) = false) (hq : d.sendQ = [])
    (ha : a = (areg d (fP w)).toNat) (hn : n = immFlits w) (hle : n ≤ 64) (hw : winOk d a (64 * n) = true)
    (h29 : imm29 w = false) (h31 : imm31 w = false) (h30 : imm30 w = false) (hbits : bits w 28 7 = 0)
    (hdst : d.gang[(sreg d (fS w)).toNat]? = some dst) :
    exec (.opSend core) s = .next (queueSend s core d { token := fT w, dst := dst, addr := a, flits := n }) := by
  subst ha hn
  refine congrArg Host.Outcome.next ((issueIf_at h.1 _ (by simp [h.1.2.2.2, h29, h31]) _).trans ?_)
  simp [ht, hq, h31, hbits, h30, hdst, hw, Nat.not_lt.2 hle]

theorem execOpSend_global {dst : Nat} {c : Cmd} (h : ready s core d w 0x78) (ht : tokPending d (fT w) = false) (hq : d.sendQ = [])
    (ha : a = (areg d (fP w)).toNat) (hn : n = immFlits w) (hpos : 1 ≤ n) (hle : n ≤ 64) (hw : winOk d a (64 * n) = true)
    (h29 : imm29 w = false) (h31 : imm31 w = false) (h30 : imm30 w = true) (hbits : bits w 28 7 = 0)
    (hdst : dst = (sreg d (fS w)).toNat % 2 ^ 28) (hpkg : dst / 4096 ≠ selfPkg s) (hreach : reachable s (dst / 4096) = true)
    (hloc : dst % 4096 < 2560) (hc : getCmd s d.cmd = some c) :
    exec (.opSend core) s = .next (holdMsg s core d c dst a n) := by
  subst ha hn hdst
  have hdom : s.dom.inDomain = true := by
    rw [reachable, Bool.and_eq_true] at hreach
    exact hreach.1
  have hglobal : sendGlobal s core d c (fT w) ((sreg d (fS w)).toNat % 2 ^ 28) (areg d (fP w)).toNat (immFlits w) =
      holdMsg s core d c ((sreg d (fS w)).toNat % 2 ^ 28) (areg d (fP w)).toNat (immFlits w) := by
    have hin : ((sreg d (fS w)).toNat % 2 ^ 28 / 4096 == selfPkg s) = false := by simpa using hpkg
    simp only [sendGlobal, hin, hdom, hreach, Nat.not_le.2 hloc]
    simp [Nat.ne_of_gt hpos]
  refine congrArg Host.Outcome.next ((issueIf_at h.1 _ (by simp [h.1.2.2.2, h29, h31]) _).trans ?_)
  simp only [ht, hq, h31, hbits, h30, hw, Nat.not_lt.2 hle, hc]
  simpa using hglobal

theorem execOpHaloSend_first {dst rank tag : Nat} {side : Bool} (h : ready s core d w 0x78) (ht : tokPending d (fT w) = false)
    (hq : d.sendQ = []) (ha : a = (areg d (fP w)).toNat) (hn : n = immFlits w) (hpos : 1 ≤ n) (hle : n ≤ 64)
    (hw : winOk d a (64 * n) = true) (h29 : imm29 w = true) (h31 : imm31 w = false) (h30 : imm30 w = false)
    (hbits : bits w 27 7 = 0) (hrank : rank = (sreg d (fS w)).toNat) (hside : side = bitOf w 28)
    (htag : tag = tget 0 d.hsent (b2n side)) (hok : haloRankOk d.haloSend side rank = true) (hdst : d.gang[rank]? = some dst) :
    exec (.opHaloSend core) s = .next (queueSend s core
      { d with haloSend := tput 0 d.haloSend (b2n side) (rank + 1)
               hsent := tput 0 d.hsent (b2n side) ((tag + 1) % 2 ^ 32) }
      { token := fT w, dst := dst, addr := a, flits := n, halo := some (side, tag) }) := by
  subst ha hn hrank hside htag
  refine congrArg Host.Outcome.next ((issueIf_at h.1 _ (by simp [h.1.2.2.2, h29]) _).trans ?_)
  simp [ht, hq, h31, hbits, h30, hdst, hw, Nat.not_lt.2 hle, Nat.ne_of_gt hpos, hok]

theorem execOpRemoteReadRequest_good {dst k : Nat} {b : Bytes} (h : ready s core d w 0x78) (ht : tokPending d (fT w) = false)
    (hq : d.sendQ = []) (ha : a = (areg d (fP w)).toNat) (hn : immFlits w = 1) (hw : winOk d a 64 = true)
    (h29 : imm29 w = false) (h31 : imm31 w = true) (h30 : imm30 w = true) (hbits : bits w 28 7 = 0)
    (hdst : dst = (sreg d (fS w)).toNat % 2 ^ 28) (hb : b = winRead (getCore s core).ls d a 64) (hk : k = fieldLE b 12 4)
    (hfield : fieldLE b 0 2 ≤ 63) (hlow : 64 ≤ k) (hhigh : k ≤ 4096) (hmod : k % 64 = 0) (hloc : dst % 4096 = 3840)
    (hpkg : dst / 4096 ≠ selfPkg s) (hreach : reachable s (dst / 4096) = true) :
    exec (.opRemoteReadRequest core) s =
      .next (queueSend s core d { token := fT w, dst := dst, addr := a, flits := 1, read := some (k, b) }) := by
  subst hk
  have hpile : (dst % 4096 != pileLoc 0) = false := by simp [hloc, pileLoc]
  refine congrArg Host.Outcome.next ((issueIf_at h.1 _ (by simp [h.1.2.2.2, h29, h31, h30]) _).trans ?_)
  simp only [← ha, ← hdst, ← hb, ht, hq, hn, hw, hbits, hpile, hreach]
  simp [hfield, hlow, hhigh, hmod, hpkg]

end Send

/-- Settles O25. Each SEND passes its launch checks and is alone in the queue: one to a rank asks for space, a remote read with room
leaves, and one to another package never enters the queue but is held by its command. -/
theorem sendsAskForSpaceOrAreHeld : Obligations.SendsAskForSpaceOrAreHeld := by
  intro s core d w a n ha hn hr ht hq hrecv hreq htok hpos hle hw
  have hn0 : n ≠ 0 := by omega
  refine ⟨?_, ?_, ?_, ?_⟩
  · intro dst h29 h31 h30 hbits hdst
    refine ⟨_, _, (execOpSend_local hr ht hq ha hn hle hw h29 h31 h30 hbits hdst).trans (congrArg _
      (queueSend_asks hr hq hrecv hreq hn0 rfl rfl rfl rfl rfl)), getDisp_setDisp_same _ _ _, rfl, ?_, rfl, rfl,
      rfl, rfl, rfl, rfl⟩
    exact (tokPending_tokSet _ _ htok).trans (by simp)
  · intro dst c h29 h31 h30 hbits hdst hpkg hreach hloc hc hheld
    have hget : getCmd (nextOf (modCmd s c.id fun c => { c with
        held := c.held ++ [{ dst := dst, data := winRead (getCore s core).ls d a (64 * n) }] }) core d d.pc) d.cmd =
        some { c with held := [{ dst := dst, data := winRead (getCore s core).ls d a (64 * n) }] } := by
      have hid := getCmd_id hc
      rw [← hid] at hc ⊢
      have hmod := getCmd_modCmd_same s c.id (fun c => { c with
        held := c.held ++ [{ dst := dst, data := winRead (getCore s core).ls d a (64 * n) }] }) c hc fun _ => rfl
      simp only [hheld, List.nil_append] at hmod
      exact hmod
    refine ⟨_, _, _, (execOpSend_global hr ht hq ha hn hpos hle hw h29 h31 h30 hbits hdst hpkg hreach hloc hc).trans
      (congrArg _ (holdMsg_first hr hheld hle)), getDisp_setDisp_same _ _ _, rfl, hget, rfl, rfl, rfl, rfl⟩
  · intro dst rank tag side h29 h31 h30 hbits hrank hside htag hok hdst
    refine ⟨_, _, (execOpHaloSend_first hr ht hq ha hn hpos hle hw h29 h31 h30 hbits hrank hside htag hok hdst).trans (congrArg _
      (queueSend_asks hr hq hrecv hreq hn0 rfl rfl rfl rfl rfl)), getDisp_setDisp_same _ _ _, rfl, rfl, rfl, ?_, ?_, rfl⟩
    · exact tget_tput_same _ _ _ _
    · exact tget_tput_same _ _ _ _
  · intro dst k b h29 h31 h30 hbits hn1 hdst hb hk hfield hlow hhigh hmod hloc hpkg hreach hroom
    subst hn1
    obtain ⟨ps, fr, hsend⟩ := sendRead_eq s dst core d.gen b
    refine ⟨_, _, (execOpRemoteReadRequest_good hr ht hq ha hn.symm hw h29 h31 h30 hbits hdst hb hk hfield hlow hhigh hmod hloc
      hpkg hreach).trans (congrArg _ (queueSend_reads hr hq hrecv hreq Nat.one_ne_zero rfl hroom)),
      getDisp_setDisp_same _ _ _, rfl, (congrArg (fun t => t.io.wire) hsend).trans rfl, rfl, rfl, rfl, ?_,
      (congrArg State.cmds hsend).trans rfl, (congrArg State.net hsend).trans rfl⟩
    exact (tokPending_tokDone _ _ htok).trans (by simp)

end Sys2Proof.Machine
end

section
/-! The receive queue of the message unit, and O26. -/

namespace Sys2Proof.Machine

open Sys2Proof Sys2Proof.Ob

/-- The dispatch with one RECV queued, its token pending. -/
def withRecv (d : Disp) (r : RecvEnt) : Disp := tokSet { d with recvQ := d.recvQ ++ [r] } r.token

theorem withRecv_recvQ {d : Disp} {r : RecvEnt} (h : d.recvQ = []) : (withRecv d r).recvQ = [r] := by
  simp [withRecv, tokSet, h]

/-- The dispatch whose only RECV has taken the first message of the receive buffer. -/
def taken (d : Disp) (r : RecvEnt) (m : Msg) (rest : List Msg) : Disp :=
  tokDone (winWrite { d with recvQ := [], rx := rest } r.addr m.data) r.token

/-- The dispatch whose only RECV has taken a halo message of a side: the tag of that side that is awaited is now `tag` (R233). -/
def takenHalo (d : Disp) (r : RecvEnt) (m : Msg) (rest : List Msg) (side : Bool) (tag : Nat) : Disp :=
  { taken d r m rest with hrecv := tput 0 d.hrecv (b2n side) tag }

/-- The tag after the one that is awaited. -/
def nextTag (d : Disp) (side : Bool) : Nat := (tget 0 d.hrecv (b2n side) + 1) % 2 ^ 32

@[simp] theorem recvMatch_withRecv (d : Disp) (r q : RecvEnt) (m : Msg) : recvMatch (withRecv d r) q m = recvMatch d q m := rfl
@[simp] theorem withRecv_rx (d : Disp) (r : RecvEnt) : (withRecv d r).rx = d.rx := rfl
@[simp] theorem withRecv_gang (d : Disp) (r : RecvEnt) : (withRecv d r).gang = d.gang := rfl
@[simp] theorem withRecv_gen (d : Disp) (r : RecvEnt) : (withRecv d r).gen = d.gen := rfl

@[simp] theorem nextTag_withRecv (d : Disp) (r : RecvEnt) (side : Bool) : nextTag (withRecv d r) side = nextTag d side := rfl

/-- What the taking of a halo message leaves of the dispatch. -/
theorem takenHalo_withRecv (d : Disp) (r q : RecvEnt) (m : Msg) (rest : List Msg) (side : Bool) (k : Nat) :
    (takenHalo (withRecv d r) q m rest side k).sendQ = d.sendQ ∧ (takenHalo (withRecv d r) q m rest side k).requests = d.requests ∧
      (takenHalo (withRecv d r) q m rest side k).pc = d.pc ∧ (takenHalo (withRecv d r) q m rest side k).codeBase = d.codeBase ∧
      (takenHalo (withRecv d r) q m rest side k).codeSpan = d.codeSpan := by
  simp [takenHalo, taken, tokDone, winWrite, withRecv, tokSet]

section Pump

variable {s : State} {core fuel : Nat} {d : Disp} {r : RecvEnt} {m : Msg} {rest : List Msg}

theorem pumpRecv_waits (hq : d.recvQ = [r]) (hm : ∀ m ∈ d.rx, recvMatch d r m = false) :
    pumpRecv core (fuel + 1) s d = (s, d) := by
  have hnone : d.rx.find? (recvMatch d r) = none := List.find?_eq_none.2 fun m h => by simp [hm m h]
  simp [pumpRecv, hq, hnone]

theorem pumpRecv_takes (hq : d.recvQ = [r]) (hf : r.flits ≠ 0) (hrx : d.rx = m :: rest) (hm : recvMatch d r m = true)
    (hlen : flitsOf m.data ≤ r.flits) (hhalo : r.halo = none) :
    pumpRecv core (fuel + 1) s d = (s, taken d r m rest) := by
  rw [pumpRecv, hq]
  simp only [hf, hrx, hm, List.find?_cons_of_pos, Nat.not_lt.2 hlen, hhalo, removeFirst, if_false, if_true]
  exact pumpRecv_empty rfl fuel

theorem sendNet_release (s : State) (a b : Nat) (g : W32) (side : Bool) :
    sendNet s (.release a b g side) = { s with net := s.net ++ [.release a b g side] } := rfl

theorem pumpRecv_takes_halo {side : Bool} {k : Nat} (hq : d.recvQ = [r]) (hf : r.flits ≠ 0) (hrx : d.rx = m :: rest)
    (hm : recvMatch d r m = true) (hlen : flitsOf m.data ≤ r.flits) (hhalo : r.halo = some side) (hk : m.rank = some k) :
    pumpRecv core (fuel + 1) s d =
      ({ s with net := s.net ++ [.release core ((d.gang[k]?).getD 0) d.gen side] }, takenHalo d r m rest side (nextTag d side)) := by
  rw [pumpRecv, hq]
  simp only [hf, hrx, hm, List.find?_cons_of_pos, Nat.not_lt.2 hlen, hhalo, hk, removeFirst, if_false, if_true]
  exact pumpRecv_empty rfl fuel

end Pump

theorem flitsOf_whole {b : Bytes} {n : Nat} (h : b.length = 64 * n) : flitsOf b = n := by
  rw [flitsOf, h]
  omega

/-- A RECV that enters an otherwise idle unit, by what the receive queue then does. -/
theorem queueRecv_at {s t : State} {core w : Nat} {d d1 e : Disp} {r : RecvEnt} (h : ready s core d w 0x79)
    (hr : d1.recvQ = []) (hp : pumpRecv core 2 s (withRecv d1 r) = (t, e)) (hs : e.sendQ = []) (hq : e.requests = [])
    (ht : (getCore t core).imem = (getCore s core).imem) (hpc : e.pc = d.pc) (hbase : e.codeBase = d.codeBase)
    (hspan : e.codeSpan = d.codeSpan) :
    queueRecv s core d1 r = setDisp (setDisp t core { e with blockedAt := none }) core (gone e (d.pc + 1)) := by
  have hlen : (withRecv d1 r).recvQ.length + 1 = 2 := by simp [withRecv, tokSet, hr]
  have hp' : pumpRecv core ((withRecv d1 r).recvQ.length + 1) s (withRecv d1 r) = (t, e) := by
    rw [hlen]
    exact hp
  exact putAdvance_at h (putMsg_receives hp' hs hq) ht hpc hbase hspan

section Queue

variable {s : State} {core w : Nat} {d d1 : Disp} {r : RecvEnt} {m : Msg} {rest : List Msg}

/-- The RECV's message is at the front of the receive buffer: it is taken and the core goes on. -/
theorem queueRecv_takes (h : ready s core d w 0x79) (hr : d.recvQ = []) (hs : d.sendQ = []) (hq : d.requests = []) (hf : r.flits ≠ 0)
    (hrx : d.rx = m :: rest) (hm : recvMatch d r m = true) (hlen : flitsOf m.data ≤ r.flits) (hhalo : r.halo = none) :
    queueRecv s core d r = setDisp (setDisp s core { taken (withRecv d r) r m rest with blockedAt := none }) core
      (gone (taken (withRecv d r) r m rest) (d.pc + 1)) :=
  queueRecv_at (e := taken (withRecv d r) r m rest) h hr (pumpRecv_takes (withRecv_recvQ hr) hf hrx hm hlen hhalo) hs hq rfl rfl rfl rfl

/-- None of the messages is the RECV's: it stays in the queue and the core goes on. -/
theorem queueRecv_waits (h : ready s core d w 0x79) (hr : d.recvQ = []) (hs : d.sendQ = []) (hq : d.requests = [])
    (hm : ∀ m ∈ d.rx, recvMatch d r m = false) :
    queueRecv s core d r = setDisp (setDisp s core { withRecv d r with blockedAt := none }) core (gone (withRecv d r) (d.pc + 1)) :=
  queueRecv_at (e := withRecv d r) h hr (pumpRecv_waits (withRecv_recvQ hr) hm) hs hq rfl rfl rfl rfl

/-- The halo message that is awaited is at the front: it is taken, and its release goes back to the rank that sent it (R232). -/
theorem queueRecv_takes_halo {side : Bool} {k : Nat} (h : ready s core d w 0x79) (hr : d1.recvQ = []) (hs : d1.sendQ = [])
    (hq : d1.requests = []) (hf : r.flits ≠ 0) (hrx : d1.rx = m :: rest) (hm : recvMatch d1 r m = true)
    (hlen : flitsOf m.data ≤ r.flits) (hhalo : r.halo = some side) (hk : m.rank = some k) (hpc : d1.pc = d.pc)
    (hbase : d1.codeBase = d.codeBase) (hspan : d1.codeSpan = d.codeSpan) :
    queueRecv s core d1 r =
      setDisp (setDisp { s with net := s.net ++ [.release core ((d1.gang[k]?).getD 0) d1.gen side] } core
        { takenHalo (withRecv d1 r) r m rest side (nextTag d1 side) with blockedAt := none }) core
      (gone (takenHalo (withRecv d1 r) r m rest side (nextTag d1 side)) (d.pc + 1)) := by
  obtain ⟨hes, heq, hepc, hebase, hespan⟩ := takenHalo_withRecv d1 r r m rest side (nextTag d1 side)
  have hpump := pumpRecv_takes_halo (s := s) (core := core) (fuel := 1) (rest := rest) (withRecv_recvQ hr) hf
    ((withRecv_rx d1 r).trans hrx) ((recvMatch_withRecv d1 r r m).trans hm) hlen hhalo hk
  rw [withRecv_gang, withRecv_gen, nextTag_withRecv] at hpump
  exact queueRecv_at h hr hpump (hes.trans hs) (heq.trans hq) rfl (hepc.trans hpc) (hebase.trans hbase) (hespan.trans hspan)

end Queue

section Recv

variable {s : State} {core a n w : Nat} {d : Disp} {rank : Nat}

theorem execOpRecv_queues (h : ready s core d w 0x79) (ht : tokPending d (fT w) = false) (hq : d.recvQ = [])
    (ha : a = (areg d (fP w)).toNat) (hn : n = immFlits w) (hw : winWritable d a (64 * n) = true) (h29 : imm29 w = false)
    (h30 : imm30 w = false) (hbits : bits w 28 7 = 0) (hrank : rank = (sreg d (fS w)).toNat)
    (hr : imm31 w = false → rank < d.gang.length) : exec (.opRecv core) s =
      .next (queueRecv s core d { token := fT w, addr := a, flits := n, rank := if imm31 w then none else some rank }) := by
  subst ha hn hrank
  refine congrArg Host.Outcome.next ((issueIf_at h.1 _ (by simp [h.1.2.2.2, h29, h30]) _).trans ?_)
  have hrk : (!imm31 w && decide (d.gang.length ≤ (sreg d (fS w)).toNat)) = false := by
    cases h31 : imm31 w
    · simpa using hr h31
    · rfl
  simp [ht, hq, hbits, h30, hw]
  intro h31 hle
  simp [h31, hle] at hrk

theorem execOpHaloRecv_queues {side : Bool} (h : ready s core d w 0x79) (ht : tokPending d (fT w) = false) (hq : d.recvQ = [])
    (ha : a = (areg d (fP w)).toNat) (hn : n = immFlits w) (hw : winWritable d a (64 * n) = true) (h29 : imm29 w = true)
    (h31 : imm31 w = false) (h30 : imm30 w = false) (hbits : bits w 27 7 = 0) (hrank : rank = (sreg d (fS w)).toNat)
    (hr : rank < d.gang.length) (hside : side = bitOf w 28) (hok : haloRankOk d.haloRecv side rank = true) :
    exec (.opHaloRecv core) s = .next (queueRecv s core { d with haloRecv := tput 0 d.haloRecv (b2n side) (rank + 1) }
      { token := fT w, addr := a, flits := n, rank := some rank, halo := some side }) := by
  subst ha hn hrank hside
  refine congrArg Host.Outcome.next ((issueIf_at h.1 _ (by simp [h.1.2.2.2, h29]) _).trans ?_)
  simp [ht, hq, h31, hbits, h30, hw, hok, hr]

theorem execOpReplyRecv_queues (h : ready s core d w 0x79) (ht : tokPending d (fT w) = false) (hq : d.recvQ = [])
    (ha : a = (areg d (fP w)).toNat) (hn : n = immFlits w) (hw : winWritable d a (64 * n) = true) (h29 : imm29 w = false)
    (h31 : imm31 w = true) (h30 : imm30 w = true) (hbits : bits w 28 7 = 0) : exec (.opReplyRecv core) s =
      .next (queueRecv s core d { token := fT w, addr := a, flits := n, reply := true }) := by
  subst ha hn
  refine congrArg Host.Outcome.next ((issueIf_at h.1 _ (by simp [h.1.2.2.2, h29, h31, h30]) _).trans ?_)
  simp [ht, hq, hbits, hw]

end Recv

/-- Settles O26. Each RECV is alone in the queue: with its message at the front of the receive buffer it takes it, without a message
that it matches it stays. -/
theorem receivesTakeOrWait : Obligations.ReceivesTakeOrWait := by
  intro s core d w a n ha hn hr ht hq hrecv hreq htok hpos hw
  have hn0 : n ≠ 0 := by omega
  refine ⟨?_, ?_, ?_, ?_⟩
  · intro m rest h29 h31 h30 hbits hrx hhalo hreply hlen
    have hexec := execOpRecv_queues hr ht hrecv ha hn hw h29 h30 hbits rfl fun h => by simp [h31] at h
    rw [if_pos h31, queueRecv_takes hr hrecv hq hreq hn0 hrx (by simp [recvMatch, hhalo, hreply]) (le_of_eq (flitsOf_whole hlen)) rfl]
      at hexec
    refine ⟨_, _, hexec, getDisp_setDisp_same _ _ _, rfl, rfl, rfl, ?_, ?_, rfl, rfl⟩
    · exact (tokPending_tokDone _ _ htok).trans (by simp)
    · exact winRead_winWrite_same _ hlen hw
  · intro rank h29 h31 h30 hbits hrank hlt hnone
    have hexec := execOpRecv_queues hr ht hrecv ha hn hw h29 h30 hbits hrank fun _ => hlt
    rw [if_neg (by simp [h31]), queueRecv_waits hr hrecv hq hreq fun m hm => by
      rcases hnone m hm with h | h | h | h <;> simp [recvMatch, h]] at hexec
    refine ⟨_, _, hexec, getDisp_setDisp_same _ _ _, rfl, rfl, withRecv_recvQ hrecv, ?_, rfl, rfl, rfl⟩
    exact (tokPending_tokSet _ _ htok).trans (by simp)
  · intro rank side m rest k h29 h31 h30 hbits hrank hlt hside hok hrx hhalo hlen hk
    have hexec := execOpHaloRecv_queues hr ht hrecv ha hn hw h29 h31 h30 hbits hrank hlt hside hok
    have hqueue := queueRecv_takes_halo (d1 := { d with haloRecv := tput 0 d.haloRecv (b2n side) (rank + 1) })
      (r := { token := fT w, addr := a, flits := n, rank := some rank, halo := some side }) hr hrecv hq hreq hn0 hrx
      (by simp [recvMatch, hhalo]) (le_of_eq (flitsOf_whole hlen)) rfl hk rfl rfl rfl
    rw [hqueue] at hexec
    refine ⟨_, _, hexec, getDisp_setDisp_same _ _ _, rfl, rfl, ?_, ?_, rfl, rfl⟩
    · exact tget_tput_same _ _ _ _
    · exact winRead_winWrite_same _ hlen hw
  · intro h29 h31 h30 hbits hnone
    have hexec := execOpReplyRecv_queues hr ht hrecv ha hn hw h29 h31 h30 hbits
    rw [queueRecv_waits hr hrecv hq hreq fun m hm => by rcases hnone m hm with h | h <;> simp [recvMatch, h]] at hexec
    refine ⟨_, _, hexec, getDisp_setDisp_same _ _ _, rfl, rfl, withRecv_recvQ hrecv, ?_, rfl, rfl⟩
    exact (tokPending_tokSet _ _ htok).trans (by simp)

end Sys2Proof.Machine
end

section
/-! Arrivals at the message unit and at the inboxes, refusals (O27), and remote reads (O28). -/

namespace Sys2Proof.Machine

open Sys2Proof Sys2Proof.Ob

/-! ### Packets that arrive -/

/-- The packet at the front of the mesh, where it is of the class and the way asked for, is taken. -/
theorem takeNet_front {s : State} {p : Packet} {r : List Packet} {cls src dst : Nat} (hnet : s.net = p :: r) (hon : meshOn s = true)
    (hp : (pktClass p == cls && pktSrc p == src && pktFor p dst) = true) :
    takeNet s cls src dst = some (p, { s with net := r }) := by
  rw [takeNet, if_pos hon, headOf, hnet]
  simp only [List.find?_cons, hp, Option.map_some, removeFirst, if_true]

theorem dispOfGen_at {s : State} {core : Nat} {d : Disp} {g : W32} (hd : getDisp s core = some d) (hg : d.gen = g)
    (hcur : genCurrent s g = true) : dispOfGen s core g = some d := by
  rw [dispOfGen, hd]
  exact if_pos ⟨hg, hcur⟩

theorem dispOfGen_stale {s : State} {g : W32} (hcur : genCurrent s g = false) (core : Nat) : dispOfGen s core g = none := by
  unfold dispOfGen
  split
  · simp [hcur]
  · rfl

section Arrivals

variable {s : State} {core src n : Nat} {g : W32} {r : List Packet} {d : Disp}

theorem grantLoop_one {fuel : Nat} (hq : d.requests = [(src, n)]) (hroom : n ≤ rxFree d) : grantLoop core (fuel + 1) s d =
    (sendNet s (.grant core src d.gen n), { d with requests := [], granted := d.granted + n }) := by
  rw [grantLoop, hq]
  simp only [hroom, if_true]
  exact grantLoop_empty rfl fuel

/-- A request with room is granted (R271). -/
theorem putMsg_grants (hs : d.sendQ = []) (hr : d.recvQ = []) (hq : d.requests = [(src, n)]) (hroom : n ≤ rxFree d) :
    putMsg s core d = setDisp { s with net := s.net ++ [.grant core src d.gen n] } core
      { d with requests := [], granted := d.granted + n, blockedAt := none } := by
  have hgrant : grantLoop core (d.requests.length + 1) s d =
      ({ s with net := s.net ++ [.grant core src d.gen n] }, { d with requests := [], granted := d.granted + n }) :=
    grantLoop_one hq hroom
  simp only [putMsg, pumpRecv_empty hr, hgrant, pumpSend_empty (d := { d with requests := [], granted := d.granted + n }) hs]

theorem execCreditRequestArrive_room (hnet : s.net = .request src core g n :: r) (hon : meshOn s = true)
    (hd : getDisp s core = some d) (hg : d.gen = g) (hcur : genCurrent s g = true) (hs : d.sendQ = []) (hr : d.recvQ = [])
    (hq : d.requests = []) (hroom : n ≤ rxFree d) : exec (.creditRequestArrive core src) s =
      .next (setDisp { s with net := r ++ [.grant core src g n] } core { d with granted := d.granted + n, blockedAt := none }) := by
  have hput := putMsg_grants (s := { s with net := r }) (core := core) (src := src) (n := n) (d := { d with requests := [(src, n)] })
    hs hr rfl hroom
  subst hg
  show execCreditRequestArrive core src s = _
  rw [execCreditRequestArrive, takeNet_front hnet hon (by simp [pktClass, pktSrc, pktFor])]
  simp only [dispOfGen_at (s := { s with net := r }) hd rfl hcur, hq, List.nil_append]
  rw [hput]

theorem execCreditRequestArrive_stale (hnet : s.net = .request src core g n :: r) (hon : meshOn s = true)
    (hcur : genCurrent s g = false) : exec (.creditRequestArrive core src) s = .next { s with net := r } := by
  show execCreditRequestArrive core src s = _
  rw [execCreditRequestArrive, takeNet_front hnet hon (by simp [pktClass, pktSrc, pktFor])]
  simp only [dispOfGen_stale (s := { s with net := r }) hcur]

/-- A SEND that is granted transmits its message. -/
theorem putMsg_transmits {e : SendEnt} (hr : d.recvQ = []) (hq : d.requests = []) (ha : e.asked = true) (hread : e.read = none)
    (hhalo : e.halo = none) (hf : e.flits ≠ 0) : putMsg s core { d with sendQ := [{ e with granted := true }] } =
      setDisp { s with net := s.net ++ [.message core e.dst d.gen
        { rank := some d.rank, data := winRead (getCore s core).ls d e.addr (64 * e.flits) }] } core
        { tokDone { d with sendQ := [] } e.token with blockedAt := none } := by
  have hpump : pumpSend core 2 s { d with sendQ := [{ e with granted := true }] } =
      ({ s with net := s.net ++ [.message core e.dst d.gen
        { rank := some d.rank, data := winRead (getCore s core).ls d e.addr (64 * e.flits) }] },
        tokDone { d with sendQ := [] } e.token) := by
    rw [pumpSend]
    simp only [hf, hread, ha, hhalo, Bool.not_true, Bool.false_eq_true, Bool.and_self, if_false, if_true]
    exact pumpSend_empty rfl 1
  exact putMsg_sends (e := tokDone { d with sendQ := [] } e.token) hr hq hpump

theorem execGrantArrive_transmits {e : SendEnt} (hnet : s.net = .grant src core g n :: r) (hon : meshOn s = true)
    (hd : getDisp s core = some d) (hg : d.gen = g) (hcur : genCurrent s g = true) (hs : d.sendQ = [e]) (hr : d.recvQ = [])
    (hq : d.requests = []) (hdst : e.dst = src) (ha : e.asked = true) (hread : e.read = none) (hhalo : e.halo = none)
    (hf : e.flits ≠ 0) : exec (.grantArrive core src) s = .next (setDisp { s with net := r ++ [.message core src g
      { rank := some d.rank, data := winRead (getCore s core).ls d e.addr (64 * e.flits) }] } core
      { tokDone { d with sendQ := [] } e.token with blockedAt := none }) := by
  subst hg
  subst hdst
  have hput := putMsg_transmits (s := { s with net := r }) (core := core) hr hq ha hread hhalo hf
  show execGrantArrive core e.dst s = _
  rw [execGrantArrive, takeNet_front hnet hon (by simp [pktClass, pktSrc, pktFor])]
  have hnone : e.read.isNone = true := by rw [hread]; rfl
  simp only [dispOfGen_at (s := { s with net := r }) hd rfl hcur, hs]
  exact (if_pos ⟨trivial, ha, hnone⟩).trans (congrArg Host.Outcome.next hput)

theorem execMessageArrive_enters {m : Msg} (hnet : s.net = .message src core g m :: r) (hon : meshOn s = true)
    (hd : getDisp s core = some d) (hg : d.gen = g) (hcur : genCurrent s g = true) (hs : d.sendQ = []) (hr : d.recvQ = [])
    (hq : d.requests = []) : exec (.messageArrive core src) s = .next (setDisp { s with net := r } core
      { d with rx := d.rx ++ [m], granted := d.granted - (m.data.length + 63) / 64, blockedAt := none }) := by
  show execMessageArrive core src s = _
  rw [execMessageArrive, takeNet_front hnet hon (by simp [pktClass, pktSrc, pktFor])]
  simp only [dispOfGen_at (s := { s with net := r }) hd hg hcur]
  exact congrArg _ (putMsg_idle (d := { d with rx := d.rx ++ [m], granted := d.granted - flitsOf m.data }) hr hq hs)

theorem execHaloReleaseArrive_counts {side : Bool} (hnet : s.net = .release src core g side :: r) (hon : meshOn s = true)
    (hd : getDisp s core = some d) (hg : d.gen = g) (hcur : genCurrent s g = true) (hs : d.sendQ = []) (hr : d.recvQ = [])
    (hq : d.requests = []) : exec (.haloReleaseArrive core src) s = .next (setDisp { s with net := r } core { d with
      released := tput 0 d.released (b2n side) ((tget 0 d.released (b2n side) + 1) % 2 ^ 32), blockedAt := none }) := by
  show execHaloReleaseArrive core src s = _
  rw [execHaloReleaseArrive, takeNet_front hnet hon (by simp [pktClass, pktSrc, pktFor])]
  simp only [dispOfGen_at (s := { s with net := r }) hd hg hcur]
  exact congrArg _ (putMsg_idle (d := { d with
    released := tput 0 d.released (b2n side) ((tget 0 d.released (b2n side) + 1) % 2 ^ 32) }) hr hq hs)

end Arrivals

/-! ### Messages from other packages -/

section Inbox

variable {s : State} {src seq dst : Nat} {g : W32} {b : Bytes}

theorem inboxRemote_repeated (h : s.dom.inSeen.contains (src, seq) = true) : inboxRemote s src seq dst g b = sendAck s src seq :=
  if_pos h

theorem inboxRemote_refused (h : s.dom.inSeen.contains (src, seq) = false) (hp : inboxPart s (dst % 4096) = none) :
    inboxRemote s src seq dst g b = sendCtl (takeRemote s src seq) src (.refusal g) := by
  rw [inboxRemote, if_neg (by simpa using h), hp]

/-- The partition's inbox with a message more. -/
def inboxed (s : State) (p core src : Nat) (b : Bytes) : State :=
  setPart s p { getPart s p with inbox := (getPart s p).inbox ++ [(core, src, b)] }

theorem inboxRemote_stored {p : Nat} (h : s.dom.inSeen.contains (src, seq) = false) (hp : inboxPart s (dst % 4096) = some p)
    (hroom : inboxFlits s p + (b.length + 63) / 64 ≤ 65536) :
    inboxRemote s src seq dst g b = takeRemote (inboxed s p (dst % 4096) src b) src seq := by
  have hput : inboxPut s p (dst % 4096) src b = some (inboxed s p (dst % 4096) src b) := if_pos hroom
  rw [inboxRemote, if_neg (by simpa using h), hp]
  simp only [hput]

theorem exec_inboxMessage (h : forUs s dst = true) :
    exec (.inboxMessage src seq dst { gen := g, data := b }) s = .next (inboxRemote s src seq dst g b) :=
  congrArg Host.Outcome.next (if_pos h)

theorem exec_remoteSendArrive (h : forUs s dst = true) :
    exec (.remoteSendArrive src seq dst g b) s = .next (inboxRemote s src seq dst g b) :=
  congrArg Host.Outcome.next (if_pos h)

end Inbox

/-! ### Refusals -/

theorem getCmd_front {s : State} {c : Cmd} {rest : List Cmd} (h : s.cmds = c :: rest) : getCmd s c.id = some c := by
  rw [getCmd, h, List.find?_cons_of_pos (by simp)]

/-- The change of a command whose number no other has changes it alone. -/
theorem modCmd_front {s : State} {c : Cmd} {rest : List Cmd} (h : s.cmds = c :: rest) (hrest : ∀ x ∈ rest, x.id ≠ c.id) (f : Cmd → Cmd) :
    modCmd s c.id f = { s with cmds := f c :: rest } := by
  have hmap : rest.map (fun x => if x.id == c.id then f x else x) = rest :=
    (List.map_congr_left fun x hx => if_neg (by simpa using hrest x hx)).trans (List.map_id' rest)
  simp only [modCmd, h, List.map_cons, hmap, beq_self_eq_true, if_true]

section Refused

variable {s : State} {g : W32} {c : Cmd} {rest : List Cmd}

theorem execSendRefused_found (h : s.cmds = c :: rest) (hop : cop c = 0x01) (hg : c.gen = g)
    (hst : ((c.stage == .running && !c.gang.isEmpty) || (c.stage == .committing && c.sent)) = true) :
    exec (.sendRefused g) s = .next (if c.stage = .running then startKill s c.id (.ends stOutOfBounds 0) false
      else modCmd s c.id fun c => { c with sendRefused := true }) := by
  have hhit : (cop c == opRUN && c.gen == g &&
      ((c.stage == .running && !c.gang.isEmpty) || (c.stage == .committing && c.sent))) = true := by
    rw [hst, hop, hg]
    simp [opRUN]
  show execSendRefused g s = _
  simp only [execSendRefused, h, List.find?_cons, hhit]

end Refused

/-- Settles O27. Of an arrival, the unit's queues are empty but for what came; a message of another package is stored or refused by the
inbox of its core's partition. That a refusal after the commit point stands in the completion entry, and one after the entry finds no
command, is the model's choice (log entry 34). -/
theorem messageArrivals : Obligations.MessageArrivals := by
  refine ⟨⟨?_, ?_, ?_, ?_, ?_⟩, ?_, ?_, ?_, ?_⟩
  · intro s dst src n g r d hnet hon hd hg hcur hs hr hq hroom
    exact execCreditRequestArrive_room hnet hon hd hg hcur hs hr hq hroom
  · intro s core src n g r d e hnet hon hd hg hcur hs hr hq hdst ha hread hhalo hf
    exact execGrantArrive_transmits hnet hon hd hg hcur hs hr hq hdst ha hread hhalo hf
  · intro s dst src g m r d hnet hon hd hg hcur hs hr hq
    exact execMessageArrive_enters hnet hon hd hg hcur hs hr hq
  · intro s core src side g r d hnet hon hd hg hcur hs hr hq
    refine ⟨_, _, execHaloReleaseArrive_counts hnet hon hd hg hcur hs hr hq, rfl, getDisp_setDisp_same _ _ _, ?_, ?_, rfl⟩
    · exact tget_tput_same _ _ _ _
    · exact tget_tput_ne _ _ _ _ _ (by cases side <;> decide)
  · intro s dst src n g r hnet hon hcur
    exact execCreditRequestArrive_stale hnet hon hcur
  · intro s src seq dst p g b hus hp hseen hroom hw hn
    have hstored := inboxRemote_stored (g := g) hseen hp hroom
    obtain ⟨ps, fr, hack⟩ := sendAck_now (s := { inboxed s p (dst % 4096) src b with dom := { s.dom with
      inSeen := s.dom.inSeen ++ [(src, seq)] } }) hw hn src seq
    have ht := hstored.trans hack
    refine ⟨_, (exec_inboxMessage hus).trans (congrArg _ ht), (exec_remoteSendArrive hus).trans (congrArg _ ht), ?_, ?_, rfl, rfl,
      rfl, rfl⟩
    · exact congrArg Part.inbox (getPart_setPart_same s p _)
    · intro q hq
      exact getPart_setPart_ne s p q _ hq
  · intro s src seq dst g b hus hseen hw hn
    obtain ⟨ps, fr, hack⟩ := sendAck_now hw hn src seq
    exact ⟨_, (exec_inboxMessage hus).trans (congrArg _ ((inboxRemote_repeated hseen).trans hack)), rfl, rfl, rfl, rfl, rfl⟩
  · intro s src seq dst g b hus hp hseen hw hn
    obtain ⟨ps, fr, hack⟩ := sendAck_now (s := { s with dom := { s.dom with inSeen := s.dom.inSeen ++ [(src, seq)] } })
      hw (show 0 < s.crown.fl0 by omega) src seq
    have htake : takeRemote s src seq = _ := hack
    obtain ⟨ps', fr', hctl⟩ := sendCtl_now (s := takeRemote s src seq) (by rw [htake]; rfl)
      (by rw [htake]; exact Nat.sub_pos_of_lt hn) src (.refusal g)
    refine ⟨_, (exec_remoteSendArrive hus).trans (congrArg _ ((inboxRemote_refused hseen hp).trans hctl)), ?_, ?_, ?_⟩
    · rw [htake]; rfl
    · rw [htake]; rfl
    · rw [htake]
      simp [injected, keptCtl]
  · intro s g c rest hcmds hop hg
    refine ⟨fun hst hgang => ?_, fun hst hsent hrest => ⟨?_, rfl⟩⟩
    · have hexec := execSendRefused_found hcmds hop hg (by
        simp [hst, hgang])
      rw [if_pos hst] at hexec
      exact ⟨_, hexec, _, _, startKill_running (getCmd_front hcmds) hst _ _, rfl, rfl, rfl⟩
    · have hexec := execSendRefused_found hcmds hop hg (by simp [hst, hsent])
      rw [if_neg (by simp [hst]), modCmd_front hcmds hrest] at hexec
      exact hexec

/-! ### Remote reads -/

/-- A read of device memory that is served counts the lines it corrects (R288). -/
theorem noteDev_eq (s : State) (p dva n : Nat) : ∃ ps, noteDev s p dva n = { s with piles := ps } := by
  have key : ∀ (l : List (Nat × Nat)) (t : State), (∃ ps, t = { s with piles := ps }) → ∃ ps, l.foldl (fun t x =>
      match walk s p x.1 with
      | .page pa _ _ => noteRead t pa x.2
      | _ => t) t = { s with piles := ps } := by
    intro l
    induction l with
    | nil => exact fun t h => h
    | cons x l ih =>
      rintro t ⟨ps, rfl⟩
      refine ih _ ?_
      dsimp only
      split
      · unfold noteRead bumpCe
        split
        · exact ⟨_, rfl⟩
        · exact ⟨_, rfl⟩
      · exact ⟨_, rfl⟩
  obtain ⟨ps, h⟩ := key (devPieces s p dva n) s ⟨_, rfl⟩
  exact ⟨ps, (show noteDev s p dva n = _ from by unfold noteDev; rfl).trans h⟩

section RemoteReads

variable {s : State} {src gen index offset n : Nat} {e : Export}

theorem exec_remoteReadServe (ha : awake s) (hdom : s.dom.inDomain = true) : exec (.remoteReadServe src gen index offset n) s = .next
    (match serveRead s index offset n with
     | .data b => sendReply (noteServed s index offset n) (src / 4096) (src % 4096) (BitVec.ofNat 32 gen) b
     | .refused => sendCtl s (src / 4096) (.refusal (BitVec.ofNat 32 gen))
     | .bad l => ueReport s l 0
     | .silent => s) := by
  have hup : (crownUp s && !d1Off s && s.dom.inDomain) = true := by
    have hoff : d1Off s = false := by simpa [d1Off] using ha.2
    simp [ha.1, hdom, hoff]
  exact congrArg Host.Outcome.next (if_pos hup)

theorem serveRead_data {b : Bytes} (he : tget none s.dom.exports index = some e) (hin : offset + n ≤ e.bytes)
    (hb : devRead s e.part (e.dva + offset) n = .data b) : serveRead s index offset n = .data b := by
  simp only [serveRead, he, if_pos hin, hb]

theorem serveRead_beyond (he : tget none s.dom.exports index = some e) (hout : e.bytes < offset + n) :
    serveRead s index offset n = .refused := by
  simp only [serveRead, he, if_neg (Nat.not_le.2 hout)]

end RemoteReads

theorem execRemoteReadReply_enters {s : State} {core : Nat} {d : Disp} {r : RemoteRead} {b : Bytes} (hd : getDisp s core = some d)
    (hcur : genCurrent s d.gen = true) (hreads : d.reads = [r]) (hlen : r.bytes = b.length) (hs : d.sendQ = []) (hr : d.recvQ = [])
    (hq : d.requests = []) : exec (.remoteReadReply core d.gen b) s = .next (setDisp s core { d with
      reads := [], readHold := d.readHold - r.bytes / 64, rx := d.rx ++ [{ reply := true, data := b }], blockedAt := none }) := by
  show execRemoteReadReply core d.gen b s = _
  simp only [execRemoteReadReply, dispOfGen_at hd rfl hcur, hreads, List.find?_cons,
    show (r.bytes == b.length) = true by simp [hlen], List.erase_cons_head]
  exact congrArg _ (putMsg_idle (d := { d with
    reads := [], readHold := d.readHold - r.bytes / 64, rx := d.rx ++ [{ reply := true, data := b }] }) hr hq hs)

/-- Settles O28. Of the reads a core has in flight one is answered, asked for again or given up; the serving side checks the range
it is read from alone. -/
theorem remoteReads : Obligations.RemoteReads := by
  refine ⟨?_, ?_, ?_, ?_⟩
  · intro s core d r b hd hcur hreads hlen hs hr hq
    exact execRemoteReadReply_enters hd hcur hreads hlen hs hr hq
  · intro s core d c r hon hreads hret hat
    obtain ⟨ps, fr, hsend⟩ := sendRead_eq (setDisp s core { d with reads := [{ r with retried := true }] }) r.dst core d.gen r.request
    have hexec : exec (.remoteReadRetry core) s =
        .next (sendRead (setDisp s core { d with reads := [{ r with retried := true }] }) r.dst core d.gen r.request) := by
      refine congrArg Host.Outcome.next ((onUnit_at hon _).trans ?_)
      simp only [hreads, List.find?_cons, show (!r.retried && decide (r.at_ + 1000000 ≤ s.time)) = true by simp [hret, hat],
        markRetried, if_true]
    rw [hsend] at hexec
    exact ⟨_, hexec, getDisp_setDisp_same _ _ _, rfl, rfl⟩
  · intro s core d c r hon hr hat hrun
    have hany : d.reads.any (fun r => decide (r.at_ + 2000000 ≤ s.time)) = true := List.any_eq_true.2 ⟨r, hr, by simp [hat]⟩
    have hc : getCmd s c.id = some c := by
      have := hon.2.1
      rwa [← getCmd_id this] at this
    exact ⟨_, congrArg Host.Outcome.next ((onUnit_at hon _).trans (if_pos hany)), _, _, startKill_running hc hrun _ _, rfl, rfl, rfl⟩
  · intro s src gen index offset n e b ha hdom he
    refine ⟨fun hin hb => ?_, fun hout hw hn => ?_⟩
    · have hexec := exec_remoteReadServe (src := src) (gen := gen) (index := index) (offset := offset) (n := n) ha hdom
      have hnoted : noteServed s index offset n = noteDev s e.part (e.dva + offset) n := by simp only [noteServed, he]
      obtain ⟨ps, hnote⟩ := noteDev_eq s e.part (e.dva + offset) n
      rw [serveRead_data he hin hb] at hexec
      obtain ⟨ps', fr, hsend⟩ := sendReply_eq { s with piles := ps } (src / 4096) (src % 4096) (BitVec.ofNat 32 gen) b
      dsimp only at hexec
      rw [hnoted, hnote, hsend] at hexec
      exact ⟨_, hexec, rfl, rfl, rfl, rfl⟩
    · have hexec := exec_remoteReadServe (src := src) (gen := gen) (index := index) (offset := offset) (n := n) ha hdom
      rw [serveRead_beyond he hout] at hexec
      obtain ⟨ps, fr, hctl⟩ := sendCtl_now hw hn (src / 4096) (.refusal (BitVec.ofNat 32 gen))
      dsimp only at hexec
      rw [hctl] at hexec
      exact ⟨_, hexec, rfl, rfl, rfl⟩

end Sys2Proof.Machine
end

section
/-! Placement (O29): what a reservation does to pile memory. -/

namespace Sys2Proof.Machine

open Sys2Proof Sys2Proof.Ob

/-! ### A line that cannot be corrected -/

/-- Three symbols in error, beyond the decoder's power. -/
def spoiledLine : ErrPat := [(0, 1), (1, 2), (2, 3)]

/-- What the decoder makes of a pattern depends on the symbols that it takes as erased. -/
theorem decodeLine_congr {s t : State} {l m : Nat} (h : erasedSyms s l = erasedSyms t m) (e : ErrPat) :
    decodeLine s l e = decodeLine t m e := by
  unfold decodeLine correctable
  rw [h]

/-- With no symbol erased, a line that holds the pattern is uncorrectable. -/
theorem lineBad_spoiled {s : State} {l : Nat} (hp : s.piles = []) (he : lineErrs s l = spoiledLine) : lineBad s l = true := by
  have herased : erasedSyms s l = erasedSyms Tests.spoilt 0 := by
    simp only [erasedSyms, getPile, hp]
    rfl
  have hbad := Tests.wit_line_bad
  rw [lineBad] at hbad ⊢
  rwa [he, decodeLine_congr herased]

/-! ### Firmware overwrites the pages it hands out (R289) -/

/-- Where the only bad line of an extent is at its base, the page of that line is overwritten and nothing else. -/
theorem addExtent_mem {s : State} {base size : Nat} {o : Owner} (hpos : 0 < size) (hp : s.piles = [])
    (he : s.pile.errs = [(base, spoiledLine)]) :
    (addExtent s base size o).pile.mem = memPut s.pile.mem (base / 4096 * 4096) (freeBytes s.free 4096) := by
  have hbad : lineBad s base = true := lineBad_spoiled hp (by simp [lineErrs, he, tget])
  have hpages : badPages s base size = [base / 4096 * 4096] := by
    simp [badPages, he, hbad, hpos, List.eraseDups_cons]
  have hwrite : (pmWrite s (base / 4096 * 4096) (freeBytes s.free 4096)).pile.mem =
      memPut s.pile.mem (base / 4096 * 4096) (freeBytes s.free 4096) := by
    have hlen : (freeBytes s.free 4096).length = 4096 := by rw [freeBytes, List.length_map, List.length_range]
    exact pmWrite_whole_mem s (by omega) (by rw [hlen])
  simp only [addExtent, hpages, List.foldl_cons, List.foldl_nil, overwritePage, nextFree, hwrite]

/-! ### The state that refutes O29 -/

/-- STATE_EXPORT of one byte to the host, queued: its output is staged in pile 0 (R277). -/
def stagedCmd : Cmd := { Tests.cmdOf 5 .queued with desc := { opcode := 5, lenA := 1 } }

/-- Where firmware stages it. -/
def stagedAt : Nat := (physFind (Tests.withCmd stagedCmd) 0 4096 4096).getD 0

/-- The line there is uncorrectable, and its first byte is not the free byte that firmware overwrites it with. -/
def stagedPile : PileMem :=
  { mem := [(stagedAt, Config.freeByte (Tests.withCmd stagedCmd).free (stagedAt % 4096) + 1)], errs := [(stagedAt, spoiledLine)] }

def stagedState : State := { Tests.withCmd stagedCmd with pile := stagedPile }

theorem physFind_congr {s t : State} (hf : s.free = t.free) (ha : s.pile.alloc = t.pile.alloc) (pile size align : Nat) :
    physFind s pile size align = physFind t pile size align := by
  unfold physFind extentFree
  rw [hf, ha]

theorem physFind_staged : physFind stagedState 0 4096 4096 = some stagedAt := by
  have hsome : (physFind (Tests.withCmd stagedCmd) 0 4096 4096).isSome = true := by
    rw [physFind, List.find?_isSome]
    exact ⟨0, by simp, by decide⟩
  have hsame : physFind stagedState 0 4096 4096 = physFind (Tests.withCmd stagedCmd) 0 4096 4096 :=
    physFind_congr (by rfl) (by rfl) 0 4096 4096
  rw [hsame, stagedAt]
  obtain ⟨b, hb⟩ := Option.isSome_iff_exists.1 hsome
  rw [hb]
  rfl

theorem reserve_staged : reserve stagedState stagedCmd = some ([{ dva := 0, size := 4096, pa := stagedAt }], [],
    addExtent stagedState stagedAt 4096 (.cmd 0 0)) := by
  have halloc : physAlloc stagedState 0 4096 4096 (.cmd 0 0) =
      some (stagedAt, addExtent stagedState stagedAt 4096 (.cmd 0 0)) := by
    have hq : (!quotaOk stagedState 0 4096) = false := rfl
    have hf : pileFenced stagedState 0 = false := rfl
    simp only [physAlloc, hf, ownerPart, hq, physFind_staged, Option.map_some, Bool.false_eq_true, if_false]
  have hroom : stageRoom stagedState stagedCmd = some ([{ dva := 0, size := 4096, pa := stagedAt }],
      addExtent stagedState stagedAt 4096 (.cmd 0 0)) := by
    have hup : pilesUp stagedState = 0 :: (List.range' 1 15) := rfl
    have hlen : alignUp (outLen stagedCmd.desc) 4096 = 4096 := by decide
    have hdev : isDev stagedCmd.desc.out = false := by decide
    have huse : (!usesOut (cop stagedCmd) || outLen stagedCmd.desc == 0) = false := by decide
    have halloc' : physAlloc stagedState 0 4096 4096 (.cmd stagedCmd.part stagedCmd.id) = _ := halloc
    simp only [stageRoom, huse, hdev, hup, hlen, halloc', Option.map_some]
    rfl
  have hblocks : heldBlocks stagedState stagedCmd (addExtent stagedState stagedAt 4096 (.cmd 0 0))
      [{ dva := 0, size := 4096, pa := stagedAt }] = false := by
    rw [heldBlocks]
    rfl
  have hop : cop stagedCmd ≠ opRUN := by decide
  simp only [reserve, hroom, hblocks, hop]
  rfl

theorem placeable_staged : placeable stagedState 0 stagedCmd = true := by
  have hallowed : allowed stagedState stagedCmd = true := by decide +kernel
  have hslice : sliceOk stagedState stagedCmd = true := by decide +kernel
  have hfirst : slicedFirst stagedState stagedCmd = false := by decide +kernel
  rw [placeable, hallowed, hslice, hfirst, reserve_staged]
  rfl

theorem nextPlace_staged : ∃ left, nextPlace stagedState 0 = some (stagedCmd, 0, left) := by
  have hlist : stagedState.cmds.filter (placeable stagedState 0) = [stagedCmd] := by
    show [stagedCmd].filter _ = _
    simp [placeable_staged]
  rw [nextPlace, hlist]
  exact ⟨_, rfl⟩

/-- A command of the Crown that is placed leaves pile memory as its reservation made it. -/
theorem placeCmd_crown_pile {s : State} {c : Cmd} (h : cop c ≠ opRUN) (pages : List StagePage) (bases : List Nat) :
    (placeCmd s c pages bases).pile = s.pile := by
  rw [placeCmd, if_neg h, started]
  dsimp only
  split
  · rfl
  · rfl

theorem execPlaceCommand_at {s s1 : State} {part cl left : Nat} {c : Cmd} {pages : List StagePage} {bases : List Nat}
    (hup : placerUp s = true) (hp : partOk part = true) (hn : nextPlace s part = some (c, cl, left))
    (hr : reserve s c = some (pages, bases, s1)) : exec (.placeCommand part) s =
      .next (placeCmd (setPart s1 part { getPart s1 part with plClient := cl, plLeft := left }) c pages bases) := by
  show execPlaceCommand part s = _
  simp only [execPlaceCommand, hup, hp, hn, hr]
  rfl

/-- Refutes O29: before firmware hands out an extent it overwrites the pages of it that hold an uncorrectable line (R289), and an
extent for staged output is handed out as the placer reserves it. Where the output of a STATE_EXPORT is staged over such a line, placing
the command changes pile memory. -/
theorem not_placementAndRuns : ¬ Obligations.PlacementAndRuns := by
  rintro ⟨hplace, -⟩
  obtain ⟨left, hnext⟩ := nextPlace_staged
  have hup : placerUp stagedState = true := by decide +kernel
  obtain ⟨hcrown, -⟩ := hplace stagedState 0 0 left stagedCmd _ _ _ hup rfl hnext reserve_staged rfl rfl
  obtain ⟨t, x, hexec, -, -, -, -, -, -, -, -, -, -, -, -, -, -, hmem⟩ := hcrown (by decide)
  rw [execPlaceCommand_at hup rfl hnext reserve_staged] at hexec
  have ht := (Host.Outcome.next.inj hexec).symm
  subst ht
  have hput : memPut stagedState.pile.mem (stagedAt / 4096 * 4096) (freeBytes stagedState.free 4096) = stagedState.pile.mem := by
    rw [placeCmd_crown_pile (by decide), setPart_pile] at hmem
    rw [← addExtent_mem (s := stagedState) (size := 4096) (o := .cmd 0 0) (by decide) rfl rfl]
    exact hmem
  have hat := congrArg (fun m => tget 0 m (stagedAt / 4096 * 4096 + stagedAt % 4096)) hput
  have hlt : stagedAt % 4096 < (freeBytes stagedState.free 4096).length := by
    rw [freeBytes, List.length_map, List.length_range]
    exact Nat.mod_lt _ (by decide)
  rw [memPut_inside _ _ _ _ hlt, Nat.div_add_mod' stagedAt 4096] at hat
  have hfree : ((freeBytes stagedState.free 4096)[stagedAt % 4096]?).getD 0 = Config.freeByte stagedState.free (stagedAt % 4096) := by
    rw [freeBytes, List.getElem?_map, List.getElem?_range (Nat.mod_lt _ (by decide))]
    rfl
  have hmem0 : tget 0 stagedState.pile.mem stagedAt = Config.freeByte stagedState.free (stagedAt % 4096) + 1 := by
    show tget 0 [(stagedAt, _)] stagedAt = _
    rw [tget, if_pos rfl]
    rfl
  rw [hfree, hmem0] at hat
  revert hat
  generalize Config.freeByte stagedState.free (stagedAt % 4096) = x
  revert x
  decide

end Sys2Proof.Machine
end

section
/-! Resets of the package scope (R415) and the debug port (O52). -/

namespace Sys2Proof.Machine

open Sys2Proof Sys2Proof.Ob

/-! ### What a reset of the package scope leaves -/

/-- A cause that is recorded stands in its bit (R415). -/
theorem getLsbD_or_causeBit (c : BitVec 10) {n : Nat} (h : n < 10) : (c ||| BitVec.ofNat 10 (2 ^ n)).getLsbD n = true := by
  rw [BitVec.getLsbD_or, BitVec.getLsbD_ofNat, Nat.testBit_two_pow_self]
  simp [h]

theorem packageReset_resetting (s : State) (cause : Nat) (test : Bool) : (packageReset s cause test).rst.resetting.isSome = true := by
  unfold packageReset
  dsimp only
  split
  · rfl
  · rfl

theorem packageReset_cause (s : State) {cause : Nat} (test : Bool) (h : cause < 10) :
    (packageReset s cause test).rst.cause.getLsbD cause = true := getLsbD_or_causeBit _ h

/-- Seen from a state whose controller step, fences and identity it has, a package-scope reset clears what lies in its scope. -/
theorem packageReset_cleared {s u : State} (hstep : u.rst.step = s.rst.step) (hlo : u.crown.fenceLo = s.crown.fenceLo)
    (hplb : u.crown.fencePlb = s.crown.fencePlb) (huds : u.sec.uds = s.sec.uds) (hserial : u.sec.serial = s.sec.serial)
    (hroll : u.sec.rollback = s.sec.rollback) (howner : u.sec.ownerSet = s.sec.ownerSet) (hleaf : u.sec.nextLeaf = s.sec.nextLeaf)
    (hsel : u.sec.bootsel = s.sec.bootsel) (cause : Nat) (test : Bool) : cleared s (packageReset u cause test) :=
  ⟨packageReset_resetting u cause test, congrArg (min · 1) hstep, rfl, rfl, rfl, rfl, rfl, rfl, rfl, rfl, rfl, rfl, rfl, rfl, rfl, hlo,
    hplb, huds, hserial, hroll, howner, hleaf, hsel⟩

theorem packageReset_cleared_self (s : State) (cause : Nat) (test : Bool) : cleared s (packageReset s cause test) :=
  packageReset_cleared rfl rfl rfl rfl rfl rfl rfl rfl rfl cause test

/-! ### Debug sessions (R414) -/

/-- A session is open afterwards; nothing but the debug port changes. -/
theorem openSession_opens (s : State) : ∃ x, openSession s = { s with dbg := x } ∧ x.isOpen = true ∧ x.ir = s.dbg.ir := by
  unfold openSession
  split
  · next h => exact ⟨s.dbg, rfl, h, rfl⟩
  · exact ⟨_, rfl, rfl, rfl⟩

theorem openSession_closed {s : State} (h : s.dbg.isOpen = false) : openSession s =
    { s with dbg := { s.dbg with isOpen := true, attached := true, sessions := min (s.dbg.sessions + 1) 0xFFFF } } :=
  if_neg (by simp [h])

/-- A block without a clock that is good is recorded as forced, any other that is in reset is caught (R422). -/
theorem forceBlock_inReset {s : State} {b : Byte} (hok : blockOk b.toNat = true) (hup : blockUp s b = false) :
    ∃ r, forceBlock s b = { s with rst := r } ∧ (b ∈ s.rst.clkBad → b ∈ r.forced) ∧
      (b ∉ s.rst.clkBad → r.clkEarly = true ∧ r.clkBlock = b) := by
  rw [forceBlock, if_neg (by simp [hok, hup])]
  by_cases hbad : b ∈ s.rst.clkBad
  · rw [if_pos (List.contains_iff_mem.2 hbad)]
    exact ⟨_, rfl, fun _ => List.mem_append_right _ (List.mem_singleton.2 rfl), fun h => absurd hbad h⟩
  · rw [if_neg fun h => hbad (List.contains_iff_mem.1 h)]
    exact ⟨_, rfl, fun h => absurd h hbad, fun _ => ⟨rfl, rfl⟩⟩

/-- Settles O52. Every instruction but RESET_PKG and FORCE_REL changes the port's own registers alone; what those two do to the rest is
said of the reset and of the interlock. -/
theorem debugPort : Obligations.DebugPort := by
  intro s hup
  have run : ∀ t : State, onlyIf (tapUp s) s t = .next t := fun t => congrArg Host.Outcome.next (if_pos hup)
  refine ⟨run _, fun b => run _, fun h => ?_, fun h => ?_, fun c hlo hhi h => ?_, ?_, fun c hc hff => ?_, run _, ?_, fun b hok hb => ?_,
    fun a => run _⟩
  · exact (run _).trans (congrArg _ (openSession_closed (s := loadIr s 3) h))
  · exact (run _).trans (congrArg _ (if_pos (c := (loadIr s 3).dbg.isOpen = true) h))
  · have hcode : (tapUp s && decide (0x80 ≤ c.toNat) && decide (c.toNat ≤ 0x9F)) = true := by simp [hup, hlo, hhi]
    have hext : (c == 3) = false := by
      rw [beq_eq_false_iff_ne]
      rintro rfl
      exact absurd hlo (by decide)
    refine (congrArg Host.Outcome.next (if_pos hcode)).trans (congrArg _ ((openSession_closed (s := loadIr s c) h).trans ?_))
    simp only [loadIr, hext]
  · exact congrArg Host.Outcome.next (if_pos (by rw [hup]; rfl))
  · obtain ⟨x, hx, hopen, hir⟩ := openSession_opens (loadIr s c)
    have hcode : (tapUp s && !tapCode c.toNat) = true := by simp [hup, hc]
    refine ⟨_, (congrArg Host.Outcome.next (if_pos hcode)).trans (congrArg _ ((if_neg hff).trans hx)), hopen, hir, rfl⟩
  · obtain ⟨x, hx, hopen, _⟩ := openSession_opens (loadIr s 0x40)
    have hexec : exec .resetPkg s = .next (packageReset { loadIr s 0x40 with dbg := x } 9 s.rst.stWarm) :=
      (run _).trans (by rw [hx])
    exact ⟨_, hexec, packageReset_cleared rfl rfl rfl rfl rfl rfl rfl rfl rfl 9 _, packageReset_cause _ _ (by decide), hopen⟩
  · obtain ⟨x, hx, hopen, _⟩ := openSession_opens (loadIr s 0x41)
    have hexec : exec (.forceRel b) s = .next (forceBlock { loadIr s 0x41 with dbg := x } b) := (run _).trans (by rw [hx])
    obtain ⟨r, hr, hforced, hearly⟩ := forceBlock_inReset (s := { loadIr s 0x41 with dbg := x }) hok hb
    rw [hr] at hexec
    exact ⟨_, hexec, hopen, hforced, hearly, rfl⟩

end Sys2Proof.Machine
end

section
/-! What allocation and the page tables change: pile memory, the roots of the partitions and the free values (R304, R307). -/

namespace Sys2Proof.Machine

open Sys2Proof

/-- `t` is `s` but for pile memory with its extents, the partitions' root tables and the free values. -/
def Alloced (s t : State) : Prop := ∃ pi pa fr, t = { s with pile := pi, parts := pa, free := fr }

theorem Alloced.refl (s : State) : Alloced s s := ⟨_, _, _, rfl⟩

theorem Alloced.trans {s t u : State} (h : Alloced s t) (k : Alloced t u) : Alloced s u := by
  obtain ⟨pi, pa, fr, rfl⟩ := h
  obtain ⟨pi', pa', fr', rfl⟩ := k
  exact ⟨pi', pa', fr', rfl⟩

theorem Alloced.foldl {α : Type} {f : State → α → State} (h : ∀ t x, Alloced t (f t x)) :
    ∀ (l : List α) (s : State), Alloced s (l.foldl f s)
  | [], s => .refl s
  | x :: l, s => (h s x).trans (Alloced.foldl h l (f s x))

theorem pmWrite_alloced (s : State) (pa : Nat) (b : Bytes) : Alloced s (pmWrite s pa b) := ⟨_, _, _, rfl⟩
theorem freeExtents_alloced (s : State) (f : Extent → Bool) : Alloced s (freeExtents s f) := ⟨_, _, _, rfl⟩
theorem nextFree_alloced (s : State) : Alloced s (nextFree s) := ⟨_, _, _, rfl⟩
theorem overwritePage_alloced (s : State) (pg : Nat) : Alloced s (overwritePage s pg) :=
  (pmWrite_alloced s pg _).trans (nextFree_alloced _)
theorem writePte_alloced (s : State) (pa : Nat) (e : W64) : Alloced s (writePte s pa e) := pmWrite_alloced s pa _

theorem addExtent_alloced (s : State) (base size : Nat) (o : Owner) : Alloced s (addExtent s base size o) :=
  (Alloced.foldl overwritePage_alloced (badPages s base size) s).trans ⟨_, _, _, rfl⟩

theorem physAlloc_eq_some {s t : State} {pile size align b : Nat} {o : Owner} (h : physAlloc s pile size align o = some (b, t)) :
    physFind s pile size align = some b ∧ t = addExtent s b size o := by
  have key : ∀ (a b' : Bool), (if a = true then none else if b' = true then none
      else (physFind s pile size align).map fun b => (b, addExtent s b size o)) = some (b, t) →
      physFind s pile size align = some b ∧ t = addExtent s b size o := by
    intro a b' hab
    cases a <;> cases b' <;> simp only [Bool.false_eq_true, if_true, if_false, reduceCtorEq] at hab
    obtain ⟨x, hx, he⟩ := Option.map_eq_some_iff.1 hab
    obtain ⟨rfl, rfl⟩ := Prod.mk.inj he
    exact ⟨hx, rfl⟩
  exact key _ _ h

theorem physAlloc_alloced {s t : State} {pile size align b : Nat} {o : Owner} (h : physAlloc s pile size align o = some (b, t)) :
    Alloced s t := by
  obtain ⟨_, rfl⟩ := physAlloc_eq_some h
  exact addExtent_alloced s b size o

theorem physAllocAny_alloced {s t : State} {size align b : Nat} {o : Owner} :
    ∀ {l : List Nat}, physAllocAny s size align o l = some (b, t) → Alloced s t
  | [], h => by cases h
  | p :: l, h => by
    unfold physAllocAny at h
    split at h
    · next r hr => cases h; exact physAlloc_alloced hr
    · exact physAllocAny_alloced h

theorem newTable_alloced {s t : State} {p b : Nat} (h : newTable s p = some (b, t)) : Alloced s t := by
  obtain ⟨x, hx, he⟩ := Option.map_eq_some_iff.1 h
  cases he
  exact (physAllocAny_alloced (b := x.1) hx).trans (pmWrite_alloced _ _ _)

theorem growTable_alloced {p dva : Nat} : ∀ {n : Nat} {s t : State} {b : Nat}, growTable s p dva n = some (b, t) → Alloced s t
  | 0, s, t, b, h => by
    unfold growTable at h
    split at h
    · cases h; exact .refl s
    · obtain ⟨x, hx, he⟩ := Option.map_eq_some_iff.1 h
      cases he
      exact (newTable_alloced (b := x.1) hx).trans ⟨_, _, _, rfl⟩
  | n + 1, s, t, b, h => by
    unfold growTable at h
    split at h
    · cases h
    · next a s1 h1 =>
      refine (growTable_alloced h1).trans ?_
      dsimp only at h
      split at h
      · cases h; exact .refl _
      · obtain ⟨x, hx, he⟩ := Option.map_eq_some_iff.1 h
        cases he
        exact (newTable_alloced (b := x.1) hx).trans (writePte_alloced _ _ _)

theorem dropTable_alloced (s : State) (p : Nat) (e : W64) : Alloced s (dropTable s p e) := by
  unfold dropTable
  split
  · exact freeExtents_alloced s _
  · exact .refl s

theorem putPte_alloced {s t : State} {p key : Nat} {e : W64} (h : putPte s p key e = some t) : Alloced s t := by
  unfold putPte at h
  dsimp only at h
  split at h
  · split at h
    · cases h; exact .refl s
    · cases h
      split
      · exact .refl s
      · exact writePte_alloced _ _ _
  · split at h
    · cases h
    · next a s1 h1 =>
      cases h
      exact (growTable_alloced h1).trans ((dropTable_alloced s1 p _).trans (writePte_alloced _ _ _))

theorem putPtes_alloced {p : Nat} : ∀ {l : List (Nat × W64)} {s t : State}, putPtes s p l = some t → Alloced s t
  | [], s, t, h => by cases h; exact .refl s
  | (k, e) :: l, s, t, h => by
    unfold putPtes at h
    split at h
    · next s1 h1 => exact (putPte_alloced h1).trans (putPtes_alloced h)
    · cases h

theorem setPte_alloced (s : State) (p key : Nat) (e : W64) : Alloced s (setPte s p key e) := by
  unfold setPte
  cases h : putPte s p key e with
  | none => exact .refl s
  | some t => exact putPte_alloced h

end Sys2Proof.Machine
end

section
/-! Resets and firmware restarts (O53). -/

namespace Sys2Proof.Machine

open Sys2Proof Sys2Proof.Ob

/-! ### What kills leave of the Crown -/

/-- Of the Crown's state only the injection allowances and what waits for them differ (R32, R341). -/
def Allowances (c d : Crown) : Prop := ∃ a b m w, d = { c with fl0 := a, fl0Wait := b, mc0 := m, mc0Wait := w }

theorem Allowances.refl (c : Crown) : Allowances c c := ⟨_, _, _, _, rfl⟩

theorem Allowances.trans {c d e : Crown} (h : Allowances c d) (k : Allowances d e) : Allowances c e := by
  obtain ⟨a, b, m, w, rfl⟩ := h
  obtain ⟨a', b', m', w', rfl⟩ := k
  exact ⟨a', b', m', w', rfl⟩

theorem foldl_allowances {α : Type} {f : State → α → State} (h : ∀ t x, Allowances t.crown (f t x).crown) :
    ∀ (l : List α) (s : State), Allowances s.crown (l.foldl f s).crown
  | [], _ => .refl _
  | x :: l, s => (h s x).trans (foldl_allowances h l (f s x))

theorem injectMc0_allowances : ∀ (l : List Packet) (s : State), Allowances s.crown (injectMc0 l s).crown
  | [], _ => .refl _
  | p :: l, s => by
    unfold injectMc0
    dsimp only
    split
    · exact Allowances.trans ⟨_, _, _, _, rfl⟩ (injectMc0_allowances l _)
    · exact Allowances.trans ⟨_, _, _, _, rfl⟩ (injectMc0_allowances l _)

theorem sendNet_allowances (s : State) (p : Packet) : Allowances s.crown (sendNet s p).crown := by
  unfold sendNet
  split
  · exact Allowances.trans ⟨_, _, _, _, rfl⟩ (injectMc0_allowances _ _)
  · exact .refl _

theorem sendCtl_allowances (s : State) (dst : Nat) (m : Ctl) : Allowances s.crown (sendCtl s dst m).crown := by
  obtain ⟨sent, rest, n, ps, fr, he, _, _⟩ := sendFl0_or_waits (keptCtl s dst m) dst (.ctl dst s.dom.ctlSeq m)
  rw [sendCtl_eq, he]
  exact ⟨_, _, _, _, rfl⟩

theorem cancelReads_allowances (s : State) (gang : List Nat) (g : W32) : Allowances s.crown (cancelReads s gang g).crown := by
  unfold cancelReads
  refine foldl_allowances (fun t core => ?_) _ _
  split
  · exact foldl_allowances (fun u r => sendCtl_allowances _ _ _) _ _
  · exact .refl _

theorem startKill_allowances (s : State) (id : Nat) (k : KillKind) (slice : Bool) :
    Allowances s.crown (startKill s id k slice).crown := by
  unfold startKill
  split
  · exact .refl _
  next c _ =>
    split
    · exact (cancelReads_allowances (modCmd s id _) _ _).trans (foldl_allowances (fun t core => sendNet_allowances _ _) _ _)
    · split
      · split
        · exact .refl _
        · exact .refl _
      · split
        · exact .refl _
        · exact .refl _
      · exact .refl _
    · exact .refl _

/-! ### Every running command is killed uncounted (R412) -/

/-- The command is being killed and is to run again, uncounted. -/
def rerunning (s : State) (id : Nat) : Prop := ∃ x k, getCmd s id = some x ∧ x.stage = .killing ∧ x.kill = some k ∧ k.kind = .rerun

theorem startKill_killing {s : State} {id : Nat} {x : Cmd} (h : getCmd s id = some x) (hs : x.stage = .killing) :
    startKill s id .rerun false = s := by
  unfold startKill
  simp only [h, hs]

theorem rerunning_startKill {s : State} {id : Nat} (h : rerunning s id) (n : Nat) : rerunning (startKill s n .rerun false) id := by
  obtain ⟨x, k, hx, hs, hk⟩ := h
  by_cases hn : n = id
  · subst hn
    rw [startKill_killing hx hs]
    exact ⟨x, k, hx, hs, hk⟩
  · obtain ⟨_, _, _, _, _, hother⟩ := startKill_leaves s n .rerun false
    exact ⟨x, k, (hother id (Ne.symm hn)).trans hx, hs, hk⟩

theorem rerunning_foldl {id : Nat} : ∀ (l : List Nat) {s : State}, rerunning s id →
    rerunning (l.foldl (fun t n => startKill t n .rerun false) s) id
  | [], _, h => h
  | n :: l, _, h => rerunning_foldl l (rerunning_startKill h n)

theorem rerunning_of_running {s : State} {id : Nat} {c : Cmd} (hc : getCmd s id = some c) (hs : c.stage = .running) :
    rerunning (startKill s id .rerun false) id := ⟨_, _, startKill_running hc hs .rerun false, rfl, rfl, rfl⟩

theorem rerun_of_running {id : Nat} {c : Cmd} : ∀ (l : List Nat) {s : State}, getCmd s id = some c → c.stage = .running → id ∈ l →
    rerunning (l.foldl (fun t n => startKill t n .rerun false) s) id
  | [], _, _, _, hmem => absurd hmem List.not_mem_nil
  | n :: l, s, hc, hs, hmem => by
    by_cases hn : n = id
    · subst hn
      exact rerunning_foldl l (rerunning_of_running hc hs)
    · obtain ⟨_, _, _, _, _, hother⟩ := startKill_leaves s n .rerun false
      refine rerun_of_running l ((hother id (Ne.symm hn)).trans hc) hs ?_
      rcases List.mem_cons.1 hmem with h | h
      · exact absurd h.symm hn
      · exact h

theorem rerunAll_running {s : State} {id : Nat} {c : Cmd} (hc : getCmd s id = some c) (hs : c.stage = .running) :
    rerunning (rerunAll s) id := by
  refine rerun_of_running _ hc hs (List.mem_map.2 ⟨c, List.mem_filter.2 ⟨List.mem_of_find?_eq_some hc, by simp [hs]⟩, getCmd_id hc⟩)

theorem rerunAll_ended (s : State) : Ended s (rerunAll s) := Ended.foldl (fun t n => startKill_ended t n .rerun false) _ s
theorem rerunAll_allowances (s : State) : Allowances s.crown (rerunAll s).crown :=
  foldl_allowances (fun t n => startKill_allowances t n .rerun false) _ s

theorem rerunAll_stand (s : State) : (rerunAll s).clients = s.clients ∧ (rerunAll s).pile = s.pile := by
  have key : ∀ (l : List Nat) (t : State), (l.foldl (fun t n => startKill t n .rerun false) t).clients = t.clients ∧
      (l.foldl (fun t n => startKill t n .rerun false) t).pile = t.pile := by
    intro l
    induction l with
    | nil => exact fun t => ⟨rfl, rfl⟩
    | cons n l ih =>
      intro t
      obtain ⟨_, hpile, _, hclients, _⟩ := startKill_leaves t n .rerun false
      obtain ⟨h1, h2⟩ := ih (startKill t n .rerun false)
      exact ⟨h1.trans hclients, h2.trans hpile⟩
  exact key _ s

/-! ### The requests are answered with RETRY (R378) -/

/-- The requests of one channel are answered. -/
def retryOne (s : State) (m : Nat) : State :=
  (((s.mail.slow.filter fun x => x.1 == m).map fun x => x.2) ++ getReqs s m).foldl (fun u r => putReply u m (replyBytes r.msg 5 []))
    (setReqs { s with mail := { s.mail with slow := s.mail.slow.filter fun x => x.1 != m } } m [])

theorem retryAll_eq (s : State) : retryAll s = (List.range 8).foldl retryOne s := rfl

theorem foldl_putReply (m : Nat) : ∀ (l : List Req) (s : State), ∃ r,
    l.foldl (fun u r => putReply u m (replyBytes r.msg 5 [])) s = { s with mail := { s.mail with replies := r } }
  | [], _ => ⟨_, rfl⟩
  | q :: l, s => by
    obtain ⟨r, hr⟩ := foldl_putReply m l (putReply s m (replyBytes q.msg 5 []))
    exact ⟨r, hr⟩

theorem foldl_retryOne : ∀ (l : List Nat) (s : State), ∃ sl q r,
    l.foldl retryOne s = { s with mail := { s.mail with slow := sl, reqs := q, replies := r } } ∧
      (∀ m, m ∈ l ∨ tget [] s.mail.reqs m = [] → tget [] q m = []) ∧ ∀ x ∈ sl, x.1 ∉ l ∧ x ∈ s.mail.slow
  | [], s => ⟨_, _, _, rfl, fun m h => h.resolve_left (by simp), fun x hx => ⟨by simp, hx⟩⟩
  | m :: l, s => by
    obtain ⟨r0, h0⟩ := foldl_putReply m (((s.mail.slow.filter fun x => x.1 == m).map fun x => x.2) ++ getReqs s m)
      (setReqs { s with mail := { s.mail with slow := s.mail.slow.filter fun x => x.1 != m } } m [])
    obtain ⟨sl, q, r, he, hq, hsl⟩ := foldl_retryOne l (retryOne s m)
    have h1 : retryOne s m = { s with mail := { s.mail with
        slow := s.mail.slow.filter fun x => x.1 != m, reqs := tput [] s.mail.reqs m [], replies := r0 } } := h0
    refine ⟨sl, q, r, ?_, fun n hn => hq n ?_, fun x hx => ?_⟩
    · rw [List.foldl_cons, he, h1]
    · rw [h1]
      by_cases hnm : n = m
      · subst hnm
        exact .inr (tget_tput_same _ _ _ _)
      · rcases hn with hn | hn
        · exact .inl ((List.mem_cons.1 hn).resolve_left hnm)
        · exact .inr ((tget_tput_ne _ _ _ _ _ hnm).trans hn)
    · obtain ⟨hnot, hmem⟩ := hsl x hx
      rw [h1] at hmem
      obtain ⟨hin, hne⟩ := List.mem_filter.1 hmem
      exact ⟨fun h => (List.mem_cons.1 h).elim (by simpa using hne) hnot, hin⟩

/-! ### Half-done moves and unmappings are undone (R301, R378) -/

theorem undoUnmaps_eq (s : State) : ∃ pi pa fr, undoUnmaps s =
    { s with pile := pi, parts := pa, free := fr, inval := s.inval.filter fun v => v.chan.isNone } := by
  have h : Alloced { s with inval := s.inval.filter fun v => v.chan.isNone } (undoUnmaps s) :=
    Alloced.foldl (fun t (v : Inval) => Alloced.foldl (fun u (x : Nat × W64) => setPte_alloced u v.part x.1 x.2) _ t) _ _
  exact h

theorem undoUnmaps_none {s : State} (h : ∀ v ∈ s.inval, v.chan = none) : undoUnmaps s = s := by
  have hnone : s.inval.filter (fun v => v.chan.isSome) = [] := List.filter_eq_nil_iff.2 fun v hv => by simp [h v hv]
  have hall : s.inval.filter (fun v => v.chan.isNone) = s.inval := List.filter_eq_self.2 fun v hv => by simp [h v hv]
  simp only [undoUnmaps, hnone, hall, List.foldl_nil]

theorem undoMove_undone (s : State) (st : Nat) : ∃ pi f ne mw, undoMove s st =
    { s with pile := pi, streams := f, net := ne, crown := { s.crown with mc0Wait := mw } } := by
  unfold undoMove
  dsimp only
  split
  · exact ⟨_, _, _, _, rfl⟩
  · unfold freeObjs
    dsimp only
    split
    · exact ⟨_, _, _, _, rfl⟩
    · exact ⟨_, _, _, _, rfl⟩

theorem undoMoves_undone (s : State) : ∃ pi f ne mw, undoMoves s =
    { s with pile := pi, streams := f, net := ne, crown := { s.crown with mc0Wait := mw } } := by
  have key : ∀ (l : List Nat) (t : State), ∃ pi f ne mw, l.foldl undoMove t =
      { t with pile := pi, streams := f, net := ne, crown := { t.crown with mc0Wait := mw } } := by
    intro l
    induction l with
    | nil => exact fun t => ⟨_, _, _, _, rfl⟩
    | cons n l ih =>
      intro t
      obtain ⟨pi, f, ne, mw, h⟩ := undoMove_undone t n
      obtain ⟨pi', f', ne', mw', h'⟩ := ih (undoMove t n)
      exact ⟨pi', f', ne', mw', by rw [List.foldl_cons, h', h]⟩
  exact key _ s

theorem tget_mem {α : Type} (d : α) (P : α → Prop) (hd : P d) (k : Nat) : ∀ t : Tab α, (∀ x ∈ t, P x.2) → P (tget d t k)
  | [], _ => hd
  | (j, v) :: t, h => by
    rw [tget]
    split
    · exact h _ (List.mem_cons_self ..)
    · exact tget_mem d P hd k t fun x hx => h x (List.mem_cons_of_mem _ hx)

theorem undoMoves_none {s : State} (h : ∀ x ∈ s.streams, x.2.was = none) : undoMoves s = s := by
  have hone : ∀ st, undoMove s st = s := fun st => by
    have hwas : (getStream s st).was = none := tget_mem ({} : Stream) (fun x => x.was = none) rfl st s.streams h
    simp only [undoMove, hwas]
  unfold undoMoves
  generalize s.streams.map Prod.fst = l
  induction l with
  | nil => rfl
  | cons n l ih => rw [List.foldl_cons, hone n, ih]

/-! ### The restart -/

/-- A fresh firmware finds the rest as the restart has left it. -/
theorem freshFirmware_restarted {s v : State} (hrest : v.crown.restarts = s.crown.restarts) (hreqs : ∀ m, m < 8 → getReqs v m = [])
    (hslow : ∀ x ∈ v.mail.slow, 8 ≤ x.1) (hrun : ∀ id c, getCmd s id = some c → c.stage = .running → rerunning v id)
    (hsets : v.sets = s.sets) (hclients : v.clients = s.clients) (htime : v.time = s.time) (hinval : ∀ x ∈ v.inval, x.chan = none)
    (hstand : (∀ v ∈ s.inval, v.chan = none) → (∀ x ∈ s.streams, x.2.was = none) → v.pile = s.pile ∧ v.streams = s.streams) :
    restarted s (freshFirmware v) :=
  ⟨rfl, congrArg (fun n => min (n + 1) 255) hrest, hreqs, hslow, hrun, rfl, rfl, hsets, congrArg (List.map _) hclients, htime, hinval,
    hstand⟩

/-- What the undoing of half-done work and the answers to the requests leave. -/
theorem retried_eq (u : State) : ∃ pi pa fr st ne mw ma, retryAll (undoMoves (undoUnmaps u)) =
    { u with pile := pi, parts := pa, free := fr, streams := st, net := ne, crown := { u.crown with mc0Wait := mw }
             inval := u.inval.filter fun v => v.chan.isNone, mail := ma } ∧
      (∀ m, m < 8 → tget [] ma.reqs m = []) ∧ ∀ x ∈ ma.slow, 8 ≤ x.1 := by
  obtain ⟨pi1, pa1, fr1, h1⟩ := undoUnmaps_eq u
  obtain ⟨pi2, f2, ne2, mw2, h2⟩ := undoMoves_undone (undoUnmaps u)
  obtain ⟨sl, q, r, h3, hq, hsl⟩ := foldl_retryOne (List.range 8) (undoMoves (undoUnmaps u))
  rw [← retryAll_eq] at h3
  refine ⟨pi2, pa1, fr1, f2, ne2, mw2, { u.mail with slow := sl, reqs := q, replies := r }, ?_, ?_, ?_⟩
  · rw [h3, h2, h1]
  · exact fun m hm => hq m (.inl (List.mem_range.2 hm))
  · intro x hx
    have hnot := (hsl x hx).1
    rw [List.mem_range] at hnot
    omega

/-- What the firmware's restart leaves, on top of the cause that is recorded (R412, R418). -/
theorem firmwareReset_restarted {s u : State} (hcrown : u.crown = s.crown) (hcmds : u.cmds = s.cmds) (hsets : u.sets = s.sets)
    (hclients : u.clients = s.clients) (htime : u.time = s.time) (hinval : u.inval = s.inval) (hstreams : u.streams = s.streams)
    (hpile : u.pile = s.pile) : restarted s (firmwareReset u) ∧ (firmwareReset u).rst.cause = u.rst.cause := by
  obtain ⟨pi, pa, fr, st, ne, mw, ma, hv, hreqs, hslow⟩ := retried_eq u
  have hundo : (∀ v ∈ s.inval, v.chan = none) → (∀ x ∈ s.streams, x.2.was = none) →
      (retryAll (undoMoves (undoUnmaps u))).pile = s.pile ∧ (retryAll (undoMoves (undoUnmaps u))).streams = s.streams := by
    intro hiv hwas
    obtain ⟨sl, q, r, h3, _, _⟩ := foldl_retryOne (List.range 8) u
    rw [undoUnmaps_none (by rwa [hinval]), undoMoves_none (by rwa [hstreams]), retryAll_eq, h3]
    exact ⟨hpile, hstreams⟩
  have hreset : firmwareReset u = freshFirmware (rerunAll (retryAll (undoMoves (undoUnmaps u)))) := rfl
  rw [hreset]
  generalize retryAll (undoMoves (undoUnmaps u)) = v at hv hundo ⊢
  have hend := rerunAll_ended v
  obtain ⟨hcl, hpi⟩ := rerunAll_stand v
  obtain ⟨a, b, m, w, hall⟩ := rerunAll_allowances v
  refine ⟨freshFirmware_restarted ?_ ?_ ?_ ?_ ?_ ?_ ?_ ?_ ?_, ?_⟩
  · rw [hall, hv, ← hcrown]
  · intro m hm
    rw [getReqs, hend.mail, hv]
    exact hreqs m hm
  · rw [hend.mail, hv]
    exact hslow
  · intro id c hc hs
    refine rerunAll_running ?_ hs
    rw [getCmd, hv]
    exact (congrArg (List.find? _) hcmds).trans hc
  · rw [hend.sets, hv, ← hsets]
  · rw [hcl, hv, ← hclients]
  · rw [hend.time, hv, ← htime]
  · rw [hend.inval, hv]
    exact fun x hx => Option.isNone_iff_eq_none.1 (List.mem_filter.1 hx).2
  · intro hiv hwas
    rw [hpi, hend.streams]
    exact hundo hiv hwas
  · exact (congrArg Rst.cause hend.rst).trans (by rw [hv])

end Sys2Proof.Machine
end

section
/-! Resets by their sources (O53). -/

namespace Sys2Proof.Machine

open Sys2Proof Sys2Proof.Ob

/-- The Crown's domain is on in an awake package. -/
theorem d1Off_awake {s : State} (h : awake s) : d1Off s = false := by
  obtain ⟨_, hcur⟩ := h
  simpa [d1Off] using hcur

/-! ### Power-on reset (R419, R420) -/

theorem getLsbD_por (vaon : Bool) (c : BitVec 10) :
    ((1 : BitVec 10) ||| (if vaon then c &&& 0x60 else 0)).getLsbD 0 = true ∧
      ((1 : BitVec 10) ||| (if vaon then c &&& 0x60 else 0)).getLsbD 5 = (vaon && c.getLsbD 5) ∧
      ((1 : BitVec 10) ||| (if vaon then c &&& 0x60 else 0)).getLsbD 6 = (vaon && c.getLsbD 6) := by
  cases vaon
  · simp
  · simp only [if_true, BitVec.getLsbD_or, BitVec.getLsbD_and, Bool.true_and]
    exact ⟨by simp, by simp, by simp⟩

/-! ### Sources of the package scope -/

/-- The pin's reset is that of a package whose hold, where it does not wait for POR, has ended. -/
theorem execPinReset_eq (s : State) : ∃ h, exec .pinReset s =
      .next (packageReset { s with rst := { s.rst with hold := h } } 1 true) ∧ (s.rst.holdPor = false → h = none) := by
  show ∃ h, execPinReset s = _ ∧ _
  unfold execPinReset
  by_cases hh : (s.rst.hold.isSome && !s.rst.holdPor) = true
  · exact ⟨none, congrArg (fun t => Host.Outcome.next (packageReset t 1 true)) (if_pos hh), fun _ => rfl⟩
  · refine ⟨s.rst.hold, congrArg (fun t => Host.Outcome.next (packageReset t 1 true)) (if_neg hh), fun hpor => ?_⟩
    simpa [hpor] using hh

theorem execHostReset_up {s : State} {loss : Bool} (hup : crownUp s = true) (hlink : s.crown.linkUp = true)
    (hloss : loss = true → s.rst.resetting = none ∧ s.pwr.cur ≠ 2) :
    exec (.hostReset loss) s = .next (packageReset s 2 s.rst.stWarm) := by
  have hok : (crownUp s && s.crown.linkUp && (!loss || (s.rst.resetting.isNone && s.pwr.cur != 2))) = true := by
    cases loss
    · simp [hup, hlink]
    · obtain ⟨hr, hc⟩ := hloss rfl
      have hcur : (s.pwr.cur != 2) = true := by simpa using hc
      rw [hup, hlink, hr, hcur]
      rfl
  exact congrArg Host.Outcome.next (if_pos hok)

/-- The state without the messages that have been taken. -/
def tookGot (s : State) (r : List (Nat × Ctl)) : State := { s with dom := { s.dom with got := r } }

/-- A message that is wanted and is the oldest of all is taken. -/
theorem takeGot_front {s : State} {p : Nat × Ctl → Bool} {x : Nat × Ctl} {r : List (Nat × Ctl)} (hgot : s.dom.got = x :: r)
    (hp : p x = true) : takeGot s p = some (x.1, x.2, tookGot s r) := by
  rw [takeGot, hgot]
  simp only [List.find?_cons, hp, Option.map_some, removeFirst, if_true, tookGot]

/-- The oldest message, where it is the keeper's reset, is taken and its proof checked. -/
theorem execLinkReset_front {s : State} {src : Nat} {proof : W64} {r : List (Nat × Ctl)} (hgot : s.dom.got = (src, .reset proof) :: r)
    (hdom : (tookGot s r).dom.inDomain = true) (hsrc : src = (tookGot s r).dom.keeperPkg) : exec .linkReset s = .next
      (if proof = siphash (tookGot s r).dom.key (leN 2 (selfPkg (tookGot s r))) then
        packageReset (tookGot s r) 8 (tookGot s r).rst.stWarm else tookGot s r) := by
  show execLinkReset s = _
  unfold execLinkReset
  rw [takeGot_front hgot rfl]
  simp only [onlyIf, hdom, hsrc, beq_self_eq_true, Bool.true_and, beq_iff_eq]

section Watchdog

variable {s : State}

theorem execWdogExpiry_due (ha : awake s) (ht : s.rst.kickAt + 500000000 ≤ s.time) (hr : s.rst.resetting = none) :
    exec .wdogExpiry s = .next (if s.crown.ready then firmwareReset (setCause s 4) else packageReset s 4 false) := by
  have hoff := d1Off_awake ha
  have hlate : ¬ s.time < s.rst.kickAt + 500000000 := Nat.not_lt.2 ht
  show execWdogExpiry s = _
  unfold execWdogExpiry
  rw [ha.1, hoff, hr]
  simp only [hlate, decide_false, Bool.not_true, Bool.or_self, Option.isSome_none, Bool.false_eq_true, if_false]
  split
  · rfl
  · rfl

theorem execFwRestart_booted (hup : crownUp s = true) (hrom : s.sec.rom = .booted) : exec .fwRestart s =
    .next (if s.rst.resetting.isSome then setCause s 3 else firmwareReset (setCause s 3)) := by
  show execFwRestart s = _
  unfold execFwRestart
  rw [hup, hrom]
  simp only [Bool.not_true, bne_self_eq_false, Bool.or_self, Bool.false_eq_true, if_false]
  split
  · rfl
  · rfl

end Watchdog

/-- A cause that is set before the firmware restarts stays. -/
theorem firmwareReset_setCause (s : State) {n : Nat} (h : n < 10) : restarted s (firmwareReset (setCause s n)) ∧
    (firmwareReset (setCause s n)).rst.cause.getLsbD n = true := by
  obtain ⟨hre, hcause⟩ := firmwareReset_restarted (s := s) (u := setCause s n) rfl rfl rfl rfl rfl rfl rfl rfl
  refine ⟨hre, ?_⟩
  rw [hcause]
  exact getLsbD_or_causeBit _ h

/-- Settles O53. Every source of the package scope is one and the same reset under its own cause; a restart of the firmware undoes what
was half done, answers RETRY and kills what runs. The proof under which a member takes a reset from its keeper, and when the watchdog
expires, are the model's choices (log entries 21 and 122). -/
theorem resets : Obligations.Resets := by
  refine ⟨⟨fun s => ?_, fun s loss hup hlink hloss => ?_, fun s => ?_, fun s => ?_, fun s src proof r hgot hdom hsrc => ?_,
    fun s ha ht hr hready => ?_, fun s b => ?_⟩, fun s vaon pwrok w => ?_, fun s hup hrom => ?_, fun s ha ht hr hready => ?_⟩
  · obtain ⟨h, hexec, hnone⟩ := execPinReset_eq s
    exact ⟨_, hexec, packageReset_cleared rfl rfl rfl rfl rfl rfl rfl rfl rfl 1 true, packageReset_cause _ _ (by decide), rfl, hnone⟩
  · exact ⟨_, execHostReset_up hup hlink hloss, packageReset_cleared_self s 2 _, packageReset_cause _ _ (by decide)⟩
  · exact ⟨_, rfl, packageReset_cleared_self s 6 true, packageReset_cause _ _ (by decide), rfl⟩
  · exact ⟨_, rfl, packageReset_cleared_self s 5 false, packageReset_cause s false (by decide), rfl, rfl, rfl⟩
  · have hexec := execLinkReset_front hgot hdom hsrc
    have hkey : (tookGot s r).dom.key = s.dom.key := rfl
    have hself : selfPkg (tookGot s r) = selfPkg s := rfl
    rw [hkey, hself] at hexec
    refine ⟨fun hp => ?_, fun hp => ?_⟩
    · rw [if_pos hp] at hexec
      exact ⟨_, hexec, packageReset_cleared rfl rfl rfl rfl rfl rfl rfl rfl rfl 8 _, packageReset_cause _ _ (by decide)⟩
    · rw [if_neg hp] at hexec
      exact hexec
  · have hexec := execWdogExpiry_due ha ht hr
    rw [hready] at hexec
    exact ⟨_, hexec, packageReset_cleared_self s 4 false, packageReset_cause _ _ (by decide)⟩
  · refine ⟨fun hb => ?_, fun hb => ?_⟩
    · refine ⟨_, congrArg Host.Outcome.next (if_pos hb), packageReset_cleared rfl rfl rfl rfl rfl rfl rfl rfl rfl 6 true, rfl,
        packageReset_cause _ _ (by decide)⟩
    · exact congrArg Host.Outcome.next (if_neg (by rw [hb]; decide))
  · obtain ⟨h0, h5, h6⟩ := getLsbD_por vaon s.rst.cause
    refine ⟨_, rfl, rfl, rfl, rfl, rfl, h0, h5, h6, rfl, rfl, rfl, rfl, rfl, rfl, rfl, rfl, rfl, rfl, rfl, rfl, rfl, rfl, fun h => ?_,
      fun h => ?_⟩
    · subst h; exact ⟨rfl, rfl, rfl⟩
    · subst h; exact ⟨rfl, rfl, rfl⟩
  · have hexec := execFwRestart_booted hup hrom
    refine ⟨fun hr => ?_, fun hr => ?_⟩
    · rw [hr] at hexec
      exact ⟨_, hexec, firmwareReset_setCause s (by decide)⟩
    · rw [hr] at hexec
      exact hexec
  · have hexec := execWdogExpiry_due ha ht hr
    rw [hready] at hexec
    exact ⟨_, hexec, firmwareReset_setCause s (by decide)⟩

end Sys2Proof.Machine
end

section
/-! The release sequence and the clock-good interlock (O54). -/

namespace Sys2Proof.Machine

open Sys2Proof Sys2Proof.Ob

/-! ### Fences as masks (R28) -/

theorem maskOf_succ (l : List Nat) (lo n : Nat) : maskOf l lo (n + 1) = (if l.contains (lo + n) then 2 ^ n else 0) + maskOf l lo n := by
  simp only [maskOf, sumN, List.range_succ, List.map_append, List.map_cons, List.map_nil, List.foldl_append, List.foldl_cons,
    List.foldl_nil]
  exact Nat.add_comm _ _

theorem maskOf_lt (l : List Nat) (lo : Nat) : ∀ n, maskOf l lo n < 2 ^ n
  | 0 => by simp [maskOf, sumN]
  | n + 1 => by
    have := maskOf_lt l lo n
    rw [maskOf_succ, Nat.pow_succ]
    split <;> omega

/-- A mask has the bit of every listed number. -/
theorem testBit_maskOf (l : List Nat) (lo i : Nat) : ∀ {n : Nat}, i < n → (maskOf l lo n).testBit i = l.contains (lo + i)
  | n + 1, h => by
    have hlt := maskOf_lt l lo n
    rw [maskOf_succ]
    by_cases hi : i = n
    · subst hi
      split
      · next hc => rw [Nat.testBit_two_pow_add_eq, Nat.testBit_lt_two_pow hlt, hc]; rfl
      · next hc => rw [Nat.zero_add, Nat.testBit_lt_two_pow hlt]; simpa using hc
    · have hin : i < n := by omega
      split
      · rw [Nat.testBit_two_pow_add_gt hin]
        exact testBit_maskOf l lo i hin
      · rw [Nat.zero_add]
        exact testBit_maskOf l lo i hin

theorem getLsbD_maskOf (l : List Nat) (lo : Nat) {i n : Nat} (h : i < n) : (BitVec.ofNat n (maskOf l lo n)).getLsbD i = l.contains (lo + i) := by
  rw [BitVec.getLsbD_ofNat, testBit_maskOf l lo i h]
  simp [h]

section Fences

variable (s : State) (cmp pile link : List Nat) {i : Nat}

theorem dieFenced_setFences (h : i < 40) : dieFenced (setFences s cmp pile link) i = cmp.contains i := by
  unfold dieFenced
  split
  · next hlo => exact (getLsbD_maskOf cmp 0 hlo).trans (by rw [Nat.zero_add])
  · next hlo =>
    refine (getLsbD_maskOf cmp 32 (n := 8) (by omega)).trans ?_
    rw [show 32 + (i - 32) = i by omega]

theorem pileFenced_setFences (h : i < 16) : pileFenced (setFences s cmp pile link) i = pile.contains i :=
  (getLsbD_maskOf pile 0 h).trans (by rw [Nat.zero_add])

theorem linkFenced_setFences (h : i < 6) : linkFenced (setFences s cmp pile link) i = link.contains i :=
  (getLsbD_maskOf link 0 h).trans (by rw [Nat.zero_add])

end Fences

/-! ### Faults and holds (R424, R426) -/

/-- A fault that is raised is present, and only the list of faults changes. -/
theorem raiseFault_raised (s : State) (n : Nat) : ∃ f, raiseFault s n = { s with rst := { s.rst with faults := f } } ∧ n ∈ f := by
  unfold raiseFault
  split
  · next h => exact ⟨s.rst.faults, rfl, List.contains_iff_mem.1 h⟩
  · exact ⟨_, rfl, List.mem_append_right _ (List.mem_singleton.2 rfl)⟩

theorem hold_held (s : State) {n : Nat} (h : n ≠ 0) (por : Bool) : ∃ f,
    hold s n por = { s with rst := { s.rst with faults := f, hold := some n, holdPor := por } } ∧ n ∈ f := by
  obtain ⟨f, hf, hn⟩ := raiseFault_raised s n
  refine ⟨f, ?_, hn⟩
  rw [hold, if_neg h, hf]

theorem testHolds_held (s : State) {n : Nat} (h : n ≠ 0) : ∃ f, testHolds s n =
    { s with rst := { s.rst with faults := f, hold := some n, holdPor := false, cause := s.rst.cause ||| 0x80 } } ∧ n ∈ f := by
  obtain ⟨f, hf, hn⟩ := hold_held s h false
  exact ⟨f, by rw [testHolds, hf], hn⟩

theorem getLsbD_or_stCause (c : BitVec 10) : (c ||| 0x80).getLsbD 7 = true := by
  rw [BitVec.getLsbD_or]
  simp

/-! ### The steps -/

section Steps

variable {s : State} {x : SelfTest}

/-- A step of a release that is neither over nor held, by the step before it. -/
theorem release_at (hr : s.rst.resetting.isSome = true) (hh : s.rst.hold = none) :
    (s.rst.step = 0 → exec (.resetReleaseStep x) s = .next (atStep s 1)) ∧
    (s.rst.step = 1 → exec (.resetReleaseStep x) s = .next (releaseClocks s x)) ∧
    (s.rst.step = 2 → exec (.resetReleaseStep x) s = .next (selfTest s x)) ∧
    (s.rst.step = 3 → exec (.resetReleaseStep x) s = .next (if s.rst.clkBad.contains 0x60 then s else releaseCrown s x)) ∧
    (s.rst.step = 4 → exec (.resetReleaseStep x) s = .next (initPiles s x.pileFail)) ∧
    (s.rst.step = 13 → exec (.resetReleaseStep x) s = .next (releaseDone s)) := by
  have hgo : (s.rst.resetting.isNone || s.rst.hold.isSome) = false := by
    rw [hh, ← Option.not_isSome, hr]
    rfl
  have hrun : exec (.resetReleaseStep x) s = execResetReleaseStep x s := rfl
  rw [hrun, execResetReleaseStep, hgo]
  refine ⟨fun h => ?_, fun h => ?_, fun h => ?_, fun h => ?_, fun h => ?_, fun h => ?_⟩ <;> rw [h]
  · rfl
  · rfl
  · rfl
  · show (if s.rst.clkBad.contains 0x60 then Host.Outcome.next s else Host.Outcome.next (releaseCrown s x)) = _
    split <;> rfl
  · rfl
  · rfl

theorem release_group (hr : s.rst.resetting.isSome = true) (hh : s.rst.hold = none) (hlo : 5 ≤ s.rst.step) (hhi : s.rst.step ≤ 12) :
    exec (.resetReleaseStep x) s = .next (atStep s (s.rst.step + 1)) := by
  have hgo : (s.rst.resetting.isNone || s.rst.hold.isSome) = false := by
    rw [hh, ← Option.not_isSome, hr]
    rfl
  have hrun : exec (.resetReleaseStep x) s = execResetReleaseStep x s := rfl
  rw [hrun, execResetReleaseStep, hgo]
  generalize hn : s.rst.step = n at hlo hhi
  interval_cases n <;> rfl

theorem release_held (hh : s.rst.hold.isSome = true) : exec (.resetReleaseStep x) s = .next s := by
  have hgo : (s.rst.resetting.isNone || s.rst.hold.isSome) = true := by rw [hh, Bool.or_true]
  exact if_pos hgo

end Steps

/-! ### Self-test (R425, R426) -/

section SelfTest

variable {s : State} {x : SelfTest}

/-- What a self-test that has run records before its findings count. -/
def tested (s : State) (x : SelfTest) : State :=
  { s with rst := { s.rst with
    ran := true, notRun := false, refOut := false, supplyOut := false, stMs := x.ms % 65536, runTest := false
    testLanes := x.lanes.foldl (fun m y => if y.1 < 2560 then tput 0 m y.1 y.2 else m) [] } }

theorem selfTest_good (hdue : s.rst.runTest = true) (hrun : testRuns s x = true) (hcrown : x.crownOk = true)
    (hnight : x.nightcapOk = true) (hrings : x.ringsOk = true) (hcmp : allFail x.cmpFail 40 = false)
    (hpile : allFail x.pileFail 16 = false) :
    selfTest s x = atStep (setFences (tested s x) x.cmpFail x.pileFail x.linkFail) 3 := by
  simp only [selfTest, hdue, hrun, hcrown, hnight, hrings, hcmp, hpile]
  rfl

theorem selfTest_noCrown (hdue : s.rst.runTest = true) (hrun : testRuns s x = true) (hcrown : x.crownOk = false) :
    selfTest s x = testHolds (tested s x) 1 := by
  simp only [selfTest, hdue, hrun, hcrown]
  rfl

/-- What a self-test that cannot run records. -/
def untested (s : State) (x : SelfTest) : State :=
  { s with rst := { s.rst with
    ran := false, notRun := true, refOut := !x.refOk || s.rst.clksel == 3 || s.pwr.onOsc, supplyOut := !x.supplyOk
    runTest := false } }

theorem selfTest_cannot (hdue : s.rst.runTest = true) (hrun : testRuns s x = false) :
    selfTest s x = if s.rst.stmand then hold (untested s x) 3 false else atStep (setFences (untested s x) [] [] []) 3 := by
  simp only [selfTest, hdue, hrun]
  rfl

end SelfTest

/-! ### The Crown with its boot ROM (R398, R399) -/

section Rom

variable {s : State} {x : SelfTest}

theorem releaseCrown_fuses (hsel : s.sec.bootsel = 0) (hf : x.fusesOk = true) : releaseCrown s x =
    setSec (setSec (setSec { atStep s 4 with tally := { s.tally with clock := 0 }, rst := { (atStep s 4).rst with kickAt := s.time } }
      (secStart s.time)) spendLeaf) (romTo (.trying 0 false)) := by
  simp only [releaseCrown, startRom, hf]
  have hsrc : bootSources (atStep s 4).sec.bootsel.toNat = some (0, none) := by
    rw [show (atStep s 4).sec.bootsel = 0 from hsel]
    rfl
  rw [hsrc]
  rfl

theorem releaseCrown_noFuses (hf : x.fusesOk = false) : releaseCrown s x =
    romStop (setSec { atStep s 4 with tally := { s.tally with clock := 0 }, rst := { (atStep s 4).rst with kickAt := s.time } }
      (secStart s.time)) 0x0B := by
  simp only [releaseCrown, startRom, hf]
  rfl

end Rom

/-! ### The piles (R421, R426) -/

section Piles

variable {s : State} {bad : List Nat}

theorem pileFenced_or {i : Nat} (h : i < 16) :
    (s.crown.fencePlb ||| BitVec.ofNat 16 (maskOf bad 0 16)).getLsbD i = (pileFenced s i || bad.contains i) := by
  rw [BitVec.getLsbD_or, getLsbD_maskOf bad 0 h, Nat.zero_add]
  rfl

theorem getLsbD_allPiles {i : Nat} (h : i < 16) : (0xFFFF : BitVec 16).getLsbD i = true := by
  interval_cases i <;> decide

theorem initPiles_some {i : Nat} (hi : i < 16) (hf : pileFenced s i = false) (hb : bad.contains i = false) : initPiles s bad =
    atStep { s with crown := { s.crown with fencePlb := s.crown.fencePlb ||| BitVec.ofNat 16 (maskOf bad 0 16) } } 5 := by
  refine if_neg fun h => ?_
  have hbit := pileFenced_or (s := s) (bad := bad) hi
  rw [h, hf, hb, getLsbD_allPiles hi] at hbit
  exact absurd hbit (by decide)

theorem initPiles_none (h : ∀ i, i < 16 → pileFenced s i = true ∨ bad.contains i = true) : initPiles s bad =
    testHolds { s with crown := { s.crown with fencePlb := s.crown.fencePlb ||| BitVec.ofNat 16 (maskOf bad 0 16) } } 4 := by
  refine if_pos (BitVec.eq_of_getLsbD_eq fun i hi => ?_)
  rw [pileFenced_or hi]
  rw [getLsbD_allPiles hi]
  rcases h i hi with h | h
  · rw [h, Bool.true_or]
  · rw [h, Bool.or_true]

end Piles

/-! ### The interlock (R422) -/

section Interlock

variable {s : State} {b : Byte}

/-- The state that knows a block to have no good clock. -/
def clockLost (s : State) (b : Byte) : State := { s with rst := { s.rst with clkBad := s.rst.clkBad ++ [b] } }

theorem execClockGoodChange_lost (hok : blockOk b.toNat = true) (hnew : b ∉ s.rst.clkBad) : exec (.clockGoodChange b false) s =
    .next (if blockUp s b then blockResets (clockLost s b) b.toNat else clockLost s b) := by
  have hrun : exec (.clockGoodChange b false) s = execClockGoodChange b false s := rfl
  have hcon : s.rst.clkBad.contains b = false := by
    rw [← Bool.not_eq_true]
    exact fun h => hnew (List.contains_iff_mem.1 h)
  rw [hrun, execClockGoodChange, hok, hcon]
  rfl

/-- The state that no longer knows a block to lack its clock. -/
def clockBack (s : State) (b : Byte) : State := { s with rst := { s.rst with clkBad := s.rst.clkBad.filter fun x => x != b } }

theorem execClockGoodChange_back (hok : blockOk b.toNat = true) : exec (.clockGoodChange b true) s =
    .next (if s.rst.forced.contains b then earlyCaught (clockBack s b) b else clockBack s b) := by
  have hrun : exec (.clockGoodChange b true) s = execClockGoodChange b true s := rfl
  rw [hrun, execClockGoodChange, hok]
  rfl

theorem killDie_ended (s : State) (n : Nat) : Ended s (killDie s n) := Ended.foldl (fun t id => startKill_ended t id .counted false) _ s

/-- The cores of a die in reset keep their memories alone. -/
theorem blockResets_die {n : Nat} (h : n < 40) : Ended { s with cores := (blockResets s n).cores } (blockResets s n) ∧
    ∀ x ∈ (blockResets s n).cores, dieOf x.1 = n → x.2 = { ls := x.2.ls, imem := x.2.imem } := by
  have heq : blockResets s n = { killDie s n with cores := ((killDie s n).cores.map fun (x : Nat × Core) =>
      if dieOf x.1 = n then (x.1, coreReset x.2) else x).filter fun x => x.2 != {} } := if_pos h
  rw [heq]
  have hk := killDie_ended s n
  refine ⟨⟨hk.time, hk.pending, hk.bead, hk.sched, hk.parts, hk.streams, hk.sets, rfl, hk.dieTlb, hk.mem, hk.piles, hk.memwin, hk.inval,
    hk.mail, hk.ap, hk.binds, hk.sec, hk.dbg, hk.rst, hk.pwr, hk.mon, hk.tally, hk.health⟩, fun x hx hdie => ?_⟩
  obtain ⟨y, _, hy⟩ := List.mem_map.1 (List.mem_filter.1 hx).1
  by_cases hd : dieOf y.1 = n
  · rw [if_pos hd] at hy
    rw [← hy]
    rfl
  · rw [if_neg hd] at hy
    rw [hy] at hd
    exact absurd hdie hd

theorem blockResets_crown : blockResets s 0x60 = { clearPackage s with rst := { s.rst with
    resetting := some .package, step := 3, runTest := false, faults := s.rst.faults.filter fun f => f != 7 } } := rfl

end Interlock

/-- Settles O54. Each step is taken from the one before it; of the self-test and the piles, the fences are masks bit by bit. That the
boot ROM asks for the piles as it starts, what a die's reset keeps and that a forced release is caught are the model's choices (log
entries 42, 43 and 121). -/
theorem releaseSequence : Obligations.ReleaseSequence := by
  refine ⟨fun s x hr hh => ?_, fun s x _ hh => release_held hh, fun s hr hsel hstep ht => ?_, fun s b hok => ?_⟩
  · obtain ⟨h0, h1, h2, h3, h4, h13⟩ := release_at (x := x) hr hh
    refine ⟨h0, fun hs hp => ?_, fun hs hp => ?_, fun hs ht => ?_, fun hs ht hrun hcrown hnight hrings hcmp hpile => ?_,
      fun hs ht hrun hcrown => ?_, fun hs ht hrun => ?_, fun hs hclk hsel => ?_, fun hs hclk => ?_, fun hs hex => ?_, fun hs hall => ?_,
      release_group hr hh, fun hs => ⟨_, h13 hs, rfl, rfl, rfl, rfl⟩⟩
    · exact ⟨_, (h1 hs).trans (congrArg _ (if_pos hp)), rfl, rfl, rfl⟩
    · obtain ⟨f, hf, hmem⟩ := hold_held s (n := 5) (by decide) false
      exact ⟨_, (h1 hs).trans (congrArg _ ((if_neg (by simp [hp])).trans hf)), rfl, hs, hmem⟩
    · exact (h2 hs).trans (congrArg _ (if_pos (by simp [ht])))
    · refine ⟨_, (h2 hs).trans (congrArg _ (selfTest_good ht hrun hcrown hnight hrings hcmp hpile)), rfl, rfl, rfl,
        fun i hi => dieFenced_setFences _ _ _ _ hi, fun i hi => pileFenced_setFences _ _ _ _ hi,
        fun i hi => linkFenced_setFences _ _ _ _ hi, hh, fun core n hl hc => ?_⟩
      have hlanes : (tested s x).rst.testLanes = tput 0 [] core n := by
        simp only [tested, hl, List.foldl_cons, List.foldl_nil, if_pos hc]
      exact (congrArg (tget 0 · core) hlanes).trans (tget_tput_same _ _ _ _)
    · obtain ⟨f, hf, _⟩ := testHolds_held (tested s x) (n := 1) (by decide)
      exact ⟨_, (h2 hs).trans (congrArg _ ((selfTest_noCrown ht hrun hcrown).trans hf)), rfl, getLsbD_or_stCause _, hs⟩
    · have hexec := (h2 hs).trans (congrArg _ (selfTest_cannot ht hrun))
      cases hm : s.rst.stmand
      · rw [hm] at hexec
        exact ⟨_, hexec, rfl, rfl, nofun, fun _ => ⟨rfl, rfl, rfl⟩⟩
      · obtain ⟨f, hf, _⟩ := hold_held (untested s x) (n := 3) (by decide) false
        rw [hm, if_pos rfl, hf] at hexec
        exact ⟨_, hexec, rfl, rfl, fun _ => ⟨rfl, hs⟩, nofun⟩
    · have hexec := h3 hs
      rw [if_neg fun h => hclk (List.contains_iff_mem.1 h)] at hexec
      cases hf : x.fusesOk
      · obtain ⟨f, hfault, hmem⟩ := raiseFault_raised (setCode (setSec (setSec { atStep s 4 with
          tally := { s.tally with clock := 0 }, rst := { (atStep s 4).rst with kickAt := s.time } } (secStart s.time))
          (romTo .stopped)) 0x0B) 7
        rw [releaseCrown_noFuses hf, romStop, hfault] at hexec
        exact ⟨_, hexec, rfl, rfl, rfl, nofun, fun _ => ⟨rfl, rfl, hmem⟩⟩
      · rw [releaseCrown_fuses hsel hf] at hexec
        refine ⟨_, hexec, rfl, ?_, rfl, fun _ => ⟨rfl, fun hl => ?_, fun hl => ?_⟩, nofun⟩
        · show (spendLeaf (secStart s.time s.sec)).boots = _
          unfold spendLeaf
          split <;> rfl
        · have hleaf : spendLeaf (secStart s.time s.sec) = _ := if_pos hl
          exact ⟨congrArg Sec.leaf hleaf, congrArg Sec.nextLeaf hleaf⟩
        · have hleaf : spendLeaf (secStart s.time s.sec) = _ := if_neg (Nat.not_lt.2 hl)
          exact congrArg Sec.lmsSpent hleaf
    · exact (h3 hs).trans (congrArg _ (if_pos (List.contains_iff_mem.2 hclk)))
    · obtain ⟨i, hi, hf, hb⟩ := hex
      exact ⟨_, (h4 hs).trans (congrArg _ (initPiles_some hi hf hb)), rfl, hh, fun j hj => pileFenced_or hj, fun _ _ => rfl⟩
    · obtain ⟨f, hf, hmem⟩ := testHolds_held { s with crown := { s.crown with
        fencePlb := s.crown.fencePlb ||| BitVec.ofNat 16 (maskOf x.pileFail 0 16) } } (n := 4) (by decide)
      exact ⟨_, (h4 hs).trans (congrArg _ ((initPiles_none hall).trans hf)), hs, rfl, getLsbD_or_stCause _, hmem⟩
  · exact congrArg Host.Outcome.next (if_pos (by simp [hr, hsel, hstep, ht]))
  · refine ⟨fun hnew hdown => ?_, fun hnew hup hlt => ?_, fun hnew hup hb => ?_, fun hf => ?_, fun hf => ?_⟩
    · have hexec := execClockGoodChange_lost hok hnew
      rwa [hdown] at hexec
    · have hexec := execClockGoodChange_lost hok hnew
      rw [if_pos hup] at hexec
      obtain ⟨hend, hcores⟩ := blockResets_die (s := clockLost s b) hlt
      refine ⟨_, hexec, ?_, hcores, ?_, hend.streams⟩
      · rw [hend.rst]
        exact List.mem_append_right _ (List.mem_singleton.2 rfl)
      · exact (congrArg Rst.step hend.rst).trans rfl
    · have hexec := execClockGoodChange_lost hok hnew
      rw [if_pos hup] at hexec
      subst hb
      refine ⟨_, hexec.trans (congrArg _ blockResets_crown), List.mem_append_right _ (List.mem_singleton.2 rfl), rfl, rfl, rfl, rfl,
        fun h => ?_, rfl⟩
      exact absurd (List.mem_filter.1 h).2 (by decide)
    · have hexec := execClockGoodChange_back (s := s) hok
      rw [if_pos (List.contains_iff_mem.2 hf)] at hexec
      refine ⟨_, hexec, fun h => ?_, fun h => ?_, rfl, rfl⟩
      · simpa using (List.mem_filter.1 h).2
      · simpa using (List.mem_filter.1 h).2
    · have hexec := execClockGoodChange_back (s := s) hok
      rwa [if_neg fun h => hf (List.contains_iff_mem.1 h)] at hexec

end Sys2Proof.Machine
end

section
/-! Commit digests, computed, compared with those of the twin, and waited for (02, 13). -/

namespace Sys2Proof.Machine

open Sys2Proof

/-! ## What an event and a counted read leave -/

theorem TallyOnly.cmds {s t : State} (h : TallyOnly s t) : t.cmds = s.cmds := by
  obtain ⟨_, _, rfl⟩ := h; rfl
theorem TallyOnly.streams {s t : State} (h : TallyOnly s t) : t.streams = s.streams := by
  obtain ⟨_, _, rfl⟩ := h; rfl
theorem TallyOnly.pile {s t : State} (h : TallyOnly s t) : t.pile = s.pile := by
  obtain ⟨_, _, rfl⟩ := h; rfl
theorem TallyOnly.dom {s t : State} (h : TallyOnly s t) : t.dom = s.dom := by
  obtain ⟨_, _, rfl⟩ := h; rfl
theorem TallyOnly.cores {s t : State} (h : TallyOnly s t) : t.cores = s.cores := by
  obtain ⟨_, _, rfl⟩ := h; rfl

/-- An uncorrectable line is counted in its pile and reported. -/
theorem ueReport_eq (s : State) (line kind : Nat) : ∃ ps ty m,
    ueReport s line kind = { s with piles := ps, tally := ty, io := { s.io with msix := m } } := by
  obtain ⟨ty, m, h⟩ := event_tallyOnly (setPile s (line / 2 ^ 36) { getPile s (line / 2 ^ 36) with
    ueCount := min ((getPile s (line / 2 ^ 36)).ueCount + 1) 0xFF }) (pileLoc (line / 2 ^ 36)) 0x13
    (subjEndpoint (selfAddr s (pileLoc (line / 2 ^ 36)))) line kind
  exact ⟨_, ty, m, h⟩

/-- A read counts the lines it corrects in their pile. -/
theorem noteRead_eq (s : State) (pa n : Nat) : ∃ ps, noteRead s pa n = { s with piles := ps } := by
  unfold noteRead bumpCe
  split
  · exact ⟨_, rfl⟩
  · exact ⟨_, rfl⟩

/-- What changes the records of the piles alone does so when it is repeated. -/
theorem foldl_piles {α : Type} {f : State → α → State} (h : ∀ t x, ∃ ps, f t x = { t with piles := ps }) :
    ∀ (l : List α) (s : State), ∃ ps, l.foldl f s = { s with piles := ps }
  | [], s => ⟨s.piles, rfl⟩
  | x :: l, s => by
    obtain ⟨ps, hx⟩ := h s x
    obtain ⟨qs, hl⟩ := foldl_piles h l (f s x)
    exact ⟨qs, by rw [List.foldl_cons, hl, hx]⟩

theorem noteObjs_eq (l : List Obj) (s : State) : ∃ ps, l.foldl noteObj s = { s with piles := ps } :=
  foldl_piles (fun t _ => foldl_piles (fun u _ => noteRead_eq u _ _) _ t) l s

/-! ## Digests -/

section Computed

variable {s : State} {id : Nat} {c : Cmd}

/-- The command of a digest that is computed. -/
theorem execDigestCompute_waiting (hc : getCmd s id = some c) (hst : c.stage = .waiting) (hd : c.digestDone = false) :
    exec (.digestCompute id) s = match (digestObjs s c).findSome? (objBad s) with
      | some pa => .next (accept (modCmd (ueReport s pa 0) id fun c => { c with digestUe := some pa, digestDone := true }) id)
      | none => .next (digestReady ((digestObjs s c).foldl noteObj s) c (digestOf s (digestObjs s c))) := by
  show execDigestCompute id s = _
  unfold execDigestCompute
  rw [hc]
  exact if_neg (by simp [hst, hd])

/-- A command changed by a function that keeps its number is found, changed. -/
theorem getCmd_modCmd_at {t : State} {f : Cmd → Cmd} (h : getCmd t id = some c) (hf : ∀ x, x.id = id → (f x).id = id) :
    getCmd (modCmd t id f) id = some (f c) := by
  have hsame : modCmd t id f = modCmd t id fun x => if x.id = id then f x else x := by
    have hmap : t.cmds.map (fun x => if x.id == id then f x else x) =
        t.cmds.map fun x => if x.id == id then (if x.id = id then f x else x) else x :=
      List.map_congr_left fun x _ => by split <;> simp_all
    simp only [modCmd, hmap]
  rw [hsame, getCmd_modCmd_same t id _ c h fun x => by split <;> simp_all, if_pos (getCmd_id h)]

/-- An accepted command waits for the commit engine. -/
theorem getCmd_accept {t : State} {x : Cmd} (h : getCmd t id = some x) : getCmd (accept t id) id = some { x with stage := .committing } :=
  getCmd_modCmd_same t id _ x h fun _ => rfl

theorem digestCompute_bad (hc : getCmd s id = some c) (hst : c.stage = .waiting) (hd : c.digestDone = false) {pa : Nat}
    (hbad : (digestObjs s c).findSome? (objBad s) = some pa) :
    ∃ t x, exec (.digestCompute id) s = .next t ∧ getCmd t id = some x ∧ x.stage = .committing ∧ x.digestUe = some pa ∧
      x.digest = c.digest ∧ t.streams = s.streams := by
  have hexec := execDigestCompute_waiting hc hst hd
  rw [hbad] at hexec
  obtain ⟨ps, ty, m, hue⟩ := ueReport_eq s pa 0
  have hfound : getCmd (ueReport s pa 0) id = some c := by rw [hue]; exact hc
  refine ⟨_, _, hexec, getCmd_accept (getCmd_modCmd_same _ id _ c hfound fun _ => rfl), rfl, rfl, rfl, ?_⟩
  exact (show (ueReport s pa 0).streams = s.streams by rw [hue])

theorem digestCompute_alone (hc : getCmd s id = some c) (hst : c.stage = .waiting) (hd : c.digestDone = false)
    (hgood : (digestObjs s c).findSome? (objBad s) = none) (hex : exchanges s c = false) :
    ∃ t x, exec (.digestCompute id) s = .next t ∧ getCmd t id = some x ∧ x.stage = .committing ∧
      x.digest = some (digestOf s (digestObjs s c)) ∧ t.io.dma = s.io.dma ∧ t.streams = s.streams := by
  have hid : c.id = id := getCmd_id hc
  subst hid
  have hexec := execDigestCompute_waiting hc hst hd
  rw [hgood] at hexec
  obtain ⟨ps, hnote⟩ := noteObjs_eq (digestObjs s c) s
  rw [hnote] at hexec
  have hex' : exchanges { s with piles := ps } c = false := hex
  simp only [digestReady, hex', Bool.not_false, if_true] at hexec
  exact ⟨_, _, hexec, getCmd_accept (getCmd_modCmd_at (show getCmd { s with piles := ps } c.id = some c from hc)
    fun _ _ => rfl), rfl, rfl, rfl, rfl⟩

end Computed

section Arrives

variable {s : State} {src first count pos : Nat} {d : W64} {r : List (Nat × Ctl)}

/-- The digest that has come from the twin, as it is compared or kept. -/
theorem execTwinDigestArrive_front (hgot : s.dom.got = (src, .digest first count pos d) :: r) :
    exec .twinDigestArrive s =
      match s.cmds.find? fun c => c.stage == .waiting && c.digestDone &&
        twinKey s c { first := first, count := count, pos := pos, d := d, at_ := s.time } with
      | some c => .next (twinCompare (tookGot s r) c d)
      | none => .next { tookGot s r with dom := { (tookGot s r).dom with
          digests := s.dom.digests ++ [{ first := first, count := count, pos := pos, d := d, at_ := s.time }] } } := by
  show execTwinDigestArrive s = _
  unfold execTwinDigestArrive
  rw [takeGot_front hgot rfl]
  rfl

variable {c : Cmd}

/-- The one command waits for this digest. -/
theorem twinDigestArrive_awaited (hgot : s.dom.got = (src, .digest first count pos d) :: r) (hcmds : s.cmds = [c])
    (hst : c.stage = .waiting) (hd : c.digestDone = true) (hfirst : groupFirst c = first) (hcount : groupCount c = count)
    (hpos : posAfter s c = pos) : exec .twinDigestArrive s = .next (twinCompare (tookGot s r) c d) := by
  rw [execTwinDigestArrive_front hgot, hcmds, List.find?_cons_of_pos (by simp [hst, hd, twinKey, hfirst, hcount, hpos])]

/-- A change of the one command. -/
theorem modCmd_only {t : State} (hcmds : t.cmds = [c]) (f : Cmd → Cmd) : modCmd t c.id f = { t with cmds := [f c] } :=
  modCmd_front hcmds (by simp) f

/-- A command whose digest differs diverges. -/
theorem twinCompare_differs {t : State} (hcmds : t.cmds = [c]) (hne : c.digest ≠ some d) :
    (twinCompare t c d).cmds = [{ c with stage := .committing, diverged := true }] ∧ (twinCompare t c d).dom = t.dom ∧
      (twinCompare t c d).streams = t.streams := by
  have hev : TallyOnly t (twinEvent t c 0x27 d) := event_tallyOnly _ _ _ _ _ _
  have hmod := modCmd_only (t := twinEvent t c 0x27 d) (hev.cmds.trans hcmds) fun c => { c with diverged := true }
  have hacc := modCmd_only (t := { twinEvent t c 0x27 d with cmds := [{ c with diverged := true }] }) rfl
    fun c => { c with stage := .committing }
  have h : twinCompare t c d = { twinEvent t c 0x27 d with cmds := [{ c with stage := .committing, diverged := true }] } := by
    rw [twinCompare, if_neg hne, hmod]
    exact hacc
  rw [h]
  exact ⟨rfl, hev.dom, hev.streams⟩

end Arrives

section Late

variable {s : State} {id at_ : Nat} {c : Cmd}

/-- A command whose wait for its twin has run out goes on alone. -/
theorem twinWaitTimeout_late (hc : getCmd s id = some c) (hst : c.stage = .waiting) (hd : c.digestDone = true)
    (hfrom : c.twinFrom = some at_) (hlate : at_ + s.dom.waitUs * 1000 ≤ s.time) :
    ∃ t, exec (.twinWaitTimeout id) s = .next t ∧ getCmd t id = some { c with stage := .committing } ∧
      t.streams = s.streams ∧ t.pile = s.pile := by
  have hid : c.id = id := getCmd_id hc
  subst hid
  have hexec : exec (.twinWaitTimeout c.id) s = .next (twinLost s c) := by
    show execTwinWaitTimeout c.id s = _
    unfold execTwinWaitTimeout
    rw [hc]
    simp [hfrom, hlate, hst, hd, onlyIf]
  have hev : TallyOnly s (twinEvent s c 0x28 0) := event_tallyOnly _ _ _ _ _ _
  have hfound : getCmd (twinEvent s c 0x28 0) c.id = some c := by rw [getCmd, hev.cmds]; exact hc
  exact ⟨_, hexec, getCmd_accept hfound, hev.streams, hev.pile⟩

end Late

/-- Settles O34: a digest is computed on reads that count only in the piles, and the comparison with the twin's and the end of the
wait change the command and, by an event, the tally. -/
theorem digestsAndTwins : Obligations.DigestsAndTwins := by
  unfold Obligations.DigestsAndTwins
  refine ⟨fun s id c hc _ hst hd => ⟨fun pa hbad => digestCompute_bad hc hst hd hbad, digestCompute_alone hc hst hd⟩,
    fun s src first count pos d r c hgot hcmds hst hd hfirst hcount hpos => ⟨fun hd' => ?_, fun hne => ?_⟩,
    fun s src first count pos d r hcmds hgot => ?_,
    fun s id at_ c hc _ hst hd hfrom hlate => twinWaitTimeout_late hc hst hd hfrom hlate,
    fun s => ⟨_, rfl, fun x => by simp [List.mem_filter], rfl, rfl⟩⟩
  · have hexec := twinDigestArrive_awaited hgot hcmds hst hd hfirst hcount hpos
    rw [twinCompare, if_pos hd'] at hexec
    have hacc := modCmd_only (t := tookGot s r) hcmds fun c => { c with stage := .committing }
    refine ⟨_, hexec, congrArg State.cmds hacc, rfl, rfl, rfl⟩
  · obtain ⟨hcmds', hdom, hstreams⟩ := twinCompare_differs (t := tookGot s r) hcmds hne
    exact ⟨_, twinDigestArrive_awaited hgot hcmds hst hd hfirst hcount hpos, hcmds', congrArg Dom.got hdom, hstreams⟩
  · have hnone : ∀ p, s.cmds.find? p = none := fun p => by rw [hcmds, List.find?_nil]
    rw [execTwinDigestArrive_front hgot, hnone] <;> rfl

end Sys2Proof.Machine
end

section
/-! Faults of cores, their repair, and the move of the ranks they held (05, 12). -/

namespace Sys2Proof.Machine

open Sys2Proof

/-! ## What writing the windows of cores leaves -/

/-- `t` is `s` but for the cores. -/
def CoresOnly (s t : State) : Prop := ∃ cs, t = { s with cores := cs }

theorem CoresOnly.refl (s : State) : CoresOnly s s := ⟨s.cores, rfl⟩

theorem CoresOnly.trans {s t u : State} (a : CoresOnly s t) (b : CoresOnly t u) : CoresOnly s u := by
  obtain ⟨_, rfl⟩ := a
  obtain ⟨_, rfl⟩ := b
  exact ⟨_, rfl⟩

theorem CoresOnly.foldl {α : Type} {f : State → α → State} (h : ∀ t x, CoresOnly t (f t x)) :
    ∀ (l : List α) (s : State), CoresOnly s (l.foldl f s)
  | [], s => CoresOnly.refl s
  | x :: l, s => (h s x).trans (CoresOnly.foldl h l (f s x))

theorem setCore_coresOnly (s : State) (n : Nat) (x : Core) : CoresOnly s (setCore s n x) := ⟨_, rfl⟩

theorem clearCode_coresOnly (s : State) (core base n : Nat) : CoresOnly s (clearCode s core base n) := ⟨_, rfl⟩

theorem loadSeg_coresOnly (w : WSet) (core res code : Nat) (s : State) (g : Seg) : CoresOnly s (loadSeg w core res code s g) := by
  unfold loadSeg
  dsimp only
  split
  · exact setCore_coresOnly s core _
  · exact setCore_coresOnly s core _

theorem loadRank_coresOnly (w : WSet) (s : State) (r core : Nat) : CoresOnly s (loadRank w s r core) :=
  (clearCode_coresOnly s core _ _).trans (CoresOnly.foldl (fun t g => loadSeg_coresOnly w core _ _ t g) _ _)

theorem rewriteCore_coresOnly (s : State) (core : Nat) : CoresOnly s (rewriteCore s core) :=
  CoresOnly.foldl (fun t w => CoresOnly.foldl (fun u r => loadRank_coresOnly w u r core) _ t) _ s

/-! ## Faults -/

section Faults

variable {s : State} {core : Nat}

theorem execCoreFault_up (hup : coreUp s core = true) {kind : Nat} (hk : kind < 4) (a : W64) :
    exec (.coreFault core kind a) s = .next (coreFaulted s core kind a) := by
  show onlyIf (coreUp s core && decide (kind < 4)) s (coreFaulted s core kind a) = _
  simp [onlyIf, hup, hk]

/-- The kill of the program that a faulted core runs. -/
def faultKill (s : State) (core : Nat) : State :=
  match getDisp s core with
  | some d => if genCurrent s d.gen then startKill s d.cmd .counted false else s
  | none => s

theorem faultKill_ended (s : State) (core : Nat) : Ended s (faultKill s core) := by
  unfold faultKill
  split
  · split
    · exact startKill_ended s _ _ _
    · exact Ended.refl s
  · exact Ended.refl s

theorem faultKill_pile (s : State) (core : Nat) : (faultKill s core).pile = s.pile := by
  unfold faultKill
  split
  · split
    · obtain ⟨_, h, _⟩ := startKill_leaves s ‹Disp›.cmd .counted false
      exact h
    · rfl
  · rfl

/-- The core out of service, the ranks it held lost. -/
def faultMarked (s t : State) (core kind : Nat) (a : W64) : State :=
  { setCore t core { getCore t core with oos := true, fault := some (kind, a) } with
    sets := t.sets.map (loseRanks s.time core)
    cmds := t.cmds.map fun c => { c with newSet := c.newSet.map (loseRanks s.time core) } }

theorem coreFaulted_eq (s : State) (core kind : Nat) (a : W64) : coreFaulted s core kind a =
    event (faultMarked s (faultKill s core) core kind a) core 0x04 (subjEndpoint (selfAddr s core)) kind a.toNat := rfl

theorem getCmd_map {l : List Cmd} {f : Cmd → Cmd} (hf : ∀ x, (f x).id = x.id) {id : Nat} {c : Cmd}
    (h : (l.find? fun x => x.id == id) = some c) : ((l.map f).find? fun x => x.id == id) = some (f c) := by
  rw [List.find?_map, show ((fun x : Cmd => x.id == id) ∘ f) = fun x => x.id == id from funext fun x => by simp [hf], h]
  rfl

theorem coreFault_faulted (hup : coreUp s core = true) {kind : Nat} (hk : kind < 4) (a : W64) :
    ∃ t, exec (.coreFault core kind a) s = .next t ∧ (getCore t core).oos = true ∧ (getCore t core).fault = some (kind, a) ∧
      (∀ n, n ≠ core → getCore t n = getCore s n) ∧ t.sets = s.sets.map (loseRanks s.time core) ∧
      (∀ d c, getDisp s core = some d → getCmd s d.cmd = some c → c.stage = .running → genCurrent s d.gen = true →
        ∃ x k, getCmd t d.cmd = some x ∧ x.stage = .killing ∧ x.kill = some k ∧ k.kind = .counted) ∧
      t.pile = s.pile ∧ t.streams = s.streams := by
  have hev : TallyOnly (faultMarked s (faultKill s core) core kind a) (coreFaulted s core kind a) := event_tallyOnly _ _ _ _ _ _
  have hkill := faultKill_ended s core
  have hcore : ∀ n, getCore (coreFaulted s core kind a) n =
      getCore (setCore (faultKill s core) core { getCore (faultKill s core) core with oos := true, fault := some (kind, a) }) n :=
    fun n => congrArg (fun (cs : Tab Core) => tget ({} : Core) cs n) hev.cores
  refine ⟨_, execCoreFault_up hup hk a, ?_, ?_, fun n hn => ?_, ?_, fun d c hd hc hst hgen => ?_, ?_, ?_⟩
  · rw [hcore, getCore_setCore_same]
  · rw [hcore, getCore_setCore_same]
  · rw [hcore, getCore_setCore_ne _ _ _ _ hn]
    exact congrArg (fun (cs : Tab Core) => tget ({} : Core) cs n) hkill.cores
  · obtain ⟨_, _, h⟩ := hev
    rw [h, ← hkill.sets]
    rfl
  · have hkilled : faultKill s core = startKill s d.cmd .counted false := by
      rw [faultKill, hd]
      exact if_pos hgen
    have hfound := startKill_running hc hst .counted false
    rw [← hkilled] at hfound
    have hmapped := getCmd_map (f := fun c => { c with newSet := c.newSet.map (loseRanks s.time core) }) (fun _ => rfl) hfound
    have hcmd : getCmd (coreFaulted s core kind a) d.cmd = getCmd (faultMarked s (faultKill s core) core kind a) d.cmd :=
      congrArg (fun l : List Cmd => l.find? fun (x : Cmd) => x.id == d.cmd) hev.cmds
    exact ⟨_, _, hcmd.trans hmapped, rfl, rfl, rfl⟩
  · exact hev.pile.trans (faultKill_pile s core)
  · exact hev.streams.trans hkill.streams

end Faults

/-! ## Repair -/

section Repair

variable {s : State} {core : Nat} {pass : Bool}

/-- The memories of the core written again, or one lane more substituted. -/
def repaired (s : State) (core kind : Nat) : State :=
  if kind = 0 then rewriteCore s core
  else if kind = 1 ∧ sparesUsed s core < 4 then setCore s core { getCore s core with spares := (getCore s core).spares + 1 } else s

/-- The test passes and the repair is one the firmware has. -/
def returned (s : State) (core kind : Nat) (pass : Bool) : Bool :=
  pass && (kind == 0 || (kind == 1 && decide (sparesUsed s core < 4)))

/-- The core's fault is over. -/
def faultOver (s : State) (core : Nat) (good : Bool) : State :=
  setCore s core { getCore s core with oos := !good, fault := none }

/-- The ranks of the core wait no longer. -/
def regained (s : State) (core : Nat) : State :=
  { s with sets := s.sets.map (regainRanks core), cmds := s.cmds.map fun c => { c with newSet := c.newSet.map (regainRanks core) } }

theorem execCoreRestore_ready {kind : Nat} {a : W64} (hf : (getCore s core).fault = some (kind, a)) (hr : s.crown.ready = true)
    (hd : getDisp s core = none) : exec (.coreRestore core pass) s = .next
      (if returned s core kind pass then regained (faultOver (repaired s core kind) core true) core
        else faultOver (repaired s core kind) core false) := by
  have hd' : (getCore s core).disp = none := hd
  show execCoreRestore core pass s = _
  unfold execCoreRestore
  simp only [hf, hr, hd', Bool.not_true, Option.isSome_none, Bool.or_self, Bool.false_eq_true, if_false]
  by_cases hret : returned s core kind pass = true
  · have hret' := hret
    unfold returned at hret'
    simp only [hret, hret', if_true, regained, faultOver, repaired, hf, hd', Bool.not_true]
  · have hret' := hret
    unfold returned at hret'
    simp only [hret, hret', faultOver, repaired, hf, hd']
    simp

theorem getCore_faultOver (s : State) (core : Nat) (good : Bool) :
    getCore (faultOver s core good) core = { getCore s core with oos := !good, fault := none } := getCore_setCore_same _ _ _

theorem coreRestore_memory {a : W64} (hf : (getCore s core).fault = some (0, a)) (hr : s.crown.ready = true)
    (hd : getDisp s core = none) : ∃ t, exec (.coreRestore core pass) s = .next t ∧ (getCore t core).oos = !pass ∧
      (getCore t core).fault = none ∧ (pass = false → t.cmds = s.cmds) ∧ t.cmds.map Cmd.stage = s.cmds.map Cmd.stage ∧
      t.pile = s.pile ∧ (pass = true → ∀ w ∈ t.sets, ∀ y ∈ w.lost, (w.cores[y.1]?).getD 0 ≠ core) := by
  have hexec := execCoreRestore_ready (pass := pass) hf hr hd
  obtain ⟨cs, hcs⟩ := rewriteCore_coresOnly s core
  have hrep : repaired s core 0 = { s with cores := cs } := (if_pos rfl).trans hcs
  cases pass
  · refine ⟨_, hexec, congrArg Core.oos (getCore_faultOver _ core false), congrArg Core.fault (getCore_faultOver _ core false), ?_⟩
    rw [hrep]
    exact ⟨fun _ => rfl, rfl, rfl, nofun⟩
  · refine ⟨_, hexec, congrArg Core.oos (getCore_faultOver _ core true), congrArg Core.fault (getCore_faultOver _ core true), nofun, ?_⟩
    rw [hrep]
    refine ⟨?_, rfl, fun _ w hw y hy => ?_⟩
    · show (s.cmds.map _).map Cmd.stage = _
      rw [List.map_map]
      rfl
    · obtain ⟨w0, _, rfl⟩ := List.mem_map.mp (show w ∈ s.sets.map (regainRanks core) from hw)
      have := (List.mem_filter.mp (show y ∈ w0.lost.filter fun y => (w0.cores[y.1]?).getD 0 != core from hy)).2
      exact bne_iff_ne.mp this

theorem coreRestore_vector {a : W64} (hf : (getCore s core).fault = some (1, a)) (hr : s.crown.ready = true)
    (hd : getDisp s core = none) (hsp : sparesUsed s core < 4) : ∃ t, exec (.coreRestore core true) s = .next t ∧
      (getCore t core).oos = false ∧ (getCore t core).spares = (getCore s core).spares + 1 ∧ (getCore t core).fault = none := by
  have hexec := execCoreRestore_ready (pass := true) hf hr hd
  have hret : returned s core 1 true = true := by simp [returned, hsp]
  have hrep : repaired s core 1 = setCore s core { getCore s core with spares := (getCore s core).spares + 1 } := by
    rw [repaired, if_neg (by decide), if_pos ⟨rfl, hsp⟩]
  rw [hret, hrep] at hexec
  have hcore := getCore_faultOver (setCore s core { getCore s core with spares := (getCore s core).spares + 1 }) core true
  rw [getCore_setCore_same] at hcore
  exact ⟨_, hexec, congrArg Core.oos hcore, congrArg Core.spares hcore, congrArg Core.fault hcore⟩

end Repair

/-! ## Ranks that move, sets that are lost -/

/-- The set of a handle is found where every set of that handle has become it. -/
theorem find_set_map {l : List WSet} {w v : WSet} {part : Nat} {h : W32} (hw : (l.find? fun x => x.part == part && x.handle == h) = some w)
    (hp : v.part = part) (hh : v.handle = h) :
    ((l.map fun x => if x.part == part && x.handle == h then v else x).find? fun x => x.part == part && x.handle == h) = some v := by
  induction l with
  | nil => simp at hw
  | cons x l ih =>
    rw [List.map_cons]
    by_cases hx : (x.part == part && x.handle == h) = true
    · rw [if_pos hx, List.find?_cons_of_pos (by simp [hp, hh])]
    · have hx' : (x.part == part && x.handle == h) = false := by simpa using hx
      rw [if_neg hx, List.find?_cons, hx']
      rw [List.find?_cons, hx'] at hw
      exact ih hw

section Ranks

variable {s : State} {part rank core : Nat} {h : W32} {w : WSet}

theorem findSet_is (hw : findSet s part h = some w) : w.part = part ∧ w.handle = h := by
  have := List.find?_some hw
  simpa using this

/-- The set with a rank at its new core. -/
def rankMoved (w : WSet) (rank core : Nat) : WSet :=
  { w with cores := w.cores.set rank core, lost := w.lost.filter fun x => x.1 != rank }

theorem rankRelocate_moves (hw : findSet s part h = some w) (ht : relocTarget s w rank = some core) (hup : placerUp s = true)
    (hl : (w.lost.any fun x => x.1 == rank) = true) : ∃ t x, exec (.rankRelocate part h rank) s = .next t ∧
      findSet t part h = some x ∧ x.cores = w.cores.set rank core ∧ (x.lost.any fun y => y.1 == rank) = false ∧
      x.resBase = w.resBase ∧ x.image = w.image ∧ t.cmds = s.cmds ∧ t.pile = s.pile := by
  have hexec : ∃ cs, exec (.rankRelocate part h rank) s = .next { s with
      sets := s.sets.map fun x => if x.part == part && x.handle == h then rankMoved w rank core else x
      cores := cs } := by
    obtain ⟨cs, hcs⟩ := loadRank_coresOnly (rankMoved w rank core)
      { clearCode s ((w.cores[rank]?).getD 0) ((w.codeBase[rank]?).getD 0) w.codeSpan with
        sets := s.sets.map fun x => if x.part == part && x.handle == h then rankMoved w rank core else x } rank core
    refine ⟨cs, ?_⟩
    show execRankRelocate part h rank s = _
    unfold execRankRelocate
    simp only [hw, ht, hup, hl, Bool.not_true, Bool.or_self, Bool.false_eq_true, if_false]
    exact congrArg Host.Outcome.next hcs
  obtain ⟨cs, hexec⟩ := hexec
  obtain ⟨hp, hh⟩ := findSet_is hw
  refine ⟨_, rankMoved w rank core, hexec, find_set_map hw hp hh, rfl, ?_, rfl, rfl, rfl, rfl⟩
  simp [rankMoved, List.any_filter]

/-- The commands that a lost set takes with it. -/
def endNamed (part : Nat) (h : W32) (s t : State) : State :=
  (s.cmds.filter fun (c : Cmd) => c.part == part && usesSet (cop c) && c.desc.set == h).foldl (fun t c =>
    match getCmd t c.id with
    | some c1 => complete t c1 stOutOfBounds 0
    | none => t) t

theorem execSetLost_due {at_ : Nat} (hw : findSet s part h = some w) (hr : s.crown.ready = true) (hl : (rank, at_) ∈ w.lost)
    (hat : at_ + 100000000 ≤ s.time) (ht : relocTarget s w rank = none) (hq : ∀ c ∈ s.cmds, c.stage = .queued) :
    exec (.setLost part h) s = .next (endNamed part h s (event (evictSet s part h) crownLoc 0x05 (subjKind 9 part) h.toNat 0)) := by
  have hdue : (w.lost.any fun x => decide (x.2 + 100000000 ≤ s.time) && (relocTarget s w x.1).isNone) = true :=
    List.any_eq_true.mpr ⟨_, hl, by simp [hat, ht]⟩
  have hnone : (s.cmds.any fun c => (c.part == part && usesSet (cop c) && c.desc.set == h) && c.stage != .queued) = false := by
    rw [List.any_eq_false]
    intro c hc
    simp [hq c hc]
  show execSetLost part h s = _
  unfold execSetLost
  simp only [hw, hr, hdue, hnone, Bool.not_true, Bool.or_self, Bool.false_eq_true, if_false]
  rfl

/-- An evicted set is gone; only its code was cleared in the cores. -/
theorem evictSet_gone (s : State) (part : Nat) (h : W32) : ∃ cs ws, evictSet s part h = { s with cores := cs, sets := ws } ∧
    (ws.find? fun x => x.part == part && x.handle == h) = none := by
  unfold evictSet
  split
  next hnone => exact ⟨s.cores, s.sets, rfl, hnone⟩
  next w _ =>
    obtain ⟨cs, hcs⟩ := CoresOnly.foldl (fun (t : State) (x : Nat × Nat) => clearCode_coresOnly t x.1 x.2 w.codeSpan)
      (w.cores.zip w.codeBase) s
    refine ⟨cs, _, by rw [hcs], ?_⟩
    rw [List.find?_filter, List.find?_eq_none]
    intro x _ hx
    cases h : (x.part == part && x.handle == h) <;> simp [h] at hx

/-- The state with the set evicted, and the event of its loss. -/
theorem lostEvicted (s : State) (part : Nat) (h : W32) : ∃ t cs ws ty m,
    event (evictSet s part h) crownLoc 0x05 (subjKind 9 part) h.toNat 0 = t ∧
      t = { s with cores := cs, sets := ws, tally := ty, io := { s.io with msix := m } } ∧ findSet t part h = none := by
  obtain ⟨cs, ws, hev, hws⟩ := evictSet_gone s part h
  obtain ⟨ty, m, ht⟩ := event_tallyOnly (evictSet s part h) crownLoc 0x05 (subjKind 9 part) h.toNat 0
  rw [hev] at ht
  exact ⟨_, cs, ws, ty, m, hev ▸ ht, rfl, hws⟩

end Ranks

namespace Holds

/-- Settles O35: a fault kills by the law of kills and marks the core; repair and relocation write cores alone; a lost set is
evicted and its queued commands complete, each with its entry. -/
theorem coreHealth : Obligations.CoreHealth := by
  unfold Obligations.CoreHealth
  refine ⟨⟨fun s core mem word hup hmem => ?_, fun s core kind a hup hk => coreFault_faulted hup hk a,
      fun s core mem word kind a hup => ?_⟩,
    fun s core a pass hf hr hd => coreRestore_memory hf hr hd, fun s core a hf hr hd hsp => coreRestore_vector hf hr hd hsp,
    fun s part rank core h w hw ht hup hl => rankRelocate_moves hw ht hup hl,
    fun s part rank at_ h w hw hr hl hat ht hcmds => ?_,
    fun s part rank at_ h w c hw hr hl hat ht hcmds hp hu hset hst hf hlost => ?_⟩
  · have hmem' : ¬ 2 < mem := by omega
    refine ⟨?_, ?_, ?_⟩
    · show execCoreScrub core mem word 0 s = _
      simp [execCoreScrub]
    · show execCoreScrub core mem word 1 s = _
      simp [execCoreScrub, hup, hmem']
    · rw [execCoreFault_up hup (by decide)]
      show execCoreScrub core mem word 2 s = _
      simp [execCoreScrub, hup, hmem']
  · refine ⟨?_, ?_⟩
    · show execCoreScrub core mem word kind s = _
      simp [execCoreScrub, hup]
    · show onlyIf (coreUp s core && decide (kind < 4)) s (coreFaulted s core kind a) = _
      simp [onlyIf, hup]
  · have hexec := execSetLost_due hw hr hl hat ht (by simp [hcmds])
    obtain ⟨t, cs, ws, ty, m, het, ht', hgone⟩ := lostEvicted s part h
    rw [endNamed, hcmds, het] at hexec
    subst ht'
    exact ⟨_, hexec, hgone, rfl, rfl⟩
  · have hexec := execSetLost_due hw hr hl hat ht (by simp [hcmds, hst])
    obtain ⟨t, cs, ws, ty, m, het, ht', hgone⟩ := lostEvicted s part h
    have hnamed : (s.cmds.filter fun (c : Cmd) => c.part == part && usesSet (cop c) && c.desc.set == h) = [c] := by
      simp [hcmds, hp, hu, hset]
    have htcmds : t.cmds = [c] := by rw [ht']; exact hcmds
    rw [endNamed, hnamed, het, List.foldl_cons, List.foldl_nil, getCmd_front htcmds] at hexec
    have hring : (getRing t c.client c.ring).fault = false := by rw [ht']; exact hf
    have hcomp : complete t c stOutOfBounds 0 = retire t c stOutOfBounds 0 false false := by
      rw [complete, if_neg (by decide)]
    obtain ⟨hnil, hdma, _⟩ := retire_last_writes (s := t) (by simp [htcmds]) (Or.inl (by decide)) hring hlost 0 false false _ hcomp
    have htdma : t.io.dma = s.io.dma := by rw [ht']
    refine ⟨_, entryDma t c (entryOf t (getRing t c.client c.ring) c stOutOfBounds 0 false), hexec, ?_, hnil,
      hdma.trans (by rw [htdma]), entryOf_cookie t _ c stOutOfBounds 0 false, entryOf_status t _ c (by decide) 0 false⟩
    have hsets := (complete_ended (show stOutOfBounds ≠ stMemUncorrectable by decide) t c 0).sets
    rw [findSet, hsets]
    exact hgone

end Holds

end Sys2Proof.Machine
end

section
/-! The upkeep of piles, and translations: scrub, refresh, the directory, walks and invalidations (11). -/

namespace Sys2Proof.Machine

open Sys2Proof

/-! ## Upkeep -/

section Scrub

variable {s : State} {pile : Nat}

/-- The state with the errors of a line written as none. -/
def noErrs (s : State) (line : Nat) : State := { s with pile := { s.pile with errs := tput [] s.pile.errs line [] } }

theorem execPatrolScrub_clean (hp : pile < 16) (hf : pileFenced s pile = false) (hen : (getPile s pile).scrubEn = true)
    (hsr : (getPile s pile).selfRefresh = false) (he : lineErrs s (pile * 2 ^ 36 + 64 * (getPile s pile).scrubPos) = [])
    (hc : correctable s (pile * 2 ^ 36 + 64 * (getPile s pile).scrubPos) [] = true) :
    exec (.patrolScrub pile [] [] []) s = .next (scrubNext (noErrs s (pile * 2 ^ 36 + 64 * (getPile s pile).scrubPos)) pile) := by
  generalize hline : pile * 2 ^ 36 + 64 * (getPile s pile).scrubPos = line at *
  obtain ⟨hserve, honce⟩ := serveLine_clean (s := noErrs s line) (tget_tput_same [] _ _ _) hc
  have hscrub : scrubLine (noErrs s line) pile line [] [] = noErrs s line := by
    rw [scrubLine, hserve]
    simp [honce]
  show execPatrolScrub pile [] [] [] s = _
  unfold execPatrolScrub
  simp only [pileOk, hp, hf, hen, hsr, hline, he, decide_true, Bool.not_true, Bool.or_self, Bool.false_eq_true, if_false]
  exact congrArg (fun u => Host.Outcome.next (scrubNext u pile)) hscrub

theorem scrubNext_within {t : State} (h : (getPile t pile).scrubPos + 1 < pileLines) :
    scrubNext t pile = setPile t pile { getPile t pile with scrubPos := (getPile t pile).scrubPos + 1 } := if_pos h

end Scrub

/-- A refresh that is due notes its time. -/
theorem execPileRefresh_due {s : State} {pile ch : Nat} (hp : pile < 16) (hch : ch < 32) (hf : pileFenced s pile = false)
    (hsr : (getPile s pile).selfRefresh = false)
    (hdue : tget 0 (getPile s pile).refreshed ch + (if (getPile s pile).hot then 1950 else 3900) ≤ s.time) :
    exec (.pileRefresh pile ch) s =
      .next (setPile s pile { getPile s pile with refreshed := tput 0 (getPile s pile).refreshed ch s.time }) := by
  show execPileRefresh pile ch s = _
  simp only [execPileRefresh, onlyIf, pileOk, hp, hch, hf, hsr, hdue, decide_true, Bool.not_false, Bool.and_self, if_true]

theorem execDirectoryEccError_bad {s : State} {pile st : Nat} (hh : (getStream s st).home = pile) (ho : (getStream s st).objs ≠ []) :
    exec (.directoryEccError pile [st] true) s = .next (setStream s st { getStream s st with damaged := true }) := by
  have hf : ([st].filter fun st => (getStream s st).home == pile && !(getStream s st).objs.isEmpty) = [st] := by
    simp [hh, ho]
  show execDirectoryEccError pile [st] true s = _
  rw [execDirectoryEccError, hf]
  rfl

/-! ## Translations -/

theorem getTlb_core (s : State) {n : Nat} (h : n < 2560) : getTlb s n = (getCore s n).tlb := if_pos h
theorem getTlb_die (s : State) {n : Nat} (h : 2560 ≤ n) : getTlb s n = tget [] s.dieTlb (n - 2560) := if_neg (by omega)

@[simp] theorem getTlb_setTlb_same (s : State) (n : Nat) (l : List TlbEnt) : getTlb (setTlb s n l) n = l := by
  unfold getTlb setTlb
  split
  · rw [getCore_setCore_same]
  · exact tget_tput_same _ _ _ _

theorem getTlb_setTlb_ne (s : State) {n k : Nat} (h : k ≠ n) (l : List TlbEnt) : getTlb (setTlb s n l) k = getTlb s k := by
  unfold getTlb setTlb
  by_cases hn : n < 2560
  · rw [if_pos hn, getCore_setCore_ne _ _ _ _ h]
    rfl
  · rw [if_neg hn]
    by_cases hk : k < 2560
    · rw [if_pos hk, if_pos hk]; rfl
    · rw [if_neg hk, if_neg hk]
      exact tget_tput_ne _ _ _ _ _ (by omega)

/-- A TLB is written in its core or in the table of the dies. -/
theorem setTlb_eq (s : State) (n : Nat) (l : List TlbEnt) : ∃ cs ds, setTlb s n l = { s with cores := cs, dieTlb := ds } := by
  unfold setTlb
  split
  · exact ⟨_, s.dieTlb, rfl⟩
  · exact ⟨s.cores, _, rfl⟩

theorem setTlb_frame (s : State) (n : Nat) (l : List TlbEnt) :
    (setTlb s n l).parts = s.parts ∧ (setTlb s n l).pile = s.pile ∧ (setTlb s n l).cmds = s.cmds ∧
      (setTlb s n l).streams = s.streams ∧ (setTlb s n l).inval = s.inval ∧ (setTlb s n l).crown = s.crown := by
  obtain ⟨cs, ds, h⟩ := setTlb_eq s n l
  rw [h]
  exact ⟨rfl, rfl, rfl, rfl, rfl, rfl⟩

section Walk

variable {s : State} {tlb part : Nat} {a : W64}

theorem execTlbWalk_die (h1 : 2560 ≤ tlb) (h2 : tlb < 2617) (hm : tlbHit (getTlb s tlb) part a.toNat = none) :
    exec (.tlbWalk tlb part a) s =
      .next (match walkEnt s part a.toNat with | some e => fillTlb s tlb e | none => s) := by
  have h2' : ¬ 2617 ≤ tlb := by omega
  show execTlbWalk tlb part a s = _
  simp only [execTlbWalk, hm, h1, h2', decide_false, Option.isSome_none, Bool.or_self, Bool.false_eq_true, if_false, if_true, missDie]
    <;> rfl

/-- A translation enters a set of a die's TLB that has room, or takes the place of another of its set. -/
theorem fillTlb_die (h1 : 2560 ≤ tlb) (e : TlbEnt) :
    (∀ n, n ≠ tlb → getTlb (fillTlb s tlb e) n = getTlb s n) ∧ (fillTlb s tlb e).parts = s.parts ∧
      (fillTlb s tlb e).pile = s.pile ∧
      (((getTlb s tlb).filter fun x => setIndex tlb x == setIndex tlb e).length < 8 →
        getTlb (fillTlb s tlb e) tlb = getTlb s tlb ++ [e]) ∧
      (8 ≤ ((getTlb s tlb).filter fun x => setIndex tlb x == setIndex tlb e).length →
        ∃ x ∈ getTlb s tlb, setIndex tlb x = setIndex tlb e ∧ getTlb (fillTlb s tlb e) tlb = (getTlb s tlb).erase x ++ [e]) := by
  have hways : tlbWays tlb = 8 := if_neg (by omega)
  have hframe := fun l => setTlb_frame s tlb l
  unfold fillTlb
  dsimp only
  rw [hways]
  generalize hset : ((getTlb s tlb).filter fun x => setIndex tlb x == setIndex tlb e) = set
  by_cases hroom : set.length < 8
  · rw [if_pos hroom]
    obtain ⟨hparts, hpile, _⟩ := hframe (getTlb s tlb ++ [e])
    exact ⟨fun n hn => getTlb_setTlb_ne s hn _, hparts, hpile, fun _ => getTlb_setTlb_same s tlb _, fun h => by omega⟩
  · rw [if_neg hroom]
    have hlt : Config.freeNat s.free % set.length < set.length := Nat.mod_lt _ (by omega)
    rw [List.getElem?_eq_getElem hlt]
    have hmem : set[Config.freeNat s.free % set.length] ∈ set := List.getElem_mem hlt
    generalize set[Config.freeNat s.free % set.length] = x at hmem ⊢
    obtain ⟨hparts, hpile, _⟩ := hframe ((getTlb s tlb).erase x ++ [e])
    have hx := List.mem_filter.mp (hset ▸ hmem)
    exact ⟨fun n hn => getTlb_setTlb_ne s hn _, hparts, hpile, fun h => by omega,
      fun _ => ⟨x, hx.1, by simpa using hx.2, getTlb_setTlb_same s tlb _⟩⟩

theorem execTlbWalk_core {core : Nat} {e : TlbEnt} (hc : core < 2560) (hm : tlbHit (getTlb s core) part a.toNat = none)
    (hd : tlbHit (getTlb s (2560 + dieOf core)) part a.toNat = some e) (hroom : (getTlb s core).length < 64) :
    exec (.tlbWalk core part a) s = .next (setTlb s core (getTlb s core ++ [e])) := by
  have hc1 : ¬ 2617 ≤ core := by omega
  have hc2 : ¬ 2560 ≤ core := by omega
  have hset : ((getTlb s core).filter fun x => setIndex core x == setIndex core e) = getTlb s core := by
    simp [setIndex, hc]
  have hfill : fillTlb s core e = setTlb s core (getTlb s core ++ [e]) := by
    unfold fillTlb
    dsimp only
    rw [hset, tlbWays, if_pos hc, if_pos hroom]
  have hmiss : missDie s (2560 + dieOf core) part a.toNat = s := by
    rw [missDie, hd]; rfl
  show execTlbWalk core part a s = _
  simp only [execTlbWalk, hm, hc1, hc2, hmiss, hd, hfill, decide_false, Option.isSome_none, Bool.or_self, Bool.false_eq_true,
    if_false]

end Walk

/-! ## Invalidations -/

section Invalidations

variable {s : State} {tlb : Nat} {v : Inval} {r : List Inval}

theorem forget_frame (s : State) (tlb : Nat) (v : Inval) :
    (forget s tlb v).parts = s.parts ∧ (forget s tlb v).pile = s.pile ∧ (forget s tlb v).cmds = s.cmds ∧
      (forget s tlb v).streams = s.streams ∧ (forget s tlb v).inval = s.inval ∧ (forget s tlb v).crown = s.crown := by
  unfold forget
  dsimp only
  obtain ⟨h1, h2, h3, h4, h5, h6⟩ := setTlb_frame s tlb (dropTlb v.part v.dva v.size (getTlb s tlb))
  split
  · obtain ⟨k1, k2, k3, k4, k5, k6⟩ := setTlb_frame (setTlb s tlb (dropTlb v.part v.dva v.size (getTlb s tlb))) (2560 + dieOf tlb)
      (dropTlb v.part v.dva v.size (getTlb (setTlb s tlb (dropTlb v.part v.dva v.size (getTlb s tlb))) (2560 + dieOf tlb)))
    exact ⟨k1.trans h1, k2.trans h2, k3.trans h3, k4.trans h4, k5.trans h5, k6.trans h6⟩
  · exact ⟨h1, h2, h3, h4, h5, h6⟩

theorem getTlb_forget (s : State) (tlb : Nat) (v : Inval) : getTlb (forget s tlb v) tlb = dropTlb v.part v.dva v.size (getTlb s tlb) := by
  unfold forget
  dsimp only
  split
  · rw [getTlb_setTlb_ne _ (by omega), getTlb_setTlb_same]
  · rw [getTlb_setTlb_same]

/-- A TLB that has forgotten a range holds nothing of it. -/
theorem dropTlb_outside {l : List TlbEnt} {e : TlbEnt} (h : e ∈ dropTlb v.part v.dva v.size l) :
    ¬ (e.part = v.part ∧ e.dva < v.dva + v.size ∧ v.dva < e.dva + e.size ∧ 0 < e.size ∧ 0 < v.size) := by
  rintro ⟨hp, h1, h2, h3, h4⟩
  have hkeep := (List.mem_filter.mp h).2
  simp [overlap, hp, h1, h2, h3, h4] at hkeep

/-- The invalidation that has reached one more TLB. -/
def acked (v : Inval) (tlb : Nat) : Inval := { v with tlbs := v.tlbs.filter fun t => t != tlb }

theorem acked_isEmpty (v : Inval) (tlb : Nat) : (acked v tlb).tlbs.isEmpty = decide (∀ n ∈ v.tlbs, n = tlb) := by
  rw [Bool.eq_iff_iff]
  simp [acked]

/-- The oldest invalidation reaches the TLB. -/
theorem invalidate_front (hi : s.inval = v :: r) (hm : tlb ∈ v.tlbs) : invalidate s tlb =
    (if !(acked v tlb).tlbs.isEmpty then
      { forget s tlb v with inval := (forget s tlb v).inval.map fun x => if x == v then acked v tlb else x }
    else if s.crown.ready then invalDone { forget s tlb v with inval := (forget s tlb v).inval.erase v } (acked v tlb)
    else s) := by
  have hfind : (s.inval.find? fun v => v.tlbs.contains tlb) = some v := by
    rw [hi, List.find?_cons, List.contains_iff_mem.mpr hm]
  unfold invalidate
  rw [hfind] <;> rfl

theorem map_front (hv : v ∉ r) (w : Inval) : (v :: r).map (fun x => if x == v then w else x) = w :: r := by
  have hmap : r.map (fun x => if x == v then w else x) = r :=
    (List.map_congr_left fun x hx => if_neg (by simpa using fun h : x = v => hv (h ▸ hx))).trans (List.map_id' r)
  rw [List.map_cons, hmap]
  simp

/-- A late answer goes to its mailbox. -/
theorem endSlow_eq (s : State) (m status : Nat) (b : Bytes) : ∃ mb mx, endSlow s m status b =
    { s with mail := mb, io := { s.io with msix := mx } } := by
  unfold endSlow
  split
  · exact ⟨s.mail, s.io.msix, rfl⟩
  · unfold giveReply
    split
    · exact ⟨_, _, rfl⟩
    · exact ⟨_, s.io.msix, rfl⟩

/-- With nothing to copy, the end of an invalidation frees the old pages and answers. -/
theorem invalDone_frees {w : Inval} (hw : w.moveTo = none) (t : State) : ∃ mb mx, invalDone t w =
    { freeExtents t fun e => w.free.contains e with mail := mb, io := { t.io with msix := mx } } := by
  unfold invalDone
  rw [hw]
  dsimp only
  split
  · exact endSlow_eq _ _ _ _
  · exact ⟨t.mail, t.io.msix, rfl⟩

theorem tlbInvalidate_front (hi : s.inval = v :: r) (hv : v ∉ r) (hm : tlb ∈ v.tlbs) (hmove : v.moveTo = none)
    (hr : s.crown.ready = true) : ∃ t, exec (.tlbInvalidate { tlb := tlb }) s = .next t ∧
      (∀ e ∈ getTlb t tlb, ¬ (e.part = v.part ∧ e.dva < v.dva + v.size ∧ v.dva < e.dva + e.size ∧ 0 < e.size ∧ 0 < v.size)) ∧
      ((∃ n ∈ v.tlbs, n ≠ tlb) → t.inval = { v with tlbs := v.tlbs.filter fun n => n != tlb } :: r ∧ t.pile = s.pile) ∧
      ((∀ n ∈ v.tlbs, n = tlb) → t.inval = r ∧ t.pile.alloc = s.pile.alloc.filter fun x => !v.free.contains x) ∧
      t.parts = s.parts ∧ t.cmds = s.cmds := by
  have hexec : exec (.tlbInvalidate { tlb := tlb }) s = .next (invalidate s tlb) := rfl
  rw [invalidate_front hi hm, acked_isEmpty, hr] at hexec
  obtain ⟨hparts, hpile, hcmds, _, hinval, _⟩ := forget_frame s tlb v
  by_cases hall : ∀ n ∈ v.tlbs, n = tlb
  · obtain ⟨mb, mx, hdone⟩ := invalDone_frees (w := acked v tlb) hmove
      { forget s tlb v with inval := (forget s tlb v).inval.erase v }
    rw [decide_eq_true hall, hdone] at hexec
    refine ⟨_, hexec, fun e he => dropTlb_outside (getTlb_forget s tlb v ▸ (show e ∈ getTlb (forget s tlb v) tlb from he)),
      fun ⟨n, hn, hne⟩ => absurd (hall n hn) hne, fun _ => ⟨?_, ?_⟩, hparts, hcmds⟩
    · show (forget s tlb v).inval.erase v = r
      rw [hinval, hi, List.erase_cons_head]
    · show (forget s tlb v).pile.alloc.filter (fun x => !v.free.contains x) = _
      rw [hpile]
  · rw [decide_eq_false hall] at hexec
    refine ⟨_, hexec, fun e he => dropTlb_outside (getTlb_forget s tlb v ▸ (show e ∈ getTlb (forget s tlb v) tlb from he)),
      fun _ => ⟨?_, hpile⟩, fun h => absurd h hall, hparts, hcmds⟩
    show (forget s tlb v).inval.map _ = _
    rw [hinval, hi, map_front hv]
    rfl

/-- The last acknowledgement waits for the firmware. -/
theorem tlbInvalidate_notReady (hi : s.inval = v :: r) (hm : tlb ∈ v.tlbs) (hall : ∀ n ∈ v.tlbs, n = tlb)
    (hr : s.crown.ready = false) : exec (.tlbInvalidate { tlb := tlb }) s = .next s := by
  have hexec : exec (.tlbInvalidate { tlb := tlb }) s = .next (invalidate s tlb) := rfl
  rw [invalidate_front hi hm, acked_isEmpty, decide_eq_true hall, hr] at hexec
  exact hexec

end Invalidations

/-! ## The move of a page -/

section Moves

variable {s s1 : State} {tlb p dva pile size pa : Nat} {e : W64}

/-- The invalidation by which the move of a page begins. -/
def moveInval (p dva size pa : Nat) : Inval :=
  { part := p, dva := dva / size * size, size := size, tlbs := List.range 2617, free := [], moveTo := some pa }

theorem startMove_begins (hi : s.inval = []) (hr : s.crown.ready = true) (hp : partOk p = true) (hd : dva < 2 ^ 48) (hpl : pile < 16)
    (he : (pteAt s p dva).1 = e) (hs : (pteAt s p dva).2.1 = size) (hpte : pteP e = true)
    (hw : inWindow s p (dva / size * size) size = false) (ha : physAlloc s pile size size (.page p) = some (pa, s1)) :
    ∃ u, startMove s p dva pile = { u with inval := [moveInval p dva size pa] } ∧ Alloced s u := by
  have hd' : ¬ 2 ^ 48 ≤ dva := by omega
  have hpl' : ¬ 16 ≤ pile := by omega
  have halloc : Alloced s ((leafKeys (dva / size * size) size).foldl (fun t k => setPte t p k (mkMoving (pteOf t p k))) s1) :=
    (physAlloc_alloced ha).trans (Alloced.foldl (fun t k => setPte_alloced t p k _) _ _)
  refine ⟨_, ?_, halloc⟩
  unfold startMove
  simp only [he, hs, hr, hp, hd', hpl', hpte, hw, ha, Bool.not_true, Bool.or_self, decide_false, Bool.false_eq_true, if_false]
  obtain ⟨pi, pp, fr, hu⟩ := halloc
  generalize (leafKeys (dva / size * size) size).foldl (fun t k => setPte t p k (mkMoving (pteOf t p k))) s1 = u at hu ⊢
  have hinv : u.inval = [] := by rw [hu]; exact hi
  rw [hinv]
  rfl

theorem tlbInvalidate_move (hi : s.inval = []) (ht : tlb < 2617) (hr : s.crown.ready = true) (hp : partOk p = true)
    (hd : dva < 2 ^ 48) (hpl : pile < 16) (he : (pteAt s p dva).1 = e) (hs : (pteAt s p dva).2.1 = size) (hpte : pteP e = true)
    (hw : inWindow s p (dva / size * size) size = false) (ha : physAlloc s pile size size (.page p) = some (pa, s1)) :
    ∃ t, exec (.tlbInvalidate { tlb := tlb, move := some (p, dva, pile) }) s = .next t ∧ t.cmds = s.cmds ∧ t.streams = s.streams ∧
      t.inval = [{ part := p, dva := dva / size * size, size := size, tlbs := (List.range 2617).filter fun n => n != tlb,
                   free := [], moveTo := some pa }] := by
  obtain ⟨u, hmove, pi, pp, fr, hu⟩ := startMove_begins hi hr hp hd hpl he hs hpte hw ha
  have hexec : exec (.tlbInvalidate { tlb := tlb, move := some (p, dva, pile) }) s =
      .next (invalidate (startMove s p dva pile) tlb) := rfl
  have hm : tlb ∈ (moveInval p dva size pa).tlbs := by simp only [moveInval, List.mem_range, ht]
  have hmore : ¬ ∀ n ∈ (moveInval p dva size pa).tlbs, n = tlb := fun h => by
    simp only [moveInval, List.mem_range] at h
    have h0 := h 0 (by omega)
    have h1 := h 1 (by omega)
    omega
  rw [hmove, invalidate_front (r := []) rfl hm, acked_isEmpty, decide_eq_false hmore] at hexec
  obtain ⟨_, _, hcmds, hstreams, hinval, _⟩ := forget_frame { u with inval := [moveInval p dva size pa] } tlb (moveInval p dva size pa)
  refine ⟨_, hexec, hcmds.trans (by rw [hu]), hstreams.trans (by rw [hu]), ?_⟩
  show (forget _ tlb (moveInval p dva size pa)).inval.map _ = _
  rw [hinval, map_front (v := moveInval p dva size pa) List.not_mem_nil]
  simp only [acked, moveInval]

end Moves

/-- Settles O36: a clean line, a due refresh and a good copy change what they name alone; a walk fills one set of one TLB; an
invalidation makes a TLB forget its range, and the last one frees the old pages. -/
theorem pileUpkeepAndTranslation : Obligations.PileUpkeepAndTranslation := by
  unfold Obligations.PileUpkeepAndTranslation
  refine ⟨⟨fun s pile hp hf hen hsr hpos he hc => ?_, fun s pile ch hp hch hf hsr hdue => ?_, fun s pile st hh ho => ?_⟩,
    fun s tlb part a h1 h2 hm => ⟨fun e hw => ?_, fun hw => ?_⟩,
    fun s core part a e hc hm hd hroom => ?_,
    fun s tlb v r hi hv _ hm hmove hr => tlbInvalidate_front hi hv hm hmove hr,
    fun s tlb v r hi hm hall hr => tlbInvalidate_notReady hi hm hall hr,
    fun s tlb p dva pile size pa e s1 hi ht hr hp hd hpl he hs hpte hw ha =>
      tlbInvalidate_move hi ht hr hp hd hpl he hs hpte hw ha⟩
  · have hexec := execPatrolScrub_clean hp hf hen hsr he hc
    rw [scrubNext_within (by exact hpos)] at hexec
    refine ⟨_, hexec, ?_, ?_, ?_, fun n hn => getPile_setPile_ne _ _ _ _ hn, rfl, rfl, rfl⟩
    · rw [getPile_setPile_same]; rfl
    · rw [getPile_setPile_same]; rfl
    · rw [getPile_setPile_same]; rfl
  · refine ⟨_, execPileRefresh_due hp hch hf hsr hdue, ?_, fun n hn => ?_, rfl, rfl⟩
    · rw [getPile_setPile_same, tget_tput_same]
    · rw [getPile_setPile_same, tget_tput_ne _ _ _ _ _ hn]
  · exact ⟨execDirectoryEccError_bad hh ho, rfl⟩
  · have hexec := execTlbWalk_die h1 h2 hm
    rw [hw] at hexec
    exact ⟨_, hexec, fillTlb_die h1 e⟩
  · have hexec := execTlbWalk_die h1 h2 hm
    rw [hw] at hexec
    exact hexec
  · obtain ⟨_, hpile, _⟩ := setTlb_frame s core (getTlb s core ++ [e])
    exact ⟨_, execTlbWalk_core hc hm hd hroom, getTlb_setTlb_same s core _, fun n hn => getTlb_setTlb_ne s hn _, hpile⟩

end Sys2Proof.Machine
end

section
/-! Residency: state that is swapped out, swapped in and moved (11, 12). -/

namespace Sys2Proof.Machine

open Sys2Proof

/-! ## The end of a swap or a move -/

theorem breakWait_eq (s : State) (st : Nat) : ∃ cs, breakWait s st = { s with cmds := cs } ∧ cs.map Cmd.stage = s.cmds.map Cmd.stage := by
  refine ⟨_, rfl, ?_⟩
  rw [List.map_map]
  refine List.map_congr_left fun c _ => ?_
  show Cmd.stage (if _ then _ else _) = _
  split <;> rfl

theorem freeObjs_eq (s : State) (part st : Nat) : ∃ al, freeObjs s part st = { s with pile := { s.pile with alloc := al } } := by
  unfold freeObjs
  dsimp only
  split
  · exact ⟨_, rfl⟩
  · exact ⟨s.pile.alloc, rfl⟩

/-! ## Swap-outs -/

section SwapOut

variable {s : State} {st a p : Nat}

theorem execSwapOut_ready {refused : Bool} (hr : s.crown.ready = true) (hh : homed s st = true) (hq : streamQuiet s st = true)
    (hw : swapWanted s st = true) (hgood : (getStream s st).objs.findSome? (objBad s) = none)
    (hp : swapPlace s (getStream s st).part (swapBytes (getStream s st).objs) = some (a, p)) :
    exec (.swapOut st refused) s = .next (if refused then endMove s st
      else swappedOut (nextFree (dmaWrite ((getStream s st).objs.foldl noteObj s) (some p) a (swapImage s (getStream s st).objs))) st a) := by
  show execSwapOut st refused s = _
  unfold execSwapOut
  simp only [hr, hh, hq, hw, hgood, hp, Bool.not_true, Bool.or_self, Bool.false_eq_true, if_false]
  split <;> rfl

@[simp] theorem freeBytes_length (tag n : Nat) : (freeBytes tag n).length = n := by simp [freeBytes]

/-- The image begins with the SipHash of the entries, which it ends with. -/
theorem swapImage_hash (s : State) (objs : List Obj) :
    fieldLE (swapImage s objs) 0 8 = (siphash (Config.bootKey s.sec.boots) (objs.flatMap (objBytes s))).toNat := by
  rw [swapImage, List.append_assoc]
  exact fieldLE_leN_append 8 _ _ (by have := (siphash (Config.bootKey s.sec.boots) (objs.flatMap (objBytes s))).isLt; omega)

theorem swapImage_body (s : State) (objs : List Obj) : (swapImage s objs).drop 64 = objs.flatMap (objBytes s) :=
  List.drop_left' (by simp)

/-- What a swapped stream and the others are; pile memory is as it was. -/
theorem swappedOut_stream (s : State) (st a : Nat) : getStream (swappedOut s st a) st = { getStream s st with
      home := 0x1E, swapAt := a, move := none,
      objs := (getStream s st).objs.map fun o => { o with base := 0, cur := [], wr := [] } } ∧
    (∀ n, n ≠ st → getStream (swappedOut s st a) n = getStream s n) ∧ (swappedOut s st a).pile.mem = s.pile.mem ∧
    (swappedOut s st a).io = s.io := by
  obtain ⟨al, hfree⟩ := freeObjs_eq s (getStream s st).part st
  obtain ⟨cs, hbreak, _⟩ := breakWait_eq (freeObjs s (getStream s st).part st) st
  have h : swappedOut s st a = setStream { s with pile := { s.pile with alloc := al }, cmds := cs } st { getStream s st with
      home := 0x1E, swapAt := a, move := none,
      objs := (getStream s st).objs.map fun o => { o with base := 0, cur := [], wr := [] } } := by
    unfold swappedOut
    dsimp only
    rw [hbreak, hfree]
  rw [h]
  exact ⟨getStream_setStream_same _ _ _, fun n hn => getStream_setStream_ne _ _ _ _ hn, rfl, rfl⟩

end SwapOut

/-! ## Swap-ins -/

section SwapIn

variable {s : State} {st p : Nat}

/-- What a read of an image that does not answer with a good one leads to. -/
theorem execSwapIn_bad (hr : s.crown.ready = true) (hh : (getStream s st).home = 0x1E)
    (hc : chooseHome s (getStream s st).part st (getStream s st).defaultSet (getStream s st).objs = some p) {img : HostAns}
    (hbad : (∃ v, img = .refused v) ∨ ∃ b, img = .data b ∧ swapGood s (getStream s st).objs b = false) :
    exec (.swapIn st img) s = .next (swapFail (swapRead s (getStream s st)) st) := by
  have hgood : ∀ b, swapGood (swapRead s (getStream s st)) (getStream s st).objs b = swapGood s (getStream s st).objs b := by
    intro b
    unfold swapRead
    split <;> rfl
  show execSwapIn st img s = _
  unfold execSwapIn
  obtain ⟨v, rfl⟩ | ⟨b, rfl, hb⟩ := hbad
  · simp only [hr, hh, hc, Bool.not_true, bne_self_eq_false, Bool.or_self, Bool.false_eq_true, if_false]
  · simp only [hr, hh, hc, hgood, hb, Bool.not_true, Bool.not_false, bne_self_eq_false, Bool.or_self, Bool.false_eq_true, if_false,
      if_true]

theorem execSwapIn_good (hr : s.crown.ready = true) (hh : (getStream s st).home = 0x1E)
    (hc : chooseHome s (getStream s st).part st (getStream s st).defaultSet (getStream s st).objs = some p) {b : Bytes} {o : List Obj}
    {s1 : State} (hb : swapGood s (getStream s st).objs b = true)
    (hp : placeObjs (swapRead s (getStream s st)) p (getStream s st).part st (getStream s st).objs = some (o, s1)) :
    exec (.swapIn st (.data b)) s = .next (setStream (putEntries s1 o (b.drop 64)) st
      { getStream s st with objs := o, home := p, swapAt := 0 }) := by
  have hgood : swapGood (swapRead s (getStream s st)) (getStream s st).objs b = true := by
    rw [← hb]
    unfold swapRead
    split <;> rfl
  show execSwapIn st (.data b) s = _
  unfold execSwapIn
  simp only [hr, hh, hc, hgood, hp, Bool.not_true, bne_self_eq_false, Bool.or_self, Bool.false_eq_true, if_false]

/-- The read of an image is the only thing it does. -/
theorem swapRead_eq (s : State) (x : Stream) : ∃ rs, swapRead s x = { s with io := { s.io with reads := rs } } := by
  unfold swapRead
  split
  · exact ⟨_, rfl⟩
  · exact ⟨s.io.reads, rfl⟩

theorem placeObjs_alloced {pile part st : Nat} : ∀ {l : List Obj} {s t : State} {o : List Obj},
    placeObjs s pile part st l = some (o, t) → Alloced s t
  | [], s, t, o, h => by
    obtain ⟨_, rfl⟩ := Prod.mk.inj (Option.some.inj h)
    exact .refl s
  | x :: l, s, t, o, h => by
    unfold placeObjs at h
    split at h
    · cases h
    next b s1 h1 =>
      split at h
      · cases h
      next r s2 h2 =>
        obtain ⟨_, rfl⟩ := Prod.mk.inj (Option.some.inj h)
        exact (physAlloc_alloced h1).trans (placeObjs_alloced h2)

theorem putEntries_alloced : ∀ (l : List Obj) (s : State) (b : Bytes), Alloced s (putEntries s l b)
  | [], s, _ => .refl s
  | _ :: l, _, _ => (Alloced.foldl (fun u _ => pmWrite_alloced u _ _) _ _).trans (putEntries_alloced l _ _)

/-- A stream damaged, and no command that waits for it. -/
theorem swapFail_none (h : waitingFor s st = none) : swapFail s st = setStream s st { getStream s st with damaged := true } := by
  have h' : waitingFor (setStream s st { getStream s st with damaged := true }) st = none := h
  rw [swapFail]
  dsimp only
  rw [h'] <;> rfl

/-- The one command, which waits for the stream, completes. -/
theorem swapFail_waiting {c : Cmd} (hcmds : s.cmds = [c]) (hst : c.stage = .queued) (hn : namesStream c st = true)
    (hw : waitsState c = true) (hf : (getRing s c.client c.ring).fault = false) (hl : c.lost = false) :
    ∃ w, (swapFail s st).cmds = [] ∧ (swapFail s st).io.dma = s.io.dma ++ [w] ∧ fieldLE w.data 0 8 = c.desc.cookie.toNat ∧
      fieldLE w.data 8 2 = 0x0015 ∧ (getStream (swapFail s st) st).damaged = true := by
  generalize hu : setStream s st { getStream s st with damaged := true } = u
  have hucmds : u.cmds = [c] := by rw [← hu]; exact hcmds
  have hfind : waitingFor u st = some c := by
    rw [waitingFor, hucmds, List.find?_cons_of_pos (by simp [hst, hn])]
  have hfail : swapFail s st = complete u c stStateDamaged 0 := by
    rw [swapFail, hu, hfind]
    exact if_pos hw
  have hring : (getRing u c.client c.ring).fault = false := by rw [← hu]; exact hf
  have hcomp : complete u c stStateDamaged 0 = retire u c stStateDamaged 0 false false := by
    rw [complete, if_neg (by decide)]
  obtain ⟨hnil, hdma, _⟩ := retire_last_writes (s := u) (by simp [hucmds]) (Or.inl (by decide)) hring hl 0 false false _ hcomp
  have hstreams := (complete_ended (show stStateDamaged ≠ stMemUncorrectable by decide) u c 0).streams
  have hudma : u.io.dma = s.io.dma := by rw [← hu]; rfl
  rw [hfail]
  refine ⟨entryDma u c (entryOf u (getRing u c.client c.ring) c stStateDamaged 0 false), hnil, hdma.trans (by rw [hudma]),
    entryOf_cookie u _ c stStateDamaged 0 false, entryOf_status u _ c (by decide) 0 false, ?_⟩
  have hst' : getStream (complete u c stStateDamaged 0) st = getStream u st :=
    congrArg (fun (l : Tab Stream) => tget ({} : Stream) l st) hstreams
  rw [hst', ← hu, getStream_setStream_same]

end SwapIn

/-! ## Moves -/

section Moves

variable {s : State} {st pile : Nat}

/-- The stream that has moved, with what it was before. -/
def movedTo (x : Stream) (pile : Nat) (o : List Obj) : Stream :=
  { x with
    objs := o.map (fun y => { y with cur := [], wr := [] }), home := pile, move := some (some pile), was := some (x.home, x.objs) }

theorem execStateMove_wanted {o : List Obj} {s1 : State} (hr : s.crown.ready = true) (hh : homed s st = true)
    (hf : pileFenced s pile = false) (hpl : pile < 16) (hne : (getStream s st).home ≠ pile) (hq : streamQuiet s st = true)
    (hsent : moveSent s st = false) (hw : moveWanted s st pile = true) (hgood : (getStream s st).objs.findSome? (objBad s) = none)
    (hfit : objsFit s pile (getStream s st).part st (getStream s st).objs = true)
    (hp : placeObjs s pile (getStream s st).part st (getStream s st).objs = some (o, s1)) :
    ∃ u, exec (.stateMove st pile) s = .next (sendNet (setStream u st (movedTo (getStream s st) pile o))
        (.home (List.range 2560) st (getStream s st).home)) ∧ u.streams = s.streams ∧ u.net = s.net ∧ u.crown = s.crown := by
  have hpl' : ¬ 16 ≤ pile := by omega
  have hne' : ((getStream s st).home == pile) = false := by simpa using hne
  obtain ⟨ps, hnote⟩ := noteObjs_eq (getStream s st).objs s1
  have halloc := putEntries_alloced (o.map fun y => { y with cur := [], wr := [] }) ((getStream s st).objs.foldl noteObj s1)
    ((getStream s st).objs.flatMap (objBytes s))
  refine ⟨putEntries ((getStream s st).objs.foldl noteObj s1) (o.map fun y => { y with cur := [], wr := [] })
    ((getStream s st).objs.flatMap (objBytes s)), ?_, ?_⟩
  · show execStateMove st pile s = _
    unfold execStateMove
    simp only [hr, hh, hf, hpl', hne', hq, hsent, hw, hgood, hfit, hp, Bool.not_true, Bool.or_self, decide_false, Bool.false_eq_true,
      if_false]
    rfl
  · obtain ⟨pi, pa, fr, hput⟩ := halloc
    obtain ⟨pi', pa', fr', hs1⟩ := placeObjs_alloced hp
    rw [hput, hnote, hs1]
    exact ⟨rfl, rfl, rfl⟩

/-- With nothing waiting at the Crown a broadcast enters the mesh while the Crown may inject, and waits otherwise. -/
theorem sendNet_home {u : State} (hwait : u.crown.mc0Wait = []) (left : List Nat) (st old : Nat) :
    (0 < mc0Left u 0 → (sendNet u (.home left st old)).net = u.net ++ [.home left st old] ∧
      (sendNet u (.home left st old)).crown.mc0Wait = []) ∧
    (mc0Left u 0 = 0 → (sendNet u (.home left st old)).net = u.net ∧
      (sendNet u (.home left st old)).crown.mc0Wait = [.home left st old]) := by
  have hsend : sendNet u (.home left st old) = injectMc0 [.home left st old] { u with crown := { u.crown with mc0Wait := [] } } := by
    rw [sendNet, hwait]
    rfl
  have hleft : mc0Left { u with crown := { u.crown with mc0Wait := [] } } (crownPort (.home left st old)) = mc0Left u 0 := rfl
  rw [hsend, injectMc0]
  dsimp only
  rw [hleft]
  refine ⟨fun h => ?_, fun h => ?_⟩
  · rw [if_pos h]
    exact ⟨rfl, rfl⟩
  · rw [if_neg (by omega)]
    exact ⟨rfl, rfl⟩

theorem stateMove_moves {o : List Obj} {s1 : State} (hr : s.crown.ready = true) (hh : homed s st = true)
    (hf : pileFenced s pile = false) (hpl : pile < 16) (hne : (getStream s st).home ≠ pile) (hq : streamQuiet s st = true)
    (hsent : moveSent s st = false) (hw : moveWanted s st pile = true) (hgood : (getStream s st).objs.findSome? (objBad s) = none)
    (hfit : objsFit s pile (getStream s st).part st (getStream s st).objs = true) (hwait : s.crown.mc0Wait = [])
    (hp : placeObjs s pile (getStream s st).part st (getStream s st).objs = some (o, s1)) :
    ∃ t, exec (.stateMove st pile) s = .next t ∧ (getStream t st).home = pile ∧
      (getStream t st).objs = o.map (fun y => { y with cur := [], wr := [] }) ∧
      (getStream t st).was = some ((getStream s st).home, (getStream s st).objs) ∧
      (0 < mc0Left s 0 → t.net = s.net ++ [.home (List.range 2560) st (getStream s st).home] ∧ t.crown.mc0Wait = []) ∧
      (mc0Left s 0 = 0 → t.net = s.net ∧ t.crown.mc0Wait = [.home (List.range 2560) st (getStream s st).home]) ∧
      (∀ n, n ≠ st → getStream t n = getStream s n) := by
  obtain ⟨u, hexec, hstreams, hnet, hcrown⟩ := execStateMove_wanted hr hh hf hpl hne hq hsent hw hgood hfit hp
  have hgu : ∀ n, getStream u n = getStream s n := fun n => congrArg (fun (l : Tab Stream) => tget ({} : Stream) l n) hstreams
  generalize hv : setStream u st (movedTo (getStream s st) pile o) = v at hexec
  have hsame : ∀ n, getStream (sendNet v (.home (List.range 2560) st (getStream s st).home)) n = getStream v n := fun n =>
    congrArg (fun (l : Tab Stream) => tget ({} : Stream) l n) (sendNet_same v _).2.2.2.1
  have hst : getStream v st = movedTo (getStream s st) pile o := by rw [← hv, getStream_setStream_same]
  have hvcrown : v.crown = s.crown := by rw [← hv]; exact hcrown
  have hvnet : v.net = s.net := by rw [← hv]; exact hnet
  have hleft : mc0Left v 0 = mc0Left s 0 := congrArg (fun c : Crown => tget 4 c.mc0 0) hvcrown
  obtain ⟨hnow, hlater⟩ := sendNet_home (u := v) (by rw [hvcrown]; exact hwait) (List.range 2560) st (getStream s st).home
  rw [hleft, hvnet] at hnow hlater
  refine ⟨_, hexec, ?_, ?_, ?_, hnow, hlater, fun n hn => ?_⟩
  · rw [hsame, hst]; rfl
  · rw [hsame, hst]; rfl
  · rw [hsame, hst]; rfl
  · rw [hsame, ← hv, getStream_setStream_ne _ _ _ _ hn, hgu]

/-- The broadcast of a move is delivered to one core more. -/
theorem execHomeTableUpdate_more {core old other : Nat} {r : List Packet} (hon : meshOn s = true)
    (hnet : s.net = .home [core, other] st old :: r) (hne : core ≠ other)
    (hr : r.all (fun p => match p with | .home _ _ _ => false | _ => true) = true) :
    exec (.homeTableUpdate core) s = .next { s with net := .home [other] st old :: r } := by
  have hrest : [core, other].filter (fun c => c != core) = [other] := by simp [hne.symm]
  have hmap : s.net.map (fun p => match p with
      | .home l x o => if l.contains core && x == st && o == old then .home [other] st old else p
      | _ => p) = .home [other] st old :: r := by
    rw [hnet, List.map_cons]
    refine congrArg₂ List.cons (by simp) ?_
    refine (List.map_congr_left fun p hp => ?_).trans (List.map_id' r)
    have := List.all_eq_true.mp hr p hp
    cases p <;> first | rfl | simp at this
  show execHomeTableUpdate core s = _
  rw [execHomeTableUpdate, takeNet_front hnet hon (by simp [pktClass, pktSrc, pktFor])]
  dsimp only
  rw [hrest]
  exact congrArg (fun n => Host.Outcome.next { s with net := n }) hmap

theorem execHomeTableUpdate_last {core old : Nat} {r : List Packet} (hon : meshOn s = true)
    (hnet : s.net = .home [core] st old :: r) :
    exec (.homeTableUpdate core) s = .next (moveDone { s with net := r } st old) := by
  have hrest : [core].filter (fun c => c != core) = [] := by simp
  show execHomeTableUpdate core s = _
  rw [execHomeTableUpdate, takeNet_front hnet hon (by simp [pktClass, pktSrc, pktFor])]
  dsimp only
  rw [hrest]
  rfl

/-- A region of the stream in its old home that no one uses. -/
def oldRegion (s : State) (st old : Nat) (e : Extent) : Bool :=
  (match e.owner with | .state _ x => x == st | _ => false) && e.base / 2 ^ 36 == old && !(basesInUse s st).contains e.base

theorem oldRegion_unused {st old q : Nat} {e : Extent} (hq : e.owner = .state q st) (hb : e.base / 2 ^ 36 = old)
    (hu : e.base ∉ basesInUse s st) : oldRegion s st old e = true := by
  have hu' : (basesInUse s st).contains e.base = false := by
    rw [← Bool.not_eq_true, List.contains_iff_mem]
    exact hu
  unfold oldRegion
  rw [hq, hb, hu']
  simp

/-- The end of a move frees the regions of the old home that no one uses. -/
theorem moveDone_frees (s : State) (st old : Nat) : ∃ cs, moveDone s st old =
    { setStream (freeExtents s (oldRegion s st old)) st { getStream s st with move := none, was := none } with cmds := cs } := by
  obtain ⟨cs, h, _⟩ := breakWait_eq (setStream (freeExtents s (oldRegion s st old)) st
    { getStream s st with move := none, was := none }) st
  exact ⟨cs, h⟩

end Moves

/-- Settles O37 (the layout of a swap image is the model's choice, log entry 18, and the damage of a stream whose image or slots
cannot be read log entry 93): a swap-out, a swap-in and a move each write one stream; what is read and written lies in the DMA and in
pile memory. -/
theorem swapsAndMoves : Obligations.SwapsAndMoves := by
  unfold Obligations.SwapsAndMoves
  refine ⟨fun s st a p refused hr hh hq hw hgood hp => ⟨fun href => ?_, fun href => ?_⟩,
    fun s st p hr hh hc u hu => ⟨fun img hbad => ⟨fun hnone => ?_, fun c hcmds hst hn hw hf hl => ?_⟩, fun b o s1 hb hplace => ?_⟩,
    fun s st pile o s1 hr hh hf hpl hne hq hsent hw hgood hfit hwait hp =>
      stateMove_moves hr hh hf hpl hne hq hsent hw hgood hfit hwait hp,
    fun s core st old other r hon hnet hne hr => execHomeTableUpdate_more hon hnet hne hr,
    fun s core st old r hon hnet => ?_⟩
  · subst href
    obtain ⟨cs, hbreak, hstage⟩ := breakWait_eq (setStream s st { getStream s st with move := none }) st
    have hexec := execSwapOut_ready (refused := true) hr hh hq hw hgood hp
    rw [if_pos rfl, endMove, hbreak] at hexec
    exact ⟨_, hexec, rfl, rfl, rfl, hstage⟩
  · subst href
    have hexec := execSwapOut_ready (refused := false) hr hh hq hw hgood hp
    rw [if_neg (by decide)] at hexec
    obtain ⟨ps, hnote⟩ := noteObjs_eq (getStream s st).objs s
    rw [hnote] at hexec
    obtain ⟨hst, hother, hmem, hio⟩ := swappedOut_stream
      (nextFree (dmaWrite { s with piles := ps } (some p) a (swapImage s (getStream s st).objs))) st a
    refine ⟨_, { pasid := some p, addr := a, data := swapImage s (getStream s st).objs }, hexec, congrArg Io.dma hio, rfl, rfl,
      swapImage_hash s _, swapImage_body s _, congrArg Stream.home hst, congrArg Stream.swapAt hst, congrArg Stream.move hst,
      (congrArg Stream.position hst).trans rfl, hother, hmem⟩
  · subst hu
    obtain ⟨rs, hread⟩ := swapRead_eq s (getStream s st)
    have hexec := execSwapIn_bad hr hh hc hbad
    rw [hread] at hexec ⊢
    rw [swapFail_none (by exact hnone)] at hexec
    exact hexec
  · obtain ⟨rs, hread⟩ := swapRead_eq s (getStream s st)
    have hexec := execSwapIn_bad hr hh hc hbad
    rw [hread] at hexec
    obtain ⟨w, hnil, hdma, hcookie, hstatus, hdam⟩ :=
      swapFail_waiting (s := { s with io := { s.io with reads := rs } }) (st := st) hcmds hst hn hw hf hl
    exact ⟨_, w, hexec, hnil, hdma, hcookie, hstatus, hdam⟩
  · subst hu
    obtain ⟨rs, hread⟩ := swapRead_eq s (getStream s st)
    have hexec := execSwapIn_good hr hh hc hb hplace
    obtain ⟨pi, pa, fr, hput⟩ := (placeObjs_alloced hplace).trans (putEntries_alloced o s1 (b.drop 64))
    rw [hread] at hput ⊢
    rw [hput] at hexec
    exact ⟨_, hexec, getStream_setStream_same _ _ _, fun n hn => getStream_setStream_ne _ _ _ _ hn, rfl, rfl⟩
  · have hexec := execHomeTableUpdate_last hon hnet
    obtain ⟨cs, hdone⟩ := moveDone_frees { s with net := r } st old
    rw [hdone] at hexec
    have hstream := getStream_setStream_same (freeExtents { s with net := r } (oldRegion { s with net := r } st old)) st
      { getStream s st with move := none, was := none }
    refine ⟨_, hexec, rfl, congrArg Stream.move hstream, (congrArg Stream.home hstream).trans rfl, rfl, fun e he => ?_⟩
    obtain ⟨hin, hkept⟩ := List.mem_filter.mp he
    refine ⟨hin, fun ⟨⟨q, hq⟩, hbase, huse⟩ => ?_⟩
    rw [oldRegion_unused (s := { s with net := r }) hq hbase huse] at hkept
    cases hkept

end Sys2Proof.Machine
end

section
/-! The CXL.mem window, and the registers of partitions and clients (11, 12). -/

namespace Sys2Proof.Machine

open Sys2Proof Sys2Proof.Ob

/-! ## Window accesses -/

section Window

variable {s : State} {off pa sz : Nat} {w : Bool}

theorem execCxlmemRead_at (ha : awake s) (h64 : off % 64 = 0) : exec (.cxlmemRead off) s = .next (winRead64 s off) := by
  show Host.Outcome.next (hostAccess s fun s => winRead64 s (off / 64 * 64)) = _
  rw [hostAccess_awake ha.1 ha.2, show off / 64 * 64 = off by omega]

theorem execCxlmemWrite_at (ha : awake s) (h64 : off % 64 = 0) (b : Bytes) :
    exec (.cxlmemWrite off b) s = .next (winWrite64 s off b) := by
  show Host.Outcome.next (hostAccess s fun s => winWrite64 s (off / 64 * 64) b) = _
  rw [hostAccess_awake ha.1 ha.2, show off / 64 * 64 = off by omega]

/-- A served read of a page. -/
theorem winRead64_page (hl : winLive s.memwin = true) (hoff : off < winSize s.memwin) (ht : winTrans s off = .page pa sz w) :
    winRead64 s off = if lineBad s pa then setLine (winFail (ueReport s pa 0) 3 off) ones64
      else setLine (noteRead s pa 64) (pmRead s pa 64) := by
  have hoff' : ¬ winSize s.memwin ≤ off := by omega
  simp only [winRead64, hl, hoff', ht, Bool.not_true, Bool.false_eq_true, if_false]

/-- A served write of a page. -/
theorem winWrite64_page (hl : winLive s.memwin = true) (hoff : off < winSize s.memwin) (ht : winTrans s off = .page pa sz w) (b : Bytes) :
    winWrite64 s off b = if !w then winFail s 2 off else if lineBad s pa then winFail (ueReport s pa 0) 3 off
      else pmWrite s pa (slice b 0 64) := by
  have hoff' : ¬ winSize s.memwin ≤ off := by omega
  simp only [winWrite64, hl, hoff', ht, Bool.not_true, Bool.false_eq_true, if_false]

/-- A failed access sets its bit, keeps the first offset, and changes no memory. -/
theorem winFail_sets (s : State) {bit : Nat} (hb : bit < 4) (off : Nat) : (winFail s bit off).memwin.status.getLsbD bit = true ∧
    (s.memwin.status = 0 → (winFail s bit off).memwin.fault = off) ∧ (winFail s bit off).pile = s.pile := by
  have hset : (s.memwin.status ||| BitVec.ofNat 4 (2 ^ bit)).getLsbD bit = true := by
    have hbit : ∀ b, b < 4 → (BitVec.ofNat 4 (2 ^ b)).getLsbD b = true := by decide
    rw [BitVec.getLsbD_or, hbit bit hb, Bool.or_true]
  have key : ∀ t, t = (winFail s bit off) → t.memwin.status = s.memwin.status ||| BitVec.ofNat 4 (2 ^ bit) ∧
      t.memwin.fault = (if s.memwin.status = 0 then off else s.memwin.fault) ∧ t.pile = s.pile := by
    rintro t rfl
    unfold winFail
    dsimp only
    split
    · exact ⟨rfl, rfl, rfl⟩
    · obtain ⟨ty, m, h⟩ := event_tallyOnly { s with memwin := { s.memwin with
        status := s.memwin.status ||| BitVec.ofNat 4 (2 ^ bit), fault := if s.memwin.status = 0 then off else s.memwin.fault } }
        crownLoc 0x14 (subjKind 5 0) (s.memwin.status ||| BitVec.ofNat 4 (2 ^ bit)).toNat off
      rw [h]
      exact ⟨rfl, rfl, rfl⟩
  obtain ⟨hst, hfault, hpile⟩ := key _ rfl
  exact ⟨by rw [hst]; exact hset, fun h0 => by rw [hfault, if_pos h0], hpile⟩

theorem winFail_ue (s : State) (pa off : Nat) : (winFail (ueReport s pa 0) 3 off).memwin.status.getLsbD 3 = true ∧
    (winFail (ueReport s pa 0) 3 off).pile = s.pile := by
  obtain ⟨hst, _, hpile⟩ := winFail_sets (ueReport s pa 0) (show 3 < 4 by decide) off
  obtain ⟨ps, ty, m, hue⟩ := ueReport_eq s pa 0
  exact ⟨hst, hpile.trans (by rw [hue])⟩

theorem ones64_eq : ones64 = List.replicate 64 0xFF := rfl

/-- A line without errors reads as memory holds it. -/
theorem pmRead_noErrs (he : lineErrs s pa = []) (hpa : pa % 64 = 0) : pmRead s pa 64 = memGet s.pile.mem pa 64 := by
  refine List.map_congr_left fun i hi => ?_
  have hi' := List.mem_range.mp hi
  have hflips : lineFlips s pa = [] := by rw [lineFlips, he]
  rw [show (pa + i) / 64 * 64 = pa by omega, hflips]
  simp [flipByte]

/-- The read of a line without errors corrects none. -/
theorem noteRead_noErrs (he : lineErrs s pa = []) (hpa : pa % 64 = 0) : noteRead s pa 64 = s := by
  have hlines : linesOf pa 64 = [pa] := by
    have h0 : pa % 64 + 64 + 63 = 127 := by omega
    have h1 : pa / 64 * 64 = pa := by omega
    simp only [linesOf, h0, h1]
    rfl
  rw [noteRead, hlines]
  simp [he, bumpCe]

end Window

/-! ## Registers -/

theorem bits_top (v : W32) (lo : Nat) (h : lo < 32) : bits v.toNat 31 lo = v.toNat / 2 ^ lo := by
  have hsplit : 2 ^ 32 = 2 ^ lo * 2 ^ (31 + 1 - lo) := by rw [← Nat.pow_add]; congr 1; omega
  have hlt : v.toNat / 2 ^ lo < 2 ^ (31 + 1 - lo) := Nat.div_lt_of_lt_mul (hsplit ▸ v.isLt)
  exact Nat.mod_eq_of_lt hlt

section Registers

variable {s : State} {n : Nat} {v : W32}

theorem execPartDiesWrite_at (ha : awake s) (hn : n < 16) (hi : Bool) : exec (.partDiesWrite n hi v) s = .next (partDies s n hi v) := by
  show Host.Outcome.next (hostAccess s fun s => if partOk n then partDies s n hi v else s) = _
  rw [hostAccess_awake ha.1 ha.2, if_pos (by simpa [partOk] using hn)]

theorem execPartCtrlWrite_at (ha : awake s) (hn : n < 16) : exec (.partCtrlWrite n v) s = .next (partCtrl s n v) := by
  show Host.Outcome.next (hostAccess s fun s => if partOk n then partCtrl s n v else s) = _
  rw [hostAccess_awake ha.1 ha.2, if_pos (by simpa [partOk] using hn)]

/-- The dies that a write gives a partition. -/
def diesPut (s : State) (n : Nat) (hi : Bool) (v : W32) : State :=
  setPart s n (if hi then { getPart s n with diesHi := v.setWidth 8 } else { getPart s n with diesLo := v })

/-- A die that a write may not take in or let go of. -/
def dieRefused (s t : State) (n d : Nat) : Bool :=
  (partHasDie t n d && !partHasDie s n d && !dieJoins s n d) || (!partHasDie t n d && partHasDie s n d && dieHolds s d)

theorem partDies_eq (s : State) (n : Nat) (hi : Bool) (v : W32) : partDies s n hi v =
    if (List.range 40).any (dieRefused s (diesPut s n hi v) n) then partReject s n else diesPut s n hi v := rfl

theorem partDies_stored {hi : Bool}
    (hin : ∀ d, d < 40 → partHasDie (diesPut s n hi v) n d = true → partHasDie s n d = false →
      dieFenced s d = false ∧ ∀ p, p < 16 → p ≠ n → partHasDie s p d = false)
    (hout : ∀ d, d < 40 → partHasDie (diesPut s n hi v) n d = false → partHasDie s n d = true → dieHolds s d = false) :
    partDies s n hi v = diesPut s n hi v := by
  have hnone : (List.range 40).any (dieRefused s (diesPut s n hi v) n) = false := by
    rw [List.any_eq_false]
    intro d hd
    have hd' := List.mem_range.mp hd
    cases ht : partHasDie (diesPut s n hi v) n d <;> cases hs : partHasDie s n d
    · simp [dieRefused, ht, hs]
    · simp [dieRefused, ht, hs, hout d hd' ht hs]
    · obtain ⟨hf, hothers⟩ := hin d hd' ht hs
      have hjoin : dieJoins s n d = true := by
        simp only [dieJoins, hf, Bool.not_false, Bool.true_and, List.all_eq_true, List.mem_range, Bool.or_eq_true, beq_iff_eq,
          Bool.not_eq_true']
        exact fun p hp => or_iff_not_imp_left.mpr fun hpn => hothers p hp hpn
      simp [dieRefused, ht, hs, hjoin]
    · simp [dieRefused, ht, hs]
  rw [partDies_eq, hnone] <;> rfl

theorem partDies_fenced {hi : Bool} {d : Nat} (hd : d < 40) (ht : partHasDie (diesPut s n hi v) n d = true)
    (hs : partHasDie s n d = false) (hf : dieFenced s d = true) : partDies s n hi v = partReject s n := by
  have hany : (List.range 40).any (dieRefused s (diesPut s n hi v) n) = true :=
    List.any_eq_true.mpr ⟨d, List.mem_range.mpr hd, by simp [dieRefused, ht, hs, dieJoins, hf]⟩
  rw [partDies_eq, hany] <;> rfl

end Registers

/-- Settles O38 (when a write of the window's control sets EN is the model's choice, log entry 100): a window access is the translation
and then the read, the write or the failure; a register write is the function of the register. -/
theorem windowAndPartitionRegisters : Obligations.WindowAndPartitionRegisters := by
  unfold Obligations.WindowAndPartitionRegisters
  refine ⟨⟨fun s off pa sz w ha hl h64 hoff ht => ⟨fun he hb hpa => ?_, fun b hlen hw hpa hb => ?_, fun b hw => ?_, fun b hb hw => ?_⟩,
      fun s off b ha hl h64 hoff => ?_, fun s off b ha hl => ⟨?_, ?_⟩,
      fun s v ha => ⟨fun hen => ?_, fun hen => ⟨?_, ?_⟩, fun hen => ⟨fun hi => ?_, fun hv => ?_⟩⟩⟩,
    fun s n hi v t ha hn htt => ⟨fun hin hout => ?_, fun d hd ht hs hf => ?_⟩,
    fun s n v ha hn hen => ⟨fun hdies => ?_, fun hlo hhi hv => ?_⟩, fun s n v ha hn => ?_, fun s c v ha hc => ?_⟩
  · have hexec := execCxlmemRead_at ha h64
    rw [winRead64_page hl hoff ht, hb, if_neg (by decide), noteRead_noErrs he hpa] at hexec
    exact ⟨_, hexec, pmRead_noErrs he hpa, rfl, rfl, rfl⟩
  · have hexec := execCxlmemWrite_at ha h64 b
    rw [winWrite64_page hl hoff ht, hw, hb, if_neg (by decide), if_neg (by decide), slice_all hlen] at hexec
    have hmem := pmWrite_whole_mem s hpa (show b.length % 64 = 0 by omega)
    refine ⟨_, hexec, ?_, fun a hout => ?_, rfl, rfl⟩
    · rw [hmem, ← hlen, memGet_memPut_same]
    · rw [hmem, memPut_outside b _ pa a (by omega)]
  · have hexec := execCxlmemWrite_at ha h64 b
    rw [winWrite64_page hl hoff ht, hw, if_pos (by decide)] at hexec
    obtain ⟨hst, _, hpile⟩ := winFail_sets s (show 2 < 4 by decide) off
    exact ⟨_, hexec, hst, hpile⟩
  · have hwrite := execCxlmemWrite_at ha h64 b
    rw [winWrite64_page hl hoff ht, hw, hb, if_neg (by decide), if_pos rfl] at hwrite
    have hread := execCxlmemRead_at ha h64
    rw [winRead64_page hl hoff ht, hb, if_pos rfl] at hread
    obtain ⟨hst, hpile⟩ := winFail_ue s pa off
    exact ⟨_, _, hwrite, hst, hpile, hread, ones64_eq, hst⟩
  · have hread : exec (.cxlmemRead off) s = .next (setLine (winFail s 0 off) ones64) := by
      rw [execCxlmemRead_at ha h64]
      simp only [winRead64, hl, hoff, Bool.not_true, Bool.false_eq_true, if_false, if_true]
    have hwrite : exec (.cxlmemWrite off b) s = .next (winFail s 0 off) := by
      rw [execCxlmemWrite_at ha h64]
      simp only [winWrite64, hl, hoff, Bool.not_true, Bool.false_eq_true, if_false, if_true]
    obtain ⟨hst, hfault, hpile⟩ := winFail_sets s (show 0 < 4 by decide) off
    exact ⟨_, _, hread, ones64_eq, hst, hfault, hpile, hwrite, hst, hpile⟩
  · show Host.Outcome.next (hostAccess s fun s => winRead64 s (off / 64 * 64)) = _
    rw [hostAccess_awake ha.1 ha.2, winRead64, hl] <;> rfl
  · show Host.Outcome.next (hostAccess s fun s => winWrite64 s (off / 64 * 64) b) = _
    rw [hostAccess_awake ha.1 ha.2, winWrite64, hl] <;> rfl
  · show Host.Outcome.next (hostAccess s fun s => memwinCtrl s v) = _
    rw [hostAccess_awake ha.1 ha.2, memwinCtrl]
    simp only [hen, Bool.false_eq_true, if_false] <;> rfl
  · show Host.Outcome.next (hostAccess s fun s => memwinBase s true v) = _
    rw [hostAccess_awake ha.1 ha.2, memwinBase]
    simp only [hen, Bool.false_eq_true, if_false, if_true, bits_low]
  · show Host.Outcome.next (hostAccess s fun s => memwinBase s false v) = _
    rw [hostAccess_awake ha.1 ha.2, memwinBase]
    simp only [hen, Bool.false_eq_true, if_false, bits_top v 21 (by decide)]
  · show Host.Outcome.next (hostAccess s fun s => memwinBase s hi v) = _
    rw [hostAccess_awake ha.1 ha.2, memwinBase]
    simp only [hen, if_true]
  · show Host.Outcome.next (hostAccess s fun s => memwinCtrl s v) = _
    rw [hostAccess_awake ha.1 ha.2, memwinCtrl]
    simp only [hen, hv, if_true]
  · subst htt
    rw [execPartDiesWrite_at ha hn, partDies_stored hin hout] <;> rfl
  · subst htt
    rw [execPartDiesWrite_at ha hn, partDies_fenced hd ht hs hf] <;> rfl
  · have hlive : ((getPart s n).diesLo == 0 && (getPart s n).diesHi == 0) = false := by
      rw [Bool.and_eq_false_iff, beq_eq_false_iff_ne, beq_eq_false_iff_ne]
      exact hdies
    have hlow : bits v.toNat 3 0 = v.toNat % 16 := bits_low _ 3
    rw [execPartCtrlWrite_at ha hn, partCtrl]
    simp only [hen, Bool.and_assoc, hlive, Bool.and_false, Bool.false_and, Bool.or_self, Bool.false_eq_true, if_false, hlow]
  · rw [execPartCtrlWrite_at ha hn, partCtrl]
    dsimp only
    rw [if_pos (by simp [hlo, hhi, hv])] <;> rfl
  · have hlow : bits v.toNat 9 0 = v.toNat % 1024 := bits_low _ 9
    show Host.Outcome.next (hostAccess s fun s => if partOk n then partQuota s n v else s) = _
    rw [hostAccess_awake ha.1 ha.2, if_pos (by simpa [partOk] using hn), partQuota, hlow]
  · have hlow : bits v.toNat 3 0 = v.toNat % 16 := bits_low _ 3
    show Host.Outcome.next (hostAccess s fun s => if clientOk c then clientSched s c v else s) = _
    rw [hostAccess_awake ha.1 ha.2, if_pos hc, clientSched]
    simp only [bits_top v 28 (by decide), hlow]

end Sys2Proof.Machine
end

section
/-! Training of a port that lets waiting flits of the Crown leave by another (13). -/

namespace Sys2Proof.Machine

open Sys2Proof

/-- Port 0 is about to train for the boot ROM, while the Crown, with an allowance of FL0 left, holds a flit for the neighbour on
port 1. -/
def romTrains : State :=
  { Tests.up with
    ports := [(0, { en := true, state := 1 })], pwr := { Tests.up.pwr with domOff := [], onOsc := false }
    rst := { Tests.up.rst with step := 14 }
    sec := { Tests.up.sec with rom := .trying 2 false }
    crown := { Tests.up.crown with fl0 := 2, fl0Wait := [(nearby 1, .ctlAck (nearby 1) 0)] } }

/-- The training of port 0 succeeds. -/
def romLocks : TrainAns := { locked := true, rttNs := 100, peerPort := 0, peerPair := false, peerPkg := 0 }

/-- The flits that wait at a port after a step. -/
def flitsAfter (o : Host.Outcome State Fault Refusal) (p : Nat) : Nat :=
  match o with
  | .next t => (getPort t p).tx0.length
  | _ => 0

/-- Refutes O39: a port that comes up while the boot ROM waits for a peer has its request for the image sent in FL0, behind what the
Crown holds already; where the Crown's allowance covers both, a flit held for another neighbour joins the queue of that neighbour's
port, so training port 0 changes port 1 outside a domain too. -/
theorem not_portsTrainAndFall : ¬ Obligations.PortsTrainAndFall := by
  rintro ⟨-, htrain, -⟩
  obtain ⟨-, hlock⟩ := htrain romTrains 0 romLocks (by decide +kernel) (by decide +kernel) rfl (by decide +kernel)
    (by decide +kernel) (by decide +kernel)
  obtain ⟨t, hexec, -, -, -, -, -, -, -, -, -, -, -, -, -, -, -, -, hothers, -⟩ := hlock rfl rfl
  have hone : flitsAfter (exec (.portTraining 0 romLocks) romTrains) 1 = 1 := by decide +kernel
  rw [hexec] at hone
  have hport : getPort t 1 = getPort romTrains 1 := hothers (by decide +kernel) 1 (by decide)
  have hnone : (getPort romTrains 1).tx0.length = 0 := by decide +kernel
  have hlen : (getPort t 1).tx0.length = 1 := hone
  rw [hport, hnone] at hlen
  cases hlen

end Sys2Proof.Machine
end

section
/-! Frames of a port, sent, received and replayed, and what a port measures (13, 19). -/

namespace Sys2Proof.Machine

open Sys2Proof

/-! ## Sending -/

section Send

variable {s : State} {p : Nat}

/-- A port whose input buffers are empty has nothing to move on. -/
theorem moveOn_empty (h : (getPort s p).rx = []) : moveOn s p = setPort s p (getPort s p) := by
  rw [moveOn, h, drainRx]
  exact congrArg (setPort s p) (by rw [← h])

theorem execFrameSend_empty (hp : portThere s p = true) (hst : (getPort s p).state = 2) (hrx : (getPort s p).rx = []) :
    exec (.frameSend p) s = match (getPort s p).resend with
      | f :: t => .next (putFrame (setPort s p (getPort s p)) p { getPort s p with resend := t } f)
      | [] => if 256 ≤ (getPort s p).replay.length then .next (setPort s p (getPort s p))
        else .next (putFrame (setPort s p (getPort s p)) p (newFrame (getPort s p)).2 (newFrame (getPort s p)).1) := by
  show execFrameSend p s = _
  unfold execFrameSend
  rw [if_neg (by simp [hp, hst]), moveOn_empty hrx]
  dsimp only
  rw [getPort_setPort_same] <;> rfl

/-- A frame that leaves is on the wire; the port is the one given, and no other part changes. -/
theorem putFrame_leaves (s : State) (p : Nat) (y x : Port) (f : OutFrame) :
    getPort (putFrame (setPort s p y) p x f) p = x ∧ (∀ n, n ≠ p → getPort (putFrame (setPort s p y) p x f) n = getPort s n) ∧
      (putFrame (setPort s p y) p x f).cmds = s.cmds ∧ (putFrame (setPort s p y) p x f).io.wire = s.io.wire ++
        [.frame p (frameBytes f x.rxSeq (BitVec.ofNat 64 (linkTime s)) (echoOf s x))] := by
  refine ⟨getPort_setPort_same (setPort s p y) p x, fun n hn => ?_, rfl, rfl⟩
  exact (getPort_setPort_ne (setPort s p y) p n x hn).trans (getPort_setPort_ne s p n y hn)

/-- The flits taken of a queue are its first, within the room and the credit; it stops short of the room only where the queue or the
credit is at its end. -/
theorem takeFlits_spec (n credit : Nat) (q : List Flit) : q = (takeFlits n credit q).1 ++ (takeFlits n credit q).2 ∧
    (takeFlits n credit q).1.length ≤ n ∧ (takeFlits n credit q).1.length ≤ credit ∧
    ((takeFlits n credit q).1.length < n → (takeFlits n credit q).2 = [] ∨ credit - (takeFlits n credit q).1.length = 0) := by
  refine ⟨(List.take_append_drop _ _).symm, ?_, ?_, fun h => ?_⟩
  · simp only [takeFlits, List.length_take]; omega
  · simp only [takeFlits, List.length_take]; omega
  · simp only [takeFlits, List.length_take, List.drop_eq_nil_iff] at h ⊢
    omega

/-- The slots of a new frame: each class gives its first flits, the later ones into what the earlier leave. -/
theorem newFrame_slots (x : Port) : ∃ a b c, (newFrame x).1.slots = a ++ b ++ c ∧ a.length + b.length + c.length ≤ 23 ∧
    (x.routed = false → b = [] ∧ c = []) ∧ x.tx0 = a ++ (newFrame x).2.tx0 ∧ x.tx1 = b ++ (newFrame x).2.tx1 ∧
    x.tx2 = c ++ (newFrame x).2.tx2 ∧ x.credit0 = (newFrame x).2.credit0 + a.length ∧
    x.credit1 = (newFrame x).2.credit1 + b.length ∧ x.credit2 = (newFrame x).2.credit2 + c.length ∧
    (b ≠ [] → (newFrame x).2.tx0 = [] ∨ (newFrame x).2.credit0 = 0) ∧
    (c ≠ [] → (newFrame x).2.tx1 = [] ∨ (newFrame x).2.credit1 = 0) := by
  have hn : (if x.routed then 23 else 0) ≤ 23 := by split <;> omega
  have hn0 : x.routed = false → (if x.routed then 23 else 0) = 0 := fun h => by rw [h]; rfl
  have hn23 : (if x.routed then 23 else 0) ≠ 0 → (if x.routed then 23 else 0) = 23 := by split <;> omega
  simp only [newFrame, fillSlots]
  generalize (if x.routed then 23 else 0) = n at hn hn0 hn23 ⊢
  obtain ⟨ha, ha1, ha2, ha3⟩ := takeFlits_spec 23 x.credit0 x.tx0
  generalize takeFlits 23 x.credit0 x.tx0 = a at ha ha1 ha2 ha3 ⊢
  obtain ⟨hb, hb1, hb2, hb3⟩ := takeFlits_spec (n - a.1.length) x.credit1 x.tx1
  generalize takeFlits (n - a.1.length) x.credit1 x.tx1 = b at hb hb1 hb2 hb3 ⊢
  obtain ⟨hc, hc1, hc2, _⟩ := takeFlits_spec (n - a.1.length - b.1.length) x.credit2 x.tx2
  generalize takeFlits (n - a.1.length - b.1.length) x.credit2 x.tx2 = c at hc hc1 hc2 ⊢
  refine ⟨a.1, b.1, c.1, rfl, by omega, fun hr => ?_, ha, hb, hc, by omega, by omega, by omega, fun hne => ha3 ?_, fun hne => hb3 ?_⟩
  · have := hn0 hr
    exact ⟨List.length_eq_zero_iff.mp (by omega), List.length_eq_zero_iff.mp (by omega)⟩
  · have := List.length_pos_iff.mpr hne
    have := hn23 (by omega)
    omega
  · have := List.length_pos_iff.mpr hne
    omega

end Send

/-! ## Receiving -/

section Receive

variable {s : State} {p : Nat} {f : FrameIn}

/-- How far a received frame is ahead of the last one taken. -/
def aheadOf (s : State) (p : Nat) (f : FrameIn) : Nat := (BitVec.ofNat 16 (fieldLE f.image 0 2) - (getPort s p).rxSeq).toNat

theorem execFrameReceive_good (hp : portThere s p = true) (hst : (getPort s p).state = 2) (hg : frameGood f.image = true)
    (hfec : ∀ e ∈ f.fec, codewordBad e = false) : exec (.frameReceive p f) s =
      if aheadOf s p f = 1 then .next (takeFrame s p (getPort s p) f)
      else if 0x8000 ≤ aheadOf s p f ∨ aheadOf s p f = 0 then .next (setPort s p (getPort s p))
      else .next (setPort s p (discardFrame (getPort s p) (aheadOf s p f))) := by
  have hbad : f.fec.filter codewordBad = [] := List.filter_eq_nil_iff.mpr fun e he => by simp [hfec e he]
  show execFrameReceive p f s = _
  unfold execFrameReceive
  rw [if_neg (by simp [hp, hst]), hbad]
  dsimp only [List.length_nil]
  rw [if_neg (by simp [hg]), noteCodewords, if_pos rfl] <;> rfl

/-- The port notes codewords in fields of their own. -/
theorem noteCodewords_keeps (now bad : Nat) (x : Port) : ∃ u l, noteCodewords now x bad = { x with uncorr := u, badAt := l } ∧
    (bad ≠ 0 → u = true) := by
  unfold noteCodewords
  split
  next h => exact ⟨x.uncorr, x.badAt, rfl, fun hn => absurd h hn⟩
  next => exact ⟨_, _, rfl, fun _ => rfl⟩

theorem execFrameReceive_bad (hp : portThere s p = true) (hst : (getPort s p).state = 2)
    (hb : frameGood f.image = false ∨ ∃ e ∈ f.fec, codewordBad e = true) : exec (.frameReceive p f) s =
      .next (setPort s p (discardFrame (noteCodewords s.time (getPort s p) (f.fec.filter codewordBad).length) 0)) := by
  have hcond : (f.fec.filter codewordBad).length ≠ 0 ∨ (!frameGood f.image) = true := by
    obtain h | ⟨e, he, hbad⟩ := hb
    · exact Or.inr (by simp [h])
    · exact Or.inl (List.length_pos_iff.mpr (List.ne_nil_of_mem (List.mem_filter.mpr ⟨he, hbad⟩))).ne'
  show execFrameReceive p f s = _
  unfold execFrameReceive
  rw [if_neg (by simp [hp, hst])]
  exact if_pos hcond

/-- The port with the credit of each flit returned. -/
def creditAll (x : Port) (l : List Flit) : Port := l.foldl (fun x f => creditBack x f.cls) x

/-- Flits for this package leave their input buffers, and each returns its credit. -/
theorem drainRx_here (p : Nat) : ∀ (l : List Flit) (s : State), (∀ y ∈ l, y.dst = selfPkg s) →
    getPort (drainRx p l [] s) p = creditAll (getPort s p) l ∧ (∀ n, n ≠ p → getPort (drainRx p l [] s) n = getPort s n) ∧
      (drainRx p l [] s).dom = s.dom
  | [], s, _ => ⟨rfl, fun _ _ => rfl, rfl⟩
  | y :: l, s, h => by
    have hy : y.dst = selfPkg s := h y List.mem_cons_self
    have hstep : drainRx p (y :: l) [] s = drainRx p l [] (setPort s p (creditBack (getPort s p) y.cls)) := by
      rw [drainRx]
      simp only [List.contains_nil, Bool.false_eq_true, if_false, hy, if_true]
    obtain ⟨hport, hothers, hdom⟩ :=
      drainRx_here p l (setPort s p (creditBack (getPort s p) y.cls)) fun z hz => h z (List.mem_cons_of_mem _ hz)
    rw [hstep]
    refine ⟨hport.trans ?_, fun n hn => (hothers n hn).trans (getPort_setPort_ne _ _ _ _ hn), hdom⟩
    rw [getPort_setPort_same] <;> rfl

/-- What returning credits counts, and what it leaves. -/
theorem creditAll_counts (l : List Flit) : ∀ x : Port, ∃ r2, creditAll x l =
    { x with ret0 := x.ret0 + (l.filter fun y => y.cls == 0).length, ret1 := x.ret1 + (l.filter fun y => y.cls == 1).length
             ret2 := r2 } := by
  induction l with
  | nil => exact fun x => ⟨x.ret2, rfl⟩
  | cons y l ih =>
    intro x
    obtain ⟨r2, h⟩ := ih (creditBack x y.cls)
    refine ⟨r2, ?_⟩
    have hcons : creditAll x (y :: l) = creditAll (creditBack x y.cls) l := rfl
    rw [hcons, h]
    unfold creditBack
    by_cases h0 : y.cls = 0
    · simp [h0]
      omega
    · by_cases h1 : y.cls = 1
      · simp [h1]
        omega
      · simp [h0, h1]

/-- The port of a frame that is taken, before its flits move on. -/
def frameTaken (s : State) (x : Port) (f : FrameIn) : Port :=
  { x with
    rxSeq := BitVec.ofNat 16 (fieldLE f.image 0 2), discarding := false, gapAt := 0, wantReplay := false
    lastAck := BitVec.ofNat 16 (fieldLE f.image 2 2), replay := ackFrames (BitVec.ofNat 16 (fieldLE f.image 2 2)) x.replay
    resend := ackFrames (BitVec.ofNat 16 (fieldLE f.image 2 2)) x.resend
    peerReplay := x.peerReplay || bitOf (fieldLE f.image 13 1) 0
    credit0 := min (x.credit0 + fieldLE f.image 10 1) 32, credit1 := min (x.credit1 + 8 * fieldLE f.image 11 1) 1024
    credit2 := min (x.credit2 + 8 * fieldLE f.image 12 1) 1024, rx := [], eqIn := takeEq f.image x.eqIn
    peerTx := some (BitVec.ofNat 64 (fieldLE f.image 16 8), linkTime s)
    echo := some (BitVec.ofNat 64 (fieldLE f.image 24 8), linkTime s) }

/-- A frame whose flits are all for this package: the port has taken it and returned their credit. -/
theorem takeFrame_here (hrx : (getPort s p).rx = []) (hhere : ∀ y ∈ frameFlits f, y.dst = selfPkg s) :
    getPort (takeFrame s p (getPort s p) f) p = creditAll (frameTaken s (getPort s p) f) (frameFlits f) ∧
      (∀ n, n ≠ p → getPort (takeFrame s p (getPort s p) f) n = getPort s n) ∧ (takeFrame s p (getPort s p) f).dom = s.dom := by
  have hstep : takeFrame s p (getPort s p) f = drainRx p (frameFlits f) []
      (setPort (setPort s p { frameTaken s (getPort s p) f with rx := frameFlits f }) p (frameTaken s (getPort s p) f)) := by
    unfold takeFrame moveOn
    simp only [getPort_setPort_same, hrx, List.nil_append]
    rfl
  obtain ⟨hport, hothers, hdom⟩ := drainRx_here p (frameFlits f)
    (setPort (setPort s p { frameTaken s (getPort s p) f with rx := frameFlits f }) p (frameTaken s (getPort s p) f)) hhere
  rw [hstep]
  refine ⟨hport.trans (by rw [getPort_setPort_same]), fun n hn => (hothers n hn).trans ?_, hdom⟩
  rw [getPort_setPort_ne _ _ _ _ hn, getPort_setPort_ne _ _ _ _ hn]

end Receive

/-! ## The equaliser -/

section Lanes

variable {now : Nat} {x : Port} {l : Nat × W16}

/-- A lane that may ask: it asks for something, and has asked for nothing for 1 ms. -/
def laneDue (now : Nat) (x : Port) (l : Nat × W16) : Bool :=
  l.2 != 0 && (tget 0 x.eqAt l.1 == 0 || decide (tget 0 x.eqAt l.1 + 1000000 ≤ now + 1))

theorem askLane_eq (now : Nat) (x : Port) (l : Nat × W16) : askLane now x l =
    if laneDue now x l then { x with eqOut := tput 0 x.eqOut l.1 l.2, eqAt := tput 0 x.eqAt l.1 (now + 1) } else x := rfl

/-- Another lane's request and its time stand. -/
theorem askLane_ne {k : Nat} (h : k ≠ l.1) : tget 0 (askLane now x l).eqOut k = tget 0 x.eqOut k ∧
    tget 0 (askLane now x l).eqAt k = tget 0 x.eqAt k := by
  rw [askLane_eq]
  split
  · exact ⟨tget_tput_ne _ _ _ _ _ h, tget_tput_ne _ _ _ _ _ h⟩
  · exact ⟨rfl, rfl⟩

theorem askLane_due (h : laneDue now x l = true) : tget 0 (askLane now x l).eqOut l.1 = l.2 ∧
    tget 0 (askLane now x l).eqAt l.1 = now + 1 := by
  rw [askLane_eq, if_pos h]
  exact ⟨tget_tput_same _ _ _ _, tget_tput_same _ _ _ _⟩

theorem askLane_notDue (h : laneDue now x l = false) : askLane now x l = x := by
  rw [askLane_eq, h] <;> rfl

/-- Requests of lanes change what the port asks for and when it last asked. -/
theorem askLanes_eq : ∀ (ls : List (Nat × W16)) (x : Port), ∃ o a, ls.foldl (askLane now) x = { x with eqOut := o, eqAt := a }
  | [], x => ⟨x.eqOut, x.eqAt, rfl⟩
  | l :: ls, x => by
    obtain ⟨o, a, h⟩ := askLanes_eq ls (askLane now x l)
    refine ⟨o, a, ?_⟩
    rw [List.foldl_cons, h, askLane_eq]
    split <;> rfl

/-- Requests of other lanes leave a lane's. -/
theorem askLanes_ne {k : Nat} : ∀ (ls : List (Nat × W16)) (x : Port), (∀ l ∈ ls, k ≠ l.1) →
    tget 0 (ls.foldl (askLane now) x).eqOut k = tget 0 x.eqOut k ∧ tget 0 (ls.foldl (askLane now) x).eqAt k = tget 0 x.eqAt k
  | [], _, _ => ⟨rfl, rfl⟩
  | l :: ls, x, h => by
    obtain ⟨h1, h2⟩ := askLanes_ne ls (askLane now x l) fun m hm => h m (List.mem_cons_of_mem _ hm)
    obtain ⟨k1, k2⟩ := askLane_ne (now := now) (x := x) (h l List.mem_cons_self)
    exact ⟨h1.trans k1, h2.trans k2⟩

/-- Among requests of different lanes each does what it does alone. -/
theorem askLanes_mem {k : Nat} {r : W16} {ls : List (Nat × W16)} (hnd : (ls.map Prod.fst).Nodup) (hmem : (k, r) ∈ ls) :
    ∀ x : Port, (laneDue now x (k, r) = true →
      tget 0 (ls.foldl (askLane now) x).eqOut k = r ∧ tget 0 (ls.foldl (askLane now) x).eqAt k = now + 1) ∧
    (laneDue now x (k, r) = false → tget 0 (ls.foldl (askLane now) x).eqOut k = tget 0 x.eqOut k) := by
  induction ls with
  | nil => cases hmem
  | cons l ls ih =>
    intro x
    obtain ⟨hl, hls⟩ := List.nodup_cons.mp (List.map_cons ▸ hnd)
    rcases List.mem_cons.mp hmem with heq | hin
    · subst heq
      obtain ⟨h1, h2⟩ := askLanes_ne (now := now) (k := k) ls (askLane now x (k, r)) fun m hm he =>
        hl (List.mem_map.mpr ⟨m, hm, he.symm⟩)
      refine ⟨fun hd => ?_, fun hd => ?_⟩
      · obtain ⟨k1, k2⟩ := askLane_due hd
        exact ⟨h1.trans k1, h2.trans k2⟩
      · exact h1.trans (by rw [askLane_notDue hd])
    · have hne : k ≠ l.1 := fun he => hl (List.mem_map.mpr ⟨(k, r), hin, he⟩)
      obtain ⟨h1, h2⟩ := askLane_ne (now := now) (x := x) hne
      have hdue : laneDue now (askLane now x l) (k, r) = laneDue now x (k, r) := by
        simp only [laneDue, h2]
      obtain ⟨g1, g2⟩ := ih hls hin (askLane now x l)
      rw [hdue] at g1 g2
      exact ⟨g1, fun hd => (g2 hd).trans h1⟩

end Lanes

/-- The requests of the four lanes. -/
theorem lanes_spec {req : List W16} (hlen : req.length = 4) : (((List.range 4).zip req).map Prod.fst).Nodup ∧
    ∀ l r, req[l]? = some r → (l, r) ∈ (List.range 4).zip req := by
  refine ⟨?_, fun l r hr => ?_⟩
  · rw [List.map_fst_zip (by simp [hlen])]
    exact List.nodup_range
  · obtain ⟨hl, hr'⟩ := List.getElem?_eq_some_iff.mp hr
    refine List.mem_of_getElem? (i := l) ?_
    rw [List.getElem?_zip_eq_some]
    exact ⟨List.getElem?_range (by omega), hr⟩

/-- Settles O40 (when a replay is asked for again and when a credit returns are the model's choices, log entry 102): what leaves is the
first frame to be replayed or a new one; what comes is taken, dropped or discarded by its place; the measurements of a port are its
own. -/
theorem framesAndPortMeasurements : Obligations.FramesAndPortMeasurements := by
  unfold Obligations.FramesAndPortMeasurements
  refine ⟨⟨fun s p hp hst hrx => ⟨fun f r hre => ?_, fun hre hroom => ?_, fun hre hfull => ?_⟩,
      fun s p f q hp hst hq => ⟨fun hg hfec => ⟨fun hnext hrx hhere => ?_, fun n hn h1 h2 => ?_, fun hold => ?_⟩, fun hb => ?_⟩,
      fun s p hp hst hpr => ?_⟩,
    fun s p hp hst => ⟨fun req had hlen => ?_, fun mv => ?_, fun x at_ he => ?_⟩⟩
  · have hexec := execFrameSend_empty hp hst hrx
    rw [hre] at hexec
    obtain ⟨hport, _, _, hwire⟩ := putFrame_leaves s p (getPort s p) { getPort s p with resend := r } f
    exact ⟨_, hexec, congrArg Port.resend hport, (congrArg Port.txSeq hport).trans rfl, hwire⟩
  · have hexec := execFrameSend_empty hp hst hrx
    rw [hre] at hexec
    dsimp only at hexec
    rw [if_neg (by omega)] at hexec
    obtain ⟨hport, hothers, hcmds, hwire⟩ := putFrame_leaves s p (getPort s p) (newFrame (getPort s p)).2 (newFrame (getPort s p)).1
    obtain ⟨a, b, c, hslots, h⟩ := newFrame_slots (getPort s p)
    obtain ⟨h1, h2, h3, h4, h5, h6, h7, h8, h9, h10⟩ := h
    refine ⟨_, (newFrame (getPort s p)).1, a, b, c, hexec, hwire, rfl, rfl, hslots, rfl, ?_⟩
    rw [hport]
    exact ⟨rfl, rfl, rfl, h1, h2, h3, h4, h5, h6, h7, h8, h9, h10, hothers, hcmds⟩
  · have hexec := execFrameSend_empty hp hst hrx
    rw [hre] at hexec
    dsimp only at hexec
    rw [if_pos hfull] at hexec
    rw [moveOn_empty hrx]
    refine ⟨hexec, rfl, fun n => ?_⟩
    by_cases hn : n = p
    · rw [hn, getPort_setPort_same]
    · exact getPort_setPort_ne _ _ _ _ hn
  · have hexec := execFrameReceive_good hp hst hg hfec
    have hahead : aheadOf s p f = 1 := by
      rw [aheadOf, ← hq, hnext, BitVec.add_comm, BitVec.add_sub_cancel]
      rfl
    rw [if_pos hahead] at hexec
    obtain ⟨hport, hothers, hdom⟩ := takeFrame_here hrx hhere
    obtain ⟨r2, hcount⟩ := creditAll_counts (frameFlits f) (frameTaken s (getPort s p) f)
    rw [hcount] at hport
    refine ⟨_, hexec, ?_⟩
    rw [hport]
    exact ⟨hq.symm, rfl, rfl, rfl, rfl, rfl, rfl, rfl, rfl, rfl, hothers, hdom⟩
  · have hexec := execFrameReceive_good hp hst hg hfec
    have hahead : aheadOf s p f = n := by rw [aheadOf, ← hq, hn]
    rw [hahead, if_neg (by omega), if_neg (by omega)] at hexec
    have hn0 : (n == 0) = false := by simpa using show n ≠ 0 by omega
    rw [hexec, discardFrame, hn0, Bool.or_false]
  · have hexec := execFrameReceive_good hp hst hg hfec
    have hahead : aheadOf s p f = (q - (getPort s p).rxSeq).toNat := by rw [aheadOf, ← hq]
    have hcases : aheadOf s p f ≠ 1 ∧ (0x8000 ≤ aheadOf s p f ∨ aheadOf s p f = 0) := by
      rw [hahead]
      rcases hold with h | h
      · rw [h, BitVec.sub_self]
        decide
      · omega
    rw [if_neg hcases.1, if_pos hcases.2] at hexec
    exact hexec
  · have hexec := execFrameReceive_bad hp hst hb
    obtain ⟨u, l, hnote, hu⟩ := noteCodewords_keeps s.time (f.fec.filter codewordBad).length (getPort s p)
    rw [hnote] at hexec
    refine ⟨_, hexec, ?_⟩
    rw [getPort_setPort_same]
    refine ⟨by simp [discardFrame], rfl, fun ⟨e, he, hbad⟩ => hu ?_, rfl, rfl, rfl, rfl, fun n hn => getPort_setPort_ne _ _ _ _ hn, rfl⟩
    exact (List.length_pos_iff.mpr (List.ne_nil_of_mem (List.mem_filter.mpr ⟨he, hbad⟩))).ne'
  · have hexec : exec (.frameReplay p) s = .next _ := congrArg Host.Outcome.next (if_pos (by simp [hp, hst, hpr]))
    refine ⟨_, hexec, ?_⟩
    rw [getPort_setPort_same]
    refine ⟨rfl, rfl, rfl, fun f r hf hh hr => ?_, fun f r hf hh => ?_, rfl, rfl, fun n hn => getPort_setPort_ne _ _ _ _ hn⟩
    · simp [hf, hh, hr]
    · simp [hf, hh]
  · have hexec : exec (.eqAdapt p req) s = .next _ := congrArg Host.Outcome.next (if_pos (by simp [hp, hst, had]))
    obtain ⟨hnd, hmem⟩ := lanes_spec hlen
    obtain ⟨o, a, heq⟩ := askLanes_eq (now := s.time) ((List.range 4).zip req) (getPort s p)
    refine ⟨_, hexec, fun n hn => getPort_setPort_ne _ _ _ _ hn, rfl, ?_, fun l r _ hr => ?_⟩
    · rw [getPort_setPort_same, heq]
    · rw [getPort_setPort_same]
      obtain ⟨hdue, hnot⟩ := askLanes_mem (now := s.time) hnd (hmem l r hr) (getPort s p)
      refine ⟨fun hr0 hok => hdue ?_, fun hno => hnot ?_⟩
      · simp only [laneDue, Bool.and_eq_true, Bool.or_eq_true, bne_iff_ne, beq_iff_eq, decide_eq_true_eq]
        exact ⟨hr0, hok⟩
      · rw [← Bool.not_eq_true]
        simp only [laneDue, Bool.and_eq_true, Bool.or_eq_true, bne_iff_ne, beq_iff_eq, decide_eq_true_eq]
        rintro ⟨hr0, hok⟩
        rcases hno with h | ⟨h, h'⟩
        · exact hr0 h
        · omega
  · have hexec : exec (.marginMeasure p mv) s = .next _ := congrArg Host.Outcome.next (if_pos (by simp [hp, hst]))
    refine ⟨_, hexec, getPort_setPort_same s p _, tget_tput_same _ _ _ _, fun n hn => ⟨getPort_setPort_ne _ _ _ _ hn, ?_⟩⟩
    exact tget_tput_ne _ _ _ _ _ hn
  · show execLinkDelayMeasure p s = _
    unfold execLinkDelayMeasure
    dsimp only
    rw [he]
    exact congrArg Host.Outcome.next (if_pos (by simp [hp, hst]))

end Sys2Proof.Machine
end

section
/-! What the ends of commands and the messages of a domain leave in its tables; control messages, and members that go (13). -/

namespace Sys2Proof.Machine

open Sys2Proof Sys2Proof.Ob

/-! ## What sending leaves in the domain -/

/-- Of the domain only the numbered messages, the subscriptions and the unacknowledged messages have changed; every control message
that is new has been sent now. -/
def Talked (s t : State) : Prop := t.time = s.time ∧ t.sets = s.sets ∧ ∃ n c u r,
  t.dom = { s.dom with ctlSeq := n, ctl := c, subs := u, resend := r } ∧ ∀ y ∈ c, y ∈ s.dom.ctl ∨ y.firstAt = s.time

theorem Talked.of_dom {s t : State} (ht : t.time = s.time) (hs : t.sets = s.sets) (hd : t.dom = s.dom) : Talked s t :=
  ⟨ht, hs, _, _, _, _, hd, fun _ => Or.inl⟩

theorem Talked.refl (s : State) : Talked s s := .of_dom rfl rfl rfl

theorem Talked.trans {s t u : State} (a : Talked s t) (b : Talked t u) : Talked s u := by
  obtain ⟨ht, hs, n, c, v, r, hd, hc⟩ := a
  obtain ⟨ht', hs', n', c', v', r', hd', hc'⟩ := b
  refine ⟨ht'.trans ht, hs'.trans hs, n', c', v', r', by rw [hd', hd], fun y hy => ?_⟩
  rcases hc' y hy with h | h
  · rw [hd] at h
    exact hc y h
  · exact Or.inr (h.trans ht)

theorem Talked.foldl {α : Type} {f : State → α → State} (h : ∀ t x, Talked t (f t x)) :
    ∀ (l : List α) (s : State), Talked s (l.foldl f s)
  | [], s => .refl s
  | x :: l, s => (h s x).trans (Talked.foldl h l (f s x))

theorem Same.talked {s t : State} (h : Same s t) : Talked s t := by
  obtain ⟨_, _, _, _, _, _, _, _, _, _, htime, _, _, _, _, _, hsets, _, hdom, _⟩ := h
  exact .of_dom htime hsets hdom

theorem TallyOnly.talked {s t : State} (h : TallyOnly s t) : Talked s t := by
  obtain ⟨_, _, rfl⟩ := h
  exact .of_dom rfl rfl rfl

theorem sendCtl_talked (s : State) (dst : Nat) (m : Ctl) : Talked s (sendCtl s dst m) := by
  rw [sendCtl_eq]
  refine Talked.trans (t := keptCtl s dst m) ⟨rfl, rfl, _, _, _, _, rfl, fun y hy => ?_⟩ (injectFl0_same _ _).talked
  rcases List.mem_append.mp hy with h | h
  · exact Or.inl h
  · rw [List.mem_singleton.mp h]
    exact Or.inr rfl

theorem cancelReads_talked (s : State) (gang : List Nat) (g : W32) : Talked s (cancelReads s gang g) := by
  unfold cancelReads
  refine Talked.foldl (fun t core => ?_) _ _
  split
  · exact Talked.foldl (fun u r => sendCtl_talked _ _ _) _ _
  · exact .refl _

theorem modCmd_talked (s : State) (id : Nat) (f : Cmd → Cmd) : Talked s (modCmd s id f) := .of_dom rfl rfl rfl

theorem startKill_talked (s : State) (id : Nat) (k : KillKind) (slice : Bool) : Talked s (startKill s id k slice) := by
  unfold startKill
  split
  · exact .refl _
  next c _ =>
    split
    · exact ((modCmd_talked s id _).trans (cancelReads_talked _ _ _)).trans
        (Talked.foldl (fun t core => (sendNet_same _ _).talked) _ _)
    · split
      · split
        · exact modCmd_talked s id _
        · exact .refl _
      · split
        · exact .refl _
        · exact modCmd_talked s id _
      · exact .refl _
    · exact .refl _

theorem withdraw_talked (s : State) (c : Cmd) : Talked s (withdraw s c) := by
  unfold withdraw
  split
  · split
    · exact sendCtl_talked _ _ _
    · exact .refl _
  · exact .refl _

theorem writeEntry_talked (s : State) (c : Cmd) (status addr : Nat) (overrun : Bool) :
    Talked s (writeEntry s c status addr overrun) := by
  have hw : Talked s (if status = stCancelled then withdraw s c else s) := by
    split
    · exact withdraw_talked s c
    · exact .refl s
  unfold writeEntry
  generalize (if status = stCancelled then withdraw s c else s) = u at hw ⊢
  dsimp only
  split
  · exact hw
  · split
    · exact hw.trans (.of_dom rfl rfl rfl)
    · exact hw.trans (.of_dom rfl rfl rfl)

theorem dropCmd_talked (s : State) (c : Cmd) : Talked s (dropCmd s c) := ⟨rfl, rfl, _, _, _, _, rfl, fun _ => Or.inl⟩

theorem retireOne_talked (s : State) (c : Cmd) (status addr : Nat) (overrun keepNews : Bool) :
    Talked s (dropCmd (writeEntry (releaseCmd s c keepNews) c status addr overrun) c) :=
  ((Talked.of_dom rfl rfl rfl : Talked s (releaseCmd s c keepNews)).trans (writeEntry_talked _ c status addr overrun)).trans
    (dropCmd_talked _ c)

theorem complete_talked {status : Nat} (h : status ≠ stMemUncorrectable) (s : State) (c : Cmd) (addr : Nat) :
    Talked s (complete s c status addr) := by
  unfold complete
  rw [if_neg h]
  unfold retire
  dsimp only
  split
  · exact retireOne_talked s c status addr false false
  · exact (retireOne_talked s c status addr false false).trans (Talked.foldl (fun t x => retireOne_talked t x _ _ _ _) _ _)

/-! ## Members that go -/

section Members

theorem cancelReaders_talked (s : State) (pkg : Nat) : Talked s (cancelReaders s pkg) :=
  Talked.foldl (fun t id => startKill_talked t id _ _) _ s

theorem endWaiters_talked (s : State) (pkg : Nat) : Talked s (endWaiters s pkg) := by
  unfold endWaiters
  refine Talked.foldl (fun t id => ?_) _ s
  split
  · exact complete_talked (by decide) t _ 0
  · exact .refl t

theorem dropHeld_talked (s : State) (pkg : Nat) : Talked s (dropHeld s pkg) := by
  unfold dropHeld
  dsimp only
  exact Talked.trans (t := { s with dom := { s.dom with resend := s.dom.resend.filter fun u => u.dst / 4096 != pkg } })
    ⟨rfl, rfl, _, _, _, _, rfl, fun _ => Or.inl⟩ (Talked.foldl (fun t k => (event_tallyOnly t _ _ _ _ _).talked) _ _)

/-- The commands and messages that a member's going ends. -/
def readersEnded (s : State) (pkg : Nat) : State := dropHeld (endWaiters (cancelReaders s pkg) pkg) pkg

theorem readersEnded_talked (s : State) (pkg : Nat) : Talked s (readersEnded s pkg) :=
  ((cancelReaders_talked s pkg).trans (endWaiters_talked _ pkg)).trans (dropHeld_talked _ pkg)

theorem setPeers_eq (pkg : Nat) : ∀ (l : List Nat) (s : State), ∃ ps, l.foldl (fun t p =>
    if (getPort t p).state = 2 ∧ peerOf (getPort t p) = pkg then setPeer t p 0 else t) s = { s with ports := ps }
  | [], s => ⟨s.ports, rfl⟩
  | p :: l, s => by
    obtain ⟨ps, h⟩ := setPeers_eq pkg l (if (getPort s p).state = 2 ∧ peerOf (getPort s p) = pkg then setPeer s p 0 else s)
    refine ⟨ps, ?_⟩
    rw [List.foldl_cons, h]
    split <;> rfl

/-- The domain without a member. -/
def domWithout (d : Dom) (pkg : Nat) : Dom :=
  { d with
    roster := d.roster.filter fun m => m != pkg, members := (d.roster.filter fun m => m != pkg).length
    routes := tput none d.routes pkg none, ctl := d.ctl.filter fun x => x.dst != pkg, subs := d.subs.filter fun x => x.src != pkg
    edges := d.edges.filter fun e => e.a != pkg && e.b != pkg }

theorem forgetMember_eq (s : State) (pkg : Nat) : ∃ ps, forgetMember s pkg = { s with ports := ps, dom := domWithout s.dom pkg } := by
  obtain ⟨ps, h⟩ := setPeers_eq pkg (List.range 72) s
  exact ⟨ps, by unfold forgetMember; dsimp only; rw [h]; rfl⟩

/-- What a member leaves behind: a domain without it, and no message that is not old or sent now. -/
theorem memberLeft_spec (s : State) (pkg : Nat) : (memberLeft s pkg).time = s.time ∧ (memberLeft s pkg).sets = s.sets ∧
    ∃ u, Talked s u ∧ (memberLeft s pkg).dom = domWithout u.dom pkg := by
  obtain ⟨ps, h⟩ := forgetMember_eq (readersEnded s pkg) pkg
  have htalk := readersEnded_talked s pkg
  have hleft : memberLeft s pkg = { readersEnded s pkg with ports := ps, dom := domWithout (readersEnded s pkg).dom pkg } := h
  rw [hleft]
  exact ⟨htalk.1, htalk.2.1, _, htalk, rfl⟩

theorem tellGone_talked (s : State) (pkg : Nat) : Talked s (tellGone s pkg) :=
  Talked.foldl (fun t m => (sendCtl_talked t m _).trans (sendCtl_talked _ m _)) _ s

/-- A route that is written changes the table of routes in its place alone, and a port. -/
theorem setRoute_eq (s : State) (dst : Nat) (port : Option Nat) :
    ∃ ps, setRoute s dst port = { s with ports := ps, dom := { s.dom with routes := tput none s.dom.routes dst port } } := by
  unfold setRoute
  dsimp only
  split
  · exact ⟨_, rfl⟩
  · exact ⟨s.ports, rfl⟩

/-- `t` is `s` as far as routing leaves it: the routes and the place in the tree aside, what sending leaves; the routes of packages
outside a list stand. -/
def Routed (l : List Nat) (s t : State) : Prop := ∃ u rs ch, Talked s u ∧ t.time = s.time ∧ t.sets = s.sets ∧
  t.dom = { u.dom with routes := rs, children := ch } ∧ ∀ d, d ∉ l → tget none rs d = tget none s.dom.routes d

theorem Talked.routed {s t : State} (h : Talked s t) (l : List Nat) : Routed l s t := by
  refine ⟨t, t.dom.routes, t.dom.children, h, h.1, h.2.1, rfl, fun d _ => ?_⟩
  obtain ⟨_, _, _, _, _, _, hd, _⟩ := h
  rw [hd]

theorem Routed.trans {l : List Nat} {s t v : State} (a : Routed l s t) (b : Routed l t v) : Routed l s v := by
  obtain ⟨u, rs, ch, ⟨hut, hus, n, c, su, r, hud, huc⟩, ht, hs, hd, hr⟩ := a
  obtain ⟨u', rs', ch', ⟨hut', hus', n', c', su', r', hud', huc'⟩, ht', hs', hd', hr'⟩ := b
  refine ⟨{ s with dom := { s.dom with ctlSeq := n', ctl := c', subs := su', resend := r' } }, rs', ch',
    ⟨rfl, rfl, n', c', su', r', rfl, fun y hy => ?_⟩, ht'.trans ht, hs'.trans hs, ?_, fun d hdl => ?_⟩
  · rcases huc' y hy with h | h
    · rw [hd, hud] at h
      exact huc y h
    · exact Or.inr (h.trans ht)
  · rw [hd', hud', hd, hud]
  · refine (hr' d hdl).trans ?_
    rw [hd]
    exact hr d hdl

theorem Routed.foldl {α : Type} {l : List Nat} {f : State → α → State} : ∀ (xs : List α), (∀ t, ∀ x ∈ xs, Routed l t (f t x)) →
    ∀ s, Routed l s (xs.foldl f s)
  | [], _, s => (Talked.refl s).routed l
  | x :: xs, h, s => (h s x List.mem_cons_self).trans (Routed.foldl xs (fun t y hy => h t y (List.mem_cons_of_mem _ hy)) (f s x))

theorem setTree_routed (l : List Nat) (s : State) (ch : List Nat) : Routed l s (setTree s ch) :=
  ⟨s, s.dom.routes, ch, .refl s, rfl, rfl, rfl, fun _ _ => rfl⟩

theorem setRoute_routed {l : List Nat} {dst : Nat} (h : dst ∈ l) (s : State) (port : Option Nat) : Routed l s (setRoute s dst port) := by
  obtain ⟨ps, he⟩ := setRoute_eq s dst port
  rw [he]
  exact ⟨s, _, s.dom.children, .refl s, rfl, rfl, rfl, fun d hd => tget_tput_ne _ _ _ _ _ fun hdd => hd (hdd ▸ h)⟩

/-- The keeper writes routes of its roster and tells the others theirs. -/
theorem sendRoutes_routed (s : State) : Routed s.dom.roster s (sendRoutes s) := by
  unfold sendRoutes
  dsimp only
  refine Routed.foldl _ (fun t m _ => ?_) s
  have htree : ∀ v, v = (if m = selfPkg s then setTree t (childPorts (treeOf s.dom.edges (selfPkg s)) m)
      else sendCtl t m (.tree (childPorts (treeOf s.dom.edges (selfPkg s)) m))) → Routed s.dom.roster t v := by
    rintro v rfl
    split
    · exact setTree_routed _ _ _
    · exact (sendCtl_talked _ _ _).routed _
  refine (htree _ rfl).trans (Routed.foldl _ (fun v d hd => ?_) _)
  split
  · exact setRoute_routed (List.mem_of_mem_filter hd) v _
  · exact (sendCtl_talked v m _).routed _

/-- A package that the keeper has dropped: it is in no table, its number is kept from now, and what was sent is new. -/
structure Dropped (s t : State) (pkg : Nat) : Prop where
  sets : t.sets = s.sets
  roster : pkg ∉ t.dom.roster
  routes : tget none t.dom.routes pkg = none
  number : tget 0 t.dom.freeing pkg = s.time + 1
  got : t.dom.got = s.dom.got
  ctl : ∀ y ∈ t.dom.ctl, y ∈ s.dom.ctl ∨ y.firstAt = s.time

theorem sendRoutes_dropped {s : State} {pkg : Nat} (hroster : pkg ∉ s.dom.roster) (hroutes : tget none s.dom.routes pkg = none) :
    Dropped s (sendRoutes (keepNumber s pkg)) pkg := by
  obtain ⟨v, rs, ch, ⟨_, _, n, c, su, r, hvd, hvc⟩, _, hsets, hrd, hr⟩ := sendRoutes_routed (keepNumber s pkg)
  generalize sendRoutes (keepNumber s pkg) = t at hsets hrd
  constructor
  case sets => exact hsets
  case roster => rw [hrd, hvd]; exact hroster
  case routes => rw [hrd]; exact (hr pkg hroster).trans hroutes
  case number => rw [hrd, hvd]; exact tget_tput_same _ _ _ _
  case got => rw [hrd, hvd]; rfl
  case ctl => rw [hrd, hvd]; exact hvc

theorem Talked.dropped {s t v : State} {pkg : Nat} (h : Talked s t) (k : Dropped t v pkg) : Dropped s v pkg := by
  obtain ⟨ht, hs, n, c, su, r, hd, hc⟩ := h
  constructor
  case sets => exact k.sets.trans hs
  case roster => exact k.roster
  case routes => exact k.routes
  case number => rw [k.number, ht]
  case got => rw [k.got, hd]
  case ctl =>
    intro y hy
    rcases k.ctl y hy with h1 | h1
    · rw [hd] at h1
      exact hc y h1
    · exact Or.inr (h1.trans ht)

/-- What the keeper does when a member has gone. -/
theorem keeperDrops_dropped {s : State} {pkg : Nat} (h : s.dom.roster.contains pkg = true) : Dropped s (keeperDrops s pkg) pkg := by
  have hdrops : keeperDrops s pkg = sendRoutes (keepNumber (tellGone (memberLeft s pkg) pkg) pkg) := by
    rw [keeperDrops, h] <;> rfl
  obtain ⟨htime, hsets, u, hu, hdom⟩ := memberLeft_spec s pkg
  have htold := tellGone_talked (memberLeft s pkg) pkg
  rw [hdrops]
  generalize memberLeft s pkg = a at htime hsets hdom htold
  generalize tellGone a pkg = b at htold
  have hb : b.dom.roster = a.dom.roster ∧ b.dom.routes = a.dom.routes := by
    obtain ⟨_, _, _, _, _, _, hd, _⟩ := htold
    rw [hd]
    exact ⟨rfl, rfl⟩
  have hab : Dropped a (sendRoutes (keepNumber b pkg)) pkg := htold.dropped
    (sendRoutes_dropped (by rw [hb.1, hdom]; simp [domWithout]) (by rw [hb.2, hdom]; exact tget_tput_same _ _ _ _))
  refine hu.dropped ⟨hab.sets.trans (hsets.trans hu.2.1.symm), hab.roster, hab.routes, ?_, ?_, fun y hy => ?_⟩
  · rw [hab.number, htime, hu.1]
  · rw [hab.got, hdom]
    rfl
  · rcases hab.ctl y hy with h1 | h1
    · rw [hdom] at h1
      exact Or.inl (List.mem_of_mem_filter h1)
    · exact Or.inr (h1.trans (htime.trans hu.1.symm))

end Members

/-! ## Control messages -/

section Control

variable {s : State} {src seq : Nat} {m : Ctl}

theorem finishLeave_none (h : s.dom.leaving = none) : finishLeave s = s := by
  rw [finishLeave, h] <;> rfl

theorem execControlMessageArrive_awake (ha : awake s) (ack : Bool) : exec (.controlMessageArrive src seq ack m) s = .next
    (if ack then finishLeave { s with dom := { s.dom with
        ctl := s.dom.ctl.filter fun x => !(x.seq == seq && x.dst == src)
        resend := s.dom.resend.filter fun u => !(u.seq == seq && u.dst / 4096 == src) } }
      else if s.dom.seen.contains (src, seq) then sendAck s src seq
      else ctlActs (sendAck { s with dom := { s.dom with seen := s.dom.seen ++ [(src, seq)] } } src seq) src m) := by
  show execControlMessageArrive src seq ack m s = _
  unfold execControlMessageArrive
  rw [if_neg (by simp [ha.1, d1Off_awake ha])]
  split
  · rfl
  · split <;> rfl

/-- An acknowledgement changes the mesh of links alone; with an allowance it leaves at once. -/
theorem sendAck_spec (s : State) (src seq : Nat) : (sendAck s src seq).dom = s.dom ∧ (sendAck s src seq).cmds = s.cmds ∧
    (fl0Free s 1 → (sendAck s src seq).io.wire = s.io.wire ++ [.ctlAck src seq]) := by
  have hsame : Same s (sendAck s src seq) := injectFl0_same _ s
  obtain ⟨_, _, hcmds, _, _, _, _, _, _, _, _, _, _, _, _, _, _, _, hdom, _⟩ := hsame
  refine ⟨hdom, hcmds, fun ⟨hw, hn⟩ => ?_⟩
  obtain ⟨ps, fr, he⟩ := sendAck_now hw hn src seq
  rw [he]
  rfl

/-- The oldest numbered message of a number that no other has. -/
theorem find_ctl {x : CtlOut} {p : CtlOut → Bool} (hx : x ∈ s.dom.ctl) (hone : ∀ y ∈ s.dom.ctl, y.seq = x.seq → y = x)
    (hp : p x = true) : (s.dom.ctl.find? fun y => y.seq == x.seq && p y) = some x := by
  cases hf : s.dom.ctl.find? fun y => y.seq == x.seq && p y with
  | none =>
    have := List.find?_eq_none.mp hf x hx
    simp [hp] at this
  | some y =>
    have hy := List.find?_some hf
    have hmem := List.mem_of_find?_eq_some hf
    simp only [Bool.and_eq_true, beq_iff_eq] at hy
    rw [hone y hmem hy.1]

theorem execControlResend_due {x : CtlOut} (hx : x ∈ s.dom.ctl) (hone : ∀ y ∈ s.dom.ctl, y.seq = x.seq → y = x)
    (hdue : x.sentAt + 50000 ≤ s.time) : exec (.controlResend x.seq) s = .next (sendFl0 { s with dom := { s.dom with
      ctl := s.dom.ctl.map fun y => if y.seq == x.seq then { y with sentAt := s.time } else y } } x.dst (.ctl x.dst x.seq x.m)) := by
  show execControlResend x.seq s = _
  unfold execControlResend
  rw [find_ctl (p := fun y => decide (y.sentAt + 50000 ≤ s.time)) hx hone (by simpa using hdue)] <;> rfl

theorem execControlResend_none (hc : ∀ x ∈ s.dom.ctl, x.seq = seq → s.time < x.sentAt + 50000)
    (hr : ∀ u ∈ s.dom.resend, u.seq = seq → s.time < u.sentAt + 50000) : exec (.controlResend seq) s = .next s := by
  have h1 : (s.dom.ctl.find? fun x => x.seq == seq && decide (x.sentAt + 50000 ≤ s.time)) = none := by
    rw [List.find?_eq_none]
    intro x hx
    simp only [Bool.and_eq_true, beq_iff_eq, decide_eq_true_eq, not_and, Nat.not_le]
    exact hc x hx
  have h2 : (s.dom.resend.find? fun u => u.seq == seq && decide (u.sentAt + 50000 ≤ s.time)) = none := by
    rw [List.find?_eq_none]
    intro u hu
    simp only [Bool.and_eq_true, beq_iff_eq, decide_eq_true_eq, not_and, Nat.not_le]
    exact hr u hu
  show execControlResend seq s = _
  unfold execControlResend
  rw [h1]
  dsimp only
  rw [h2] <;> rfl

/-- A destination that does not answer counts as gone. -/
theorem execAckTimeout_due {x : CtlOut} (hx : x ∈ s.dom.ctl) (hone : ∀ y ∈ s.dom.ctl, y.seq = x.seq → y = x)
    (hdue : x.firstAt + 2000000 ≤ s.time) (hl : s.dom.leaving = none) (hin : s.dom.inDomain = true)
    (hr : s.dom.roster.contains x.dst = true) : exec (.ackTimeout x.seq) s = .next (reportGone
      (event { s with dom := { s.dom with ctl := s.dom.ctl.filter fun y => y.seq != x.seq } } crownLoc 0x22
        (subjEndpoint (x.dst * 4096 + crownLoc)) 0xFF 0) x.dst) := by
  show execAckTimeout x.seq s = _
  unfold execAckTimeout
  rw [find_ctl (p := fun y => decide (y.firstAt + 2000000 ≤ s.time)) hx hone (by simpa using hdue)]
  dsimp only
  rw [finishLeave_none (by exact hl)]
  exact if_pos (by rw [Bool.and_eq_true]; exact ⟨hin, hr⟩)

end Control

/-- Settles O41: a message acts once by the numbers that have been seen; who goes leaves roster and routes, and the keeper keeps its
number from now. -/
theorem controlMessagesAndMembers : Obligations.ControlMessagesAndMembers := by
  unfold Obligations.ControlMessagesAndMembers
  refine ⟨⟨fun s src seq m ha hl => ⟨?_, fun hseen => ?_, fun hseen hm => ?_, fun l hseen hm => ?_⟩,
      fun s x hx hone hdue => ?_, fun s seq hc hr => execControlResend_none hc hr,
      fun s x hx hone hdue hl hin hr => ?_⟩,
    fun s src pkg r hgot hin hne => ⟨fun hk => ?_, fun hk hr => ?_⟩, fun s pkg h0 => ⟨fun h => ?_, fun h => ?_⟩⟩
  · have hexec := execControlMessageArrive_awake (src := src) (seq := seq) (m := m) ha true
    rw [if_pos rfl, finishLeave_none (by exact hl)] at hexec
    exact hexec
  · have hexec := execControlMessageArrive_awake (src := src) (seq := seq) (m := m) ha false
    rw [if_neg (by decide), if_pos hseen] at hexec
    exact ⟨_, hexec, sendAck_spec s src seq⟩
  · have hexec := execControlMessageArrive_awake (src := src) (seq := seq) (m := m) ha false
    rw [if_neg (by decide), if_neg (by rw [hseen]; decide)] at hexec
    obtain ⟨hdom, hcmds, hwire⟩ := sendAck_spec { s with dom := { s.dom with seen := s.dom.seen ++ [(src, seq)] } } src seq
    generalize sendAck { s with dom := { s.dom with seen := s.dom.seen ++ [(src, seq)] } } src seq = u at hexec hdom hcmds hwire
    have hkept : ctlActs u src m = keepCtl u src m := by
      rcases hm with ⟨n, rfl | ⟨d, rfl⟩ | rfl | ⟨q, rfl⟩ | ⟨a, b, c, rfl⟩⟩ <;> rfl
    rw [hkept] at hexec
    refine ⟨_, hexec, ?_, ?_, hwire, ?_, ?_, hcmds⟩
    · show u.dom.got ++ _ = _
      rw [hdom]
    · exact congrArg Dom.seen hdom
    · exact (congrArg Dom.roster hdom).trans rfl
    · exact (congrArg Dom.routes hdom).trans rfl
  · have hexec := execControlMessageArrive_awake (src := src) (seq := seq) (m := m) ha false
    rw [if_neg (by decide), if_neg (by rw [hseen]; decide)] at hexec
    obtain ⟨hdom, _, _⟩ := sendAck_spec { s with dom := { s.dom with seen := s.dom.seen ++ [(src, seq)] } } src seq
    generalize sendAck { s with dom := { s.dom with seen := s.dom.seen ++ [(src, seq)] } } src seq = u at hexec hdom
    subst hm
    exact ⟨_, hexec, rfl, rfl, (congrArg Dom.got hdom).trans rfl⟩
  · have hexec := execControlResend_due hx hone hdue
    obtain ⟨_, _, hcmds, _, _, _, _, _, _, _, _, _, _, _, _, _, _, _, hdom, _⟩ := injectFl0_same (s.crown.fl0Wait ++ [(x.dst, .ctl x.dst x.seq x.m)])
      { s with dom := { s.dom with ctl := s.dom.ctl.map fun y => if y.seq == x.seq then { y with sentAt := s.time } else y } }
    refine ⟨_, hexec, fun ⟨hw, hn⟩ => ?_, congrArg Dom.ctl hdom, hcmds⟩
    obtain ⟨ps, fr, he⟩ := sendFl0_now (s := { s with dom := { s.dom with
      ctl := s.dom.ctl.map fun y => if y.seq == x.seq then { y with sentAt := s.time } else y } }) hw hn x.dst (.ctl x.dst x.seq x.m)
    rw [he]
    rfl
  · have hexec := execAckTimeout_due hx hone hdue hl hin hr
    obtain ⟨ty, msi, hev⟩ := event_tallyOnly { s with dom := { s.dom with ctl := s.dom.ctl.filter fun y => y.seq != x.seq } } crownLoc
      0x22 (subjEndpoint (x.dst * 4096 + crownLoc)) 0xFF 0
    rw [hev] at hexec
    generalize hu : ({ s with
      dom := { s.dom with ctl := s.dom.ctl.filter fun y => y.seq != x.seq }, tally := ty, io := { s.io with msix := msi } } : State) = u
      at hexec
    have hxu : x ∉ u.dom.ctl := by
      rw [← hu]
      simp
    have hnow : x.firstAt ≠ u.time := by
      rw [← hu]
      show x.firstAt ≠ s.time
      omega
    have hudom : u.dom = { s.dom with ctl := s.dom.ctl.filter fun y => y.seq != x.seq } := by rw [← hu]
    have husets : u.sets = s.sets := by rw [← hu]
    refine ⟨_, hexec, ?_⟩
    unfold reportGone
    rw [hudom]
    dsimp only
    by_cases hk : s.dom.keeper = true
    · rw [if_pos hk]
      have hdrop := keeperDrops_dropped (s := u) (pkg := x.dst) (by rw [hudom]; exact hr)
      refine ⟨fun hin => ?_, fun _ => hdrop.roster, fun hnk => absurd hk (by rw [hnk]; decide), hdrop.sets.trans husets⟩
      rcases hdrop.ctl x hin with h | h
      · exact hxu h
      · exact hnow h
    · rw [if_neg hk]
      by_cases hkp : x.dst = s.dom.keeperPkg
      · rw [if_neg (by simp [hkp])]
        exact ⟨hxu, fun h => absurd h hk, fun _ hne => absurd hkp hne, husets⟩
      · rw [if_pos (by simp [hin, hkp])]
        obtain ⟨_, hsets, n, c, su, r, hd, hc⟩ := sendCtl_talked u s.dom.keeperPkg (.departure x.dst)
        refine ⟨fun hin => ?_, fun h => absurd h hk, fun _ _ ⟨hw, hn⟩ => ?_, hsets.trans husets⟩
        · rw [hd] at hin
          rcases hc x hin with h | h
          · exact hxu h
          · exact hnow h
        · obtain ⟨ps, fr, he⟩ := sendCtl_now (s := u) (by rw [← hu]; exact hw) (by rw [← hu]; exact hn) s.dom.keeperPkg (.departure x.dst)
          rw [he, ← hu]
          rfl
  · have hexec : exec .memberGone s = .next (memberLeft (tookGot s r) pkg) := by
      show execMemberGone s = _
      unfold execMemberGone
      rw [takeGot_front hgot rfl]
      have hne' : (pkg == selfPkg (tookGot s r)) = false := beq_eq_false_iff_ne.mpr hne
      have hin' : (tookGot s r).dom.inDomain = true := hin
      have hk' : (tookGot s r).dom.keeper = false := hk
      simp only [hin', hne', hk', Bool.not_true, Bool.or_self, Bool.false_eq_true, if_false]
    obtain ⟨_, hsets, u, ⟨_, _, n, c, su, r', hud, _⟩, hdom⟩ := memberLeft_spec (tookGot s r) pkg
    refine ⟨_, hexec, ?_⟩
    rw [hdom, hud]
    exact ⟨rfl, rfl, tget_tput_same _ _ _ _, rfl, hin, hsets⟩
  · have hexec : exec .memberGone s = .next (keeperDrops (tookGot s r) pkg) := by
      show execMemberGone s = _
      unfold execMemberGone
      rw [takeGot_front hgot rfl]
      have hne' : (pkg == selfPkg (tookGot s r)) = false := beq_eq_false_iff_ne.mpr hne
      have hin' : (tookGot s r).dom.inDomain = true := hin
      have hk' : (tookGot s r).dom.keeper = true := hk
      simp only [hin', hne', hk', Bool.not_true, Bool.or_self, Bool.false_eq_true, if_false, if_true]
    have hdrop := keeperDrops_dropped (s := tookGot s r) (pkg := pkg) hr
    exact ⟨_, hexec, hdrop.roster, hdrop.routes, hdrop.number, hdrop.got, hdrop.sets⟩
  · exact congrArg Host.Outcome.next (if_pos (by rw [Bool.and_eq_true, bne_iff_ne, decide_eq_true_eq]; exact ⟨h0, h⟩))
  · exact congrArg Host.Outcome.next (if_neg (by simp; omega))

end Sys2Proof.Machine
end

section
/-! What sending control messages leaves: the ports' queues, the messages sent before, the neighbours that a flood reaches, and
the answer of a request of a mailbox (13, 14). -/

namespace Sys2Proof.Machine

open Sys2Proof Sys2Proof.Ob

/-! ## The ports -/

/-- At every port only flits have joined the queues. -/
def Queued (s t : State) : Prop := ∀ p, ∃ a b c, getPort t p = { getPort s p with tx0 := a, tx1 := b, tx2 := c }

theorem Queued.of_ports {s t : State} (h : t.ports = s.ports) : Queued s t := fun p =>
  ⟨_, _, _, congrArg (fun (l : Tab Port) => tget ({} : Port) l p) h⟩

theorem Queued.trans {s t u : State} (a : Queued s t) (b : Queued t u) : Queued s u := by
  intro p
  obtain ⟨_, _, _, h⟩ := a p
  obtain ⟨_, _, _, k⟩ := b p
  exact ⟨_, _, _, by rw [k, h]⟩

theorem Queued.state {s t : State} (h : Queued s t) (p : Nat) : (getPort t p).state = (getPort s p).state := by
  obtain ⟨_, _, _, h⟩ := h p
  rw [h]

theorem pushFlits_eq (f : Nat → Flit) : ∀ (l : List Nat) (x : Port), ∃ a b c,
    l.foldl (fun x i => pushFlit x (f i)) x = { x with tx0 := a, tx1 := b, tx2 := c }
  | [], x => ⟨x.tx0, x.tx1, x.tx2, rfl⟩
  | i :: l, x => by
    obtain ⟨a, b, c, h⟩ := pushFlits_eq f l (pushFlit x (f i))
    refine ⟨a, b, c, ?_⟩
    rw [List.foldl_cons, h]
    unfold pushFlit
    split
    · rfl
    · split <;> rfl

theorem queueFlits_queued (s : State) (cls dst n : Nat) : Queued s (queueFlits s cls dst n) := by
  unfold queueFlits
  split
  · exact .of_ports rfl
  next q _ =>
    intro p
    obtain ⟨a, b, c, h⟩ := pushFlits_eq (fun i => Flit.mk cls dst ((List.range 64).map fun j => Config.freeByte s.free (64 * i + j)))
      (List.range n) (getPort s q)
    by_cases hp : p = q
    · subst hp
      refine ⟨a, b, c, ?_⟩
      rw [← h]
      exact getPort_setPort_same s p _
    · exact ⟨_, _, _, getPort_setPort_ne s q p _ hp⟩

theorem injectFl0_queued : ∀ (l : List (Nat × Wire)) (s : State), Queued s (injectFl0 l s)
  | [], _ => .of_ports rfl
  | (d, w) :: l, s => by
    unfold injectFl0
    split
    · show Queued (wire { s with crown := { s.crown with fl0 := s.crown.fl0 - 1 } } w) _
      exact (queueFlits_queued _ 0 d 1).trans (injectFl0_queued l _)
    · exact .of_ports rfl

/-! ## What has been sent before -/

/-- Every control message that was sent, or waits to be, still is or does. -/
def Sent (s t : State) : Prop := ∀ dst m, sends s dst m → sends t dst m

theorem Sent.of_parts {s t : State} (hd : ∀ y ∈ s.dom.ctl, y ∈ t.dom.ctl) (hw : ∀ w ∈ s.io.wire, w ∈ t.io.wire)
    (hf : ∀ x ∈ s.crown.fl0Wait, x.2 ∈ t.io.wire ∨ x ∈ t.crown.fl0Wait) : Sent s t := by
  rintro dst m ⟨n, ⟨y, hy, h1, h2, h3⟩, h⟩
  refine ⟨n, ⟨y, hd y hy, h1, h2, h3⟩, ?_⟩
  rcases h with h | h
  · exact Or.inl (hw _ h)
  · exact hf _ h

theorem Sent.of_eq {s t : State} (hd : t.dom.ctl = s.dom.ctl) (hw : t.io.wire = s.io.wire)
    (hf : t.crown.fl0Wait = s.crown.fl0Wait) : Sent s t :=
  .of_parts (fun _ hy => hd ▸ hy) (fun _ h => hw ▸ h) fun _ h => Or.inr (hf ▸ h)

theorem sendCtl_sent (s : State) (dst : Nat) (m : Ctl) : Sent s (sendCtl s dst m) := by
  obtain ⟨sent, rest, n, ps, fr, he, hl, _⟩ := sendFl0_or_waits (keptCtl s dst m) dst (.ctl dst s.dom.ctlSeq m)
  rw [sendCtl_eq, he]
  refine .of_parts (fun y hy => List.mem_append_left _ hy) (fun w h => List.mem_append_left _ h) fun x hx => ?_
  have hmem : x ∈ sent ++ rest := hl ▸ List.mem_append_left _ hx
  rcases List.mem_append.mp hmem with h | h
  · exact Or.inl (List.mem_append_right _ (List.mem_map_of_mem h))
  · exact Or.inr h

/-! ## Sending as a whole -/

/-- What sending control messages leaves: the state but for messages, queues and allowances; the ports but for their queues; what
has been sent before; the tables of the domain. -/
structure Spoken (s t : State) : Prop where
  told : Told s t
  queued : Queued s t
  sent : Sent s t
  talked : Talked s t

theorem Spoken.refl (s : State) : Spoken s s := ⟨.refl s, .of_ports rfl, fun _ _ => id, .refl s⟩

theorem Spoken.trans {s t u : State} (a : Spoken s t) (b : Spoken t u) : Spoken s u :=
  ⟨a.told.trans b.told, a.queued.trans b.queued, fun d m h => b.sent d m (a.sent d m h), a.talked.trans b.talked⟩

theorem Spoken.foldl {α : Type} {f : State → α → State} (h : ∀ t x, Spoken t (f t x)) :
    ∀ (l : List α) (s : State), Spoken s (l.foldl f s)
  | [], s => .refl s
  | x :: l, s => (h s x).trans (Spoken.foldl h l (f s x))

theorem sendCtl_spoken (s : State) (dst : Nat) (m : Ctl) : Spoken s (sendCtl s dst m) := by
  refine ⟨sendCtl_told s dst m, ?_, sendCtl_sent s dst m, sendCtl_talked s dst m⟩
  rw [sendCtl_eq]
  exact Queued.trans (t := keptCtl s dst m) (.of_ports rfl) (injectFl0_queued _ _)

/-- One neighbour of a flood. -/
def floodOne (but : Nat) (m : Ctl) (t : State) (p : Nat) : State :=
  if (getPort t p).state = 2 ∧ nearby p ≠ but then sendCtl t (nearby p) m else t

theorem floodCtl_eq (s : State) (but : Nat) (m : Ctl) : floodCtl s but m = (List.range 72).foldl (floodOne but m) s := rfl

theorem floodOne_spoken (but : Nat) (m : Ctl) (t : State) (p : Nat) : Spoken t (floodOne but m t p) := by
  unfold floodOne
  split
  · exact sendCtl_spoken t _ m
  · exact .refl t

theorem floodCtl_spoken (s : State) (but : Nat) (m : Ctl) : Spoken s (floodCtl s but m) :=
  Spoken.foldl (floodOne_spoken but m) _ s

/-- A flood reaches every port that is up but the one it came by. -/
theorem floodCtl_sends {s : State} {but p : Nat} (m : Ctl) (hp : p < 72) (hst : (getPort s p).state = 2) (hne : nearby p ≠ but) :
    sends (floodCtl s but m) (nearby p) m := by
  have key : ∀ (l : List Nat) (t : State), (getPort t p).state = 2 → p ∈ l → sends (l.foldl (floodOne but m) t) (nearby p) m := by
    intro l
    induction l with
    | nil => intro t _ h; cases h
    | cons q l ih =>
      intro t ht hmem
      rcases List.mem_cons.mp hmem with rfl | h
      · refine (Spoken.foldl (floodOne_spoken but m) l _).sent _ _ ?_
        rw [floodOne, if_pos ⟨ht, hne⟩]
        exact sendCtl_sends t _ m
      · exact ih _ (((floodOne_spoken but m t q).queued.state p).trans ht) h
  exact key _ s hst (List.mem_range.mpr hp)

theorem reportLink_spoken {s : State} (hk : s.dom.keeper = false) (p : Nat) (x : Port) (up : Bool) :
    Spoken s (reportLink s p x up) := by
  unfold reportLink
  split
  · exact .refl s
  · rw [if_neg (by rw [hk]; decide)]
    exact sendCtl_spoken _ _ _

theorem Talked.keeper {s t : State} (h : Talked s t) : t.dom.keeper = s.dom.keeper := by
  obtain ⟨_, _, _, _, _, _, hd, _⟩ := h
  rw [hd]

theorem reportLinks_spoken {s : State} (hk : s.dom.keeper = false) : Spoken s (reportLinks s) := by
  have key : ∀ (l : List Nat) (t : State), t.dom.keeper = false → Spoken t
      (l.foldl (fun t p => if (getPort t p).state = 2 then reportLink t p (getPort t p) true else t) t) := by
    intro l
    induction l with
    | nil => exact fun t _ => .refl t
    | cons p l ih =>
      intro t ht
      have hstep : Spoken t (if (getPort t p).state = 2 then reportLink t p (getPort t p) true else t) := by
        split
        · exact reportLink_spoken ht p _ true
        · exact .refl t
      exact hstep.trans (ih _ (hstep.talked.keeper.trans ht))
  exact key _ s hk

/-! ## Answers -/

/-- A late answer goes to its mailbox, or waits for it; nothing else changes. -/
theorem endSlow_replied {s : State} {m : Nat} {q : Req} (h : s.mail.slow.find? (fun x => x.1 == m) = some (m, q)) (status : Nat)
    (b : Bytes) : ∃ mb mx, endSlow s m status b = { s with mail := mb, io := { s.io with msix := mx } } ∧
      replied s (endSlow s m status b) m (replyBytes q.msg status b) := by
  have hend : endSlow s m status b = giveReply { s with mail := { s.mail with slow := s.mail.slow.filter fun x => x.1 != m } } m
      (replyBytes q.msg status b) := by
    rw [endSlow, h]
  rw [hend]
  unfold giveReply
  have hfree : mailFree { s with mail := { s.mail with slow := s.mail.slow.filter fun x => x.1 != m } } m = mailFree s m := rfl
  rw [hfree]
  cases hmf : mailFree s m
  · rw [if_neg (by decide)]
    refine ⟨_, _, rfl, fun h' => absurd h' (by rw [hmf]; decide), fun _ => ?_⟩
    exact tget_tput_same _ _ _ _
  · rw [if_pos rfl]
    refine ⟨_, _, rfl, fun _ => ⟨?_, ?_⟩, fun h' => absurd h' (by rw [hmf]; decide)⟩
    · exact tget_tput_same _ _ _ _
    · exact List.mem_append_right _ (List.mem_singleton.mpr rfl)

theorem replied_of_mail {s u t : State} (h : u.mail = s.mail) {m : Nat} {b : Bytes} (hr : replied u t m b) : replied s t m b := by
  have hf : mailFree u m = mailFree s m := by simp only [mailFree, getF2h, getReplies, h]
  have hg : getReplies u m = getReplies s m := by simp only [getReplies, h]
  obtain ⟨h1, h2⟩ := hr
  rw [hf] at h1 h2
  rw [hg] at h2
  exact ⟨h1, h2⟩

theorem Told.mail {s t : State} (h : Told s t) : t.mail = s.mail := h.ended.mail

end Sys2Proof.Machine
end

section
/-! Routes of a domain, and joins to it (13). -/

namespace Sys2Proof.Machine

open Sys2Proof Sys2Proof.Ob

/-! ## Routes -/

section Routes

variable {s : State}

theorem execRouteUpdate_member {src d : Nat} {p : Option Nat} {r : List (Nat × Ctl)} (hr : s.crown.ready = true)
    (hin : s.dom.inDomain = true) (hk : s.dom.keeper = false) (hgot : s.dom.got = (src, .route d p) :: r) :
    exec .routeUpdate s = .next (if src = s.dom.keeperPkg then setRoute (tookGot s r) d p else tookGot s r) := by
  show execRouteUpdate s = _
  unfold execRouteUpdate
  rw [if_neg (by simp [hr, hin]), if_neg (by rw [hk]; decide), takeGot_front hgot rfl] <;> rfl

/-- A route is written with the port routed. -/
theorem setRoute_writes (s : State) (d : Nat) (p : Option Nat) : tget none (setRoute s d p).dom.routes d = p ∧
    (∀ n, n ≠ d → tget none (setRoute s d p).dom.routes n = tget none s.dom.routes n) ∧
    (∀ q, p = some q → (getPort (setRoute s d p) q).routed = true) ∧ (setRoute s d p).dom.got = s.dom.got ∧
    (setRoute s d p).cmds = s.cmds := by
  obtain ⟨ps, h⟩ := setRoute_eq s d p
  refine ⟨by rw [h]; exact tget_tput_same _ _ _ _, fun n hn => by rw [h]; exact tget_tput_ne _ _ _ _ _ hn, fun q hq => ?_,
    by rw [h], by rw [h]⟩
  subst hq
  rw [setRoute]
  dsimp only
  rw [getPort_setPort_same]

/-- The keeper's own table as the tree of its graph gives it. -/
def OwnTable (s t : State) : Prop := t.dom.children = childPorts (treeOf s.dom.edges (selfPkg s)) (selfPkg s) ∧
  ∀ d ∈ s.dom.roster, d ≠ selfPkg s → tget none t.dom.routes d = hop (treeOf s.dom.edges (selfPkg s)) (selfPkg s) (selfPkg s) d

/-- A list of routes that are written reads back. -/
theorem setRoutes_table (f : Nat → Option Nat) : ∀ (l : List Nat) (t : State), ∃ rs ps,
    l.foldl (fun v d => setRoute v d (f d)) t = { t with ports := ps, dom := { t.dom with routes := rs } } ∧
      ∀ d, (d ∈ l → tget none rs d = f d) ∧ (d ∉ l → tget none rs d = tget none t.dom.routes d)
  | [], t => ⟨t.dom.routes, t.ports, rfl, fun d => ⟨fun h => (List.not_mem_nil h).elim, fun _ => rfl⟩⟩
  | x :: l, t => by
    obtain ⟨qs, hx⟩ := setRoute_eq t x (f x)
    obtain ⟨rs, ps, h, hrs⟩ := setRoutes_table f l (setRoute t x (f x))
    refine ⟨rs, ps, by rw [List.foldl_cons, h, hx], fun d => ?_⟩
    obtain ⟨hin, hout⟩ := hrs d
    by_cases hd : d ∈ l
    · exact ⟨fun _ => hin hd, fun h => absurd (List.mem_cons_of_mem _ hd) h⟩
    · have htab := hout hd
      rw [hx] at htab
      by_cases hdx : d = x
      · subst hdx
        exact ⟨fun _ => htab.trans (tget_tput_same _ _ _ _), fun h => absurd List.mem_cons_self h⟩
      · exact ⟨fun h => absurd (List.mem_cons.mp h) (by simp [hdx, hd]), fun _ => htab.trans (tget_tput_ne _ _ _ _ _ hdx)⟩

/-- One member's turn in the sending of routes. -/
def routesOf (s t : State) (m : Nat) : State :=
  (s.dom.roster.filter fun d => d != m).foldl (fun v d =>
      if m = selfPkg s then setRoute v d (hop (treeOf s.dom.edges (selfPkg s)) (selfPkg s) m d)
      else sendCtl v m (.route d (hop (treeOf s.dom.edges (selfPkg s)) (selfPkg s) m d)))
    (if m = selfPkg s then setTree t (childPorts (treeOf s.dom.edges (selfPkg s)) m)
      else sendCtl t m (.tree (childPorts (treeOf s.dom.edges (selfPkg s)) m)))

theorem sendRoutes_eq (s : State) : sendRoutes s = s.dom.roster.foldl (routesOf s) s := rfl

theorem routesOf_self (s t : State) : OwnTable s (routesOf s t (selfPkg s)) := by
  have hfold : routesOf s t (selfPkg s) = (s.dom.roster.filter fun d => d != selfPkg s).foldl
      (fun v d => setRoute v d (hop (treeOf s.dom.edges (selfPkg s)) (selfPkg s) (selfPkg s) d))
      (setTree t (childPorts (treeOf s.dom.edges (selfPkg s)) (selfPkg s))) := by
    simp only [routesOf, if_true]
  obtain ⟨rs, ps, h, hrs⟩ := setRoutes_table (hop (treeOf s.dom.edges (selfPkg s)) (selfPkg s) (selfPkg s))
    (s.dom.roster.filter fun d => d != selfPkg s) (setTree t (childPorts (treeOf s.dom.edges (selfPkg s)) (selfPkg s)))
  rw [hfold, h]
  exact ⟨rfl, fun d hd hne => (hrs d).1 (List.mem_filter.mpr ⟨hd, by simpa using hne⟩)⟩

/-- What the turn of another member leaves is what sending does. -/
theorem routesOf_other {s t : State} {m : Nat} (h : m ≠ selfPkg s) : Spoken t (routesOf s t m) := by
  have hfold : routesOf s t m = (s.dom.roster.filter fun d => d != m).foldl
      (fun v d => sendCtl v m (.route d (hop (treeOf s.dom.edges (selfPkg s)) (selfPkg s) m d)))
      (sendCtl t m (.tree (childPorts (treeOf s.dom.edges (selfPkg s)) m))) := by
    simp only [routesOf, if_neg h]
  rw [hfold]
  exact (sendCtl_spoken t m _).trans (Spoken.foldl (fun v d => sendCtl_spoken v m _) _ _)

theorem OwnTable.talked {s t u : State} (h : OwnTable s t) (k : Talked t u) : OwnTable s u := by
  obtain ⟨_, _, _, _, _, _, hd, _⟩ := k
  obtain ⟨h1, h2⟩ := h
  exact ⟨by rw [hd]; exact h1, fun d hd' hne => by rw [hd]; exact h2 d hd' hne⟩

theorem sendRoutes_ownTable (h : selfPkg s ∈ s.dom.roster) : OwnTable s (sendRoutes s) := by
  have key : ∀ (l : List Nat) (t : State), OwnTable s t ∨ selfPkg s ∈ l → OwnTable s (l.foldl (routesOf s) t) := by
    intro l
    induction l with
    | nil => exact fun t ht => ht.resolve_right List.not_mem_nil
    | cons m l ih =>
      intro t ht
      refine ih _ ?_
      by_cases hm : m = selfPkg s
      · exact Or.inl (hm ▸ routesOf_self s t)
      · rcases ht with ht | ht
        · exact Or.inl (ht.talked (routesOf_other hm).talked)
        · exact Or.inr ((List.mem_cons.mp ht).resolve_left fun h => hm h.symm)
  exact key _ s (Or.inr h)

/-- With no report that has come, the keeper sends its routes again. -/
theorem keeperReroutes_noReport (h : s.dom.got = []) : keeperReroutes s = sendRoutes s := by
  have hs : ({ s with dom := { s.dom with edges := s.dom.edges, got := [] } } : State) = s := by
    rw [← h]
  have hnone : s.dom.roster.filter (fun m => (reached (treeOf s.dom.edges (selfPkg s)) (selfPkg s)).contains m &&
      !(reached (treeOf s.dom.edges (selfPkg s)) (selfPkg s)).contains m) = [] :=
    List.filter_eq_nil_iff.mpr fun m _ => by simp
  unfold keeperReroutes
  simp only [h, List.foldl_nil, List.filter_nil, hs, hnone]

end Routes

/-! ## Joins -/

/-- Routes and messages leave every other part of the state. -/
theorem setRoute_told (s : State) (d : Nat) (p : Option Nat) : Told s (setRoute s d p) := by
  obtain ⟨ps, h⟩ := setRoute_eq s d p
  rw [h]
  exact Same.refl _

/-- What has been sent before stands beside a route that is written. -/
theorem setRoute_sent (s : State) (d : Nat) (p : Option Nat) : Sent s (setRoute s d p) := by
  obtain ⟨ps, h⟩ := setRoute_eq s d p
  rw [h]
  exact .of_eq rfl rfl rfl

/-- Every other part of the state, and what was sent before, stand where the keeper sends routes. -/
theorem sendRoutes_leaves (s : State) : Told s (sendRoutes s) ∧ Sent s (sendRoutes s) := by
  have key : ∀ (l : List Nat) (t : State), Told t (l.foldl (routesOf s) t) ∧ Sent t (l.foldl (routesOf s) t) := by
    intro l
    induction l with
    | nil => exact fun t => ⟨.refl t, fun _ _ => id⟩
    | cons m l ih =>
      intro t
      have hstep : Told t (routesOf s t m) ∧ Sent t (routesOf s t m) := by
        by_cases hm : m = selfPkg s
        · obtain ⟨rs, ps, h, _⟩ := setRoutes_table (hop (treeOf s.dom.edges (selfPkg s)) (selfPkg s) (selfPkg s))
            (s.dom.roster.filter fun d => d != selfPkg s) (setTree t (childPorts (treeOf s.dom.edges (selfPkg s)) (selfPkg s)))
          have hfold : routesOf s t m = (s.dom.roster.filter fun d => d != selfPkg s).foldl
              (fun v d => setRoute v d (hop (treeOf s.dom.edges (selfPkg s)) (selfPkg s) (selfPkg s) d))
              (setTree t (childPorts (treeOf s.dom.edges (selfPkg s)) (selfPkg s))) := by
            simp only [hm, routesOf, if_true]
          rw [hfold, h]
          exact ⟨Same.refl _, .of_eq rfl rfl rfl⟩
        · have := routesOf_other (t := t) hm
          exact ⟨this.told, this.sent⟩
      obtain ⟨h1, h2⟩ := ih (routesOf s t m)
      exact ⟨hstep.1.trans h1, fun d c h => h2 d c (hstep.2 d c h)⟩
  exact key _ s

section Requests

variable {s : State} {src want via : Nat} {demand pair : Bool} {id proof nonce : W64} {r : List (Nat × Ctl)}

theorem execJoinRequest_front (hgot : s.dom.got = (src, .joinRequest want demand pair id proof nonce via) :: r)
    (hin : s.dom.inDomain = true) (hid : id = s.dom.domId) : exec (.joinRequest src) s = .next
      (if !s.dom.keeper then (if src < 65536 then tookGot s r
        else sendCtl (tookGot s r) s.dom.keeperPkg (.joinRequest want demand pair id proof nonce (src - 65536 + 1)))
      else if nonce = 0 then
        sendCtl (nextFree { tookGot s r with dom := { (tookGot s r).dom with
          nonces := s.dom.nonces ++ [(src, via, BitVec.ofNat 64 (Config.freeNat s.free))] } }) src
          (.challenge (BitVec.ofNat 64 (Config.freeNat s.free)) via)
      else judgeJoin (tookGot s r) src via want demand pair proof nonce) := by
  subst hid
  have hin' : (tookGot s r).dom.inDomain = true := hin
  show execJoinRequest src s = _
  unfold execJoinRequest
  rw [takeGot_front hgot (by simp)]
  dsimp only
  rw [if_neg (by rw [hin']; simp [tookGot])]
  split
  · next hk =>
    rw [if_pos (show (!s.dom.keeper) = true from hk)]
    rfl
  · next hk =>
    rw [if_neg (show ¬ (!s.dom.keeper) = true from hk)]
    split <;> rfl

theorem judgeJoin_refuses (h : (src, via, nonce) ∉ s.dom.nonces ∨ proof ≠ siphash s.dom.key (leN 8 nonce.toNat)) :
    judgeJoin s src via want demand pair proof nonce = sendCtl (dropNonce s src via) src (.joinRefuse via) := by
  unfold judgeJoin
  refine if_pos ?_
  rw [Bool.or_eq_true, Bool.or_eq_true]
  refine Or.inl (h.imp (fun h => ?_) fun h => bne_iff_ne.mpr h)
  rw [Bool.not_eq_true', ← Bool.not_eq_true, List.contains_iff_mem]
  exact h

theorem judgeJoin_admits {n : Nat} (hn : (src, via, nonce) ∈ s.dom.nonces) (hp : proof = siphash s.dom.key (leN 8 nonce.toNat))
    (hm : s.dom.members < 32768) (ha : assignNumber s want pair = some n) (hd : demand = true → n = want) :
    judgeJoin s src via want demand pair proof nonce = admitPkg (dropNonce s src via) src via n pair := by
  have hm' : ¬ 32768 ≤ s.dom.members := by omega
  have hcond : (demand && n != want) = false := by
    cases hdm : demand
    · rfl
    · simp [hd hdm]
  unfold judgeJoin
  dsimp only
  rw [if_neg (by rw [List.contains_iff_mem.mpr hn]; simp [hp, hm']), ha]
  dsimp only
  rw [hcond] <;> rfl

/-- The state that the keeper tells of a member it has admitted. -/
theorem admitPkg_eq (s : State) (src via n : Nat) (pair : Bool) : ∃ u ed, admitPkg s src via n pair = sendRoutes (tellRoster
      (sendCtl u src (.joinGrant (b2n pair * 32768 + n) s.bead.count s.bead.curPeriod (selfPkg s) via))) ∧ Told s u ∧
    u.dom = { s.dom with roster := s.dom.roster ++ [b2n pair * 32768 + n], members := s.dom.members + 1, edges := ed } := by
  unfold admitPkg
  dsimp only
  split
  · exact ⟨_, s.dom.edges, rfl, Same.refl _, rfl⟩
  · exact ⟨_, _, rfl, Same.refl _, rfl⟩

theorem tellRoster_spoken (s : State) : Spoken s (tellRoster s) := Spoken.foldl (fun t m => sendCtl_spoken t m _) _ s

theorem admitPkg_admits (s : State) (src via n : Nat) (pair : Bool) : ∀ t, t = admitPkg s src via n pair →
    t.dom.roster = s.dom.roster ++ [b2n pair * 32768 + n] ∧ t.dom.members = s.dom.members + 1 ∧ t.dom.nonces = s.dom.nonces ∧
      sends t src (.joinGrant (b2n pair * 32768 + n) s.bead.count s.bead.curPeriod (selfPkg s) via) ∧ Told s t := by
  intro t ht
  obtain ⟨u, ed, hadmit, htold, hdom⟩ := admitPkg_eq s src via n pair
  rw [hadmit] at ht
  have hsends := sendCtl_sends u src (.joinGrant (b2n pair * 32768 + n) s.bead.count s.bead.curPeriod (selfPkg s) via)
  have hspoke := sendCtl_spoken u src (.joinGrant (b2n pair * 32768 + n) s.bead.count s.bead.curPeriod (selfPkg s) via)
  generalize sendCtl u src (.joinGrant (b2n pair * 32768 + n) s.bead.count s.bead.curPeriod (selfPkg s) via) = v at ht hsends hspoke
  have hall := hspoke.trans (tellRoster_spoken v)
  have hgrant := (tellRoster_spoken v).sent _ _ hsends
  generalize tellRoster v = w at ht hall hgrant
  obtain ⟨htold', hsent⟩ := sendRoutes_leaves w
  obtain ⟨x, rs, ch, ⟨_, _, _, _, _, _, hxd, _⟩, _, _, hd, _⟩ := sendRoutes_routed w
  obtain ⟨_, _, _, _, _, _, hwd, _⟩ := hall.talked
  rw [← ht] at htold' hsent hd
  rw [hd, hxd, hwd, hdom]
  exact ⟨rfl, rfl, rfl, hsent _ _ hgrant, (htold.trans hall.told).trans htold'⟩

end Requests

section Ends

variable {s : State} {j : Join} {q : Req}

theorem any_false {α : Type} {p : α → Bool} {l : List α} (h : ∀ x ∈ l, p x = false) : l.any p = false :=
  List.any_eq_false.mpr fun x hx => by rw [h x hx]; decide

theorem takeGot_none {p : Nat × Ctl → Bool} (h : ∀ x ∈ s.dom.got, p x = false) : takeGot s p = none := by
  rw [takeGot, List.find?_eq_none.mpr fun x hx => by rw [h x hx]; decide]
  rfl

theorem execJoinComplete_refused {src via : Nat} {r : List (Nat × Ctl)} (hj : s.dom.join = some j)
    (hgot : s.dom.got = (src, .joinRefuse via) :: r) : exec .joinComplete s =
      .next (endSlow { tookGot s r with dom := { (tookGot s r).dom with join := none } } j.chan 6 []) := by
  show execJoinComplete s = _
  unfold execJoinComplete
  rw [hj]
  dsimp only
  rw [takeGot_front hgot rfl] <;> rfl

/-- The package as a member, at the bead mark. -/
def joined (s : State) (r : List (Nat × Ctl)) (k keeper : Nat) (count : W64) : State :=
  becomeMember { tookGot s r with bead := { s.bead with count := count, edge := s.time, samples := 0, from3 := 3 * s.time } } k keeper

theorem execJoinComplete_granted {src via k keeper d : Nat} {c0 count : W64} {p0 p : W16} {r : List (Nat × Ctl)}
    (hj : s.dom.join = some j) (hgot : s.dom.got = (src, .joinGrant k c0 p0 keeper via) :: (src, .beadMark count p d) :: r)
    (hr : ∀ x ∈ r, ∀ v, x.2 ≠ .joinRefuse v) : exec .joinComplete s = .next
      (endSlow (reportLinks (floodCtl (joined s r k keeper count) 0 (.neighbour k))) j.chan 0 (leN 2 (k % 32768))) := by
  show execJoinComplete s = _
  unfold execJoinComplete
  rw [hj]
  dsimp only
  rw [takeGot_none]
  rotate_left
  · intro x hx
    rw [hgot] at hx
    rcases List.mem_cons.mp hx with rfl | hx
    · rfl
    · rcases List.mem_cons.mp hx with rfl | hx
      · rfl
      · split
        · next v hv => exact absurd hv (hr x hx v)
        · rfl
  dsimp only
  rw [takeGot_front hgot rfl]
  dsimp only
  rw [takeGot_front (s := tookGot s ((src, .beadMark count p d) :: r)) (x := (src, .beadMark count p d)) (r := r) rfl rfl] <;> rfl

theorem execDomainFound_due (hj : s.dom.join = some j)
    (hgot : ∀ x ∈ s.dom.got, (∀ v, x.2 ≠ .joinRefuse v) ∧ ∀ a b c e f, x.2 ≠ .joinGrant a b c e f)
    (hat : j.at_ + 1000000000 ≤ s.time) : exec .domainFound s = .next (if j.found then
      endSlow (becomeMember { s with dom := { s.dom with
        roster := [b2n s.dom.cfgPair * 32768 + (if j.want < 32768 then j.want else 0)], members := 1 } }
        (b2n s.dom.cfgPair * 32768 + (if j.want < 32768 then j.want else 0))
        (b2n s.dom.cfgPair * 32768 + (if j.want < 32768 then j.want else 0))) j.chan 0
        (leN 2 ((b2n s.dom.cfgPair * 32768 + (if j.want < 32768 then j.want else 0)) % 32768))
    else endSlow { s with dom := { s.dom with join := none } } j.chan 6 []) := by
  show execDomainFound s = _
  unfold execDomainFound
  rw [hj]
  dsimp only
  rw [any_false]
  rotate_left
  · intro x hx
    obtain ⟨h1, h2⟩ := hgot x hx
    split
    · next a b c e f hv => exact absurd hv (h2 a b c e f)
    · next v hv => exact absurd hv (h1 v)
    · rfl
  rw [if_neg (by simp; omega)]
  split <;> rfl

end Ends

/-- Settles O42 (the names under which a join reaches a neighbour that is not routed, and the answer to one that finds no domain, are the
model's choices, log entries 104 and 105): routes and joins change the tables of the domain, the ports' queues and the messages sent, and
an answer goes to the mailbox it is for. -/
theorem routesAndJoins : Obligations.RoutesAndJoins := by
  unfold Obligations.RoutesAndJoins
  refine ⟨⟨fun s src d p r hr hin hk hgot => ⟨fun hsrc => ?_, fun hsrc => ?_⟩, fun s hr hin hk hgot => ?_,
      fun s src want via demand pair id proof nonce r hgot hin hid =>
        ⟨fun hk hsrc => ?_, fun hk hn => ?_, fun hk hn hbad => ?_, fun n hk hn hmem hp hm ha hd => ?_⟩⟩,
    fun s j q hj hq => ⟨fun src via r hgot => ?_, fun src via k keeper c0 count p0 p d r hgot hne hr => ?_,
      fun hgot hat => ⟨fun hf => ?_, fun hf => ?_⟩⟩⟩
  · have hexec := execRouteUpdate_member hr hin hk hgot
    rw [if_pos hsrc] at hexec
    exact ⟨_, hexec, setRoute_writes (tookGot s r) d p⟩
  · have hexec := execRouteUpdate_member hr hin hk hgot
    rw [if_neg hsrc] at hexec
    exact hexec
  · have hexec : exec .routeUpdate s = .next (sendRoutes s) := by
      show execRouteUpdate s = _
      unfold execRouteUpdate
      rw [if_neg (by simp [hr, hin]), if_pos hk, keeperReroutes_noReport hgot]
    obtain ⟨u, rs, ch, ⟨_, _, _, _, _, _, hud, _⟩, _, _, hd, _⟩ := sendRoutes_routed s
    refine ⟨_, hexec, ?_, ?_, fun hself => sendRoutes_ownTable hself⟩
    · rw [hd, hud]
    · rw [hd, hud]
  · have hexec := execJoinRequest_front hgot hin hid
    rw [hk, if_pos (by decide), if_neg (by omega)] at hexec
    obtain ⟨_, _, _, _, _, _, hd, _⟩ := sendCtl_talked (tookGot s r) s.dom.keeperPkg
      (.joinRequest want demand pair id proof nonce (src - 65536 + 1))
    exact ⟨_, hexec, (congrArg Dom.got hd).trans rfl, sendCtl_sends _ _ _, (congrArg Dom.roster hd).trans rfl⟩
  · have hexec := execJoinRequest_front hgot hin hid
    rw [hk, if_neg (by decide), if_pos hn] at hexec
    obtain ⟨_, _, _, _, _, _, hd, _⟩ := sendCtl_talked (nextFree { tookGot s r with dom := { (tookGot s r).dom with
      nonces := s.dom.nonces ++ [(src, via, BitVec.ofNat 64 (Config.freeNat s.free))] } }) src
      (.challenge (BitVec.ofNat 64 (Config.freeNat s.free)) via)
    exact ⟨_, _, hexec, (congrArg Dom.nonces hd).trans rfl, sendCtl_sends _ _ _, (congrArg Dom.roster hd).trans rfl⟩
  · have hexec := execJoinRequest_front hgot hin hid
    rw [hk, if_neg (by decide), if_neg hn, judgeJoin_refuses (by exact hbad)] at hexec
    obtain ⟨_, _, _, _, _, _, hd, _⟩ := sendCtl_talked (dropNonce (tookGot s r) src via) src (.joinRefuse via)
    exact ⟨_, hexec, sendCtl_sends _ _ _, (congrArg Dom.roster hd).trans rfl, (congrArg Dom.members hd).trans rfl⟩
  · have hexec := execJoinRequest_front hgot hin hid
    rw [hk, if_neg (by decide), if_neg hn,
      judgeJoin_admits (s := tookGot s r) (by exact hmem) (by exact hp) (by exact hm) (by exact ha) hd] at hexec
    obtain ⟨hroster, hmembers, hnonces, hsends, htold⟩ := admitPkg_admits (dropNonce (tookGot s r) src via) src via n pair _ rfl
    obtain ⟨_, _, hcmds, hstreams, _⟩ := htold
    refine ⟨_, hexec, hroster, hmembers, fun x hx hxs hxv => ?_, hsends, hcmds, hstreams⟩
    rw [hnonces] at hx
    have := (List.mem_filter.mp hx).2
    simp [hxs, hxv] at this
  · obtain ⟨mb, mx, hend, hrep⟩ := endSlow_replied (s := { tookGot s r with dom := { (tookGot s r).dom with join := none } }) hq 6 []
    have hexec := execJoinComplete_refused hj hgot
    refine ⟨_, hexec, ?_, ?_, replied_of_mail rfl hrep, ?_⟩
    · rw [hend]
    · rw [hend]; rfl
    · rw [hend]; rfl
  · have hexec := execJoinComplete_granted hj hgot hr
    have hk : (joined s r k keeper count).dom.keeper = false := by
      show (k == keeper) = false
      simpa using hne
    have hflood := floodCtl_spoken (joined s r k keeper count) 0 (.neighbour k)
    have hsends : ∀ n, n < 72 → (getPort s n).state = 2 →
        sends (floodCtl (joined s r k keeper count) 0 (.neighbour k)) (nearby n) (.neighbour k) := fun n hn hst =>
      floodCtl_sends _ hn hst (by unfold nearby; omega)
    generalize floodCtl (joined s r k keeper count) 0 (.neighbour k) = u at hexec hflood hsends
    have hlinks := reportLinks_spoken (hflood.talked.keeper.trans hk)
    generalize reportLinks u = v at hexec hlinks
    have hall := hflood.trans hlinks
    have hmail : v.mail = s.mail := hall.told.mail
    obtain ⟨mb, mx, hend, hrep⟩ := endSlow_replied (s := v) (by rw [hmail]; exact hq) 0 (leN 2 (k % 32768))
    have hvbead : v.bead = (joined s r k keeper count).bead := hall.told.ended.bead
    obtain ⟨_, _, _, _, _, _, hd, _⟩ := hall.talked
    have htold := hall.told
    obtain ⟨_, _, hcmds, hstreams, _⟩ := htold
    refine ⟨_, hexec, ?_⟩
    rw [hend] at hrep ⊢
    exact ⟨(congrArg Dom.join hd).trans rfl, (congrArg Dom.inDomain hd).trans rfl, (congrArg Dom.pkg hd).trans rfl,
      (congrArg Dom.pair hd).trans rfl, (congrArg Dom.keeperPkg hd).trans rfl, (congrArg Dom.keeper hd).trans hk,
      (congrArg Bead.count hvbead).trans rfl, (congrArg Bead.edge hvbead).trans rfl, replied_of_mail hmail hrep,
      fun n hn hst => hlinks.sent _ _ (hsends n hn hst), hcmds, hstreams⟩
  · have hexec := execDomainFound_due hj hgot hat
    rw [if_pos hf] at hexec
    generalize hkk : b2n s.dom.cfgPair * 32768 + (if j.want < 32768 then j.want else 0) = k at hexec
    obtain ⟨mb, mx, hend, hrep⟩ := endSlow_replied (s := becomeMember { s with dom := { s.dom with roster := [k], members := 1 } } k k)
      hq 0 (leN 2 (k % 32768))
    refine ⟨_, k, hexec, rfl, ?_⟩
    rw [hend] at hrep ⊢
    exact ⟨rfl, beq_self_eq_true k, rfl, rfl, rfl, rfl, replied_of_mail rfl hrep, rfl⟩
  · have hexec := execDomainFound_due hj hgot hat
    rw [if_neg (by rw [hf]; decide)] at hexec
    obtain ⟨mb, mx, hend, hrep⟩ := endSlow_replied (s := { s with dom := { s.dom with join := none } }) hq 6 []
    refine ⟨_, hexec, ?_⟩
    rw [hend] at hrep ⊢
    exact ⟨rfl, rfl, replied_of_mail rfl hrep⟩

end Sys2Proof.Machine
end

section
/-! The keepers of a domain, and the marks they send (13, 01). -/

namespace Sys2Proof.Machine

open Sys2Proof Sys2Proof.Ob

theorem Told.bead {s t : State} (h : Told s t) : t.bead = s.bead := h.ended.bead

theorem Told.cmds {s t : State} (h : Told s t) : t.cmds = s.cmds := by
  obtain ⟨_, _, h, _⟩ := h
  exact h

theorem nearby_ne_zero (p : Nat) : nearby p ≠ 0 := by unfold nearby; omega

/-! ## Claims -/

section Claims

variable {s : State}

theorem execKeeperClaim_first (hin : s.dom.inDomain = true) (hk : s.dom.keeper = false) (hlate : s.dom.lastMark + 4000000 ≤ s.time)
    (hc : s.dom.claim = none) : exec (.keeperClaim none) s =
      .next (floodCtl { s with dom := { s.dom with claim := some (selfPkg s, s.time) } } 0 (.claim (selfPkg s))) := by
  show execKeeperClaim none s = _
  unfold execKeeperClaim
  rw [if_neg (by simp [hin, hk]; omega), hc]

theorem execKeeperClaim_heard {k t0 n src : Nat} {r : List (Nat × Ctl)} (hin : s.dom.inDomain = true) (hk : s.dom.keeper = false)
    (hlate : s.dom.lastMark + 4000000 ≤ s.time) (hc : s.dom.claim = some (k, t0)) (hgot : s.dom.got = (src, .claim n) :: r) :
    exec (.keeperClaim (some n)) s = .next (if n < k then
      floodCtl { tookGot s r with dom := { (tookGot s r).dom with claim := some (n, s.time) } } src (.claim n) else tookGot s r) := by
  have hc' : (tookGot s r).dom.claim = some (k, t0) := hc
  show execKeeperClaim (some n) s = _
  unfold execKeeperClaim
  rw [if_neg (by simp [hin, hk]; omega), hc]
  dsimp only
  rw [takeGot_front hgot (by simp)]
  dsimp only
  rw [adoptClaim, hc'] <;> rfl

/-- The tree of a keeper that knows no link has no branch. -/
theorem treeOf_nil (root : Nat) : treeOf [] root = [] := by
  have hlinks : linksAt [] root = [] := List.flatMap_eq_nil_iff.mpr fun p _ => rfl
  simp only [treeOf, List.length_nil, Nat.mul_zero, Nat.zero_add, bfs, hlinks, List.foldl_nil]

theorem reportLinks_keeper (hin : s.dom.inDomain = true) (hk : s.dom.keeper = true) :
    ∃ g, reportLinks s = { s with dom := { s.dom with got := g } } := by
  have key : ∀ (l : List Nat) (t : State), t.dom.inDomain = true → t.dom.keeper = true → ∃ g,
      l.foldl (fun t p => if (getPort t p).state = 2 then reportLink t p (getPort t p) true else t) t
        = { t with dom := { t.dom with got := g } } := by
    intro l
    induction l with
    | nil => exact fun t _ _ => ⟨t.dom.got, rfl⟩
    | cons p l ih =>
      intro t ht hk
      rw [List.foldl_cons]
      split
      · obtain ⟨g, hg⟩ := ih (reportLink t p (getPort t p) true) (by simp [reportLink, ht, hk]) (by simp [reportLink, ht, hk])
        refine ⟨g, hg.trans ?_⟩
        simp only [reportLink, ht, hk, Bool.not_true, Bool.false_eq_true, if_false, if_true]
      · exact ih t ht hk
  exact key _ s hin hk

/-- A new keeper, whose graph had no link, loses nobody as it applies the reports that have come. -/
theorem keeperReroutes_noEdge (h : s.dom.edges = []) :
    ∃ ed g, keeperReroutes s = sendRoutes { s with dom := { s.dom with edges := ed, got := g } } := by
  have hnone : ∀ t, s.dom.roster.filter (fun m => (reached [] (selfPkg s)).contains m && !(reached t (selfPkg s)).contains m) = [] :=
    fun t => List.filter_eq_nil_iff.mpr fun m _ => by
      simp only [reached, List.map_nil, List.contains_cons, List.contains_nil, Bool.or_false, Bool.and_eq_true, beq_iff_eq,
        Bool.not_eq_true', Bool.or_eq_false_iff, beq_eq_false_iff_ne]
      exact fun ⟨he, hne, _⟩ => hne he
  unfold keeperReroutes
  dsimp only
  rw [h, treeOf_nil, hnone]
  exact ⟨_, _, rfl⟩

/-- What an election leaves of the domain. -/
structure Elected (s t : State) (k : Nat) : Prop where
  keeperPkg : t.dom.keeperPkg = k
  keeper : t.dom.keeper = (k == selfPkg s)
  claim : t.dom.claim = none
  lastMark : t.dom.lastMark = s.time
  inDomain : t.dom.inDomain = true
  cmds : t.cmds = s.cmds

theorem Elected.talked {s t u : State} {k : Nat} (h : Elected s t k) (ht : Talked t u) (hc : u.cmds = t.cmds) : Elected s u k := by
  obtain ⟨_, _, _, _, _, _, hd, _⟩ := ht
  exact ⟨by rw [hd]; exact h.keeperPkg, by rw [hd]; exact h.keeper, by rw [hd]; exact h.claim, by rw [hd]; exact h.lastMark,
    by rw [hd]; exact h.inDomain, hc.trans h.cmds⟩

theorem sendRoutes_elected {s t : State} {k : Nat} (h : Elected s t k) : Elected s (sendRoutes t) k := by
  obtain ⟨u, rs, ch, hu, _, _, hd, _⟩ := sendRoutes_routed t
  obtain ⟨_, _, _, _, _, _, hud, _⟩ := hu
  rw [hud] at hd
  exact ⟨by rw [hd]; exact h.keeperPkg, by rw [hd]; exact h.keeper, by rw [hd]; exact h.claim, by rw [hd]; exact h.lastMark,
    by rw [hd]; exact h.inDomain, (sendRoutes_leaves t).1.cmds.trans h.cmds⟩

/-- The elected state, as links are reported and, by the keeper, routes sent. -/
theorem electedReports {s t : State} {k : Nat} (h : Elected s t k) (hed : t.dom.edges = []) :
    Elected s (if (reportLinks t).dom.keeper then keeperReroutes (reportLinks t) else reportLinks t) k := by
  cases hk : t.dom.keeper
  · have hsp := reportLinks_spoken hk
    rw [if_neg (by rw [hsp.talked.keeper, hk]; decide)]
    exact h.talked hsp.talked hsp.told.cmds
  · obtain ⟨g, hg⟩ := reportLinks_keeper h.inDomain hk
    obtain ⟨ed, g', hre⟩ := keeperReroutes_noEdge (s := reportLinks t) (by rw [hg]; exact hed)
    rw [if_pos (by rw [hg]; exact hk), hre, hg]
    exact sendRoutes_elected ⟨h.keeperPkg, h.keeper, h.claim, h.lastMark, h.inDomain, h.cmds⟩

theorem execKeeperElect_due {k t0 : Nat} (hin : s.dom.inDomain = true) (hc : s.dom.claim = some (k, t0))
    (hdue : t0 + 1000000 ≤ s.time) : ∃ t, exec .keeperElect s = .next t ∧ Elected s t k := by
  obtain ⟨ty, mx, hev⟩ := event_tallyOnly s crownLoc 0x24 (subjEndpoint (k * 4096 + crownLoc)) s.dom.keeperPkg 0
  have hexec : exec .keeperElect s = .next (
      let s2 := { s with
        tally := ty, io := { s.io with msix := mx }
        dom := { s.dom with keeperPkg := k, keeper := k == selfPkg s, claim := none, lastMark := s.time, edges := [] } }
      if (reportLinks s2).dom.keeper then keeperReroutes (reportLinks s2) else reportLinks s2) := by
    show execKeeperElect s = _
    unfold execKeeperElect
    rw [hc]
    dsimp only
    rw [if_neg (by simp [hin]; omega), hev]
  exact ⟨_, hexec, electedReports ⟨rfl, rfl, rfl, rfl, hin, rfl⟩ rfl⟩

theorem execKeeperElect_early {k t0 : Nat} (hc : s.dom.claim = some (k, t0)) (h : s.time < t0 + 1000000) :
    exec .keeperElect s = .next s := by
  show execKeeperElect s = _
  unfold execKeeperElect
  rw [hc]
  dsimp only
  rw [if_pos (by simp [h])]

/-- A package that leaves the domain keeps the sets of its cores and no table of the domain. -/
theorem leaveDomain_leaves (s : State) : (leaveDomain s).dom.inDomain = false ∧ (leaveDomain s).dom.keeper = false ∧
    (leaveDomain s).dom.pkg = 0 ∧ (leaveDomain s).dom.pair = false ∧ (leaveDomain s).dom.roster = [] ∧
    (leaveDomain s).dom.routes = [] ∧ (leaveDomain s).sets = s.sets := by
  unfold leaveDomain refLostNow
  split
  · exact ⟨rfl, rfl, rfl, rfl, rfl, rfl, rfl⟩
  · exact ⟨rfl, rfl, rfl, rfl, rfl, rfl, rfl⟩

theorem membersLeft_sets (l : List Nat) (s : State) : (l.foldl memberLeft s).sets = s.sets := by
  induction l generalizing s with
  | nil => rfl
  | cons m l ih =>
    obtain ⟨_, hsets, _⟩ := memberLeft_spec s m
    rw [List.foldl_cons, ih, hsets]

theorem execDomainSplit_higher {p k : Nat} (hin : s.dom.inDomain = true) (hup : (getPort s p).state = 2)
    (hk : k < s.dom.keeperPkg) : exec (.domainSplit p k) s = .next (leaveDomain ((s.dom.roster.filter fun m => m != selfPkg s).foldl
      memberLeft (event s crownLoc 0x25 (subjKind 8 0) s.dom.domId.toNat k))) := by
  show execDomainSplit p k s = _
  unfold execDomainSplit
  rw [if_neg (by simp [hin, hup, hk])]

theorem execDomainSplit_lower {p k : Nat} (hk : s.dom.keeperPkg ≤ k) : exec (.domainSplit p k) s = .next s := by
  show execDomainSplit p k s = _
  unfold execDomainSplit
  rw [if_pos (by simp [hk])]

end Claims

/-! ## Marks -/

section Marks

variable {s : State}

theorem toChildren_spoken (s : State) (m : Ctl) : Spoken s (toChildren s m) :=
  Spoken.foldl (fun t p => sendCtl_spoken t (nearby p) m) _ s

theorem toChildren_sends {p : Nat} (hp : p ∈ s.dom.children) (m : Ctl) : sends (toChildren s m) (nearby p) m := by
  have key : ∀ (l : List Nat) (t : State), p ∈ l → sends (l.foldl (fun t q => sendCtl t (nearby q) m) t) (nearby p) m := by
    intro l
    induction l with
    | nil => exact fun _ h => absurd h List.not_mem_nil
    | cons q l ih =>
      intro t h
      rcases List.mem_cons.mp h with rfl | h
      · exact (Spoken.foldl (fun t q => sendCtl_spoken t (nearby q) m) l _).sent _ _ (sendCtl_sends t _ m)
      · exact ih _ h
  exact key _ s hp

/-- A probe asks one member, and counts. -/
theorem probeOne_leaves (s : State) : Told s (probeOne s) ∧ Sent s (probeOne s) ∧
    (probeOne s).dom.lastMark = s.dom.lastMark := by
  unfold probeOne
  split
  · next m _ =>
    have hsp := sendCtl_spoken { s with dom := { s.dom with probeNext := s.dom.probeNext + 1 } } m .probe
    obtain ⟨_, _, _, _, _, _, hd, _⟩ := hsp.talked
    refine ⟨Told.trans (t := { s with dom := { s.dom with probeNext := s.dom.probeNext + 1 } }) (Same.refl _) hsp.told,
      fun d c h => hsp.sent d c ((Sent.of_eq rfl rfl rfl : Sent s _) d c h), (congrArg Dom.lastMark hd).trans rfl⟩
  · exact ⟨.refl s, fun _ _ h => h, rfl⟩

theorem execTimeMark_keeper (hin : s.dom.inDomain = true) (hk : s.dom.keeper = true) : exec .timeMark s =
    .next (if s.time < s.dom.lastMark + 125000 then s
      else probeOne (toChildren { s with dom := { s.dom with lastMark := s.time } } (.timeMark s.time 0))) := by
  show execTimeMark s = _
  unfold execTimeMark
  rw [if_neg (by simp [hin]), if_pos hk]
  split <;> rfl

theorem execTimeMark_member {src t0 d : Nat} {r : List (Nat × Ctl)} (hin : s.dom.inDomain = true) (hk : s.dom.keeper = false)
    (hgot : s.dom.got = (src, .timeMark t0 d) :: r) : exec .timeMark s =
      .next (toChildren (followMark (tookGot s r) ((s.time : Int) - (t0 + markDelay s src d : Nat))) (.timeMark t0 (markDelay s src d))) := by
  show execTimeMark s = _
  unfold execTimeMark
  rw [if_neg (by simp [hin]), if_neg (by rw [hk]; decide), takeGot_front hgot rfl]

/-- Following a mark changes the domain's clock, and the bead of the domain where one was followed before. -/
theorem followMark_eq (s : State) (ph : Int) : ∃ b, followMark s ph = { s with
      bead := b, dom := { s.dom with lastMark := s.time, phase := some ph, aligned := s.bead.activeRef == 6 } } ∧
    (s.bead.activeRef ≠ 6 ∨ s.dom.phase = none → b = s.bead) ∧
    (∀ old, s.bead.activeRef = 6 → s.dom.phase = some old →
      b = { s.bead with from3 := ((s.bead.from3 : Int) + 3 * (ph - old)).toNat }) := by
  unfold followMark
  dsimp only
  split
  · next old hold =>
    split
    · next h6 =>
      refine ⟨_, rfl, fun h => ?_, fun o _ ho => ?_⟩
      · rcases h with h | h
        · exact absurd h6 h
        · rw [hold] at h; cases h
      · rw [hold] at ho
        cases ho
        rfl
    · next h6 => exact ⟨s.bead, rfl, fun _ => rfl, fun _ h => absurd h h6⟩
  · next hnone => exact ⟨s.bead, rfl, fun _ => rfl, fun o _ ho => by rw [hnone] at ho; cases ho⟩

/-! ## Bead marks -/

/-- A boundary leaves the domain but for its alignment, and sends nothing. -/
theorem beadEdge_sent (s : State) : (beadEdge s false).dom.ctl = s.dom.ctl ∧ (beadEdge s false).io = s.io ∧
    (beadEdge s false).crown = s.crown ∧ (beadEdge s false).dom.got = s.dom.got ∧ (beadEdge s false).time = s.time := by
  obtain ⟨parts, cmds, he⟩ := beadEdge_eq s
  obtain ⟨b, al, hb⟩ := beadLatch_beadOnly (nextBead s)
  rw [he, hb]
  exact ⟨rfl, rfl, rfl, rfl, rfl⟩

/-- The state in which a member has taken a mark's PERIOD, where it selects the domain bead. -/
def periodTaken (s : State) (p : W16) : State := if s.bead.refsel = 6 then { s with bead := { s.bead with period := p } } else s

theorem takeBeadMark_eq (s : State) (p : W16) (delay : Nat) : takeBeadMark s p delay =
    if awaitsDomain (periodTaken s p) then { domainEdge (periodTaken s p) with bead :=
      { (domainEdge (periodTaken s p)).bead with from3 := 3 * ((periodTaken s p).time - delay) } }
    else if s.bead.refsel = 6 ∧ s.bead.activeRef = 6 then
      placeBoundary { periodTaken s p with bead := { (periodTaken s p).bead with curPeriod := p } } delay
    else periodTaken s p := by
  unfold takeBeadMark periodTaken
  dsimp only
  split <;> rfl

/-- What the boundary of a waiting selection leaves. -/
theorem domainEdge_applies (ha : awaitsDomain s = true) : (domainEdge s).bead.activeRef = 6 ∧ (domainEdge s).bead.pendingWr = false ∧
    (domainEdge s).bead.curPeriod = s.bead.period ∧ (domainEdge s).bead.count = s.bead.count + 1 ∧
    (domainEdge s).bead.edge = s.time ∧ (domainEdge s).bead.period = s.bead.period := by
  obtain ⟨h1, _, h3, _, _, h6, _⟩ := beadEdge_starts (s := s) rfl
  unfold domainEdge
  rw [if_pos ha]
  exact ⟨rfl, rfl, h6, h1, h3, h6⟩

theorem domainEdge_sent (s : State) : (domainEdge s).dom.ctl = s.dom.ctl ∧ (domainEdge s).io = s.io ∧
    (domainEdge s).crown = s.crown ∧ (domainEdge s).dom.got = s.dom.got := by
  obtain ⟨h1, h2, h3, h4, _⟩ := beadEdge_sent s
  unfold domainEdge
  split
  · exact ⟨h1, h2, h3, h4⟩
  · exact ⟨rfl, rfl, rfl, rfl⟩

theorem placeBoundary_sent (s : State) (delay : Nat) : (placeBoundary s delay).dom.ctl = s.dom.ctl ∧
    (placeBoundary s delay).io = s.io ∧ (placeBoundary s delay).crown = s.crown ∧ (placeBoundary s delay).dom.got = s.dom.got := by
  obtain ⟨h1, h2, h3, h4, _⟩ := beadEdge_sent s
  unfold placeBoundary
  dsimp only
  split
  · exact ⟨h1, h2, h3, h4⟩
  · exact ⟨rfl, rfl, rfl, rfl⟩

/-- Taking a mark sends nothing and leaves the messages that have come. -/
theorem takeBeadMark_sent (s : State) (p : W16) (delay : Nat) : Sent s (takeBeadMark s p delay) ∧
    (takeBeadMark s p delay).dom.got = s.dom.got := by
  have hp : (periodTaken s p).dom = s.dom ∧ (periodTaken s p).io = s.io ∧ (periodTaken s p).crown = s.crown := by
    unfold periodTaken
    split
    · exact ⟨rfl, rfl, rfl⟩
    · exact ⟨rfl, rfl, rfl⟩
  obtain ⟨hdom, hio, hcrown⟩ := hp
  rw [takeBeadMark_eq]
  generalize periodTaken s p = u at hdom hio hcrown ⊢
  split
  · obtain ⟨h1, h2, h3, h4⟩ := domainEdge_sent u
    exact ⟨.of_eq (h1.trans (by rw [hdom])) (by show (domainEdge u).io.wire = _; rw [h2, hio])
      (by show (domainEdge u).crown.fl0Wait = _; rw [h3, hcrown]), h4.trans (by rw [hdom])⟩
  · split
    · obtain ⟨h1, h2, h3, h4⟩ := placeBoundary_sent { u with bead := { u.bead with curPeriod := p } } delay
      exact ⟨.of_eq (h1.trans (by rw [← hdom])) (by rw [h2, ← hio]) (by rw [h3, ← hcrown]), h4.trans (by rw [← hdom])⟩
    · exact ⟨.of_eq (by rw [hdom]) (by rw [hio]) (by rw [hcrown]), by rw [hdom]⟩

/-- The boundary that a mark places, on the domain bead. -/
theorem placeBoundary_places (hsel : s.bead.refsel = 6) (hact : s.bead.activeRef = 6) (hin : s.dom.inDomain = true)
    (hk : s.dom.keeper = false) (hper : s.bead.period = s.bead.curPeriod) (delay : Nat) :
    (placeBoundary s delay).bead.period = s.bead.period ∧ (placeBoundary s delay).bead.curPeriod = s.bead.curPeriod ∧
      (placeBoundary s delay).bead.from3 = 3 * (s.time - delay) ∧
      (s.bead.en = true → s.bead.edge + s.bead.curPeriod.toNat * 62500 / 6 ≤ s.time →
        (placeBoundary s delay).bead.count = s.bead.count + 1 ∧ (placeBoundary s delay).bead.edge = s.time) ∧
      (s.time < s.bead.edge + s.bead.curPeriod.toNat * 62500 / 6 →
        (placeBoundary s delay).bead.count = s.bead.count ∧ (placeBoundary s delay).bead.edge = s.bead.edge) := by
  unfold placeBoundary
  dsimp only
  split
  · next hc =>
    have hc' := (Bool.and_eq_true _ _).mp hc
    have hdue : s.bead.edge + s.bead.curPeriod.toNat * 62500 / 6 ≤ s.time := of_decide_eq_true hc'.2
    obtain ⟨h1, _, h3, _, _, h6, _, hidle, happlies, _⟩ := beadEdge_starts (s := s) rfl
    refine ⟨h6, ?_, rfl, fun _ _ => ⟨h1, h3⟩, fun h => absurd h (by omega)⟩
    cases hpw : s.bead.pendingWr
    · exact (hidle hpw).1
    · exact ((happlies hpw (by simp [refRuns, hsel, hin, hk]) (by simp [awaitsDomain, hact])).1).trans hper
  · next hc =>
    refine ⟨rfl, rfl, rfl, fun hen hdue => absurd ?_ hc, fun _ => ⟨rfl, rfl⟩⟩
    rw [hen, Bool.true_and]
    exact decide_eq_true hdue

/-- What taking a mark does to the bead. -/
theorem takeBeadMark_takes {p : W16} {delay : Nat} {t : State} (hin : s.dom.inDomain = true) (hk : s.dom.keeper = false)
    (ht : t = takeBeadMark s p delay) :
    (s.bead.refsel ≠ 6 → t.bead = s.bead) ∧ (s.bead.refsel = 6 → t.bead.period = p) ∧
      (s.bead.refsel = 6 → s.bead.activeRef ≠ 6 → s.bead.pendingWr = false → t.bead = { s.bead with period := p }) ∧
      (s.bead.refsel = 6 → s.bead.activeRef ≠ 6 → s.bead.pendingWr = true →
        t.bead.activeRef = 6 ∧ t.bead.pendingWr = false ∧ t.bead.curPeriod = p ∧ t.bead.count = s.bead.count + 1 ∧
        t.bead.edge = s.time ∧ t.bead.from3 = 3 * (s.time - delay)) ∧
      (s.bead.refsel = 6 → s.bead.activeRef = 6 → t.bead.curPeriod = p ∧ t.bead.from3 = 3 * (s.time - delay) ∧
        (s.bead.en = true → s.bead.edge + p.toNat * 62500 / 6 ≤ s.time → t.bead.count = s.bead.count + 1 ∧ t.bead.edge = s.time) ∧
        (s.time < s.bead.edge + p.toNat * 62500 / 6 → t.bead.count = s.bead.count ∧ t.bead.edge = s.bead.edge)) := by
  rw [takeBeadMark_eq] at ht
  by_cases hsel : s.bead.refsel = 6
  · have htaken : periodTaken s p = { s with bead := { s.bead with period := p } } := if_pos hsel
    rw [htaken] at ht
    by_cases hact : s.bead.activeRef = 6
    · rw [if_neg (by simp [awaitsDomain, hact]), if_pos ⟨hsel, hact⟩] at ht
      obtain ⟨h1, h2, h3, h4, h5⟩ := placeBoundary_places (s := { s with bead := { s.bead with period := p, curPeriod := p } })
        hsel hact hin hk rfl delay
      rw [← ht] at h1 h2 h3 h4 h5
      exact ⟨fun h => absurd hsel h, fun _ => h1, fun _ h => absurd hact h, fun _ h => absurd hact h, fun _ _ => ⟨h2, h3, h4, h5⟩⟩
    · cases hpw : s.bead.pendingWr
      · rw [if_neg (by simp [awaitsDomain, hpw]), if_neg fun h => hact h.2] at ht
        rw [ht]
        exact ⟨fun h => absurd hsel h, fun _ => rfl, fun _ _ _ => rfl, fun _ _ h => absurd h (by decide), fun _ h => absurd h hact⟩
      · have hwaits : awaitsDomain { s with bead := { s.bead with period := p } } = true := by
          simp only [awaitsDomain, hpw, hsel, hin, hk, beq_self_eq_true, bne_iff_ne.mpr hact, Bool.not_false, Bool.and_self]
        rw [if_pos hwaits] at ht
        obtain ⟨h1, h2, h3, h4, h5, h6⟩ := domainEdge_applies hwaits
        rw [ht]
        exact ⟨fun h => absurd hsel h, fun _ => h6, fun _ _ h => absurd h (by decide), fun _ _ _ => ⟨h1, h2, h3, h4, h5, rfl⟩,
          fun _ h => absurd h hact⟩
  · have htaken : periodTaken s p = s := if_neg hsel
    have hno : awaitsDomain s = false := by
      simp only [awaitsDomain, beq_eq_false_iff_ne.mpr hsel, Bool.and_false, Bool.false_and]
    rw [htaken, if_neg (by rw [hno]; decide), if_neg fun h => hsel h.1] at ht
    rw [ht]
    exact ⟨fun _ => rfl, fun h => absurd h hsel, fun h => absurd h hsel, fun h => absurd h hsel, fun h => absurd h hsel⟩

theorem execBeadMark_keeper (hin : s.dom.inDomain = true) (hk : s.dom.keeper = true) (hen : s.bead.en = true)
    (he : s.time = s.bead.edge) : exec .beadMark s = .next (toChildren s (.beadMark s.bead.count s.bead.curPeriod 0)) := by
  show execBeadMark s = _
  unfold execBeadMark
  rw [if_neg (by simp [hin]), if_pos hk]
  simp [onlyIf, hen, he]

theorem execBeadMark_member {src d : Nat} {count : W64} {p : W16} {r : List (Nat × Ctl)} (hin : s.dom.inDomain = true)
    (hk : s.dom.keeper = false) (hgot : s.dom.got = (src, .beadMark count p d) :: r) : exec .beadMark s =
      .next (takeBeadMark (toChildren (tookGot s r) (.beadMark count p (markDelay s src d))) p (markDelay s src d)) := by
  show execBeadMark s = _
  unfold execBeadMark
  rw [if_neg (by simp [hin]), if_neg (by rw [hk]; decide), takeGot_front hgot rfl]

end Marks

/-- Settles O43 (the length of a bead of the domain and where a mark places a boundary are the model's choices, log entry 16, and the
PERIOD of the bead in progress log entry 48): claims and marks are sent as messages, and a mark changes the bead at its boundary. -/
theorem keepersAndMarks : Obligations.KeepersAndMarks := by
  unfold Obligations.KeepersAndMarks
  refine ⟨⟨fun s hin hk hlate => ⟨fun hc => ?_, fun k t0 n src r hc hgot => ⟨fun hn => ?_, fun hn => ?_⟩⟩,
      fun s k t0 hin hc => ⟨fun hdue => ?_, fun h => execKeeperElect_early hc h⟩,
      fun s p k hin hup => ⟨fun hk => ?_, fun hk => execDomainSplit_lower hk⟩⟩,
    fun s hin hk => ⟨fun hdue => ?_, fun h => ?_, fun hen he => ?_⟩,
    fun s src t0 d delay ph r hin hk hgot hdelay hph => ?_,
    fun s src d delay count p r hin hk hgot hdelay => ?_,
    fun s hin hact => ⟨fun hdue => ?_, fun h => ?_⟩⟩
  · have hexec := execKeeperClaim_first hin hk hlate hc
    have hsp := floodCtl_spoken { s with dom := { s.dom with claim := some (selfPkg s, s.time) } } 0 (.claim (selfPkg s))
    have hsends : ∀ p, p < 72 → (getPort s p).state = 2 → sends (floodCtl { s with
        dom := { s.dom with claim := some (selfPkg s, s.time) } } 0 (.claim (selfPkg s))) (nearby p) (.claim (selfPkg s)) :=
      fun p hp hst => floodCtl_sends _ hp hst (nearby_ne_zero p)
    generalize floodCtl { s with dom := { s.dom with claim := some (selfPkg s, s.time) } } 0 (.claim (selfPkg s)) = u
      at hexec hsp hsends
    obtain ⟨_, _, _, _, _, _, hd, _⟩ := hsp.talked
    exact ⟨_, hexec, (congrArg Dom.claim hd).trans rfl, hsends, (congrArg Dom.keeper hd).trans hk,
      (congrArg Dom.roster hd).trans rfl, hsp.told.cmds.trans rfl⟩
  · have hexec := execKeeperClaim_heard hin hk hlate hc hgot
    rw [if_pos hn] at hexec
    have hsp := floodCtl_spoken { tookGot s r with dom := { (tookGot s r).dom with claim := some (n, s.time) } } src (.claim n)
    have hsends : ∀ p, p < 72 → (getPort s p).state = 2 → nearby p ≠ src → sends (floodCtl { tookGot s r with
        dom := { (tookGot s r).dom with claim := some (n, s.time) } } src (.claim n)) (nearby p) (.claim n) :=
      fun p hp hst hne => floodCtl_sends _ hp hst hne
    generalize floodCtl { tookGot s r with dom := { (tookGot s r).dom with claim := some (n, s.time) } } src (.claim n) = u
      at hexec hsp hsends
    obtain ⟨_, _, _, _, _, _, hd, _⟩ := hsp.talked
    exact ⟨_, hexec, (congrArg Dom.claim hd).trans rfl, (congrArg Dom.got hd).trans rfl, hsends, hsp.told.cmds.trans rfl⟩
  · have hexec := execKeeperClaim_heard hin hk hlate hc hgot
    rw [if_neg (by omega)] at hexec
    exact hexec
  · obtain ⟨t, hexec, h⟩ := execKeeperElect_due hin hc hdue
    exact ⟨t, hexec, h.keeperPkg, h.keeper, h.claim, h.lastMark, h.inDomain, h.cmds⟩
  · have hexec := execDomainSplit_higher hin hup hk
    obtain ⟨ty, mx, hev⟩ := event_tallyOnly s crownLoc 0x25 (subjKind 8 0) s.dom.domId.toNat k
    have hsets := membersLeft_sets (s.dom.roster.filter fun m => m != selfPkg s)
      (event s crownLoc 0x25 (subjKind 8 0) s.dom.domId.toNat k)
    generalize (s.dom.roster.filter fun m => m != selfPkg s).foldl memberLeft
      (event s crownLoc 0x25 (subjKind 8 0) s.dom.domId.toNat k) = u at hexec hsets
    obtain ⟨h1, h2, h3, h4, h5, h6, h7⟩ := leaveDomain_leaves u
    exact ⟨_, hexec, h1, h2, h3, h4, h5, h6, h7.trans (hsets.trans (by rw [hev]))⟩
  · have hexec := execTimeMark_keeper hin hk
    rw [if_neg (by omega)] at hexec
    have hsp := toChildren_spoken { s with dom := { s.dom with lastMark := s.time } } (.timeMark s.time 0)
    obtain ⟨htold, hsent, hmark⟩ := probeOne_leaves (toChildren { s with dom := { s.dom with lastMark := s.time } } (.timeMark s.time 0))
    obtain ⟨_, _, _, _, _, _, hd, _⟩ := hsp.talked
    exact ⟨_, hexec, hmark.trans ((congrArg Dom.lastMark hd).trans rfl), fun p hp => hsent _ _ (toChildren_sends (by exact hp) _),
      (hsp.told.trans htold).bead.trans rfl, (hsp.told.trans htold).cmds.trans rfl⟩
  · have hexec := execTimeMark_keeper hin hk
    rwa [if_pos h] at hexec
  · have hsp := toChildren_spoken s (.beadMark s.bead.count s.bead.curPeriod 0)
    obtain ⟨_, _, _, _, _, _, hd, _⟩ := hsp.talked
    exact ⟨_, execBeadMark_keeper hin hk hen he, hsp.told.bead, fun p hp => toChildren_sends hp _,
      (congrArg Dom.lastMark hd).trans rfl⟩
  · have hexec := execTimeMark_member hin hk hgot
    subst hdelay hph
    obtain ⟨b, hb, hstands, hmoves⟩ := followMark_eq (tookGot s r) ((s.time : Int) - (t0 + markDelay s src d : Nat))
    rw [hb] at hexec
    refine ⟨_, hexec, ?_⟩
    generalize hu : ({ tookGot s r with
      bead := b
      dom := { (tookGot s r).dom with
        lastMark := (tookGot s r).time, phase := some ((s.time : Int) - (t0 + markDelay s src d : Nat))
        aligned := (tookGot s r).bead.activeRef == 6 } } : State) = u at hexec
    have hsp := toChildren_spoken u (.timeMark t0 (markDelay s src d))
    obtain ⟨_, _, _, _, _, _, hd, _⟩ := hsp.talked
    have hbead : (toChildren u (.timeMark t0 (markDelay s src d))).bead = b := hsp.told.bead.trans (by rw [← hu])
    refine ⟨(congrArg Dom.got hd).trans (by rw [← hu]; rfl), (congrArg Dom.lastMark hd).trans (by rw [← hu]; rfl),
      (congrArg Dom.phase hd).trans (by rw [← hu]; rfl), (congrArg Dom.aligned hd).trans (by rw [← hu]; rfl),
      fun p hp => toChildren_sends (by rw [← hu]; exact hp) _, fun h => hbead.trans (hstands h),
      fun old h1 h2 => hbead.trans (hmoves old h1 h2)⟩
  · have hexec := execBeadMark_member hin hk hgot
    subst hdelay
    have hsp := toChildren_spoken (tookGot s r) (.beadMark count p (markDelay s src d))
    have hsends : ∀ q ∈ s.dom.children, sends (toChildren (tookGot s r) (.beadMark count p (markDelay s src d))) (nearby q)
        (.beadMark count p (markDelay s src d)) := fun q hq => toChildren_sends (s := tookGot s r) hq _
    generalize toChildren (tookGot s r) (.beadMark count p (markDelay s src d)) = u at hexec hsp hsends
    obtain ⟨htime, _, _, _, _, _, hd, _⟩ := hsp.talked
    have hub : u.bead = s.bead := hsp.told.bead
    have hut : u.time = s.time := htime
    have huin : u.dom.inDomain = true := (congrArg Dom.inDomain hd).trans hin
    have huk : u.dom.keeper = false := (congrArg Dom.keeper hd).trans hk
    obtain ⟨hsent, hgot'⟩ := takeBeadMark_sent u p (markDelay s src d)
    have htaken := takeBeadMark_takes (p := p) (delay := markDelay s src d) huin huk rfl
    rw [hub, hut] at htaken
    exact ⟨_, hexec, hgot'.trans ((congrArg Dom.got hd).trans rfl), fun q hq => hsent _ _ (hsends q hq), htaken⟩
  · have hexec : exec .beadAlignLost s = .next (event (beadFallback s) crownLoc 0x26 (subjKind 8 0) s.bead.count.toNat 0) := by
      show execBeadAlignLost s = _
      unfold execBeadAlignLost
      rw [onlyIf, if_pos (by simp [hin, hact]; omega)]
    obtain ⟨ty, mx, hev⟩ := event_tallyOnly (beadFallback s) crownLoc 0x26 (subjKind 8 0) s.bead.count.toNat 0
    rw [hev] at hexec
    refine ⟨_, hexec, ?_, rfl, rfl, rfl⟩
    simp [beadFallback, hact, refClocked]
  · show execBeadAlignLost s = _
    unfold execBeadAlignLost
    rw [onlyIf, if_neg (by simp [hin, hact]; omega)]

end Sys2Proof.Machine
end

section
/-! Commit reports between packages, announce slots and mirror words (13). -/

namespace Sys2Proof.Machine

open Sys2Proof Sys2Proof.Ob

/-! ## Commands that have gone -/

theorem dropCmd_gone {s : State} {c : Cmd} {id : Nat} (h : c.id = id ∨ ∀ x ∈ s.cmds, x.id ≠ id) :
    ∀ x ∈ (dropCmd s c).cmds, x.id ≠ id := by
  intro x hx
  obtain ⟨hmem, hne⟩ := List.mem_filter.mp (show x ∈ s.cmds.filter fun y => y.id != c.id from hx)
  rcases h with h | h
  · rw [← h]
    simpa using hne
  · exact h x hmem

/-- A command that has retired is no longer there. -/
theorem retire_gone (s : State) (c : Cmd) (status addr : Nat) (overrun keepNews : Bool) :
    ∀ x ∈ (retire s c status addr overrun keepNews).cmds, x.id ≠ c.id := by
  have hfirst : ∀ x ∈ (dropCmd (writeEntry (releaseCmd s c keepNews) c status addr overrun) c).cmds, x.id ≠ c.id :=
    dropCmd_gone (Or.inl rfl)
  have hrest : ∀ (l : List Cmd) (t : State), (∀ x ∈ t.cmds, x.id ≠ c.id) → ∀ x ∈ (l.foldl (fun t x =>
      dropCmd (writeEntry (releaseCmd t x false) x stCancelled 0 false) x) t).cmds, x.id ≠ c.id := by
    intro l
    induction l with
    | nil => exact fun t h => h
    | cons y l ih =>
      exact fun t h => ih _ (dropCmd_gone (Or.inr (by rw [writeEntry_cmds]; exact h)))
  unfold retire
  dsimp only
  split
  · exact hfirst
  · exact hrest _ _ hfirst

theorem getCmd_none {s : State} {id : Nat} (h : ∀ x ∈ s.cmds, x.id ≠ id) : getCmd s id = none :=
  List.find?_eq_none.mpr fun x hx => by simpa using h x hx

theorem complete_gone {status : Nat} (h : status ≠ stMemUncorrectable) (s : State) (c : Cmd) (addr : Nat) :
    getCmd (complete s c status addr) c.id = none := by
  rw [complete, if_neg h]
  exact getCmd_none (retire_gone s c status addr false false)

/-! ## Subscriptions -/

section Subscriptions

variable {s : State}

/-- Sending a control message leaves the subscriptions and the messages that have come. -/
theorem sendCtl_dom (s : State) (dst : Nat) (m : Ctl) : (sendCtl s dst m).dom.subs = s.dom.subs ∧
    (sendCtl s dst m).dom.got = s.dom.got := by
  rw [sendCtl_eq]
  obtain ⟨_, _, _, _, _, _, _, _, _, _, _, _, _, _, _, _, _, _, hdom, _⟩ :=
    injectFl0_same (s.crown.fl0Wait ++ [(dst, .ctl dst s.dom.ctlSeq m)]) (keptCtl s dst m)
  exact ⟨(congrArg Dom.subs hdom).trans rfl, (congrArg Dom.got hdom).trans rfl⟩

theorem execSubscription_subscribe {src slot seq cmd : Nat} {once : Bool} {r : List (Nat × Ctl)}
    (hgot : s.dom.got = (src, .subscribe slot seq once cmd) :: r) : exec .subscription s =
      .next (if localDep s slot seq ≠ .unmet ∨ once = true then
          sendCtl (tookGot s r) src (.report cmd (depCode (localDep s slot seq)))
        else if 8192 ≤ s.dom.subs.length then sendCtl (tookGot s r) src (.report cmd 3)
        else { s with dom := { s.dom with
          got := r, subs := s.dom.subs ++ [{ src := src, cmd := cmd, slot := slot, seq := seq }] } }) := by
  have hdep : localDep (tookGot s r) slot seq = localDep s slot seq := rfl
  have hlen : (tookGot s r).dom.subs = s.dom.subs := rfl
  have hcond : ((localDep s slot seq != .unmet || once) = true) = (localDep s slot seq ≠ .unmet ∨ once = true) := by
    rw [Bool.or_eq_true, bne_iff_ne]
  show execSubscription s = _
  unfold execSubscription
  rw [takeGot_front hgot rfl]
  simp only [takeSub, hdep, hlen, hcond]
  rfl

theorem execSubscription_withdraw {src cmd : Nat} {r : List (Nat × Ctl)} (hgot : s.dom.got = (src, .withdraw cmd) :: r) :
    exec .subscription s = .next { s with dom := { s.dom with
      got := r, subs := s.dom.subs.filter fun x => !(x.src == src && x.cmd == cmd) } } := by
  show execSubscription s = _
  unfold execSubscription
  rw [takeGot_front hgot rfl] <;> rfl

/-- A held subscription that is met is answered, or has its command go on. -/
theorem execSubscription_held {x : Sub} {r : List Sub} (hgot : s.dom.got = []) (hsubs : s.dom.subs = x :: r) (hx : x ∉ r)
    (hm : localDep s x.slot x.seq = .met) : exec .subscription s = .next (if x.src ≠ 65536 then
        sendCtl { s with dom := { s.dom with subs := r } } x.src (.report x.cmd 1)
      else modCmd { s with dom := { s.dom with subs := r } } x.cmd
        fun c => { c with dep := c.dep.map fun d => { d with met := true } }) := by
  have hfilter : (s.dom.subs.filter fun y => y != x) = r := by
    rw [hsubs, List.filter_cons_of_neg (by simp)]
    exact List.filter_eq_self.mpr fun y hy => bne_iff_ne.mpr fun h => hx (h ▸ hy)
  have hfind : (s.dom.subs.find? fun y => localDep s y.slot y.seq != .unmet) = some x := by
    rw [hsubs, List.find?_cons_of_pos (by rw [hm]; decide)]
  show execSubscription s = _
  unfold execSubscription
  rw [takeGot_none (by rw [hgot]; exact fun _ h => absurd h List.not_mem_nil)]
  dsimp only
  rw [hfind]
  simp only [answerSub, hfilter, hm, if_true]
  rfl

/-! ## Answers -/

theorem execSubscriptionReply_front {src cmd a : Nat} {c : Cmd} {d : Dep} {r : List (Nat × Ctl)}
    (hgot : s.dom.got = (src, .report cmd a) :: r) (hc : getCmd s cmd = some c) (hq : c.stage = .queued) (hd : c.dep = some d)
    (hpkg : d.pkg = src) (hown : d.own = false) (hmet : d.met = false) : exec .subscriptionReply s = .next
      (if a = 1 then modCmd (tookGot s r) cmd fun x => { x with dep := some { d with met := true } }
        else if a = 3 then modCmd (tookGot s r) cmd fun x => { x with dep := some { d with busyAt := some s.time } }
        else complete (tookGot s r) c stRemoteUnreachable 0) := by
  have hc' : getCmd (tookGot s r) cmd = some c := hc
  have hcond : (c.stage != .queued || d.pkg != src || d.own || d.met) = false := by
    simp only [hq, hpkg, hown, hmet, bne_self_eq_false, Bool.or_self]
  show execSubscriptionReply s = _
  unfold execSubscriptionReply
  rw [takeGot_front hgot rfl]
  simp only [takeReport, hc', hd, hcond, Bool.false_eq_true, if_false]
  rfl

theorem execSubscriptionRetry_busy {id t0 : Nat} {c : Cmd} {d : Dep} (hc : getCmd s id = some c) (hq : c.stage = .queued)
    (hd : c.dep = some d) (hb : d.busyAt = some t0) : exec (.subscriptionRetry id) s = .next (if t0 + 100000 ≤ s.time then
      (if d.own then subscribeOwn s id d
        else sendCtl (modCmd s id fun x => { x with dep := some { d with busyAt := none } }) d.pkg (.subscribe d.slot d.seq false id))
      else s) := by
  have hcond : ((c.stage == .queued && decide (t0 + 100000 ≤ s.time)) = true) = (t0 + 100000 ≤ s.time) := by
    rw [hq]
    simp
  show execSubscriptionRetry id s = _
  unfold execSubscriptionRetry
  simp only [hc, hd, hb, onlyIf, hcond]

end Subscriptions

/-! ## Registers -/

section Registers

variable {s : State}

theorem execAnnounceWrite_awake (ha : awake s) {n : Nat} (hn : n < 256) (v : W32) :
    exec (.announceWrite n v) s = .next (announce s n v) := by
  show execAnnounceWrite n v s = _
  rw [execAnnounceWrite, hostAccess_awake ha.1 ha.2, if_pos hn]

theorem execMirrorWrite_awake (ha : awake s) {w : Nat} (hw : w < 512) (v : W32) :
    exec (.mirrorWrite w v) s = .next (mirrorSet s w v) := by
  show execMirrorWrite w v s = _
  rw [execMirrorWrite, hostAccess_awake ha.1 ha.2, if_pos hw]

/-- A word with one bit for each number of a list that a test selects. -/
theorem selectedBits (p : Nat → Bool) (i : Nat) : ∀ (l : List Nat) (m : W32), (∀ j ∈ l, j < 32) →
    (l.foldl (fun m j => if p j then m ||| BitVec.ofNat 32 (2 ^ j) else m) m).getLsbD i =
      (m.getLsbD i || decide (i ∈ l) && p i) := by
  intro l
  induction l with
  | nil => exact fun m _ => by simp
  | cons j l ih =>
    intro m h
    rw [List.foldl_cons, ih _ fun k hk => h k (List.mem_cons_of_mem _ hk)]
    have hj : j < 32 := h j List.mem_cons_self
    have hbit : (BitVec.ofNat 32 (2 ^ j)).getLsbD i = decide (i = j) := by
      rw [BitVec.getLsbD_ofNat, Nat.testBit_two_pow]
      by_cases hij : i = j
      · simp [hij, hj]
      · simp [hij, Ne.symm hij]
    cases hp : p j
    · rw [if_neg (by decide)]
      by_cases hij : i = j
      · simp [hij, hp]
      · simp [hij]
    · rw [if_pos rfl, BitVec.getLsbD_or, hbit]
      by_cases hij : i = j
      · simp [hij, hp]
      · simp [hij]

/-- The streams of a mirror word that are open. -/
def openBits (s : State) (w : Nat) : W32 :=
  (List.range 32).foldl (fun m i => if (getStream s (32 * w + i)).isOpen then m ||| BitVec.ofNat 32 (2 ^ i) else m) 0

theorem openBits_getLsbD (s : State) (w : Nat) {i : Nat} (hi : i < 32) :
    (openBits s w).getLsbD i = (getStream s (32 * w + i)).isOpen := by
  rw [openBits, selectedBits (fun i => (getStream s (32 * w + i)).isOpen) i _ _ fun j hj => List.mem_range.mp hj]
  simp [hi]

theorem mirrorSet_eq (s : State) (w : Nat) (v : W32) : mirrorSet s w v = { s with dom := { s.dom with
    mirror := tput 0 s.dom.mirror w ((tget 0 s.dom.mirror w &&& openBits s w) ||| (v &&& ~~~openBits s w))
    badMirror := s.dom.badMirror || (tget 0 s.dom.mirror w ^^^ v) &&& openBits s w != 0 } } := rfl

/-- A word has a bit of a mask where the two differ, or it is 0. -/
theorem changedBits (a v m : W32) : ((a ^^^ v) &&& m = 0) ↔ ∀ i, i < 32 → m.getLsbD i = true → a.getLsbD i = v.getLsbD i := by
  constructor
  · intro h i hi hm
    have := congrArg (fun x : W32 => x.getLsbD i) h
    simpa [hm] using this
  · intro h
    apply BitVec.eq_of_getLsbD_eq
    intro i hi
    cases hm : m.getLsbD i
    · simp [hm]
    · simp [hm, h i hi hm]

end Registers

/-- Settles O44 (that only a write which would change the bit of an open stream sets BAD_MIRROR is the model's choice, log entry 109): a
subscription is sent its answer or kept, an answer changes the dependency it is for, and a register keeps what R360 keeps. -/
theorem commitReportsAndDomainRegisters : Obligations.CommitReportsAndDomainRegisters := by
  unfold Obligations.CommitReportsAndDomainRegisters
  refine ⟨⟨fun s src slot seq cmd once r hgot => ⟨fun h => ?_, fun hu ho hl => ?_, fun hu ho hl => ?_⟩,
      fun s src cmd r hgot => execSubscription_withdraw hgot,
      fun s x r hgot hsubs hx hm => ?_,
      fun s src cmd a c d r hgot hc hq hd hpkg hown hmet => ⟨fun ha => ?_, fun ha => ?_, fun ha => ?_⟩,
      fun s id t0 c d hc hq hd hb => ⟨fun hdue hown => ?_, fun hdue hown hl => ?_, fun h => ?_⟩⟩,
    fun s n v ha hn => ⟨fun h => ?_, fun he hv => ?_⟩, fun s w v ha hw => ?_⟩
  · have hexec := execSubscription_subscribe hgot
    rw [if_pos h] at hexec
    obtain ⟨h1, h2⟩ := sendCtl_dom (tookGot s r) src (.report cmd (depCode (localDep s slot seq)))
    exact ⟨_, hexec, h1, h2, sendCtl_sends _ _ _⟩
  · have hexec := execSubscription_subscribe hgot
    rw [if_neg (by simp [hu, ho]), if_neg (by omega)] at hexec
    exact hexec
  · have hexec := execSubscription_subscribe hgot
    rw [if_neg (by simp [hu, ho]), if_pos hl] at hexec
    exact ⟨_, hexec, (sendCtl_dom (tookGot s r) src (.report cmd 3)).1, sendCtl_sends _ _ _⟩
  · have hexec := execSubscription_held hgot hsubs hx hm
    by_cases hsrc : x.src = 65536
    · rw [if_neg (by simpa using hsrc)] at hexec
      refine ⟨_, hexec, rfl, fun h => absurd hsrc h, fun c d _ hc hd => ?_⟩
      have hmod := getCmd_modCmd_at (t := { s with dom := { s.dom with subs := r } }) (id := x.cmd) (c := c)
        (f := fun c => { c with dep := c.dep.map fun d => { d with met := true } }) hc fun _ h => h
      rw [hmod, hd] <;> rfl
    · rw [if_pos hsrc] at hexec
      exact ⟨_, hexec, (sendCtl_dom { s with dom := { s.dom with subs := r } } x.src (.report x.cmd 1)).1,
        fun _ => sendCtl_sends _ _ _, fun _ _ h => absurd h hsrc⟩
  · have hexec := execSubscriptionReply_front hgot hc hq hd hpkg hown hmet
    rw [if_pos ha] at hexec
    exact hexec
  · have hexec := execSubscriptionReply_front hgot hc hq hd hpkg hown hmet
    rw [if_neg (by omega), if_pos ha] at hexec
    exact hexec
  · have hexec := execSubscriptionReply_front hgot hc hq hd hpkg hown hmet
    rw [if_neg (by omega), if_neg (by omega)] at hexec
    have hgone := complete_gone (show stRemoteUnreachable ≠ stMemUncorrectable by decide) (tookGot s r) c 0
    rw [getCmd_id hc] at hgone
    exact ⟨_, hexec, hgone, (complete_ended (by decide) (tookGot s r) c 0).sets⟩
  · have hexec := execSubscriptionRetry_busy hc hq hd hb
    rw [if_pos hdue, if_neg (by rw [hown]; decide)] at hexec
    exact hexec
  · have hexec := execSubscriptionRetry_busy hc hq hd hb
    rw [if_pos hdue, if_pos hown, subscribeOwn, if_neg (by omega)] at hexec
    exact ⟨_, hexec, getCmd_modCmd_at (t := { s with dom := { s.dom with
      subs := s.dom.subs ++ [{ src := 65536, cmd := id, slot := d.slot, seq := d.seq }] } })
      (f := fun c => { c with dep := some { d with busyAt := none } }) hc fun _ h => h, rfl⟩
  · have hexec := execSubscriptionRetry_busy hc hq hd hb
    rw [if_neg (by omega)] at hexec
    exact hexec
  · rw [execAnnounceWrite_awake ha hn, announce, if_neg fun hc => ?_]
    have hboth := (Bool.and_eq_true _ _).mp hc
    rcases h with h | h
    · exact absurd hboth.1 (by rw [h]; decide)
    · exact absurd hboth.2 (by rw [h]; decide)
  · rw [execAnnounceWrite_awake ha hn, announce, if_pos (by rw [he, hv]; rfl)]
  · have hexec := execMirrorWrite_awake ha hw v
    rw [mirrorSet_eq] at hexec
    refine ⟨_, hexec, fun i hi => ?_, fun n hn => tget_tput_ne _ _ _ _ _ hn, fun ⟨i, hi, ho, hne⟩ => ?_, fun h => ?_, rfl, rfl⟩
    · show (tget 0 (tput 0 s.dom.mirror w _) w).getLsbD i = _
      rw [tget_tput_same]
      simp only [BitVec.getLsbD_or, BitVec.getLsbD_and, BitVec.getLsbD_not, openBits_getLsbD s w hi, hi, decide_true, Bool.true_and]
      split <;> simp_all
    · have hchange : (tget 0 s.dom.mirror w ^^^ v) &&& openBits s w ≠ 0 := fun hz =>
        hne ((changedBits _ _ _).mp hz i hi ((openBits_getLsbD s w hi).trans ho))
      simp only [bne_iff_ne.mpr hchange, Bool.or_true]
    · have hsame : (tget 0 s.dom.mirror w ^^^ v) &&& openBits s w = 0 :=
        (changedBits _ _ _).mpr fun i hi ho => h i hi ((openBits_getLsbD s w hi).symm.trans ho)
      simp only [hsame, bne_self_eq_false, Bool.or_false]

end Sys2Proof.Machine
end

section
/-! The mailboxes: how a request is handled and answered, and the registers (14). -/

namespace Sys2Proof.Machine

open Sys2Proof Sys2Proof.Ob

/-! ## Requests and their replies -/

section Requests

variable {s u : State} {m ty : Nat} {b : Bytes} {rest : List Req} {f : State → Bytes → Ans}

theorem takesNext_free (h : takesNext s m = true) : mailFree s m = true := ((Bool.and_eq_true _ _).mp h).2

/-- A reply to an empty mailbox is written there, and its vector is raised. -/
theorem giveReply_free (h : mailFree s m = true) (b : Bytes) : giveReply s m b = { s with
    mail := { s.mail with f2h := tput {} s.mail.f2h m { data := b, full := true } }
    io := { s.io with msix := s.io.msix ++ [m] } } := if_pos h

/-- A request that is handled now is answered in the state that its handling leaves. -/
theorem request_now {st : Nat} {res : Bytes} (h : asks s m ty b rest) (hf : f (setReqs s m rest) b = .now u st res) :
    request s m ty f = giveReply u m (replyBytes b st res) := by
  obtain ⟨htake, ⟨at_, hreqs⟩, hty, x, hx, hres⟩ := h
  unfold request
  simp only [htake, hreqs, hx, hty, hres, hf, Bool.not_true, Bool.false_eq_true, if_false, ne_eq, not_true_eq_false]

/-- A request that takes its time waits for its answer. -/
theorem request_later (h : asks s m ty b rest) (hf : f (setReqs s m rest) b = .later u) :
    ∃ q, request s m ty f = { u with mail := { u.mail with slow := u.mail.slow ++ [(m, q)] } } ∧ q.msg = b := by
  obtain ⟨htake, ⟨at_, hreqs⟩, hty, x, hx, hres⟩ := h
  refine ⟨{ msg := b, at_ := at_ }, ?_, rfl⟩
  unfold request
  simp only [htake, hreqs, hx, hty, hres, hf, Bool.not_true, Bool.false_eq_true, if_false, ne_eq, not_true_eq_false]

/-- A request with a byte that its type keeps at 0 is not handled. -/
theorem request_reserved {q : Req} {x : ReqType} (htake : takesNext s m = true) (hreqs : getReqs s m = q :: rest)
    (hty : fieldLE q.msg 0 1 = ty) (hx : typeOf s q.msg = some x) (hres : resvZero x q.msg = false) :
    request s m ty f = giveReply (setReqs s m rest) m (replyBytes q.msg 2 []) := by
  unfold request
  simp only [htake, hreqs, hx, hty, hres, Bool.not_true, Bool.not_false, Bool.false_eq_true, if_false, if_true, ne_eq,
    not_true_eq_false]

theorem asks_free (h : asks s m ty b rest) : mailFree s m = true := takesNext_free h.1

/-- The reply in the mailbox, where what the request did left the mailboxes. -/
theorem giveReply_answered (h : asks s m ty b rest) (hu : u.mail = (setReqs s m rest).mail) (st : Nat) (res : Bytes) :
    answered s (giveReply u m (replyBytes b st res)) m b rest st res := by
  have hfree : mailFree u m = true := by
    have : mailFree u m = mailFree s m := by
      simp only [mailFree, getF2h, getReplies, hu]
      rfl
    exact this.trans (asks_free h)
  rw [giveReply_free hfree]
  refine ⟨?_, tget_tput_same _ _ _ _, List.mem_append_right _ (List.mem_singleton.mpr rfl), ?_, ?_⟩
  · show tget [] u.mail.reqs m = rest
    rw [hu]
    exact tget_tput_same _ _ _ _
  · show tget [] u.mail.replies m = tget [] s.mail.replies m
    rw [hu]
    rfl
  · show u.mail.slow = s.mail.slow
    rw [hu]
    rfl

/-- An instruction that is a request, in a state whose mailboxes its handling leaves: what is left, and the answer. -/
theorem exec_request_answers {i : Instr} {st : Nat} {res : Bytes} (hi : exec i s = .next (request s m ty f)) (h : asks s m ty b rest)
    (hf : f (setReqs s m rest) b = .now u st res) (hu : u.mail = (setReqs s m rest).mail) :
    ∃ mb mx, exec i s = .next { u with mail := mb, io := { u.io with msix := mx } } ∧
      answered s { u with mail := mb, io := { u.io with msix := mx } } m b rest st res := by
  have hfree : mailFree u m = true := by
    have : mailFree u m = mailFree s m := by
      simp only [mailFree, getF2h, getReplies, hu]
      rfl
    exact this.trans (asks_free h)
  have hgive := giveReply_free hfree (replyBytes b st res)
  have hans := giveReply_answered h hu st res
  rw [hgive] at hans
  exact ⟨_, _, hi.trans (congrArg Host.Outcome.next ((request_now h hf).trans hgive)), hans⟩

/-- The request out of its channel is out of nothing else. -/
@[simp] theorem getClient_setReqs (s : State) (m : Nat) (l : List Req) (n : Nat) : getClient (setReqs s m l) n = getClient s n := rfl
@[simp] theorem getRing_setReqs (s : State) (m : Nat) (l : List Req) (c n : Nat) : getRing (setReqs s m l) c n = getRing s c n := rfl
@[simp] theorem getSched_setReqs (s : State) (m : Nat) (l : List Req) (n : Nat) : getSched (setReqs s m l) n = getSched s n := rfl
@[simp] theorem getPart_setReqs (s : State) (m : Nat) (l : List Req) (n : Nat) : getPart (setReqs s m l) n = getPart s n := rfl
@[simp] theorem getStream_setReqs (s : State) (m : Nat) (l : List Req) (n : Nat) : getStream (setReqs s m l) n = getStream s n := rfl
@[simp] theorem cmds_setReqs (s : State) (m : Nat) (l : List Req) : (setReqs s m l).cmds = s.cmds := rfl
@[simp] theorem clients_setReqs (s : State) (m : Nat) (l : List Req) : (setReqs s m l).clients = s.clients := rfl
@[simp] theorem streams_setReqs (s : State) (m : Nat) (l : List Req) : (setReqs s m l).streams = s.streams := rfl
@[simp] theorem dom_setReqs (s : State) (m : Nat) (l : List Req) : (setReqs s m l).dom = s.dom := rfl
@[simp] theorem sec_setReqs (s : State) (m : Nat) (l : List Req) : (setReqs s m l).sec = s.sec := rfl

end Requests

/-! ## The host link -/

theorem linkTrained_tallyOnly (s : State) (m01 m23 : Bool) : TallyOnly { s with crown := { s.crown with
    linkUp := m01 || m23, degraded := m01 != m23, modules := (if m01 then 3 else 0) ||| (if m23 then 12 else 0) } }
    (linkTrained s m01 m23) := by
  unfold linkTrained
  dsimp only
  generalize ((if m01 then 3 else 0) ||| (if m23 then 12 else 0) : BitVec 4) = n
  split
  · exact event_tallyOnly _ _ _ _ _ _
  · exact .refl _

/-- Each pair of modules has two bits. -/
theorem moduleBits (m01 m23 : Bool) : ∀ n : BitVec 4, n = (if m01 then 3 else 0) ||| (if m23 then 12 else 0) →
    n.getLsbD 0 = m01 ∧ n.getLsbD 1 = m01 ∧ n.getLsbD 2 = m23 ∧ n.getLsbD 3 = m23 := by
  revert m01 m23
  decide

/-! ## Mailbox registers -/

section Boxes

variable {s : State} {m w : Nat} {v : W32}

theorem execMailboxDataWrite_awake (ha : awake s) (hm : mailOk m = true) (hw : w < 16) :
    exec (.mailboxDataWrite m w v) s = .next (mailData s m w v) := by
  show execMailboxDataWrite m w v s = _
  rw [execMailboxDataWrite, hostAccess_awake ha.1 ha.2, if_pos (by simp [hm, hw])]

theorem execMailboxSend_awake (ha : awake s) (hm : mailOk m = true) :
    exec (.mailboxSend m v) s = .next (mailSend s m v) := by
  show execMailboxSend m v s = _
  rw [execMailboxSend, hostAccess_awake ha.1 ha.2, if_pos hm]

theorem execMailboxClear_awake (ha : awake s) (hm : mailOk m = true) :
    exec (.mailboxClear m v) s = .next (mailClear s m v) := by
  show execMailboxClear m v s = _
  rw [execMailboxClear, hostAccess_awake ha.1 ha.2, if_pos hm]

/-- What a rejected write leaves: REJECT, and the error as the function reports it. -/
theorem mailReject_spec (s : State) (m r : Nat) : ∀ t, t = mailReject s m r → getH2f t m = { getH2f s m with reject := true } ∧
    t.io.aerAbort = true ∧ t.io.aerLog = some (0x20000 + 0x80 * m + r) ∧
    (s.io.aerFatal = false → t.io.aerAdvisory = true ∧ t.io.errs = (if s.io.corEn then s.io.errs ++ [.cor] else s.io.errs)) ∧
    (s.io.aerFatal = true → t.io.errs = s.io.errs ++ [.fatal]) ∧ t.cmds = s.cmds := by
  intro t ht
  subst ht
  have hf : (setH2f s m { getH2f s m with reject := true }).io = s.io := rfl
  unfold mailReject aerReport
  dsimp only
  rw [hf]
  split
  · next h => exact ⟨tget_tput_same _ _ _ _, rfl, rfl, fun h' => absurd h (by rw [h']; decide), fun _ => rfl, rfl⟩
  · next h => exact ⟨tget_tput_same _ _ _ _, rfl, rfl, fun _ => ⟨rfl, rfl⟩, fun h' => absurd h' h, rfl⟩

theorem mailSend_good (hfull : (getH2f s m).full = false) (h1 : 1 ≤ bits v.toNat 6 0) (h64 : bits v.toNat 6 0 ≤ 64) :
    mailSend s m v = wakeCall (setH2f s m { getH2f s m with
      full := true, len := bits v.toNat 6 0, msg := (dataBytes (getH2f s m).data).take (bits v.toNat 6 0) }) := by
  have hbox : boxSend (getH2f s m) v = some { getH2f s m with
      full := true, len := bits v.toNat 6 0, msg := (dataBytes (getH2f s m).data).take (bits v.toNat 6 0) } := by
    unfold boxSend
    dsimp only
    rw [if_neg (by simp [hfull]; omega)]
  rw [mailSend, hbox]

theorem mailSend_bad (h : (getH2f s m).full = true ∨ bits v.toNat 6 0 = 0 ∨ 64 < bits v.toNat 6 0) :
    mailSend s m v = mailReject s m 0x40 := by
  have hbox : boxSend (getH2f s m) v = none := by
    unfold boxSend
    dsimp only
    rw [if_pos (by simpa [or_assoc] using h)]
  rw [mailSend, hbox]

theorem served_awake (h : served s m = true) (hfull : (getF2h s m).full = false) :
    (!served s m || (getF2h s m).full) = false := by rw [h, hfull]; rfl

/-- A message of no known type is answered BAD_TYPE where nothing waits before it. -/
theorem execMailboxReply_bad {q : Req} {l : List Req} (hs : served s m = true)
    (hslow : (s.mail.slow.any fun x => x.1 == m) = false) (hrep : getReplies s m = []) (hfull : (getF2h s m).full = false)
    (hreqs : getReqs s m = q :: l) (hty : typeOf s q.msg = none) :
    exec (.mailboxReply m) s = .next (giveReply (setReqs s m l) m (replyBytes q.msg 1 [])) := by
  have hfind : (s.mail.slow.find? fun x => x.1 == m) = none :=
    List.find?_eq_none.mpr fun x hx h => List.any_eq_false.mp hslow x hx h
  have hsettle : settleStop s m = s := by rw [settleStop, hfind]
  have hfree : mailFree s m = true := by rw [mailFree, hfull, hrep]; rfl
  have htakes : takesNext s m = true := by rw [takesNext, hs, hslow, hfree]; rfl
  show execMailboxReply m s = _
  unfold execMailboxReply
  rw [if_neg (by rw [served_awake hs hfull]; decide), hrep]
  dsimp only
  rw [hsettle, settleBad, if_neg (by rw [htakes]; decide), hreqs]
  dsimp only
  rw [hty]
  exact congrArg Host.Outcome.next (if_pos rfl)

end Boxes

/-- Settles O45 (the form of the error report of a rejected write is presumed, log entry 49): a register takes a write or rejects it, and
a request is handled only where every reserved byte is 0. -/
theorem hostLinkAndMailboxes : Obligations.HostLinkAndMailboxes := by
  unfold Obligations.HostLinkAndMailboxes
  refine ⟨⟨fun s m01 m23 hup hoff => ?_, fun s m w v ha hm hw => ⟨fun hfull => ?_, fun hfull => ?_⟩,
      fun s m v ha hm => ⟨fun hfull h1 h64 => ?_, fun h => ?_, fun h => ?_, fun h => ?_⟩,
      fun s m hs => ⟨fun hfull => ?_, fun b r hrep hfull => ?_, fun q l hslow hrep hfull hreqs hty => ?_⟩⟩,
    fun s m ty f b q rest x hmem htake hreqs hmsg hty hx hres => ?_⟩
  · have hexec : exec (.hostLinkTrain m01 m23) s = .next (linkTrained s m01 m23) := by
      show execHostLinkTrain m01 m23 s = _
      rw [execHostLinkTrain, onlyIf, if_pos (by simp [hup, hoff])]
    obtain ⟨ty, mx, hlink⟩ := linkTrained_tallyOnly s m01 m23
    rw [hlink] at hexec
    obtain ⟨h0, h1, h2, h3⟩ := moduleBits m01 m23 _ rfl
    exact ⟨_, hexec, rfl, rfl, h0, h1, h2, h3, rfl, rfl, rfl⟩
  · rw [execMailboxDataWrite_awake ha hm hw, mailData, boxData, if_neg (by rw [hfull]; decide)]
  · refine ⟨_, execMailboxDataWrite_awake ha hm hw, ?_⟩
    have hbad : mailData s m w v = mailReject s m (4 * w) := by rw [mailData, boxData, if_pos hfull]
    exact mailReject_spec s m (4 * w) _ hbad
  · rw [execMailboxSend_awake ha hm, mailSend_good hfull h1 h64]
  · obtain ⟨h1, h2, h3, _, _, h6⟩ := mailReject_spec s m 0x40 _ (mailSend_bad h)
    exact ⟨_, execMailboxSend_awake ha hm, h1, h2, h3, h6⟩
  · rw [execMailboxClear_awake ha hm, mailClear, if_pos h]
  · rw [execMailboxClear_awake ha hm, mailClear, if_neg (by rw [h]; decide)]
  · have hexec : exec (.mailboxTake m) s = .next (setReqs (setH2f s m (boxTake (getH2f s m))) m
        (getReqs s m ++ [{ msg := (getH2f s m).msg, at_ := s.time }])) := by
      show execMailboxTake m s = _
      rw [execMailboxTake, onlyIf, if_pos (by rw [hs, hfull]; rfl)]
    exact ⟨_, hexec, tget_tput_same _ _ _ _, tget_tput_same _ _ _ _, rfl⟩
  · have hexec : exec (.mailboxReply m) s = .next (msix (setF2h (setReplies s m r) m { data := b, full := true }) m) := by
      show execMailboxReply m s = _
      rw [execMailboxReply, if_neg (by rw [served_awake hs hfull]; decide), hrep]
    exact ⟨_, hexec, tget_tput_same _ _ _ _, tget_tput_same _ _ _ _, rfl, rfl⟩
  · have hexec := execMailboxReply_bad hs hslow hrep hfull hreqs hty
    have hfree : mailFree (setReqs s m l) m = true := by
      show mailFree s m = true
      rw [mailFree, hfull, hrep]
      rfl
    rw [giveReply_free hfree] at hexec
    exact ⟨_, hexec, tget_tput_same _ _ _ _, tget_tput_same _ _ _ _, rfl⟩
  · have hreserved : ∀ g, request s m ty g = giveReply (setReqs s m rest) m (replyBytes q.msg 2 []) := fun g =>
      request_reserved htake hreqs (by rw [hmsg]; exact hty) (by rw [hmsg]; exact hx) (by rw [hmsg]; exact hres)
    rw [hmsg] at hreserved
    simp only [List.mem_cons, Prod.mk.injEq, List.not_mem_nil, or_false] at hmem
    rcases hmem with ⟨rfl, rfl⟩ | ⟨rfl, rfl⟩ | ⟨rfl, rfl⟩ | ⟨rfl, rfl⟩ | ⟨rfl, rfl⟩ | ⟨rfl, rfl⟩ | ⟨rfl, rfl⟩ | ⟨rfl, rfl⟩ |
      ⟨rfl, rfl⟩ | ⟨rfl, rfl⟩ | ⟨rfl, rfl⟩ | ⟨rfl, rfl⟩ | ⟨rfl, rfl⟩ | ⟨rfl, rfl⟩ | ⟨rfl, rfl⟩ | ⟨rfl, rfl⟩ | ⟨rfl, rfl⟩
    all_goals exact congrArg Host.Outcome.next (hreserved _)

end Sys2Proof.Machine
end

section
/-! The requests of clients: registration, ring pairs, stop and resume (14, 02, 12). -/

namespace Sys2Proof.Machine

open Sys2Proof Sys2Proof.Ob

/-! ## Tables and lists -/

/-- What reads other than the default stands in the table. -/
theorem mem_of_tget_ne {α : Type} {d : α} {k : Nat} : ∀ {t : Tab α}, tget d t k ≠ d → (k, tget d t k) ∈ t
  | [], h => absurd rfl h
  | (j, v) :: t, h => by
    by_cases hj : j = k
    · subst hj
      rw [tget, if_pos rfl]
      exact List.mem_cons_self
    · rw [tget, if_neg hj] at h ⊢
      exact List.mem_cons_of_mem _ (mem_of_tget_ne h)

/-- A step over a list of one and the same element, that is not empty, reaches what the step reaches. -/
theorem foldl_reaches {σ α : Type} {f : σ → α → σ} {c : α} {P Q : σ → Prop} (hstep : ∀ t, P t → Q (f t c)) (hback : ∀ t, Q t → P t) :
    ∀ {l : List α}, (∀ k ∈ l, k = c) → c ∈ l → ∀ {t}, P t → Q (l.foldl f t)
  | [], _, hc, _, _ => absurd hc List.not_mem_nil
  | k :: l, hl, _, t, ht => by
    have hk : k = c := hl k List.mem_cons_self
    subst hk
    have hfirst := hstep t ht
    by_cases hmem : k ∈ l
    · exact foldl_reaches hstep hback (fun x hx => hl x (List.mem_cons_of_mem _ hx)) hmem (hback _ hfirst)
    · have hnil : l = [] := List.eq_nil_iff_forall_not_mem.mpr fun x hx => hmem (hl x (List.mem_cons_of_mem _ hx) ▸ hx)
      subst hnil
      exact hfirst

/-! ## Registration -/

section Registration

variable {s : State} {m c n : Nat} {b : Bytes} {rest : List Req}

theorem getClient_setClient_ne' (s : State) (x : Client) {k : Nat} (h : k ≠ c) : getClient (setClient s c x) k = getClient s k :=
  getClient_setClient_ne s c k x h

/-- A closed stream stays closed as others close, and nothing but streams, bindings and piles changes. -/
theorem closeStreams_spec : ∀ (l : List Nat) (s : State), ∃ ss bs pm, l.foldl (fun t st => closeStream (getStream t st).part t st) s =
      { s with streams := ss, binds := bs, pile := pm } ∧
    ∀ st, (st ∈ l ∨ (getStream s st).isOpen = false) → (tget ({} : Stream) ss st).isOpen = false
  | [], s => ⟨s.streams, s.binds, s.pile, rfl, fun st h => h.resolve_left List.not_mem_nil⟩
  | k :: l, s => by
    have hclose : ∃ pm, closeStream (getStream s k).part s k = { s with
        streams := tput {} s.streams k {}, binds := tput none s.binds k none, pile := pm } := by
      unfold closeStream freeObjs
      dsimp only
      split
      · exact ⟨_, rfl⟩
      · exact ⟨s.pile, rfl⟩
    obtain ⟨pm1, hclose⟩ := hclose
    obtain ⟨ss, bs, pm, h, hst⟩ := closeStreams_spec l (closeStream (getStream s k).part s k)
    refine ⟨ss, bs, pm, by rw [List.foldl_cons, h, hclose], fun st hmem => hst st ?_⟩
    rw [hclose]
    by_cases hk : st = k
    · subst hk
      exact Or.inr (congrArg Stream.isOpen (tget_tput_same _ _ _ _))
    · refine hmem.imp (fun h => (List.mem_cons.mp h).resolve_left hk) fun h => ?_
      exact (congrArg Stream.isOpen (tget_tput_ne _ _ _ _ _ hk)).trans h

/-- What unregistering a client leaves. -/
theorem unregister_spec (s : State) (c : Nat) : ∃ ss bs pm cl, unregister s c = { s with
      streams := ss, binds := bs, pile := pm, clients := cl } ∧
    (∀ st, (getStream s st).isOpen = true → (getStream s st).client = c → (tget ({} : Stream) ss st).isOpen = false) ∧
    tget {} cl c = { acct := { (getClient s c).acct with debtNs := 0 } } ∧ ∀ n, n ≠ c → tget {} cl n = getClient s n := by
  obtain ⟨ss, bs, pm, h, hst⟩ := closeStreams_spec ((s.streams.filter fun x => x.2.isOpen && x.2.client == c).map Prod.fst) s
  refine ⟨ss, bs, pm, tput {} s.clients c { acct := { (getClient s c).acct with debtNs := 0 } }, ?_,
    fun st hopen hc => hst st (Or.inl ?_), ?_, ?_⟩
  · unfold unregister
    dsimp only
    rw [h]
    rfl
  · have hmem : (st, getStream s st) ∈ s.streams := mem_of_tget_ne fun h => by
      rw [show getStream s st = {} from h] at hopen
      cases hopen
    exact List.mem_map.mpr ⟨_, List.mem_filter.mpr ⟨hmem, by simp [hopen, hc]⟩, rfl⟩
  · exact tget_tput_same _ _ _ _
  · exact fun n hn => tget_tput_ne _ _ _ _ _ hn

/-- A client as it is registered, in the partition and with the weight of its schedule. -/
def newClient (s : State) (c : Nat) : Client :=
  { reg := true, part := (getSched s c).part, weight := (getSched s c).weight }

theorem execClientRegister_free (h : asks s m 0x01 b rest) (hc : c = fieldLE b 4 2) (hok : clientOk c = true)
    (hreg : (getClient s c).reg = false) (hp : (getPart s (getSched s c).part).en = true) : ∃ mb mx, exec (.clientRegister m) s =
      .next { setClient s c (newClient s c) with mail := mb, io := { s.io with msix := mx } } ∧
      answered s { setClient s c (newClient s c) with mail := mb, io := { s.io with msix := mx } } m b rest 0 [] := by
  subst hc
  refine exec_request_answers (i := .clientRegister m) (u := setClient (setReqs s m rest) (fieldLE b 4 2)
    (newClient s (fieldLE b 4 2))) rfl h ?_ rfl
  simp only [getClient_setReqs, getSched_setReqs, getPart_setReqs, hok, hreg, hp, Bool.not_true, Bool.false_eq_true, if_false]
  rfl

theorem execClientRegister_taken (h : asks s m 0x01 b rest) (hc : c = fieldLE b 4 2) (hok : clientOk c = true)
    (hreg : (getClient s c).reg = true) : ∃ mb mx, exec (.clientRegister m) s =
      .next { s with mail := mb, io := { s.io with msix := mx } } ∧
      answered s { s with mail := mb, io := { s.io with msix := mx } } m b rest 3 [] := by
  subst hc
  refine exec_request_answers (i := .clientRegister m) (u := setReqs s m rest) rfl h ?_ rfl
  simp only [getClient_setReqs, hok, hreg, Bool.not_true, Bool.false_eq_true, if_false, if_true]
  rfl

theorem execClientUnregister_idle (h : asks s m 0x02 b rest) (hc : c = fieldLE b 4 2) (hok : clientOk c = true)
    (hreg : (getClient s c).reg = true) (hidle : ∀ x ∈ s.cmds, x.client ≠ c) : ∃ mb mx, exec (.clientUnregister m) s =
      .next { unregister (setReqs s m rest) c with mail := mb, io := { s.io with msix := mx } } ∧
      answered s { unregister (setReqs s m rest) c with mail := mb, io := { s.io with msix := mx } } m b rest 0 [] := by
  subst hc
  obtain ⟨ss, bs, pm, cl, hun, _⟩ := unregister_spec (setReqs s m rest) (fieldLE b 4 2)
  have hany : (s.cmds.any fun x => x.client == fieldLE b 4 2) = false := any_false fun x hx => beq_eq_false_iff_ne.mpr (hidle x hx)
  have hans := exec_request_answers (i := .clientUnregister m) (u := unregister (setReqs s m rest) (fieldLE b 4 2)) (st := 0) (res := [])
    rfl h (by simp only [getClient_setReqs, cmds_setReqs, hok, hreg, hany, Bool.and_self, Bool.not_true, Bool.false_eq_true, if_false])
    (by rw [hun])
  have hio : (unregister (setReqs s m rest) (fieldLE b 4 2)).io = s.io := by rw [hun]; rfl
  rwa [hio] at hans

theorem execClientUnregister_busy (h : asks s m 0x02 b rest) (hc : c = fieldLE b 4 2) (hok : clientOk c = true)
    (hreg : (getClient s c).reg = true) (hbusy : ∃ x ∈ s.cmds, x.client = c) : ∃ mb mx, exec (.clientUnregister m) s =
      .next { s with mail := mb, io := { s.io with msix := mx } } ∧
      answered s { s with mail := mb, io := { s.io with msix := mx } } m b rest 3 [] := by
  subst hc
  have hany : (s.cmds.any fun x => x.client == fieldLE b 4 2) = true := by
    obtain ⟨x, hx, hxc⟩ := hbusy
    exact List.any_eq_true.mpr ⟨x, hx, beq_iff_eq.mpr hxc⟩
  refine exec_request_answers (i := .clientUnregister m) (u := setReqs s m rest) rfl h ?_ rfl
  simp only [getClient_setReqs, cmds_setReqs, hok, hreg, hany, Bool.and_self, Bool.not_true, Bool.false_eq_true, if_false, if_true]
  rfl

/-! ## Ring pairs -/

/-- The state with a ring pair set, whose fault is over. -/
def pairSet (s : State) (c n : Nat) (r : Ring) : State :=
  setClient (setRing s c n r) c { getClient (setRing s c n r) c with
    faultSt := (getClient (setRing s c n r) c).faultSt &&& ~~~(BitVec.ofNat 4 (2 ^ n)) }

theorem pairSet_reads (s : State) (c n : Nat) (r : Ring) : getRing (pairSet s c n r) c n = r ∧
    (∀ k, k ≠ n → getRing (pairSet s c n r) c k = getRing s c k) ∧ ∀ k, k ≠ c → getClient (pairSet s c n r) k = getClient s k := by
  have hrings : ∀ k, getRing (pairSet s c n r) c k = getRing (setRing s c n r) c k := fun k => by
    rw [getRing, pairSet, getClient_setClient_same]
    rfl
  exact ⟨(hrings n).trans (getRing_setRing_same s c n r), fun k hk => (hrings k).trans (getRing_setRing_ne s c n k r hk),
    fun k hk => (getClient_setClient_ne _ c k _ hk).trans (getClient_setClient_ne _ c k _ hk)⟩

theorem ringOf_fields (h : ringFieldsOk b = true) : ringOf b =
    { en := true, log2 := fieldLE b 7 1, sqBase := BitVec.ofNat 64 (fieldLE b 8 8), cqBase := BitVec.ofNat 64 (fieldLE b 16 8),
      pasid := BitVec.ofNat 20 (fieldLE b 24 4), vector := fieldLE b 28 2 } := by
  have h4 : 4 ≤ fieldLE b 7 1 := by
    simp only [ringFieldsOk, Bool.and_eq_true, decide_eq_true_eq] at h
    omega
  exact if_neg (by omega)

theorem execRingSet_sets (h : asks s m 0x03 b rest) (hc : c = fieldLE b 4 2) (hn : n = fieldLE b 6 1) (hok : clientOk c = true)
    (hreg : (getClient s c).reg = true) (hring : ringOk n = true)
    (hfree : (getRing s c n).en = false ∨ (getRing s c n).fault = true ∨ ∀ x ∈ s.cmds, ¬ (x.client = c ∧ x.ring = n))
    (hgood : fieldLE b 7 1 = 0 ∨ ringFieldsOk b = true) : ∃ mb mx, exec (.ringSet m) s =
      .next { pairSet s c n (ringOf b) with mail := mb, io := { s.io with msix := mx } } ∧
      answered s { pairSet s c n (ringOf b) with mail := mb, io := { s.io with msix := mx } } m b rest 0 [] := by
  subst hc hn
  have hidle : ((getRing s (fieldLE b 4 2) (fieldLE b 6 1)).en && !(getRing s (fieldLE b 4 2) (fieldLE b 6 1)).fault &&
      s.cmds.any fun x => x.client == fieldLE b 4 2 && x.ring == fieldLE b 6 1) = false := by
    rcases hfree with h | h | h
    · rw [h]; rfl
    · rw [h, Bool.not_true, Bool.and_false, Bool.false_and]
    · rw [any_false (fun x hx => by simpa using h x hx), Bool.and_false]
  have hok' : (fieldLE b 7 1 == 0 || ringFieldsOk b) = true := by
    rw [Bool.or_eq_true, beq_iff_eq]
    exact hgood
  refine exec_request_answers (i := .ringSet m) (u := pairSet (setReqs s m rest) (fieldLE b 4 2) (fieldLE b 6 1) (ringOf b)) rfl h ?_ rfl
  simp only [getClient_setReqs, getRing_setReqs, cmds_setReqs, hok, hreg, hring, hok', hidle, Bool.and_self, Bool.not_true,
    Bool.false_eq_true, if_false]
  rfl

theorem execRingSet_bad (h : asks s m 0x03 b rest) (h0 : fieldLE b 7 1 ≠ 0) (hbad : ringFieldsOk b = false) :
    ∃ mb mx, exec (.ringSet m) s = .next { s with mail := mb, io := { s.io with msix := mx } } ∧
      answered s { s with mail := mb, io := { s.io with msix := mx } } m b rest 2 [] := by
  have hbad' : (fieldLE b 7 1 == 0 || ringFieldsOk b) = false := by rw [hbad, beq_eq_false_iff_ne.mpr h0]; rfl
  refine exec_request_answers (i := .ringSet m) (u := setReqs s m rest) rfl h ?_ rfl
  simp only [hbad', Bool.and_false, Bool.not_false, if_true]
  rfl

end Registration

/-! ## Stop and resume -/

section Stops

variable {s : State} {m c : Nat} {b : Bytes} {rest : List Req}

/-- The scope of one client is that client, where it is registered. -/
theorem scopeClients_one (h0 : fieldLE b 4 1 = 0) (hc : c = fieldLE b 6 2) : (∀ k ∈ scopeClients s b, k = c) ∧
    ((getClient s c).reg = true → c ∈ scopeClients s b) := by
  subst hc
  constructor
  · intro k hk
    obtain ⟨x, hx, rfl⟩ := List.mem_map.mp hk
    have := (List.mem_filter.mp hx).2
    rw [h0, if_pos rfl, Bool.and_eq_true, beq_iff_eq] at this
    exact this.2
  · intro hreg
    have hmem : (fieldLE b 6 2, getClient s (fieldLE b 6 2)) ∈ s.clients := mem_of_tget_ne fun h => by
      rw [show getClient s (fieldLE b 6 2) = {} from h] at hreg
      cases hreg
    exact List.mem_map.mpr ⟨_, List.mem_filter.mpr ⟨hmem, by simp [hreg, h0]⟩, rfl⟩

theorem scopeOk_one (h0 : fieldLE b 4 1 = 0) (hc : c = fieldLE b 6 2) (hok : clientOk c = true) :
    scopeOk s b = (getClient s c).reg := by
  subst hc
  unfold scopeOk
  dsimp only
  rw [if_pos h0, hok, Bool.and_true]

/-- What stopping a client leaves where no command is left: the mailboxes, and the other clients. -/
structure Halting (s t : State) (c : Nat) : Prop where
  cmds : t.cmds = []
  mail : t.mail = s.mail
  others : ∀ n, n ≠ c → getClient t n = getClient s n

theorem Halting.setClient {t : State} (h : Halting s t c) (x : Client) : Halting s (setClient t c x) c :=
  ⟨h.cmds, h.mail, fun n hn => (getClient_setClient_ne t c n x hn).trans (h.others n hn)⟩

theorem cancelRange_halting {t : State} (h : Halting s t c) (ring : Nat) (q : W32) : Halting s (cancelRange t c ring q) c := by
  unfold cancelRange
  dsimp only
  rw [h.cmds]
  split
  · exact h
  · exact h.setClient _

theorem stopClient_halting {t : State} (h : Halting s t c) : Halting s (stopClient t c) c := by
  have hrings : ∀ (l : List Nat) (f : State → Nat → W32) (t : State), Halting s t c → Halting s (l.foldl (fun t ring =>
      if (getRing t c ring).en then cancelRange t c ring (f t ring) else t) t) c := by
    intro l f
    induction l with
    | nil => exact fun t h => h
    | cons r l ih =>
      intro t h
      refine ih _ ?_
      dsimp only
      split
      · exact cancelRange_halting h r _
      · exact h
  unfold stopClient
  split
  · exact h
  · exact (hrings _ (fun t ring => (getRing t c ring).tail - BitVec.ofNat 32 (max ((getRing t c ring).tail - (getRing t c ring).fetched).toNat
      ((t.cmds.filter fun x => x.client == c && x.ring == ring).foldl (fun m x => max m ((getRing t c ring).tail - x.seq).toNat) 0))) t
      h).setClient _

theorem endStop_halting {t : State} (h : Halting s t c) : Halting s (endStop t c) c := by
  unfold endStop
  split
  · exact (stopClient_halting h).setClient _
  · exact h

theorem beginStop_halting {t : State} (h : Halting s t c) : Halting s (beginStop t c) c := by
  unfold beginStop
  split
  · exact h
  · dsimp only
    rw [h.cmds]
    exact h.setClient _

theorem beginStop_reg {t : State} (h : t.cmds = []) : (getClient (beginStop t c) c).reg = (getClient t c).reg := by
  unfold beginStop
  split
  · rfl
  · dsimp only
    rw [h, getClient_setClient_same]
    rfl

/-- The stop of a client has taken effect, or is under way. -/
theorem beginStop_under (t : State) (c : Nat) : ((getClient (beginStop t c) c).stopped = true ∨ (getClient (beginStop t c) c).stopping = true) := by
  unfold beginStop
  split
  · next h => exact Or.inl h
  · dsimp only
    rw [getClient_setClient_same]
    exact Or.inr rfl

theorem endStop_stopped {t : State} (h : (getClient t c).stopped = true ∨ (getClient t c).stopping = true) :
    (getClient (endStop t c) c).stopped = true := by
  unfold endStop
  split
  · dsimp only
    rw [getClient_setClient_same]
    exact stopClient_stopped t c
  · next hn => exact h.resolve_right hn

theorem endStop_over (t : State) (c : Nat) : (getClient (endStop t c) c).stopping = false := by
  unfold endStop
  split
  · dsimp only
    rw [getClient_setClient_same]
  · next h => simpa using h

theorem endStop_ended (t : State) (c : Nat) : Ended t (endStop t c) := by
  unfold endStop
  split
  · exact (stopClient_ended t c).trans (setClient_ended _ _ _)
  · exact .refl t

/-! ### Commands that a stop kills -/

/-- The stage of a command once every running one of a list is killed. -/
def killedStage (ids : List Nat) (x : Cmd) : Stage := if x.id ∈ ids ∧ x.stage = .running then .killing else x.stage

/-- The commands `cmds` after those of a list are killed: their numbers, clients and stages. -/
def Killed (ids : List Nat) (before after : List Cmd) : Prop := ∃ f : Cmd → Cmd, after = before.map f ∧
  ∀ x ∈ before, (f x).id = x.id ∧ (f x).client = x.client ∧ (f x).stage = killedStage ids x

theorem killed_nothing {ids : List Nat} {l : List Cmd} (h : ∀ x ∈ l, ¬ (x.id ∈ ids ∧ x.stage = .running)) : Killed ids l l :=
  ⟨id, (List.map_id l).symm, fun x hx => ⟨rfl, rfl, (if_neg (h x hx)).symm⟩⟩

/-- A change of the commands of one number, of whose stage the change is known. -/
theorem killed_at {i : Nat} {l : List Cmd} {g : Cmd → Cmd} (hid : ∀ x, (g x).id = x.id) (hcl : ∀ x, (g x).client = x.client)
    (hst : ∀ x ∈ l, x.id = i → (g x).stage = killedStage [i] x) : Killed [i] l (l.map fun x => if x.id == i then g x else x) := by
  refine ⟨_, rfl, fun x hx => ?_⟩
  by_cases h : x.id = i
  · rw [if_pos (beq_iff_eq.mpr h)]
    exact ⟨hid x, hcl x, hst x hx h⟩
  · rw [if_neg (by simpa using h)]
    exact ⟨rfl, rfl, (if_neg fun hc => h (List.mem_singleton.mp hc.1)).symm⟩

theorem startKill_killed {t : State} (hnd : (t.cmds.map Cmd.id).Nodup) (i : Nat) :
    Killed [i] t.cmds (startKill t i .stop false).cmds := by
  have hone : ∀ {c : Cmd}, getCmd t i = some c → ∀ x ∈ t.cmds, x.id = i → x = c := fun hc x hx hi =>
    List.inj_on_of_nodup_map hnd hx (List.mem_of_find?_eq_some hc) (hi.trans (getCmd_id hc).symm)
  have hstay : ∀ {c : Cmd}, getCmd t i = some c → c.stage ≠ .running → ∀ x ∈ t.cmds, ¬ (x.id ∈ [i] ∧ x.stage = .running) :=
    fun hc hs x hx h => hs (hone hc x hx (List.mem_singleton.mp h.1) ▸ h.2)
  unfold startKill
  split
  · next hn =>
    refine killed_nothing fun x hx h => ?_
    have := List.find?_eq_none.mp hn x hx
    simp [List.mem_singleton.mp h.1] at this
  · next c hc =>
    split
    · next hs =>
      rw [((cancelReads_told _ _ _).trans (Told.foldl (fun t core => (sendNet_same _ _).told) _ _)).cmds]
      refine killed_at (fun _ => rfl) (fun _ => rfl) fun x hx hi => ?_
      rw [hone hc x hx hi, killedStage, if_pos ⟨List.mem_singleton.mpr (getCmd_id hc), hs⟩]
    · next hs =>
      have hno := hstay hc (by rw [hs]; decide)
      have hmark : ∀ k : Kill, Killed [i] t.cmds (t.cmds.map fun x => if x.id == i then { x with kill := some k } else x) := fun k =>
        killed_at (g := fun x => { x with kill := some k }) (fun _ => rfl) (fun _ => rfl) fun x hx _ => (if_neg (hno x hx)).symm
      split
      · cases (by assumption : KillKind.stop = KillKind.ends _ _)
      · split
        · exact killed_nothing hno
        · exact hmark _
      · exact killed_nothing hno
    · next hr _ => exact killed_nothing (hstay hc hr)

theorem Killed.ids {ids : List Nat} {l l' : List Cmd} (h : Killed ids l l') : l'.map Cmd.id = l.map Cmd.id := by
  obtain ⟨f, rfl, hf⟩ := h
  rw [List.map_map]
  exact List.map_congr_left fun x hx => (hf x hx).1

theorem Killed.trans {i : Nat} {ids : List Nat} {l l' l'' : List Cmd} (a : Killed [i] l l') (b : Killed ids l' l'') :
    Killed (i :: ids) l l'' := by
  obtain ⟨f, rfl, hf⟩ := a
  obtain ⟨g, rfl, hg⟩ := b
  refine ⟨g ∘ f, List.map_map, fun x hx => ?_⟩
  obtain ⟨h1, h2, h3⟩ := hf x hx
  obtain ⟨k1, k2, k3⟩ := hg (f x) (List.mem_map_of_mem hx)
  refine ⟨k1.trans h1, k2.trans h2, k3.trans ?_⟩
  rw [killedStage, h1, h3]
  unfold killedStage
  by_cases hi : x.id = i <;> by_cases hs : x.stage = .running <;> simp [hi, hs]

theorem startKills_killed : ∀ (ids : List Nat) (t : State), (t.cmds.map Cmd.id).Nodup →
    Killed ids t.cmds (ids.foldl (fun t i => startKill t i .stop false) t).cmds
  | [], _, _ => killed_nothing fun _ _ h => List.not_mem_nil h.1
  | i :: ids, t, hnd => by
    have hfirst := startKill_killed hnd i
    exact hfirst.trans (startKills_killed ids (startKill t i .stop false) (hfirst.ids ▸ hnd))

theorem startKills_clients : ∀ (ids : List Nat) (t : State), (ids.foldl (fun t i => startKill t i .stop false) t).clients = t.clients
  | [], _ => rfl
  | i :: ids, t => by
    obtain ⟨_, _, _, hc, _⟩ := startKill_leaves t i .stop false
    exact (startKills_clients ids _).trans hc

/-- What a stop that begins leaves, where commands of the client run: the mailboxes, the other clients, the client registered and not
yet stopped, and a command of it that is being killed, or still runs before the stop. -/
structure Stopping (s t : State) (c : Nat) : Prop where
  mail : t.mail = s.mail
  others : ∀ n, n ≠ c → getClient t n = getClient s n
  reg : (getClient t c).reg = true
  stopped : (getClient t c).stopped = false
  nodup : (t.cmds.map Cmd.id).Nodup
  held : ∃ x ∈ t.cmds, x.client = c ∧ (x.stage = .running ∨ x.stage = .killing)

/-- The stop has begun: none of the client's commands runs. -/
structure Begun (s t : State) (c : Nat) : Prop extends Stopping s t c where
  stopping : (getClient t c).stopping = true
  none : ∀ x ∈ t.cmds, x.client = c → x.stage ≠ .running

theorem beginStop_begun {t : State} (h : Stopping s t c) : Begun s (beginStop t c) c := by
  have hids : ∀ ids, ids = (t.cmds.filter fun x => x.client == c && (x.stage == .running || x.stage == .killing)).map Cmd.id →
      beginStop t c = setClient (ids.foldl (fun t i => startKill t i .stop false) t) c
        { getClient (ids.foldl (fun t i => startKill t i .stop false) t) c with stopping := true } := by
    rintro _ rfl
    rw [beginStop, if_neg (by rw [h.stopped]; decide)]
  have hbegin := hids _ rfl
  generalize hi : (t.cmds.filter fun x => x.client == c && (x.stage == .running || x.stage == .killing)).map Cmd.id = ids at hbegin
  have hmem : ∀ x ∈ t.cmds, x.client = c → x.stage = .running → x.id ∈ ids := fun x hx hc hs =>
    hi ▸ List.mem_map.mpr ⟨x, List.mem_filter.mpr ⟨hx, by simp [hc, hs]⟩, rfl⟩
  have hkill := startKills_killed ids t h.nodup
  have hclients := startKills_clients ids t
  have hended : Ended t (ids.foldl (fun t i => startKill t i .stop false) t) := Ended.foldl (fun t i => startKill_ended t i _ _) ids t
  generalize ids.foldl (fun t i => startKill t i .stop false) t = u at hbegin hkill hclients hended
  have hget : ∀ n, getClient u n = getClient t n := fun n => by rw [getClient, hclients]; rfl
  have hnodup := hkill.ids
  rw [hbegin]
  obtain ⟨f, hf, hspec⟩ := hkill
  obtain ⟨x, hx, hxc, hxs⟩ := h.held
  have hstage : ∀ y ∈ t.cmds, y.client = c → (f y).stage ≠ .running := by
    intro y hy hyc
    rw [(hspec y hy).2.2, killedStage]
    split
    · decide
    · next hn => exact fun hs => hn ⟨hmem y hy hyc hs, hs⟩
  refine { mail := hended.mail.trans h.mail, others := fun n hn => ?_, reg := ?_, stopped := ?_, nodup := ?_, held := ?_,
           stopping := ?_, none := fun y hy hyc => ?_ }
  · exact (getClient_setClient_ne u c n _ hn).trans ((hget n).trans (h.others n hn))
  · rw [getClient_setClient_same]
    exact (congrArg Client.reg (hget c)).trans h.reg
  · rw [getClient_setClient_same]
    exact (congrArg Client.stopped (hget c)).trans h.stopped
  · show (u.cmds.map Cmd.id).Nodup
    rw [hnodup]
    exact h.nodup
  · refine ⟨f x, by show f x ∈ u.cmds; rw [hf]; exact List.mem_map_of_mem hx, ((hspec x hx).2.1).trans hxc, Or.inr ?_⟩
    rw [(hspec x hx).2.2, killedStage]
    split
    · rfl
    · next hn => exact hxs.resolve_left fun hs => hn ⟨hmem x hx hxc hs, hs⟩
  · rw [getClient_setClient_same]
  · have hy' : y ∈ u.cmds := hy
    rw [hf] at hy'
    obtain ⟨z, hz, rfl⟩ := List.mem_map.mp hy'
    exact hstage z hz (((hspec z hz).2.1).symm.trans hyc)

theorem execStop_idle (h : asks s m 0x04 b rest) (h0 : fieldLE b 4 1 = 0) (hc : c = fieldLE b 6 2) (hok : clientOk c = true)
    (hreg : (getClient s c).reg = true) (hidle : s.cmds = []) : ∃ t, exec (.stop m) s = .next t ∧
      answered s t m b rest 0 [] ∧ (getClient t c).stopped = true ∧ ∀ n, n ≠ c → getClient t n = getClient s n := by
  have hscope : scopeOk (setReqs s m rest) b = true := (scopeOk_one h0 hc hok).trans hreg
  obtain ⟨hone, hmem⟩ := scopeClients_one (s := setReqs s m rest) h0 hc
  have hbegun := foldl_reaches (f := beginStop) (c := c) (P := fun t => Halting (setReqs s m rest) t c ∧ (getClient t c).reg = true)
    (Q := fun t => (Halting (setReqs s m rest) t c ∧ (getClient t c).reg = true) ∧
      ((getClient t c).stopped = true ∨ (getClient t c).stopping = true))
    (fun t ht => ⟨⟨beginStop_halting ht.1, (beginStop_reg ht.1.cmds).trans ht.2⟩, beginStop_under t c⟩) (fun _ => And.left) hone (hmem hreg)
    (t := setReqs s m rest) ⟨⟨hidle, rfl, fun _ _ => rfl⟩, hreg⟩
  generalize hu : (scopeClients (setReqs s m rest) b).foldl beginStop (setReqs s m rest) = u at hbegun
  obtain ⟨⟨hhalt, hureg⟩, hunder⟩ := hbegun
  obtain ⟨hone', hmem'⟩ := scopeClients_one (s := u) h0 hc
  have hended := foldl_reaches (f := endStop) (c := c)
    (P := fun t => Halting (setReqs s m rest) t c ∧ ((getClient t c).stopped = true ∨ (getClient t c).stopping = true))
    (Q := fun t => Halting (setReqs s m rest) t c ∧ (getClient t c).stopped = true)
    (fun t ht => ⟨endStop_halting ht.1, endStop_stopped ht.2⟩) (fun t ht => ⟨ht.1, Or.inl ht.2⟩) hone' (hmem' hureg) ⟨hhalt, hunder⟩
  have hquiet : scopeQuiet u b = true := by
    unfold scopeQuiet
    dsimp only
    rw [hhalt.cmds, List.all_nil]
  obtain ⟨mb, mx, hexec, hans⟩ := exec_request_answers (i := .stop m) (u := endStops u b) (st := 0) (res := []) rfl h
    (by simp only [hscope, hu, hquiet, Bool.not_true, Bool.false_eq_true, if_false, if_true]) hended.1.mail
  exact ⟨_, hexec, hans, hended.2, hended.1.others⟩

theorem execStop_running (h : asks s m 0x04 b rest) (h0 : fieldLE b 4 1 = 0) (hc : c = fieldLE b 6 2) (hok : clientOk c = true)
    (hreg : (getClient s c).reg = true) (hst : (getClient s c).stopped = false) (hnd : (s.cmds.map Cmd.id).Nodup)
    (hrun : ∃ x ∈ s.cmds, x.client = c ∧ x.stage = .running) : ∃ u q, exec (.stop m) s =
      .next { u with mail := { u.mail with slow := u.mail.slow ++ [(m, q)] } } ∧ q.msg = b ∧ Begun (setReqs s m rest) u c := by
  have hscope : scopeOk (setReqs s m rest) b = true := (scopeOk_one h0 hc hok).trans hreg
  obtain ⟨hone, hmem⟩ := scopeClients_one (s := setReqs s m rest) h0 hc
  obtain ⟨x, hx, hxc, hxs⟩ := hrun
  have hbegun := foldl_reaches (f := beginStop) (c := c) (P := fun t => Stopping (setReqs s m rest) t c)
    (Q := fun t => Begun (setReqs s m rest) t c) (fun t ht => beginStop_begun ht) (fun t ht => ht.toStopping) hone (hmem hreg)
    (t := setReqs s m rest) ⟨rfl, fun _ _ => rfl, hreg, hst, hnd, x, hx, hxc, Or.inl hxs⟩
  generalize hu : (scopeClients (setReqs s m rest) b).foldl beginStop (setReqs s m rest) = u at hbegun
  have hquiet : scopeQuiet u b = false := by
    obtain ⟨y, hy, hyc, hys⟩ := hbegun.held
    have hkilling := hys.resolve_left (hbegun.none y hy hyc)
    obtain ⟨_, hmem'⟩ := scopeClients_one (s := u) h0 hc
    unfold scopeQuiet
    refine List.all_eq_false.mpr ⟨y, hy, ?_⟩
    rw [hkilling, hyc, List.contains_iff_mem.mpr (hmem' hbegun.reg)]
    decide
  obtain ⟨q, hreq, hq⟩ := request_later (u := u) (f := fun s b => if !scopeOk s b then no s 2 else
      let s1 := (scopeClients s b).foldl beginStop s
      if scopeQuiet s1 b then .now (endStops s1 b) 0 [] else .later s1) h
    (by simp only [hscope, hu, hquiet, Bool.not_true, Bool.false_eq_true, if_false])
  exact ⟨u, q, congrArg Host.Outcome.next hreq, hq, hbegun⟩

theorem execStop_unknown (h : asks s m 0x04 b rest) (h0 : fieldLE b 4 1 = 0) (hc : c = fieldLE b 6 2) (hok : clientOk c = true)
    (hreg : (getClient s c).reg = false) : ∃ mb mx, exec (.stop m) s = .next { s with mail := mb, io := { s.io with msix := mx } } ∧
      answered s { s with mail := mb, io := { s.io with msix := mx } } m b rest 2 [] := by
  have hscope : scopeOk (setReqs s m rest) b = false := (scopeOk_one h0 hc hok).trans hreg
  refine exec_request_answers (i := .stop m) (u := setReqs s m rest) rfl h ?_ rfl
  simp only [hscope, Bool.not_false, if_true]
  rfl

theorem execResume_resumes (h : asks s m 0x05 b rest) (h0 : fieldLE b 4 1 = 0) (hc : c = fieldLE b 6 2) (hok : clientOk c = true)
    (hreg : (getClient s c).reg = true) : ∃ t, exec (.resume m) s = .next t ∧ answered s t m b rest 0 [] ∧
      (getClient t c).stopped = false ∧ (∀ n, n ≠ c → getClient t n = getClient s n) ∧ t.cmds = s.cmds := by
  have hscope : scopeOk (setReqs s m rest) b = true := (scopeOk_one h0 hc hok).trans hreg
  obtain ⟨hone, hmem⟩ := scopeClients_one (s := setReqs s m rest) h0 hc
  have hres := foldl_reaches (f := resumeClient) (c := c)
    (P := fun t => t.mail = (setReqs s m rest).mail ∧ (∀ n, n ≠ c → getClient t n = getClient s n) ∧ t.cmds = s.cmds)
    (Q := fun t => (t.mail = (setReqs s m rest).mail ∧ (∀ n, n ≠ c → getClient t n = getClient s n) ∧ t.cmds = s.cmds) ∧
      (getClient t c).stopped = false)
    (fun t ht => ⟨⟨ht.1, fun n hn => (getClient_setClient_ne t c n _ hn).trans (ht.2.1 n hn), ht.2.2⟩,
      congrArg Client.stopped (getClient_setClient_same t c _)⟩) (fun _ => And.left) hone (hmem hreg)
    (t := setReqs s m rest) ⟨rfl, fun _ _ => rfl, rfl⟩
  obtain ⟨⟨hmail, hothers, hcmds⟩, hstopped⟩ := hres
  obtain ⟨mb, mx, hexec, hans⟩ := exec_request_answers (i := .resume m)
    (u := (scopeClients (setReqs s m rest) b).foldl resumeClient (setReqs s m rest)) (st := 0) (res := []) rfl h
    (by simp only [hscope, Bool.not_true, Bool.false_eq_true, if_false]) hmail
  exact ⟨_, hexec, hans, hstopped, hothers, hcmds⟩

/-- A stop that has waited takes effect, and its reply takes the mailbox. -/
theorem execMailboxReply_stop {q : Req} (hs : served s m = true) (hfree : mailFree s m = true)
    (hslow : s.mail.slow.find? (fun x => x.1 == m) = some (m, q)) (h4 : fieldLE q.msg 0 1 = 4) (hquiet : scopeQuiet s q.msg = true) :
    exec (.mailboxReply m) s = .next (endSlow (endStops s q.msg) m 0 []) := by
  have hparts : (getF2h s m).full = false ∧ getReplies s m = [] := by
    obtain ⟨h1, h2⟩ := (Bool.and_eq_true _ _).mp hfree
    exact ⟨by simpa using h1, by simpa using h2⟩
  have hended : Ended s (endStops s q.msg) := Ended.foldl endStop_ended _ s
  obtain ⟨_, _, _, hrep⟩ := endSlow_replied (s := endStops s q.msg) (by rw [hended.mail]; exact hslow) 0 []
  have hfull := hrep.1 (by simp only [mailFree, getF2h, getReplies, hended.mail]; exact hfree)
  have hnext : takesNext (endSlow (endStops s q.msg) m 0 []) m = false := by
    rw [takesNext, mailFree, hfull.1]
    simp
  show execMailboxReply m s = _
  unfold execMailboxReply
  rw [if_neg (by rw [hs, hparts.1]; decide), hparts.2]
  dsimp only
  rw [settleStop, hslow]
  dsimp only
  rw [if_pos ⟨h4, hquiet⟩, settleBad, if_pos (by rw [hnext]; rfl)]

end Stops

/-- Settles O46 (that a STOP by mailbox applies whole when nothing of its scope runs, and that a request and its reply are one step, are
the model's choices, log entries 114 and 17): each request is its handler and the one answer, and a stop waits for the commands it
kills. -/
theorem clientRequests : Obligations.ClientRequests := by
  unfold Obligations.ClientRequests
  refine ⟨fun s m c b rest h hc hok => ⟨fun hreg hp => ?_, fun hreg => ?_⟩,
    fun s m c b rest h hc hok hreg => ⟨fun hidle => ?_, fun hbusy => ?_⟩,
    fun s m c n b rest h hc hn hok hreg hring hfree => ⟨fun hgood => ?_, fun h0 => ?_, fun h0 hbad => ?_⟩,
    fun s m c b rest h0 hc hok => ⟨fun h hreg hidle => execStop_idle h h0 hc hok hreg hidle,
      fun h hreg => execResume_resumes h h0 hc hok hreg, fun h hreg hst hnd hrun => ?_, fun h hreg => ?_⟩,
    fun s m c q hs hfree hslow h4 h0 hc hreg hsing hst hquiet => ?_⟩
  · obtain ⟨mb, mx, hexec, hans⟩ := execClientRegister_free h hc hok hreg hp
    exact ⟨_, hexec, hans, tget_tput_same _ _ _ _, fun n hn => tget_tput_ne _ _ _ _ _ hn, rfl, rfl⟩
  · obtain ⟨mb, mx, hexec, hans⟩ := execClientRegister_taken h hc hok hreg
    exact ⟨_, hexec, hans, rfl⟩
  · obtain ⟨mb, mx, hexec, hans⟩ := execClientUnregister_idle h hc hok hreg hidle
    obtain ⟨ss, bs, pm, cl, hun, hclosed, hself, hothers⟩ := unregister_spec (setReqs s m rest) c
    rw [hun] at hexec hans
    have hc' : getClient { setReqs s m rest with
        streams := ss, binds := bs, pile := pm, clients := cl, mail := mb, io := { s.io with msix := mx } } c =
      { acct := { (getClient (setReqs s m rest) c).acct with debtNs := 0 } } := hself
    exact ⟨_, hexec, hans, (congrArg Client.reg hc').trans rfl, (congrArg Client.rings hc').trans rfl,
      (congrArg (fun x => x.acct.debtNs) hc').trans rfl, hclosed, hothers, rfl⟩
  · obtain ⟨mb, mx, hexec, hans⟩ := execClientUnregister_busy h hc hok hreg hbusy
    exact ⟨_, hexec, hans, rfl, rfl⟩
  · obtain ⟨mb, mx, hexec, hans⟩ := execRingSet_sets h hc hn hok hreg hring hfree (Or.inr hgood)
    obtain ⟨h1, h2, h3⟩ := pairSet_reads s c n (ringOf b)
    exact ⟨_, hexec, hans, h1.trans (ringOf_fields hgood), h2, h3, rfl⟩
  · obtain ⟨mb, mx, hexec, hans⟩ := execRingSet_sets h hc hn hok hreg hring hfree (Or.inl h0)
    obtain ⟨h1, h2, _⟩ := pairSet_reads s c n (ringOf b)
    exact ⟨_, hexec, hans, h1.trans (if_pos h0), h2⟩
  · obtain ⟨mb, mx, hexec, hans⟩ := execRingSet_bad h h0 hbad
    exact ⟨_, hexec, hans, rfl⟩
  · obtain ⟨u, q, hexec, hq, hbegun⟩ := execStop_running h h0 hc hok hreg hst hnd hrun
    have hmail := hbegun.mail
    refine ⟨_, q, hexec, ?_, hq, ?_, ?_, hbegun.stopping, hbegun.stopped, hbegun.none, hbegun.others⟩
    · show u.mail.slow ++ _ = _
      rw [hmail]
      rfl
    · show tget [] u.mail.reqs m = rest
      rw [hmail]
      exact tget_tput_same _ _ _ _
    · show tget {} u.mail.f2h m = tget {} s.mail.f2h m
      rw [hmail]
      rfl
  · obtain ⟨mb, mx, hexec, hans⟩ := execStop_unknown h h0 hc hok hreg
    exact ⟨_, hexec, hans, rfl⟩
  · have hexec := execMailboxReply_stop hs hfree hslow h4 hquiet
    obtain ⟨hone, hmem⟩ := scopeClients_one (s := s) h0 hc
    obtain ⟨hstopped, hover⟩ := foldl_reaches (f := endStop) (c := c)
      (P := fun t => (getClient t c).stopped = true ∨ (getClient t c).stopping = true)
      (Q := fun t => (getClient t c).stopped = true ∧ (getClient t c).stopping = false)
      (fun t ht => ⟨endStop_stopped ht, endStop_over t c⟩) (fun t ht => Or.inl ht.1) hone (hmem hreg) (Or.inr hsing)
    have hended : Ended s (endStops s q.msg) := Ended.foldl endStop_ended _ s
    obtain ⟨mb, mx, hend, hrep⟩ := endSlow_replied (s := endStops s q.msg) (by rw [hended.mail]; exact hslow) 0 []
    have hfull := hrep.1 (by simp only [mailFree, getF2h, getReplies, hended.mail]; exact hfree)
    rw [hend] at hexec hfull
    exact ⟨_, hexec, hstopped, hover, hfull⟩

end Sys2Proof.Machine
end

section
/-! The requests of device memory: page-table entries, MAP, UNMAP, BACK, swap areas and exports (14, 11, 13). -/

namespace Sys2Proof.Machine

open Sys2Proof Sys2Proof.Ob

/-! ## Page tables and the mailboxes

A request leaves its channel before it is handled; what the page tables hold does not depend on that. -/

section Tables

variable (s : State) (mb : Mail)

theorem tableAt_mail (p dva n : Nat) : tableAt { s with mail := mb } p dva n = tableAt s p dva n := by
  induction n with
  | zero => rfl
  | succ n ih =>
    simp only [tableAt, ih]
    rfl

theorem pteOf_mail (p key : Nat) : pteOf { s with mail := mb } p key = pteOf s p key := by
  simp only [pteOf, tableAt_mail]
  rfl

theorem pteAt_mail (p dva : Nat) : pteAt { s with mail := mb } p dva = pteAt s p dva := by
  simp only [pteAt, pteOf_mail]

theorem pagesOf_mail (p dva n : Nat) : pagesOf { s with mail := mb } p dva n = pagesOf s p dva n := by
  have hfrom : ∀ fin fuel a, pagesFrom { s with mail := mb } p fin fuel a = pagesFrom s p fin fuel a := by
    intro fin fuel
    induction fuel with
    | zero => exact fun _ => rfl
    | succ fuel ih =>
      intro a
      simp only [pagesFrom, pteAt_mail, ih]
  simp only [pagesOf, hfrom]

theorem mappedPages_mail (p dva n : Nat) : mappedPages { s with mail := mb } p dva n = mappedPages s p dva n := by
  simp only [mappedPages, pagesOf_mail, pteAt_mail]

/-- Clearing an entry needs no table, and moves no extent. -/
theorem setPte_zero (p key : Nat) : ∃ pm, setPte s p key 0 = { s with pile := pm } ∧ pm.alloc = s.pile.alloc ∧
    setPte { s with mail := mb } p key 0 = { s with mail := mb, pile := pm } := by
  simp only [setPte, putPte, if_true, tableAt_mail]
  split
  · exact ⟨s.pile, rfl, rfl, rfl⟩
  · next t _ =>
    have hread : readPte { s with mail := mb } (pteAddr t (keyDva key) (keyUp key)) = readPte s (pteAddr t (keyDva key) (keyUp key)) :=
      rfl
    rw [hread]
    split
    · exact ⟨s.pile, rfl, rfl, rfl⟩
    · exact ⟨_, rfl, rfl, rfl⟩

theorem setPtes_zero (p : Nat) (l : List Nat) : ∃ pm, l.foldl (fun u k => setPte u p k 0) s = { s with pile := pm } ∧
    pm.alloc = s.pile.alloc ∧ l.foldl (fun u k => setPte u p k 0) { s with mail := mb } = { s with mail := mb, pile := pm } := by
  induction l generalizing s with
  | nil => exact ⟨s.pile, rfl, rfl, rfl⟩
  | cons k l ih =>
    obtain ⟨pm, h1, h2, h3⟩ := setPte_zero s mb p k
    obtain ⟨pm', k1, k2, k3⟩ := ih { s with pile := pm }
    exact ⟨pm', by rw [List.foldl_cons, h1, k1], k2.trans h2, by rw [List.foldl_cons, h3, k3]⟩

end Tables

/-! ## An entry is written -/

section Entries

variable {s : State} {p : Nat}

/-- A table that is there needs no other. -/
theorem growTable_there {dva : Nat} : ∀ {n tbl : Nat}, tableAt s p dva n = some tbl → growTable s p dva n = some (tbl, s)
  | 0, tbl, h => by
    have hroot : (getPart s p).root = some tbl := h
    simp only [growTable, hroot]
  | n + 1, tbl, h => by
    cases ht : tableAt s p dva n with
    | none => simp [tableAt, ht] at h
    | some t =>
      simp only [tableAt, ht] at h
      split at h
      · next hp =>
        simp only [growTable, growTable_there ht, hp, if_true]
        rw [Option.some.inj h]
      · cases h

/-- With no line in error, a write changes the bytes it carries and no others. -/
theorem pmWrite_noErrs (he : s.pile.errs = []) (a : Nat) (b : Bytes) :
    (pmWrite s a b).pile.mem = memPut s.pile.mem a b ∧ (pmWrite s a b).pile.errs = [] ∧
      (pmWrite s a b).pile.alloc = s.pile.alloc := by
  have hline : ∀ l, lineErrs s l = [] := fun l => by rw [lineErrs, he]; rfl
  have hmerged : mergedLines s a b.length = [] := List.filter_eq_nil_iff.mpr fun l _ => by simp [hline]
  have hbad : badMerge s a b.length = [] := List.filter_eq_nil_iff.mpr fun l _ => by simp [hline]
  refine ⟨?_, ?_, rfl⟩
  · simp only [pmWrite, hmerged, hbad, List.foldl_nil]
  · simp only [pmWrite, he, List.filter_nil]

theorem putPte_writes {key tbl : Nat} {e : W64} (hnz : e ≠ 0) (ht : tableAt s p (keyDva key) (3 - keyUp key) = some tbl)
    (hleaf : pteTable (readPte s (pteAddr tbl (keyDva key) (keyUp key))) = false) :
    putPte s p key e = some (writePte s (pteAddr tbl (keyDva key) (keyUp key)) e) := by
  simp only [putPte, if_neg hnz, growTable_there ht, dropTable, hleaf, Bool.false_eq_true, if_false]

theorem writePte_reads (he : s.pile.errs = []) (a : Nat) (e : W64) : memGet (writePte s a e).pile.mem a 8 = leN 8 e.toNat ∧
    readPte (writePte s a e) a = e ∧ ∀ x, x < a ∨ a + 8 ≤ x → tget 0 (writePte s a e).pile.mem x = tget 0 s.pile.mem x := by
  obtain ⟨hmem, herrs, _⟩ := pmWrite_noErrs he a (leN 8 e.toNat)
  have hget : memGet (writePte s a e).pile.mem a 8 = leN 8 e.toNat := by
    show memGet (pmWrite s a (leN 8 e.toNat)).pile.mem a 8 = _
    have := memGet_memPut_same s.pile.mem a (leN 8 e.toNat)
    rwa [length_leN, ← hmem] at this
  refine ⟨hget, ?_, fun x hx => ?_⟩
  · have hread : pmRead (writePte s a e) a 8 = memGet (writePte s a e).pile.mem a 8 := by
      refine List.map_congr_left fun i _ => ?_
      have hflips : ∀ l, lineFlips (writePte s a e) l = [] := fun l => by
        have hline : lineErrs (writePte s a e) l = [] := by
          show tget [] (pmWrite s a (leN 8 e.toNat)).pile.errs l = []
          rw [herrs]
          rfl
        rw [lineFlips, hline]
      simp [hflips, flipByte]
    rw [readPte, hread, hget, ofLE_leN_mod]
    apply BitVec.eq_of_toNat_eq
    rw [BitVec.toNat_ofNat, Nat.mod_mod_of_dvd _ (by norm_num)]
    exact Nat.mod_eq_of_lt e.isLt
  · show tget 0 (pmWrite s a (leN 8 e.toNat)).pile.mem x = _
    rw [hmem]
    exact memPut_outside _ _ _ _ (by rw [length_leN]; exact hx)

end Entries

/-! ## MAP, UNMAP and BACK -/

section Requests

variable {s : State} {m : Nat} {b : Bytes} {rest : List Req}

/-- The page size of a MAP by its GRAN. -/
theorem mapSize {g size : Nat} (h : (g = 0 ∧ size = 4096) ∨ (g = 1 ∧ size = 65536) ∨ (g = 2 ∧ size = 2 ^ 21)) : g ≤ 2 ∧
    (if g = 0 then 4096 else if g = 1 then 65536 else 2 ^ 21) = size := by
  rcases h with ⟨rfl, rfl⟩ | ⟨rfl, rfl⟩ | ⟨rfl, rfl⟩
  · exact ⟨by omega, rfl⟩
  · exact ⟨by omega, rfl⟩
  · exact ⟨by omega, rfl⟩

/-- Some page of the request's range is mapped. -/
def mapsTaken (s : State) (b : Bytes) : Bool :=
  (pagesOf s (rPart b) (rDva b) (rBytes b)).any fun a => pteMapped (pteAt s (rPart b) a).1

theorem mapsTaken_setReqs : mapsTaken (setReqs s m rest) b = mapsTaken s b := by
  simp only [mapsTaken, setReqs, pagesOf_mail, pteAt_mail]

/-- What MAP makes of its pages. -/
def mapResult (s : State) (b : Bytes) (size : Nat) : Option State :=
  if bitOf (fieldLE b 25 1) 1 then mapLazy s (rPart b) size (bitOf (fieldLE b 25 1) 0) (pageList (rDva b) (rBytes b) size)
  else mapBacked (rPart b) size (bitOf (fieldLE b 25 1) 0) s (pageList (rDva b) (rBytes b) size)

/-- How MAP is handled where its fields are in range. -/
theorem mapHandled {size : Nat} (hf : fieldLE b 25 1 ≤ 3)
    (hsize : (fieldLE b 24 1 = 0 ∧ size = 4096) ∨ (fieldLE b 24 1 = 1 ∧ size = 65536) ∨ (fieldLE b 24 1 = 2 ∧ size = 2 ^ 21))
    (hfits : rangeFits b size = true) : ∃ f, (∀ s, execMap m s = .next (request s m 0x06 f)) ∧ ∀ s, f s b =
      if mapsTaken s b then no s 3 else match mapResult s b size with | some s1 => .now s1 0 [] | none => no s 4 := by
  obtain ⟨hg, hsz⟩ := mapSize hsize
  refine ⟨_, fun _ => rfl, fun s => ?_⟩
  dsimp only
  rw [hsz, if_neg (by rw [hfits]; simp; omega)]
  rfl

theorem execMap_taken {size : Nat} (h : asks s m 0x06 b rest) (hf : fieldLE b 25 1 ≤ 3)
    (hsize : (fieldLE b 24 1 = 0 ∧ size = 4096) ∨ (fieldLE b 24 1 = 1 ∧ size = 65536) ∨ (fieldLE b 24 1 = 2 ∧ size = 2 ^ 21))
    (hfits : rangeFits b size = true) (ht : mapsTaken s b = true) : ∃ mb mx, exec (.map m) s =
      .next { s with mail := mb, io := { s.io with msix := mx } } ∧
      answered s { s with mail := mb, io := { s.io with msix := mx } } m b rest 3 [] := by
  obtain ⟨f, hexec, hf'⟩ := mapHandled (m := m) hf hsize hfits
  refine exec_request_answers (i := .map m) (u := setReqs s m rest) (hexec s) h ?_ rfl
  rw [hf', if_pos (mapsTaken_setReqs.trans ht)]
  rfl

theorem execMap_full {size : Nat} (h : asks s m 0x06 b rest) (hf : fieldLE b 25 1 ≤ 3)
    (hsize : (fieldLE b 24 1 = 0 ∧ size = 4096) ∨ (fieldLE b 24 1 = 1 ∧ size = 65536) ∨ (fieldLE b 24 1 = 2 ∧ size = 2 ^ 21))
    (hfits : rangeFits b size = true) (ht : mapsTaken s b = false) (hr : mapResult (setReqs s m rest) b size = none) :
    ∃ mb mx, exec (.map m) s = .next { s with mail := mb, io := { s.io with msix := mx } } ∧
      answered s { s with mail := mb, io := { s.io with msix := mx } } m b rest 4 [] := by
  obtain ⟨f, hexec, hf'⟩ := mapHandled (m := m) hf hsize hfits
  refine exec_request_answers (i := .map m) (u := setReqs s m rest) (hexec s) h ?_ rfl
  rw [hf', if_neg (by rw [mapsTaken_setReqs, ht]; decide), hr]
  rfl

theorem execMap_maps {size : Nat} {u : State} (h : asks s m 0x06 b rest) (hf : fieldLE b 25 1 ≤ 3)
    (hsize : (fieldLE b 24 1 = 0 ∧ size = 4096) ∨ (fieldLE b 24 1 = 1 ∧ size = 65536) ∨ (fieldLE b 24 1 = 2 ∧ size = 2 ^ 21))
    (hfits : rangeFits b size = true) (ht : mapsTaken s b = false) (hr : mapResult (setReqs s m rest) b size = some u) :
    exec (.map m) s = .next (giveReply u m (replyBytes b 0 [])) := by
  obtain ⟨f, hexec, hf'⟩ := mapHandled (m := m) hf hsize hfits
  refine (hexec s).trans (congrArg Host.Outcome.next (request_now h ?_))
  rw [hf', if_neg (by rw [mapsTaken_setReqs, ht]; decide), hr]

/-- The mapped pages of the request's range. -/
def unmapPagesOf (s : State) (b : Bytes) : List (Nat × W64 × Nat) := mappedPages s (rPart b) (rDva b) (rBytes b)

/-- The keys of those pages' entries. -/
def unmapKeys (s : State) (b : Bytes) : List Nat := (unmapPagesOf s b).flatMap fun x => leafKeys x.1 x.2.2

/-- Every page of the range is lazy. -/
def allLazy (s : State) (b : Bytes) : Bool := (unmapPagesOf s b).all fun x => !pteP x.2.1 && pteSw x.2.1 == 2

/-- How UNMAP is handled where its range is in order. -/
theorem unmapHandled (hfits : rangeFits b 4096 = true) : ∃ f, (∀ s, execUnmap m s = .next (request s m 0x07 f)) ∧
    ∀ s, pagesWhole (rDva b) (rBytes b) (unmapPagesOf s b) = true → f s b =
      if rangeBusy s (rPart b) (rDva b) (rBytes b) then no s 3
      else if allLazy s b then .now ((unmapKeys s b).foldl (fun t k => setPte t (rPart b) k 0) s) 0 []
      else .later (unmapPages ((unmapPagesOf s b).foldl (fun t x => finishMove t (rPart b) x.1) s) m (rPart b) (rDva b) (rBytes b)
        (unmapPagesOf ((unmapPagesOf s b).foldl (fun t x => finishMove t (rPart b) x.1) s) b)) := by
  refine ⟨_, fun _ => rfl, fun s hw => ?_⟩
  dsimp only
  rw [if_neg (by rw [hfits, show pagesWhole (rDva b) (rBytes b) (mappedPages s (rPart b) (rDva b) (rBytes b)) = true from hw]; decide)]
  rfl

theorem unmapPagesOf_setReqs : unmapPagesOf (setReqs s m rest) b = unmapPagesOf s b := mappedPages_mail s _ _ _ _

/-- A page that is not being moved needs no move to be finished. -/
theorem finishMoves_none (h : ∀ v ∈ s.inval, v.moveTo = none) (l : List (Nat × W64 × Nat)) :
    l.foldl (fun t x => finishMove t (rPart b) x.1) s = s := by
  induction l with
  | nil => rfl
  | cons x l ih =>
    have hnone : moveOf s (rPart b) x.1 = none := List.find?_eq_none.mpr fun v hv => by simp [h v hv]
    rw [List.foldl_cons, finishMove, hnone]
    exact ih

theorem execUnmap_busy (h : asks s m 0x07 b rest) (hfits : rangeFits b 4096 = true)
    (hw : pagesWhole (rDva b) (rBytes b) (unmapPagesOf s b) = true) (hbusy : rangeBusy s (rPart b) (rDva b) (rBytes b) = true) :
    ∃ mb mx, exec (.unmap m) s = .next { s with mail := mb, io := { s.io with msix := mx } } ∧
      answered s { s with mail := mb, io := { s.io with msix := mx } } m b rest 3 [] := by
  obtain ⟨f, hexec, hf⟩ := unmapHandled (m := m) hfits
  refine exec_request_answers (i := .unmap m) (u := setReqs s m rest) (hexec s) h ?_ rfl
  rw [hf _ (by rw [unmapPagesOf_setReqs]; exact hw), if_pos (by exact hbusy)]
  rfl

theorem execUnmap_lazy (h : asks s m 0x07 b rest) (hfits : rangeFits b 4096 = true)
    (hw : pagesWhole (rDva b) (rBytes b) (unmapPagesOf s b) = true) (hbusy : rangeBusy s (rPart b) (rDva b) (rBytes b) = false)
    (hl : allLazy s b = true) : ∃ mb mx, exec (.unmap m) s = .next { s with
        mail := mb, io := { s.io with msix := mx }
        pile := ((unmapKeys s b).foldl (fun t k => setPte t (rPart b) k 0) s).pile } ∧
      answered s { s with
        mail := mb, io := { s.io with msix := mx }
        pile := ((unmapKeys s b).foldl (fun t k => setPte t (rPart b) k 0) s).pile } m b rest 0 [] := by
  obtain ⟨f, hexec, hf⟩ := unmapHandled (m := m) hfits
  obtain ⟨pm, h1, _, h3⟩ := setPtes_zero s (setReqs s m rest).mail (rPart b) (unmapKeys s b)
  have hkeys : unmapKeys (setReqs s m rest) b = unmapKeys s b := by rw [unmapKeys, unmapPagesOf_setReqs]; rfl
  have hlazy : allLazy (setReqs s m rest) b = true := by rw [allLazy, unmapPagesOf_setReqs]; exact hl
  rw [h1]
  refine exec_request_answers (i := .unmap m) (u := { setReqs s m rest with pile := pm }) (hexec s) h ?_ rfl
  rw [hf _ (by rw [unmapPagesOf_setReqs]; exact hw), if_neg (by rw [show rangeBusy (setReqs s m rest) (rPart b) (rDva b) (rBytes b) =
    rangeBusy s (rPart b) (rDva b) (rBytes b) from rfl, hbusy]; decide), if_pos hlazy, hkeys]
  exact congrArg (fun x => Ans.now x 0 []) h3

/-- The invalidation that an UNMAP of the range starts for the answer of channel `m`. -/
structure Unmaps (s : State) (m : Nat) (b : Bytes) (v : Inval) : Prop where
  part : v.part = rPart b
  dva : v.dva = rDva b
  size : v.size = rBytes b
  tlbs : v.tlbs = List.range 2617
  chan : v.chan = some m
  moveTo : v.moveTo = none
  free : ∀ e ∈ v.free, e ∈ s.pile.alloc ∧ e.owner = .page (rPart b)

theorem unmapPages_eq (s : State) (m : Nat) (b : Bytes) : ∃ pm v, unmapPages s m (rPart b) (rDva b) (rBytes b) (unmapPagesOf s b) =
      { s with pile := pm, inval := s.inval ++ [v] } ∧ Unmaps s m b v ∧
    (unmapKeys s b).foldl (fun t k => setPte t (rPart b) k 0) s = { s with pile := pm } ∧ pm.alloc = s.pile.alloc := by
  obtain ⟨pm, h1, h2, _⟩ := setPtes_zero s s.mail (rPart b) (unmapKeys s b)
  have hkeys : ((unmapPagesOf s b).flatMap fun x => leafKeys x.1 x.2.2) = unmapKeys s b := rfl
  unfold unmapPages
  dsimp only
  rw [hkeys, h1]
  generalize hr : List.range 2617 = tlbs
  refine ⟨pm, _, rfl, ⟨rfl, rfl, rfl, hr.symm, rfl, rfl, fun e he => ?_⟩, rfl, h2⟩
  obtain ⟨halloc, hp⟩ := List.mem_filter.mp he
  exact ⟨halloc, beq_iff_eq.mp ((Bool.and_eq_true _ _).mp hp).1⟩

theorem execUnmap_waits (h : asks s m 0x07 b rest) (hfits : rangeFits b 4096 = true)
    (hw : pagesWhole (rDva b) (rBytes b) (unmapPagesOf s b) = true) (hbusy : rangeBusy s (rPart b) (rDva b) (rBytes b) = false)
    (hl : allLazy s b = false) (hmoves : ∀ v ∈ s.inval, v.moveTo = none) : ∃ q pm v, exec (.unmap m) s = .next { s with
        pile := pm, inval := s.inval ++ [v], mail := { (setReqs s m rest).mail with slow := s.mail.slow ++ [(m, q)] } } ∧
      q.msg = b ∧ Unmaps s m b v ∧ pm = ((unmapKeys s b).foldl (fun t k => setPte t (rPart b) k 0) s).pile ∧
      pm.alloc = s.pile.alloc := by
  obtain ⟨f, hexec, hf⟩ := unmapHandled (m := m) hfits
  obtain ⟨pm, h1, _, h3⟩ := setPtes_zero s (setReqs s m rest).mail (rPart b) (unmapKeys s b)
  have hkeys : unmapKeys (setReqs s m rest) b = unmapKeys s b := by rw [unmapKeys, unmapPagesOf_setReqs]; rfl
  have hlazy : allLazy (setReqs s m rest) b = false := by rw [allLazy, unmapPagesOf_setReqs]; exact hl
  have hbusy' : rangeBusy (setReqs s m rest) (rPart b) (rDva b) (rBytes b) = false := hbusy
  obtain ⟨pm', v, hun, hv, hfold, halloc⟩ := unmapPages_eq (setReqs s m rest) m b
  have hpile : pm' = ((unmapKeys s b).foldl (fun t k => setPte t (rPart b) k 0) s).pile := by
    rw [hkeys] at hfold
    have h3' := congrArg State.pile (hfold.symm.trans h3)
    rw [h1]
    exact h3'
  have hlater : f (setReqs s m rest) b = .later { setReqs s m rest with pile := pm', inval := s.inval ++ [v] } := by
    rw [hf _ (by rw [unmapPagesOf_setReqs]; exact hw), if_neg (by rw [hbusy']; decide), if_neg (by rw [hlazy]; decide),
      finishMoves_none (s := setReqs s m rest) hmoves, hun]
    rfl
  obtain ⟨q, hreq, hq⟩ := request_later h hlater
  exact ⟨q, pm', v, (hexec s).trans (congrArg Host.Outcome.next hreq), hq, ⟨hv.part, hv.dva, hv.size, hv.tlbs, hv.chan, hv.moveTo, hv.free⟩,
    hpile, halloc⟩

/-- The lazy pages of the request's range. -/
def lazyPages (s : State) (b : Bytes) : List (Nat × W64 × Nat) :=
  (unmapPagesOf s b).filter fun x => !pteP x.2.1 && pteSw x.2.1 == 2

/-- How BACK is handled where its range is in order. -/
theorem backHandled (hfits : rangeFits b 4096 = true) : ∃ f, (∀ s, execBack m s = .next (request s m 0x08 f)) ∧
    ∀ s, pagesWhole (rDva b) (rBytes b) (lazyPages s b) = true → f s b =
      match backPages (rPart b) s (lazyPages s b) with | some s1 => .now s1 0 [] | none => no s 4 := by
  refine ⟨_, fun _ => rfl, fun s hw => ?_⟩
  have hpages : (mappedPages s (rPart b) (rDva b) (rBytes b)).filter (fun x => !pteP x.2.1 && pteSw x.2.1 == 2) = lazyPages s b := rfl
  dsimp only
  rw [hpages, if_neg (by rw [hfits, hw]; decide)] <;> (generalize backPages (rPart b) s (lazyPages s b) = r; rfl)

theorem lazyPages_setReqs : lazyPages (setReqs s m rest) b = lazyPages s b := by
  rw [lazyPages, unmapPagesOf_setReqs]
  rfl

theorem execBack_backs {u : State} (h : asks s m 0x08 b rest) (hfits : rangeFits b 4096 = true)
    (hw : pagesWhole (rDva b) (rBytes b) (lazyPages s b) = true)
    (hu : backPages (rPart b) (setReqs s m rest) (lazyPages s b) = some u) :
    exec (.back m) s = .next (giveReply u m (replyBytes b 0 [])) := by
  obtain ⟨f, hexec, hf⟩ := backHandled (m := m) hfits
  refine (hexec s).trans (congrArg Host.Outcome.next (request_now h ?_))
  rw [hf _ (by rw [lazyPages_setReqs]; exact hw), lazyPages_setReqs, hu]

theorem execBack_full (h : asks s m 0x08 b rest) (hfits : rangeFits b 4096 = true)
    (hw : pagesWhole (rDva b) (rBytes b) (lazyPages s b) = true)
    (hu : backPages (rPart b) (setReqs s m rest) (lazyPages s b) = none) : ∃ mb mx, exec (.back m) s =
      .next { s with mail := mb, io := { s.io with msix := mx } } ∧
      answered s { s with mail := mb, io := { s.io with msix := mx } } m b rest 4 [] := by
  obtain ⟨f, hexec, hf⟩ := backHandled (m := m) hfits
  refine exec_request_answers (i := .back m) (u := setReqs s m rest) (hexec s) h ?_ rfl
  rw [hf _ (by rw [lazyPages_setReqs]; exact hw), lazyPages_setReqs, hu]
  rfl

/-! ## Swap areas and exports -/

theorem execSwapArea_sets (h : asks s m 0x09 b rest) (hp : partOk (rPart b) = true) (hn : rBytes b % 2 ^ 21 = 0)
    (hpasid : fieldLE b 24 4 < 2 ^ 20) (hfree : ∀ x ∈ s.streams, ¬ (x.2.part = rPart b ∧ x.2.home = 0x1E)) :
    ∃ mb mx, exec (.swapArea m) s = .next { setPart s (rPart b) { getPart s (rPart b) with
        swap := some (rDva b, rBytes b, fieldLE b 24 4) } with mail := mb, io := { s.io with msix := mx } } ∧
      answered s { setPart s (rPart b) { getPart s (rPart b) with
        swap := some (rDva b, rBytes b, fieldLE b 24 4) } with mail := mb, io := { s.io with msix := mx } } m b rest 0 [] := by
  have hgood : (!partOk (rPart b) || rBytes b % 2 ^ 21 != 0 || decide (2 ^ 20 ≤ fieldLE b 24 4)) = false := by
    rw [hp, hn, decide_eq_false (by omega)]
    rfl
  have hany : (s.streams.any fun x => x.2.part == rPart b && x.2.home == 0x1E) = false :=
    any_false fun x hx => by simpa using hfree x hx
  refine exec_request_answers (i := .swapArea m) (u := setPart (setReqs s m rest) (rPart b) { getPart s (rPart b) with
    swap := some (rDva b, rBytes b, fieldLE b 24 4) }) rfl h ?_ rfl
  dsimp only
  rw [hgood, streams_setReqs, hany]
  rfl

theorem execSwapArea_busy (h : asks s m 0x09 b rest) (hp : partOk (rPart b) = true) (hn : rBytes b % 2 ^ 21 = 0)
    (hpasid : fieldLE b 24 4 < 2 ^ 20) (hbusy : ∃ x ∈ s.streams, x.2.part = rPart b ∧ x.2.home = 0x1E) :
    ∃ mb mx, exec (.swapArea m) s = .next { s with mail := mb, io := { s.io with msix := mx } } ∧
      answered s { s with mail := mb, io := { s.io with msix := mx } } m b rest 3 [] := by
  have hgood : (!partOk (rPart b) || rBytes b % 2 ^ 21 != 0 || decide (2 ^ 20 ≤ fieldLE b 24 4)) = false := by
    rw [hp, hn, decide_eq_false (by omega)]
    rfl
  have hany : (s.streams.any fun x => x.2.part == rPart b && x.2.home == 0x1E) = true := by
    obtain ⟨x, hx, h1, h2⟩ := hbusy
    exact List.any_eq_true.mpr ⟨x, hx, by simp [h1, h2]⟩
  refine exec_request_answers (i := .swapArea m) (u := setReqs s m rest) rfl h ?_ rfl
  dsimp only
  rw [hgood, streams_setReqs, hany]
  rfl

/-- The state with an entry of the table of exports set or cleared. -/
def exported (s : State) (b : Bytes) : State := { s with dom := { s.dom with
  exports := tput none s.dom.exports (fieldLE b 5 1)
    (if rBytes b = 0 then none else some { part := rPart b, dva := rDva b, bytes := rBytes b }) } }

theorem execExportSet_sets (h : asks s m 0x0A b rest) (hp : partOk (rPart b) = true) (hi : fieldLE b 5 1 < 64)
    (hn : rDva b + rBytes b ≤ 2 ^ 48) (hown : ∀ e, tget none s.dom.exports (fieldLE b 5 1) = some e → e.part = rPart b) :
    ∃ mb mx, exec (.exportSet m) s = .next { exported s b with mail := mb, io := { s.io with msix := mx } } ∧
      answered s { exported s b with mail := mb, io := { s.io with msix := mx } } m b rest 0 [] := by
  have hany : ((tget none s.dom.exports (fieldLE b 5 1)).any fun x => x.part != rPart b) = false := by
    cases he : tget none s.dom.exports (fieldLE b 5 1) with
    | none => rfl
    | some e => simp [hown e he]
  refine exec_request_answers (i := .exportSet m) (u := exported (setReqs s m rest) b) rfl h ?_ rfl
  dsimp only
  rw [if_neg (by simp [hp]; omega), dom_setReqs, hany]
  rfl

theorem execExportSet_busy {e : Export} (h : asks s m 0x0A b rest) (hp : partOk (rPart b) = true) (hi : fieldLE b 5 1 < 64)
    (hn : rDva b + rBytes b ≤ 2 ^ 48) (he : tget none s.dom.exports (fieldLE b 5 1) = some e) (hne : e.part ≠ rPart b) :
    ∃ mb mx, exec (.exportSet m) s = .next { s with mail := mb, io := { s.io with msix := mx } } ∧
      answered s { s with mail := mb, io := { s.io with msix := mx } } m b rest 3 [] := by
  refine exec_request_answers (i := .exportSet m) (u := setReqs s m rest) rfl h ?_ rfl
  dsimp only
  rw [if_neg (by simp [hp]; omega), dom_setReqs, he]
  simp only [Option.any_some, bne_iff_ne.mpr hne, if_true]
  rfl

end Requests

/-- Settles O47 (that memory mapped at once is not cleared while BACK clears it, and that pages never backed are unmapped at once, are the
model's choices, log entry 111): what the requests make of the page tables, through the entries they write. -/
theorem deviceMemoryRequests : Obligations.DeviceMemoryRequests := by
  unfold Obligations.DeviceMemoryRequests
  refine ⟨fun s m size b rest h hf hsize hfits => ⟨fun ht r hr => ⟨fun hnone => ?_, fun u hu => ?_⟩, fun ht => ?_⟩,
    fun s p key tbl a e he hnz ht ha hleaf => ?_,
    fun s m b rest h hfits hw => ⟨fun hbusy => ?_, fun hbusy => ⟨fun hl => ?_, fun hl hmoves => ?_⟩⟩,
    fun s m b rest l h hfits hl hw => ⟨fun u hu => ?_, fun hu => ?_⟩,
    fun s m b rest h hp hn hpasid => ⟨fun hfree => ?_, fun hbusy => ?_⟩,
    fun s m i b rest h hp hi h64 hn => ⟨fun hown => ?_, fun e he hne => ?_⟩⟩
  · obtain ⟨mb, mx, hexec, hans⟩ := execMap_full h hf hsize hfits ht (hr.symm.trans hnone)
    exact ⟨_, hexec, hans, rfl, rfl⟩
  · exact execMap_maps h hf hsize hfits ht (hr.symm.trans hu)
  · obtain ⟨mb, mx, hexec, hans⟩ := execMap_taken h hf hsize hfits ht
    exact ⟨_, hexec, hans, rfl, rfl⟩
  · subst ha
    obtain ⟨h1, h2, h3⟩ := writePte_reads he (pteAddr tbl (keyDva key) (keyUp key)) e
    exact ⟨_, putPte_writes hnz ht hleaf, h1, h2, rfl, h3⟩
  · obtain ⟨mb, mx, hexec, hans⟩ := execUnmap_busy h hfits hw hbusy
    exact ⟨_, hexec, hans, rfl, rfl, rfl⟩
  · have hlazy : allLazy s b = true := List.all_eq_true.mpr fun x hx => by
      obtain ⟨h1, h2⟩ := hl x hx
      rw [h1, h2]
      rfl
    have hkeys : ((mappedPages s (rPart b) (rDva b) (rBytes b)).flatMap fun x => leafKeys x.1 x.2.2) = unmapKeys s b := rfl
    obtain ⟨mb, mx, hexec, hans⟩ := execUnmap_lazy h hfits hw hbusy hlazy
    rw [hkeys]
    generalize unmapKeys s b = keys at hexec hans ⊢
    exact ⟨_, hexec, hans, rfl, rfl⟩
  · have hlazy : allLazy s b = false := by
      obtain ⟨x, hx, hp⟩ := hl
      exact List.all_eq_false.mpr ⟨x, hx, by simp [hp]⟩
    have hkeys : ((mappedPages s (rPart b) (rDva b) (rBytes b)).flatMap fun x => leafKeys x.1 x.2.2) = unmapKeys s b := rfl
    obtain ⟨q, pm, v, hexec, hq, hv, hpile, halloc⟩ := execUnmap_waits h hfits hw hbusy hlazy hmoves
    rw [hkeys]
    generalize unmapKeys s b = keys at hpile ⊢
    exact ⟨_, v, q, hexec, rfl, hv.part, hv.dva, hv.size, hv.tlbs, hv.chan, hv.moveTo, hv.free, rfl, hq, rfl, halloc, hpile⟩
  · have hlazy : l = lazyPages s b := hl
    rw [hlazy] at hw hu
    exact execBack_backs h hfits hw hu
  · have hlazy : l = lazyPages s b := hl
    rw [hlazy] at hw hu
    obtain ⟨mb, mx, hexec, hans⟩ := execBack_full h hfits hw hu
    exact ⟨_, hexec, hans, rfl⟩
  · obtain ⟨mb, mx, hexec, hans⟩ := execSwapArea_sets h hp hn hpasid hfree
    exact ⟨_, hexec, hans, tget_tput_same _ _ _ _, fun p hne => tget_tput_ne _ _ _ _ _ hne, rfl⟩
  · obtain ⟨mb, mx, hexec, hans⟩ := execSwapArea_busy h hp hn hpasid hbusy
    exact ⟨_, hexec, hans, rfl⟩
  · subst hi
    obtain ⟨mb, mx, hexec, hans⟩ := execExportSet_sets h hp h64 hn hown
    exact ⟨_, hexec, hans, tget_tput_same _ _ _ _, fun k hk => tget_tput_ne _ _ _ _ _ hk, rfl⟩
  · subst hi
    obtain ⟨mb, mx, hexec, hans⟩ := execExportSet_busy h hp h64 hn he hne
    exact ⟨_, hexec, hans, rfl⟩

end Sys2Proof.Machine
end

section
/-! The requests of streams and of the domain (14, 12, 13). -/

namespace Sys2Proof.Machine

open Sys2Proof Sys2Proof.Ob

section Streams

variable {s : State} {m st : Nat} {b : Bytes} {rest : List Req}

theorem execStreamRead_in (h : asks s m 0x0B b rest) (hst : fieldLE b 4 2 < 16384) : ∃ mb mx, exec (.streamRead m) s =
      .next { s with mail := mb, io := { s.io with msix := mx } } ∧
      answered s { s with mail := mb, io := { s.io with msix := mx } } m b rest 0 (streamResult (getStream s (fieldLE b 4 2))) := by
  refine exec_request_answers (i := .streamRead m) (u := setReqs s m rest) rfl h ?_ rfl
  rw [if_neg (by omega), getStream_setReqs]

theorem execStreamRead_out (h : asks s m 0x0B b rest) (hst : 16384 ≤ fieldLE b 4 2) : ∃ mb mx, exec (.streamRead m) s =
      .next { s with mail := mb, io := { s.io with msix := mx } } ∧
      answered s { s with mail := mb, io := { s.io with msix := mx } } m b rest 2 [] := by
  refine exec_request_answers (i := .streamRead m) (u := setReqs s m rest) rfl h ?_ rfl
  rw [if_pos hst]
  rfl

/-- The placement that a STREAM_PLACE asks for: out of the piles, or to a pile. -/
def placeOf (b : Bytes) : Option Nat := if fieldLE b 6 1 = 0 then none else some (fieldLE b 7 1)

theorem execStreamPlace_queues (h : asks s m 0x0C b rest) (hst : st = fieldLE b 4 2) (hlt : st < 16384)
    (hopen : (getStream s st).isOpen = true) (hmove : (getStream s st).move = none) (hhome : (getStream s st).home < 16)
    (hact : fieldLE b 6 1 ≤ 1) (hto : fieldLE b 6 1 = 1 → pileOk (fieldLE b 7 1) = true ∧ pileFenced s (fieldLE b 7 1) = false ∧
      (getStream s st).home ≠ fieldLE b 7 1) : ∃ mb mx, exec (.streamPlace m) s =
      .next { setStream s st { getStream s st with move := some (placeOf b) } with mail := mb, io := { s.io with msix := mx } } ∧
      answered s { setStream s st { getStream s st with move := some (placeOf b) } with mail := mb, io := { s.io with msix := mx } }
        m b rest 0 [] := by
  subst hst
  refine exec_request_answers (i := .streamPlace m)
    (u := setStream (setReqs s m rest) (fieldLE b 4 2) { getStream s (fieldLE b 4 2) with move := some (placeOf b) }) rfl h ?_ rfl
  have hgood : (decide (16384 ≤ fieldLE b 4 2) || decide (1 < fieldLE b 6 1) || (fieldLE b 6 1 == 1 &&
      !(pileOk (fieldLE b 7 1) && !pileFenced (setReqs s m rest) (fieldLE b 7 1))) ||
      !(getStream (setReqs s m rest) (fieldLE b 4 2)).isOpen) = false := by
    rw [getStream_setReqs, hopen, decide_eq_false (by omega), decide_eq_false (by omega)]
    by_cases h1 : fieldLE b 6 1 = 1
    · obtain ⟨hp, hf, _⟩ := hto h1
      rw [hp, show pileFenced (setReqs s m rest) (fieldLE b 7 1) = false from hf]
      simp
    · rw [beq_eq_false_iff_ne.mpr h1]
      rfl
  dsimp only
  rw [hgood, getStream_setReqs, hmove, if_neg (by decide), if_neg (by decide), if_neg fun hc => ?_]
  · rfl
  · rcases hc with hc | ⟨h1, hc⟩
    · omega
    · exact (hto h1).2.2 hc

end Streams

section Domains

variable {s : State} {m : Nat} {b : Bytes} {rest : List Req}

/-- The identity of the domain that a DOMAIN_SET stores. -/
def domainSet (s : State) (b : Bytes) : State := { s with dom := { s.dom with
  domId := BitVec.ofNat 64 (fieldLE b 8 8), key := BitVec.ofNat 128 (fieldLE b 16 16), cfgPair := bitOf (fieldLE b 32 1) 0 } }

theorem domainSet_dom (s : State) (b : Bytes) : (domainSet s b).dom = { s.dom with
    domId := BitVec.ofNat 64 (fieldLE b 8 8), key := BitVec.ofNat 128 (fieldLE b 16 16), cfgPair := bitOf (fieldLE b 32 1) 0 } := by
  rw [domainSet]

theorem domainSet_ports (s : State) (b : Bytes) : (domainSet s b).ports = s.ports := by
  rw [domainSet]

theorem execDomainSet_outside (h : asks s m 0x10 b rest) (hf : fieldLE b 32 1 ≤ 1) (hin : s.dom.inDomain = false) :
    ∃ mb mx, exec (.domainSet m) s = .next { domainSet s b with mail := mb, io := { s.io with msix := mx } } ∧
      answered s { domainSet s b with mail := mb, io := { s.io with msix := mx } } m b rest 0 [] := by
  refine exec_request_answers (i := .domainSet m) (u := domainSet (setReqs s m rest) b) rfl h ?_ rfl
  rw [if_neg (by omega), if_neg (by rw [dom_setReqs, hin]; decide)]
  rfl

theorem execDomainSet_inside (h : asks s m 0x10 b rest) (hf : fieldLE b 32 1 ≤ 1) (hin : s.dom.inDomain = true) :
    ∃ mb mx, exec (.domainSet m) s = .next { s with mail := mb, io := { s.io with msix := mx } } ∧
      answered s { s with mail := mb, io := { s.io with msix := mx } } m b rest 3 [] := by
  refine exec_request_answers (i := .domainSet m) (u := setReqs s m rest) rfl h ?_ rfl
  rw [if_neg (by omega), if_pos (by rw [dom_setReqs, hin])]
  rfl

/-! ## Joining -/

/-- One port of the asking for a join. -/
def askOne (want : Nat) (demand : Bool) (t : State) (p : Nat) : State :=
  if (getPort t p).state = 2 then sendCtl t (nearby p) (.joinRequest want demand t.dom.cfgPair t.dom.domId 0 0 0) else t

theorem askJoin_eq (s : State) (want : Nat) (demand : Bool) : askJoin s want demand = (List.range 72).foldl (askOne want demand) s := rfl

theorem askOne_spoken (want : Nat) (demand : Bool) (t : State) (p : Nat) : Spoken t (askOne want demand t p) := by
  unfold askOne
  split
  · exact sendCtl_spoken t _ _
  · exact .refl t

theorem askJoin_spoken (s : State) (want : Nat) (demand : Bool) : Spoken s (askJoin s want demand) :=
  Spoken.foldl (askOne_spoken want demand) _ s

theorem askJoin_sends {want p : Nat} {demand : Bool} (hp : p < 72) (hst : (getPort s p).state = 2) :
    sends (askJoin s want demand) (nearby p) (.joinRequest want demand s.dom.cfgPair s.dom.domId 0 0 0) := by
  have key : ∀ (l : List Nat) (t : State), Spoken s t → p ∈ l →
      sends (l.foldl (askOne want demand) t) (nearby p) (.joinRequest want demand s.dom.cfgPair s.dom.domId 0 0 0) := by
    intro l
    induction l with
    | nil => exact fun _ _ h => absurd h List.not_mem_nil
    | cons q l ih =>
      intro t ht hmem
      rcases List.mem_cons.mp hmem with rfl | h
      · refine (Spoken.foldl (askOne_spoken want demand) l _).sent _ _ ?_
        have hdom : t.dom.cfgPair = s.dom.cfgPair ∧ t.dom.domId = s.dom.domId := by
          obtain ⟨_, _, _, _, _, _, hd, _⟩ := ht.talked
          rw [hd]
          exact ⟨rfl, rfl⟩
        rw [askOne, if_pos ((ht.queued.state p).trans hst), hdom.1, hdom.2]
        exact sendCtl_sends t _ _
      · exact ih _ (ht.trans (askOne_spoken want demand t q)) h
  exact key _ s (.refl s) (List.mem_range.mpr hp)

/-- The join that a DOMAIN_JOIN starts. -/
def joinOf (s : State) (m : Nat) (b : Bytes) : Join :=
  { chan := m, want := fieldLE b 4 2, demand := bitOf (fieldLE b 6 1) 0, found := bitOf (fieldLE b 6 1) 1, at_ := s.time }

/-- The state in which the package asks to join. -/
def joining (s : State) (m : Nat) (b : Bytes) : State := { s with dom := { s.dom with join := some (joinOf s m b) } }

/-- How DOMAIN_JOIN is handled. -/
theorem joinHandled (m : Nat) (b : Bytes) : ∃ f, (∀ s, execDomainJoin m s = .next (request s m 0x11 f)) ∧ ∀ s, f s b =
    if decide (32768 ≤ fieldLE b 4 2) || decide (3 < fieldLE b 6 1) then no s 2
    else if s.dom.inDomain || s.dom.join.isSome then no s 3
    else if s.cmds.any fun c => cop c == opRUN && c.desc.bead != 0 then no s 6
    else .later (askJoin (joining s m b) (fieldLE b 4 2) (bitOf (fieldLE b 6 1) 0)) := ⟨_, fun _ => rfl, fun _ => rfl⟩

theorem execDomainJoin_asks (h : asks s m 0x11 b rest) (hw : fieldLE b 4 2 < 32768) (hf : fieldLE b 6 1 ≤ 3)
    (hin : s.dom.inDomain = false) (hj : s.dom.join = none) (hruns : ∀ c ∈ s.cmds, ¬ (cop c = opRUN ∧ c.desc.bead ≠ 0)) :
    ∃ u q, exec (.domainJoin m) s = .next { u with mail := { u.mail with slow := u.mail.slow ++ [(m, q)] } } ∧ q.msg = b ∧
      u = askJoin (joining (setReqs s m rest) m b) (fieldLE b 4 2) (bitOf (fieldLE b 6 1) 0) := by
  have hany : (s.cmds.any fun c => cop c == opRUN && c.desc.bead != 0) = false := any_false fun x hx => by simpa using hruns x hx
  obtain ⟨f, hexec, hf'⟩ := joinHandled m b
  have hlater : f (setReqs s m rest) b =
      .later (askJoin (joining (setReqs s m rest) m b) (fieldLE b 4 2) (bitOf (fieldLE b 6 1) 0)) := by
    rw [hf', decide_eq_false (by omega), decide_eq_false (by omega), if_neg (by decide),
      if_neg (by rw [dom_setReqs, hin, hj]; decide), if_neg (by rw [cmds_setReqs, hany]; decide)]
  obtain ⟨q, hreq, hq⟩ := request_later h hlater
  exact ⟨_, q, (hexec s).trans (congrArg Host.Outcome.next hreq), hq, rfl⟩

/-! ## Leaving -/

/-- How DOMAIN_LEAVE is handled. -/
theorem leaveHandled (m : Nat) (b : Bytes) : ∃ f, (∀ s, execDomainLeave m s = .next (request s m 0x12 f)) ∧ ∀ s, f s b =
    if leaveBusy s || s.dom.leaving.isSome then no s 3
    else if !s.dom.inDomain || (s.dom.keeper && s.dom.roster.all fun k => k == selfPkg s) then .now (leaveDomain s) 0 []
    else .later (startLeave s m) := ⟨_, fun _ => rfl, fun _ => rfl⟩

theorem execDomainLeave_busy (h : asks s m 0x12 b rest) (hbusy : leaveBusy s = true ∨ s.dom.leaving ≠ none) :
    ∃ mb mx, exec (.domainLeave m) s = .next { s with mail := mb, io := { s.io with msix := mx } } ∧
      answered s { s with mail := mb, io := { s.io with msix := mx } } m b rest 3 [] := by
  obtain ⟨f, hexec, hf⟩ := leaveHandled m b
  refine exec_request_answers (i := .domainLeave m) (u := setReqs s m rest) (hexec s) h ?_ rfl
  rw [hf, if_pos]
  · rfl
  · rw [Bool.or_eq_true, dom_setReqs, Option.isSome_iff_ne_none]
    exact hbusy

/-- Leaving the domain leaves the mailboxes, the commands and the streams, and no table of the domain. -/
theorem leaveDomain_keeps (s : State) : (leaveDomain s).mail = s.mail ∧ (leaveDomain s).io = s.io ∧ (leaveDomain s).cmds = s.cmds ∧
    (leaveDomain s).streams = s.streams ∧ (leaveDomain s).dom.leaving = none := by
  unfold leaveDomain refLostNow
  split
  · exact ⟨rfl, rfl, rfl, rfl, rfl⟩
  · exact ⟨rfl, rfl, rfl, rfl, rfl⟩

theorem execDomainLeave_alone (h : asks s m 0x12 b rest) (hbusy : leaveBusy s = false) (hl : s.dom.leaving = none)
    (halone : s.dom.inDomain = false ∨ (s.dom.keeper = true ∧ ∀ k ∈ s.dom.roster, k = selfPkg s)) :
    ∃ u mb mx, exec (.domainLeave m) s = .next { u with mail := mb, io := { u.io with msix := mx } } ∧
      answered s { u with mail := mb, io := { u.io with msix := mx } } m b rest 0 [] ∧ u = leaveDomain (setReqs s m rest) := by
  obtain ⟨f, hexec, hf⟩ := leaveHandled m b
  obtain ⟨hmail, _⟩ := leaveDomain_keeps (setReqs s m rest)
  have hself : selfPkg (setReqs s m rest) = selfPkg s := rfl
  obtain ⟨mb, mx, hx, hans⟩ := exec_request_answers (i := .domainLeave m) (u := leaveDomain (setReqs s m rest)) (st := 0) (res := [])
    (hexec s) h (by
      rw [hf, if_neg (by rw [show leaveBusy (setReqs s m rest) = false from hbusy, dom_setReqs, hl]; decide), dom_setReqs, hself, if_pos]
      rw [Bool.or_eq_true, Bool.and_eq_true, List.all_eq_true, Bool.not_eq_true']
      exact halone.imp id fun ⟨h1, h2⟩ => ⟨h1, fun k hk => beq_iff_eq.mpr (h2 k hk)⟩) hmail
  exact ⟨_, mb, mx, hx, hans, rfl⟩

theorem execDomainLeave_member (h : asks s m 0x12 b rest) (hbusy : leaveBusy s = false) (hl : s.dom.leaving = none)
    (hin : s.dom.inDomain = true) (hk : s.dom.keeper = false) :
    ∃ u q, exec (.domainLeave m) s = .next { u with mail := { u.mail with slow := u.mail.slow ++ [(m, q)] } } ∧ q.msg = b ∧
      u = startLeave (setReqs s m rest) m := by
  obtain ⟨f, hexec, hf⟩ := leaveHandled m b
  obtain ⟨q, hreq, hq⟩ := request_later (u := startLeave (setReqs s m rest) m) (f := f) h (by
    rw [hf, if_neg (by rw [show leaveBusy (setReqs s m rest) = false from hbusy, dom_setReqs, hl]; decide),
      if_neg (by simp [hin, hk])])
  exact ⟨_, q, (hexec s).trans (congrArg Host.Outcome.next hreq), hq, rfl⟩

/-- With its departure acknowledged a package is out of the domain, and the request is answered. -/
theorem finishLeave_ends (hl : s.dom.leaving = some (some m)) (hc : s.dom.ctl = []) :
    finishLeave s = endSlow (leaveDomain s) m 0 [] := by
  rw [finishLeave, hl, hc] <;> rfl

end Domains

/-- Settles O48 (the answers of STREAM_PLACE and the order in which a package tells that it leaves are the model's choices, log entries
112 and 106): requests of streams and of the domain change the tables they name, and a join and a leave send messages. -/
theorem streamAndDomainRequests : Obligations.StreamAndDomainRequests := by
  unfold Obligations.StreamAndDomainRequests
  refine ⟨fun s m b rest h => ⟨fun hst => ?_, fun hst => ?_⟩,
    fun s m st b rest h hst hlt hopen hmove hhome => ⟨fun hact => ?_, fun hact hp hf hne => ?_⟩,
    fun s m b rest h hf => ⟨fun hin => ?_, fun hin => ?_⟩,
    fun s m b rest h hw hf hin hj hruns => ?_,
    fun s m b rest h => ⟨fun hbusy hl hin hk => ?_, fun hbusy hl halone => ?_, fun hbusy => ?_⟩,
    fun s m src seq x q y ha hl hslow hctl hseq hdst => ?_⟩
  · obtain ⟨mb, mx, hexec, hans⟩ := execStreamRead_in h hst
    exact ⟨_, hexec, hans, rfl, rfl⟩
  · obtain ⟨mb, mx, hexec, hans⟩ := execStreamRead_out h hst
    exact ⟨_, hexec, hans⟩
  · obtain ⟨mb, mx, hexec, hans⟩ := execStreamPlace_queues h hst hlt hopen hmove hhome (by omega) fun h1 => by omega
    rw [show placeOf b = none from if_pos hact] at hexec hans
    exact ⟨_, hexec, hans, tget_tput_same _ _ _ _, fun n hn => tget_tput_ne _ _ _ _ _ hn, rfl⟩
  · obtain ⟨mb, mx, hexec, hans⟩ := execStreamPlace_queues h hst hlt hopen hmove hhome (by omega) fun _ => ⟨hp, hf, hne⟩
    rw [show placeOf b = some (fieldLE b 7 1) from if_neg (by omega)] at hexec hans
    exact ⟨_, hexec, hans, tget_tput_same _ _ _ _, fun n hn => tget_tput_ne _ _ _ _ _ hn, rfl⟩
  · obtain ⟨mb, mx, hexec, hans⟩ := execDomainSet_outside h hf hin
    refine ⟨_, hexec, hans, ?_, ?_⟩
    · dsimp only
      exact domainSet_dom s b
    · dsimp only
      exact domainSet_ports s b
  · obtain ⟨mb, mx, hexec, hans⟩ := execDomainSet_inside h hf hin
    exact ⟨_, hexec, hans, rfl⟩
  · obtain ⟨u, q, hexec, hq, hu⟩ := execDomainJoin_asks h hw hf hin hj hruns
    have hsp := askJoin_spoken (joining (setReqs s m rest) m b) (fieldLE b 4 2) (bitOf (fieldLE b 6 1) 0)
    have hsends := fun p hp hst => askJoin_sends (s := joining (setReqs s m rest) m b) (want := fieldLE b 4 2) (p := p)
      (demand := bitOf (fieldLE b 6 1) 0) hp hst
    rw [← hu] at hsp hsends
    obtain ⟨_, _, _, _, _, _, hd, _⟩ := hsp.talked
    have hmail : u.mail = (setReqs s m rest).mail := hsp.told.mail
    refine ⟨_, q, hexec, (congrArg Dom.join hd).trans rfl, ?_, hq, ?_, fun p hp hst => hsends p hp hst,
      (congrArg Dom.inDomain hd).trans hin, hsp.told.cmds.trans rfl⟩
    · show u.mail.slow ++ _ = _
      rw [hmail]
      rfl
    · show tget [] u.mail.reqs m = rest
      rw [hmail]
      exact tget_tput_same _ _ _ _
  · obtain ⟨u, q, hexec, hq, hu⟩ := execDomainLeave_member h hbusy hl hin hk
    have htell : tellLeave (setReqs s m rest) = sendCtl (setReqs s m rest) s.dom.keeperPkg (.departure (selfPkg s)) :=
      if_neg (by rw [dom_setReqs, hk]; decide)
    have hsp := sendCtl_spoken (setReqs s m rest) s.dom.keeperPkg (.departure (selfPkg s))
    have hsends := sendCtl_sends (setReqs s m rest) s.dom.keeperPkg (.departure (selfPkg s))
    rw [startLeave, htell] at hu
    generalize sendCtl (setReqs s m rest) s.dom.keeperPkg (.departure (selfPkg s)) = v at hu hsp hsends
    obtain ⟨_, _, _, _, _, _, hd, _⟩ := hsp.talked
    obtain ⟨_, _, hcmds, hstreams, _⟩ := hsp.told
    subst hu
    refine ⟨_, q, hexec, rfl, (congrArg Dom.inDomain hd).trans hin, hsends, ?_, hq, hcmds, hstreams⟩
    show v.mail.slow ++ _ = _
    rw [hsp.told.mail]
    rfl
  · obtain ⟨u, mb, mx, hexec, hans, hu⟩ := execDomainLeave_alone h hbusy hl halone
    obtain ⟨h1, h2, h3, _, h5, _, _⟩ := leaveDomain_leaves (setReqs s m rest)
    obtain ⟨_, _, hcmds, hstreams, _⟩ := leaveDomain_keeps (setReqs s m rest)
    rw [← hu] at h1 h2 h3 h5 hcmds hstreams
    exact ⟨_, hexec, hans, h1, h2, h3, h5, hcmds, hstreams⟩
  · obtain ⟨mb, mx, hexec, hans⟩ := execDomainLeave_busy h hbusy
    exact ⟨_, hexec, hans, rfl⟩
  · have hexec := execControlMessageArrive_awake (src := src) (seq := seq) (m := y) ha true
    have hnil : s.dom.ctl.filter (fun x => !(x.seq == seq && x.dst == src)) = [] := by
      rw [hctl, List.filter_cons_of_neg (by simp [hseq, hdst])]
      rfl
    rw [if_pos rfl, finishLeave_ends (by exact hl) (by exact hnil)] at hexec
    generalize hu : ({ s with dom := { s.dom with
      ctl := s.dom.ctl.filter fun x => !(x.seq == seq && x.dst == src)
      resend := s.dom.resend.filter fun u => !(u.seq == seq && u.dst / 4096 == src) } } : State) = u at hexec
    have humail : u.mail = s.mail := by rw [← hu]
    have hucmds : u.cmds = s.cmds := by rw [← hu]
    obtain ⟨h1, h2, h3, _, h5, _, _⟩ := leaveDomain_leaves u
    obtain ⟨hmail, _, hcmds, _, hleaving⟩ := leaveDomain_keeps u
    obtain ⟨mb, mx, hend, hrep⟩ := endSlow_replied (s := leaveDomain u) (by rw [hmail, humail]; exact hslow) 0 []
    rw [hend] at hexec hrep
    exact ⟨_, hexec, h1, h2, h3, h5, hleaving, replied_of_mail (hmail.trans humail) hrep, hcmds.trans hucmds⟩

end Sys2Proof.Machine
end

section
/-! The boot sources, the images they deliver, and the start of the firmware (16). -/

namespace Sys2Proof.Machine

open Sys2Proof Sys2Proof.Ob

/-! ## What the ports leave of the boot -/

/-- The security block, the mailboxes and the boot code stand. -/
structure BootKept (s t : State) : Prop where
  sec : t.sec = s.sec
  mail : t.mail = s.mail
  code : t.crown.bootCode = s.crown.bootCode

theorem BootKept.refl (s : State) : BootKept s s := ⟨rfl, rfl, rfl⟩

theorem BootKept.trans {s t u : State} (a : BootKept s t) (b : BootKept t u) : BootKept s u :=
  ⟨b.sec.trans a.sec, b.mail.trans a.mail, b.code.trans a.code⟩

theorem setPort_bootKept (s : State) (p : Nat) (x : Port) : BootKept s (setPort s p x) := ⟨rfl, rfl, rfl⟩

theorem TallyOnly.bootKept {s t : State} (h : TallyOnly s t) : BootKept s t := by
  obtain ⟨_, _, rfl⟩ := h
  exact ⟨rfl, rfl, rfl⟩

theorem sendCtl_bootKept (s : State) (dst : Nat) (m : Ctl) : BootKept s (sendCtl s dst m) := by
  have hended := (sendCtl_told s dst m).ended
  obtain ⟨_, _, _, _, hc⟩ := sendCtl_allowances s dst m
  exact ⟨hended.sec, hended.mail, by rw [hc]⟩

theorem reportLink_bootKept (s : State) (p : Nat) (x : Port) (up : Bool) : BootKept s (reportLink s p x up) := by
  unfold reportLink
  split
  · exact .refl s
  · split
    · exact ⟨rfl, rfl, rfl⟩
    · exact sendCtl_bootKept s _ _

theorem portDrop_bootKept (s : State) (p cause : Nat) : BootKept s (portDrop s p cause) := by
  have hreport : ∀ (u : State) (c : Bool) (sub : W32), BootKept s u →
      BootKept s (reportLink (if c then event u crownLoc 0x22 sub p 0 else u) p (getPort s p) false) := by
    intro u c sub hu
    refine BootKept.trans (hu.trans ?_) (reportLink_bootKept _ _ _ _)
    split
    · exact (event_tallyOnly u _ _ _ _ _).bootKept
    · exact .refl u
  exact hreport _ _ _ ((setPort_bootKept s p _).trans (event_tallyOnly _ _ _ _ _ _).bootKept)

theorem refLoss_bootKept (s : State) : BootKept s (refLoss s) := by
  have hports : ∀ (l : List Nat) (t : State), BootKept t (l.foldl (fun t q => if (getPort t q).state = 2 then portDrop t q 0 else t) t) := by
    intro l
    induction l with
    | nil => exact .refl
    | cons q l ih =>
      intro t
      refine BootKept.trans ?_ (ih _)
      dsimp only
      split
      · exact portDrop_bootKept t q 0
      · exact .refl t
  unfold refLoss
  split
  · exact .refl s
  · have hset : BootKept s { s with pwr := { s.pwr with refLost := true, onOsc := true } } := ⟨rfl, rfl, rfl⟩
    exact (hset.trans (hports _ _)).trans (event_tallyOnly _ _ _ _ _ _).bootKept

theorem portFalls_bootKept (s : State) (p cause : Nat) : BootKept s (portFalls s p cause) := by
  unfold portFalls
  dsimp only
  split
  · exact (portDrop_bootKept s p cause).trans (refLoss_bootKept _)
  · exact portDrop_bootKept s p cause

theorem portCtrl_bootKept (s : State) (p : Nat) (v : W32) : BootKept s (portCtrl s p v) := by
  unfold portCtrl
  dsimp only
  split
  · exact .refl s
  · split
    · exact ⟨rfl, rfl, rfl⟩
    · split
      · have hfalls : ∀ (u : State), BootKept s u → BootKept s (if pairEn u (portPair p) then u
            else { u with pwr := { u.pwr with pairOffAt := tput 0 u.pwr.pairOffAt (portPair p) (s.time + 10000000) } }) := by
          intro u hu
          split
          · exact hu
          · exact ⟨hu.sec, hu.mail, hu.code⟩
        refine hfalls _ ?_
        split
        · exact (setPort_bootKept s p _).trans (portFalls_bootKept _ p 3)
        · exact ⟨rfl, rfl, rfl⟩
      · exact ⟨rfl, rfl, rfl⟩

theorem romTrain_bootKept (s : State) (k : Nat) : BootKept s (romTrain s k) :=
  (portCtrl_bootKept s 0 _).trans (portCtrl_bootKept _ 0 _)

/-! ## A source that fails -/

section Sources

variable {s : State} {src code : Nat} {second : Bool} {b : Bytes}

theorem raiseFault_mem (s : State) (n : Nat) : n ∈ (raiseFault s n).rst.faults := by
  unfold raiseFault
  split
  · next h => exact List.contains_iff_mem.mp h
  · exact List.mem_append_right _ (List.mem_singleton.mpr rfl)

theorem raiseFault_bootKept (s : State) (n : Nat) : BootKept s (raiseFault s n) := by
  unfold raiseFault
  split
  · exact .refl s
  · exact ⟨rfl, rfl, rfl⟩

/-- The ROM that stops keeps the code, with FAULT_N 7. -/
theorem romStop_spec (s : State) (code : Nat) : (romStop s code).sec = romTo .stopped s.sec ∧ 7 ∈ (romStop s code).rst.faults ∧
    (romStop s code).crown.bootCode = BitVec.ofNat 8 code ∧ (romStop s code).mail = s.mail ∧ (romStop s code).ports = s.ports := by
  have hkept := raiseFault_bootKept (setCode (setSec s (romTo .stopped)) code) 7
  refine ⟨hkept.sec, raiseFault_mem _ 7, hkept.code, hkept.mail, ?_⟩
  unfold romStop raiseFault
  split
  · rfl
  · rfl

/-- The state in which the code of a source is recorded. -/
def codeKept (s : State) (second : Bool) (code : Nat) : State := setCode (setSec s (codeOf second code)) code

/-- A first source with another after it hands over. -/
theorem sourceFails_next {a nxt : Nat} (h : s.sec.rom = .trying src false) (hn : bootSources s.sec.bootsel.toNat = some (a, some nxt)) :
    sourceFails s code = trySource (codeKept s false code) nxt true := by
  unfold sourceFails
  rw [h]
  dsimp only
  rw [hn] <;> rfl

/-- A source with no other after it leaves the ROM waiting for a push, or stopped. -/
theorem sourceFails_stays (h : s.sec.rom = .trying src second)
    (hn : second = true ∨ ∀ a nxt, bootSources s.sec.bootsel.toNat ≠ some (a, some nxt)) : sourceFails s code =
      if src = 1 then setSec (codeKept s second code) (romTo .push) else romStop (codeKept s second code) code := by
  unfold sourceFails
  rw [h]
  dsimp only
  split
  · next a nxt hb => exact (hn.resolve_left (by decide) a nxt hb).elim
  · rfl

/-- Whatever the ROM does next, the code is recorded and the mailboxes stand. -/
theorem sourceFails_code (h : s.sec.rom = .trying src second) : (sourceFails s code).crown.bootCode = BitVec.ofNat 8 code ∧
    (sourceFails s code).mail = s.mail := by
  have htry : ∀ u n, (trySource u n true).crown.bootCode = u.crown.bootCode ∧ (trySource u n true).mail = u.mail := by
    intro u n
    unfold trySource
    dsimp only
    split
    · have hkept := romTrain_bootKept (setSec (setSec u (romTo (.trying n true))) (mediumTo 0 u.time)) 0
      exact ⟨hkept.code, hkept.mail⟩
    · exact ⟨rfl, rfl⟩
  by_cases hn : second = true ∨ ∀ a nxt, bootSources s.sec.bootsel.toNat ≠ some (a, some nxt)
  · rw [sourceFails_stays h hn]
    split
    · exact ⟨rfl, rfl⟩
    · obtain ⟨_, _, hc, hm, _⟩ := romStop_spec (codeKept s second code) code
      exact ⟨hc, hm⟩
  · simp only [not_or, Bool.not_eq_true, not_forall, ne_eq, not_not] at hn
    obtain ⟨rfl, a, nxt, hb⟩ := hn
    rw [sourceFails_next h hb]
    exact htry _ _

theorem bootSources_last {sel : BitVec 3} (h : sel = 0 ∨ sel = 1 ∨ sel = 2) : ∀ a nxt, bootSources sel.toNat ≠ some (a, some nxt) := by
  rcases h with rfl | rfl | rfl
  · exact fun _ _ h => by cases h
  · exact fun _ _ h => by cases h
  · exact fun _ _ h => by cases h

/-- Under BOOTSEL 3 the flash hands over to host push. -/
theorem sourceFails_flash (h : s.sec.rom = .trying 0 false) (h3 : s.sec.bootsel = 3) :
    sourceFails s code = setSec (codeKept s false code) (romTo (.trying 1 true)) := by
  rw [sourceFails_next (a := 0) (nxt := 1) h (by rw [h3]; rfl), trySource, if_neg (by decide)]

/-! ## A source that delivers -/

theorem checkImage_good (h0 : imageCode s.sec b = 0) : checkImage s b src second = acceptImage s b src second := if_pos h0

/-- An accepted image: what it is, and from where, is kept. -/
theorem acceptImage_sec (s : State) (b : Bytes) (src : Nat) (second : Bool) :
    (acceptImage s b src second).sec = bootedImage b src second s.sec := rfl

theorem acceptImage_crown (s : State) (b : Bytes) (src : Nat) (second : Bool) : (acceptImage s b src second).crown =
    { s.crown with bootCode := 0, fwVersion := BitVec.ofNat 32 (fieldLE b 16 4) } := rfl

theorem checkImage_bad (h0 : imageCode s.sec b ≠ 0) : checkImage s b src second = sourceFails s (imageCode s.sec b) := if_neg h0

theorem checkImage_code (h : s.sec.rom = .trying src second) : (checkImage s b src second).crown.bootCode =
    BitVec.ofNat 8 (imageCode s.sec b) ∧ (checkImage s b src second).mail = s.mail := by
  by_cases h0 : imageCode s.sec b = 0
  · rw [checkImage_good h0, h0]
    exact ⟨rfl, rfl⟩
  · rw [checkImage_bad h0]
    exact sourceFails_code h

/-- What FLASH_READ does while the ROM tries the flash. -/
theorem execFlashRead_trying (hup : crownUp s = true) (h : s.sec.rom = .trying 0 second) (a : ImgAns) :
    exec (.flashRead a) s = match a with
      | .absent => .next (sourceFails s 0x01)
      | .device sfdp fails mem =>
        match flashTable sfdp with
        | none => .next (sourceFails s 0x01)
        | some t => .next (if fails
            then sourceFails (wire s (.flash (flashQuad t) (flashLarge t) (flashImage mem).length)) 0x02
            else checkImage (wire s (.flash (flashQuad t) (flashLarge t) (flashImage mem).length)) (flashImage mem) 0 second) := by
  show execFlashRead a s = _
  unfold execFlashRead
  split
  case h_1 x heq =>
    obtain rfl : second = x := by
      injection h.symm.trans heq
    rw [if_neg (by rw [hup]; decide)] <;> rfl
  case h_2 hne => exact absurd h (hne second)

theorem execFlashRead_image {sfdp mem : Bytes} {tbl : List Nat} (hup : crownUp s = true) (h : s.sec.rom = .trying 0 second)
    (ht : flashTable sfdp = some tbl) (fails : Bool) : exec (.flashRead (.device sfdp fails mem)) s =
      .next (if fails then sourceFails (wire s (.flash (flashQuad tbl) (flashLarge tbl) (flashImage mem).length)) 0x02
        else checkImage (wire s (.flash (flashQuad tbl) (flashLarge tbl) (flashImage mem).length)) (flashImage mem) 0 second) := by
  rw [execFlashRead_trying hup h]
  dsimp only
  rw [ht]

theorem execFlashRead_none {bad mem : Bytes} (hup : crownUp s = true) (h : s.sec.rom = .trying 0 second)
    (hb : flashTable bad = none) (fails : Bool) : exec (.flashRead (.device bad fails mem)) s = .next (sourceFails s 0x01) := by
  rw [execFlashRead_trying hup h]
  dsimp only
  rw [hb]

theorem execFlashRead_absent (hup : crownUp s = true) (h : s.sec.rom = .trying 0 second) :
    exec (.flashRead .absent) s = .next (sourceFails s 0x01) := execFlashRead_trying hup h .absent

theorem execPeerImageArrive_up (hup : crownUp s = true) (h : s.sec.rom = .trying 2 second) (hp : (getPort s 0).state = 2) :
    exec (.peerImageArrive b) s = .next (checkImage s b 2 second) := by
  show execPeerImageArrive b s = _
  unfold execPeerImageArrive
  rw [h]
  exact congrArg Host.Outcome.next (if_pos (by rw [hup, hp]; rfl))

theorem romPeer_trying (h : s.sec.rom = .trying 2 second) : romPeer s = true := by
  unfold romPeer
  rw [h] <;> rfl

theorem execBootPeerTimeout_due (hup : crownUp s = true) (h : s.sec.rom = .trying 2 second)
    (hdue : s.sec.romAt + 10000000000 ≤ s.time) : exec .bootPeerTimeout s = .next (sourceFails s 0x01) := by
  show execBootPeerTimeout s = _
  rw [execBootPeerTimeout, onlyIf, if_pos (by rw [hup, romPeer_trying h]; simpa using hdue)]

/-! ## The medium of port 0 -/

/-- Port 0 of `t` is off and can be trained, and the security block is that of `s`. -/
structure PortOff (s t : State) : Prop where
  en : (getPort t 0).en = false
  there : portThere t 0 = true
  sec : t.sec = s.sec

/-- A port that is not up is off after EN is cleared. -/
theorem portCtrl_clears (hthere : portThere s 0 = true) (hst : (getPort s 0).state ≠ 2) : PortOff s (portCtrl s 0 0x100) := by
  have hv : (0x100 : W32).getLsbD 31 = false := by decide
  have hoff : ∀ u, PortOff s u → PortOff s (if pairEn u (portPair 0) then u
      else { u with pwr := { u.pwr with pairOffAt := tput 0 u.pwr.pairOffAt (portPair 0) (s.time + 10000000) } }) := by
    intro u hu
    split
    · exact hu
    · exact ⟨hu.en, hu.there, hu.sec⟩
  have hset : ∀ t x, t = setPort s 0 x → x.en = false → PortOff s t := by
    rintro _ x rfl hx
    exact ⟨by rw [getPort_setPort_same]; exact hx, hthere, rfl⟩
  unfold portCtrl
  rw [if_neg (by rw [hthere]; decide), hv]
  dsimp only
  rw [if_neg (by simp)]
  by_cases hen : (getPort s 0).en = true
  · rw [if_pos (by rw [hen]; rfl), if_neg hst]
    refine hoff _ ⟨?_, hthere, rfl⟩
    rw [getPort_setPort_same]
  · rw [if_neg (by simpa using hen)]
    exact hset _ _ rfl (by simpa using hen)

/-- Port `p` with EN set on a medium, from now. -/
def portOn (s : State) (p : Nat) (v : W32) : Port :=
  { getPort s p with
    adapt := v.getLsbD 8, medium := if 2 ≤ bits v.toNat 1 0 then (getPort s p).medium else BitVec.ofNat 2 (bits v.toNat 1 0)
    en := true, state := 1, trainAt := s.time }

/-- EN set on a port that is off starts its training. -/
theorem portCtrl_on {p : Nat} {v : W32} (hthere : portThere s p = true) (hv : v.getLsbD 31 = true)
    (hen : (getPort s p).en = false) : ∃ pwr, portCtrl s p v = { setPort s p (portOn s p v) with pwr := pwr } := by
  have hy : portOn s p v = { getPort s p with
      adapt := v.getLsbD 8
      medium := if (getPort s p).en || decide (2 ≤ bits v.toNat 1 0) then (getPort s p).medium
        else BitVec.ofNat 2 (bits v.toNat 1 0)
      en := true, state := 1, trainAt := s.time } := by
    rw [hen, Bool.false_or]
    simp only [decide_eq_true_eq]
    rfl
  unfold portCtrl
  rw [if_neg (by rw [hthere]; decide)]
  dsimp only
  rw [if_pos (by rw [hv, hen]; rfl), hy]
  exact ⟨_, rfl⟩

/-- A port that is off trains on the medium written with EN. -/
theorem portCtrl_sets {k : Nat} (hk : k < 2) (hthere : portThere s 0 = true) (hen : (getPort s 0).en = false) :
    (getPort (portCtrl s 0 (BitVec.ofNat 32 (0x80000100 + k))) 0).medium = BitVec.ofNat 2 k ∧
      (getPort (portCtrl s 0 (BitVec.ofNat 32 (0x80000100 + k))) 0).en = true ∧
      (getPort (portCtrl s 0 (BitVec.ofNat 32 (0x80000100 + k))) 0).state = 1 ∧
      (portCtrl s 0 (BitVec.ofNat 32 (0x80000100 + k))).sec = s.sec := by
  have hbits : (BitVec.ofNat 32 (0x80000100 + k)).getLsbD 31 = true ∧ bits (BitVec.ofNat 32 (0x80000100 + k)).toNat 1 0 = k := by
    interval_cases k
    · decide
    · decide
  obtain ⟨hv, hmed⟩ := hbits
  generalize BitVec.ofNat 32 (0x80000100 + k) = v at hv hmed ⊢
  obtain ⟨pwr, hon⟩ := portCtrl_on hthere hv hen
  have hport : getPort { setPort s 0 (portOn s 0 v) with pwr := pwr } 0 = portOn s 0 v := getPort_setPort_same s 0 _
  have hm : (portOn s 0 v).medium = BitVec.ofNat 2 k := by
    rw [portOn, hmed, if_neg (by omega)]
  rw [hon, hport]
  exact ⟨hm, rfl, rfl, rfl⟩

theorem execBootMediumSwitch_due (hup : crownUp s = true) (h : s.sec.rom = .trying 2 second) (hst : (getPort s 0).state ≠ 2)
    (hdue : s.sec.mediumAt + 500000000 ≤ s.time) : exec .bootMediumSwitch s =
      .next (romTrain (setSec s (mediumTo (BitVec.ofNat 2 (1 - s.sec.medium.toNat)) s.time)) (1 - s.sec.medium.toNat)) := by
  show execBootMediumSwitch s = _
  unfold execBootMediumSwitch
  have hst' : ((getPort s 0).state != 2) = true := by simpa using hst
  rw [if_pos (by rw [hup, romPeer_trying h, hst', decide_eq_true hdue]; rfl)]

theorem romTrain_trains {k : Nat} (hk : k < 2) (hthere : portThere s 0 = true) (hst : (getPort s 0).state ≠ 2) :
    (getPort (romTrain s k) 0).medium = BitVec.ofNat 2 k ∧ (getPort (romTrain s k) 0).en = true ∧
      (getPort (romTrain s k) 0).state = 1 ∧ (romTrain s k).sec = s.sec := by
  obtain ⟨hen, hthere', hsec⟩ := portCtrl_clears hthere hst
  obtain ⟨h1, h2, h3, h4⟩ := portCtrl_sets hk hthere' hen
  exact ⟨h1, h2, h3, h4.trans hsec⟩

/-! ## A peer that boots -/

theorem execBootFetch_ready {r : List (Nat × Ctl)} (hgot : s.dom.got = (src, .bootFetch) :: r) (ha : awake s)
    (hr : s.crown.ready = true) : exec .bootFetch s = .next (if portUpTo s src then sendImage (tookGot s r) src else tookGot s r) := by
  have hport : portUpTo (tookGot s r) src = portUpTo s src := rfl
  show execBootFetch s = _
  unfold execBootFetch
  rw [if_neg (by rw [hr, d1Off_awake ha]; decide), takeGot_front hgot rfl]
  dsimp only
  rw [hport]

theorem execBootFetch_waits (hr : s.crown.ready = false) : exec .bootFetch s = .next s := by
  show execBootFetch s = _
  unfold execBootFetch
  rw [if_pos (by rw [hr]; rfl)]

/-! ## Host push -/

theorem execImageWindowWrite_awake (ha : awake s) (off : Nat) : exec (.imageWindowWrite off b) s =
    .next (if s.crown.ready || decide (0x100000 < off + b.length) then s
      else setSec s fun x => { x with win := memPut x.win off b }) := by
  show execImageWindowWrite off b s = _
  rw [execImageWindowWrite, hostAccess_awake ha.1 ha.2]

theorem execFirmwareReady_booted (ha : awake s) (h : s.sec.rom = .booted) (hr : s.rst.resetting = none) : exec .firmwareReady s =
    .next { s with
      crown := { s.crown with ready := true }
      bead := if s.bead.en then s.bead else { s.bead with en := true, edge := s.time, from3 := 3 * s.time } } := by
  show execFirmwareReady s = _
  rw [execFirmwareReady, onlyIf, if_pos (by rw [h, hr, ha.1, d1Off_awake ha]; rfl)]

/-! ## The requests of host push -/

variable {m : Nat} {rest : List Req} {img : Bytes}

/-- What BOOT_CHUNK does with its message. -/
theorem chunkHandled (m : Nat) (b : Bytes) : ∃ f, (∀ s, exec (.bootChunk m) s = .next (request s m 0x28 f)) ∧
    ∀ s, f s b = if fieldLE b 8 4 = 0 ∨ 1048576 < fieldLE b 8 4 ∨ 8392664 < fieldLE b 4 4 + fieldLE b 8 4 then no s 2
      else .now (setSec s fun x => { x with image := memPut x.image (fieldLE b 4 4) (memGet x.win 0 (fieldLE b 8 4)) }) 0 [] :=
  ⟨_, fun _ => rfl, fun _ => rfl⟩

/-- What BOOT_GO does with its message. -/
def goReply (s : State) (img : Bytes) : Ans :=
  match s.sec.rom with
  | .trying 1 second => .now (checkImage s img 1 second) 0 []
  | .push => .now (checkImage s img 1 (s.sec.bootsel == 3)) 0 []
  | _ => no s 3

theorem goHandled (m : Nat) (b : Bytes) : ∃ f, (∀ s, exec (.bootGo m) s = .next (request s m 0x29 f)) ∧
    ∀ s, f s b = goReply s (memGet s.sec.image 0 (min (fieldLE b 4 4) 8392665)) :=
  ⟨_, fun _ => rfl, fun _ => rfl⟩

theorem goReply_trying (h : s.sec.rom = .trying 1 second) : goReply s img = .now (checkImage s img 1 second) 0 [] := by
  unfold goReply
  split
  case h_1 x heq =>
    obtain rfl : second = x := by
      injection h.symm.trans heq
    rfl
  case h_2 heq => exact absurd (h.symm.trans heq) (by simp)
  case h_3 hne _ => exact absurd h (hne second)

theorem goReply_push (h : s.sec.rom = .push) : goReply s img = .now (checkImage s img 1 (s.sec.bootsel == 3)) 0 [] := by
  unfold goReply
  rw [h] <;> rfl

theorem goReply_late (ht : ∀ i x, s.sec.rom ≠ .trying i x) (hp : s.sec.rom ≠ .push) : goReply s img = no s 3 := by
  unfold goReply
  split
  case h_1 x heq => exact absurd heq (ht 1 x)
  case h_2 heq => exact absurd heq hp
  case h_3 => rfl

/-- While the ROM waits for a further push, an image that fails only has its code recorded. -/
theorem checkImage_push (h : s.sec.rom = .push) (h0 : imageCode s.sec img ≠ 0) :
    checkImage s img src second = setCode s (imageCode s.sec img) := by
  rw [checkImage_bad h0, sourceFails, h] <;> rfl

theorem checkImage_push_code (h : s.sec.rom = .push) : (checkImage s img src second).crown.bootCode =
    BitVec.ofNat 8 (imageCode s.sec img) ∧ (checkImage s img src second).mail = s.mail := by
  by_cases h0 : imageCode s.sec img = 0
  · rw [checkImage_good h0, h0]
    exact ⟨rfl, rfl⟩
  · rw [checkImage_push h h0]
    exact ⟨rfl, rfl⟩

/-- BOOT_GO that checks the pushed image is answered OK. -/
theorem execBootGo_checks (h : asks s m 0x29 b rest) (himg : img = memGet s.sec.image 0 (min (fieldLE b 4 4) 8392665))
    (hgo : goReply (setReqs s m rest) img = .now (checkImage (setReqs s m rest) img 1 second) 0 [])
    (hmail : (checkImage (setReqs s m rest) img 1 second).mail = (setReqs s m rest).mail) :
    ∃ u mb mx, exec (.bootGo m) s = .next { u with mail := mb, io := { u.io with msix := mx } } ∧
      answered s { u with mail := mb, io := { u.io with msix := mx } } m b rest 0 [] ∧
      u = checkImage (setReqs s m rest) img 1 second := by
  obtain ⟨f, hexec, hf⟩ := goHandled m b
  have hpushed : memGet (setReqs s m rest).sec.image 0 (min (fieldLE b 4 4) 8392665) = img := himg.symm
  obtain ⟨mb, mx, hx, hans⟩ := exec_request_answers (i := .bootGo m) (hexec s) h ((hf _).trans (by rw [hpushed]; exact hgo)) hmail
  exact ⟨_, mb, mx, hx, hans, rfl⟩

end Sources

namespace Holds

/-- Settles O49 (who serves BOOT_CHUNK and BOOT_GO, what FIRMWARE_READY needs and how a peer is asked for its image are the model's
choices, log entries 115, 116 and 119): what each source delivers is checked, and a source that fails hands over, stops the ROM or leaves
it waiting for a push. -/
theorem bootSources : Obligations.BootSources := by
  unfold Obligations.BootSources
  refine ⟨⟨fun s second hup h => ⟨fun sfdp mem b tbl ht hb => ?_, fun tbl sfdp mem bad fails ht hbad hsel h2 => ?_⟩,
    fun s b second hup h hst => ?_, fun s second hup h hdue hsel => ?_, fun s second hup h hst hdue hthere => ?_,
    fun s src r hgot ha => ⟨fun hr hp => ?_, fun hr hp => ?_, fun hr => execBootFetch_waits hr⟩⟩,
    fun s off b ha hr => ⟨fun hle => ?_, fun hlt => ?_⟩, fun s off b ha hr => ?_,
    fun s m b rest h => ⟨fun h1 h2 h3 => ?_, fun h0 => ?_⟩,
    fun s m b img rest h himg => ⟨fun second hrom => ?_, fun hrom => ?_, fun ht hp => ?_⟩,
    fun s ha hrom hrst => ?_⟩
  · have hexec := execFlashRead_image (mem := mem) hup h ht false
    rw [if_neg (by decide), show flashImage mem = b from hb.symm] at hexec
    have hcode := (checkImage_code (s := wire s (.flash (flashQuad tbl) (flashLarge tbl) b.length)) (b := b) h).1
    have hkept : ∀ w, (wire s w).sec = s.sec ∧ (wire s w).crown = s.crown ∧ (wire s w).rst = s.rst ∧ (wire s w).cmds = s.cmds :=
      fun _ => ⟨rfl, rfl, rfl, rfl⟩
    obtain ⟨hsec, hcrown, hrst, hcmds⟩ := hkept (.flash (flashQuad tbl) (flashLarge tbl) b.length)
    generalize wire s (.flash (flashQuad tbl) (flashLarge tbl) b.length) = v at hexec hcode hsec hcrown hrst hcmds
    rw [← hsec] at h ⊢
    rw [← hcrown, ← hrst, ← hcmds]
    refine ⟨_, hexec, hcode, fun h0 => ?_, fun h0 hsel => ?_⟩
    · rw [checkImage_good h0, acceptImage_sec, acceptImage_crown]
      exact ⟨rfl, rfl, by rw [bootedImage], rfl, rfl, rfl, rfl, rfl, rfl, rfl, rfl⟩
    · rw [checkImage_bad h0, sourceFails_stays h (.inr (bootSources_last (.inl hsel))), if_neg (by decide)]
      obtain ⟨hstop, hfault, _⟩ := romStop_spec (codeKept v second (imageCode v.sec b)) (imageCode v.sec b)
      exact ⟨congrArg Sec.rom hstop, hfault, (congrArg Sec.booted hstop).trans rfl⟩
  · subst h2
    have hfail := execFlashRead_image (mem := mem) hup h ht true
    rw [if_pos rfl, sourceFails_flash (s := wire s _) h hsel] at hfail
    have habs := execFlashRead_absent hup h
    have hnone := execFlashRead_none (mem := mem) hup h hbad fails
    rw [sourceFails_flash h hsel] at habs hnone
    refine ⟨_, _, habs, hnone, ?_, ?_, ?_, ?_, ?_, hfail, ?_, ?_, ?_⟩
    · rfl
    · rfl
    · rfl
    · rfl
    · rfl
    · rfl
    · rfl
    · rfl
  · have hcode := (checkImage_code (b := b) h).1
    refine ⟨_, execPeerImageArrive_up hup h hst, hcode, fun h0 => ?_, fun h0 hsel => ?_⟩
    · rw [checkImage_good h0, acceptImage_sec]
      exact ⟨rfl, rfl, by rw [bootedImage], rfl, rfl⟩
    · rw [checkImage_bad h0, sourceFails_stays h (.inr (bootSources_last (.inr (.inr hsel)))), if_neg (by decide)]
      obtain ⟨hsec, hfault, _⟩ := romStop_spec (codeKept s second (imageCode s.sec b)) (imageCode s.sec b)
      exact ⟨congrArg Sec.rom hsec, hfault⟩
  · have hexec := execBootPeerTimeout_due hup h hdue
    rw [sourceFails_stays h (.inr (bootSources_last (.inr (.inr hsel)))), if_neg (by decide)] at hexec
    obtain ⟨hsec, hfault, hcode, _, hports⟩ := romStop_spec (codeKept s second 1) 1
    exact ⟨_, hexec, congrArg Sec.rom hsec, hcode, hfault, hports.trans rfl⟩
  · obtain ⟨hmed, hen, hstate, hsec⟩ := romTrain_trains (k := 1 - s.sec.medium.toNat)
      (s := setSec s (mediumTo (BitVec.ofNat 2 (1 - s.sec.medium.toNat)) s.time)) (by omega) hthere hst
    refine ⟨_, execBootMediumSwitch_due hup h hst hdue, ?_, ?_, ?_, hen, hstate, ?_⟩
    · exact (congrArg Sec.medium hsec).trans rfl
    · exact (congrArg Sec.mediumAt hsec).trans rfl
    · exact hmed.trans (congrArg Sec.medium hsec).symm
    · exact (congrArg Sec.rom hsec).trans rfl
  · rw [execBootFetch_ready hgot ha hr, if_pos hp]
    rfl
  · rw [execBootFetch_ready hgot ha hr, if_neg (by rw [hp]; decide)]
    rfl
  · rw [execImageWindowWrite_awake ha, if_neg (by rw [hr, decide_eq_false (by omega)]; decide)]
    rfl
  · rw [execImageWindowWrite_awake ha, if_pos (by rw [decide_eq_true hlt, Bool.or_true])]
  · rw [execImageWindowWrite_awake ha, if_pos (by rw [hr, Bool.true_or])]
  · obtain ⟨f, hexec, hf⟩ := chunkHandled m b
    obtain ⟨mb, mx, hx, hans⟩ := exec_request_answers (i := .bootChunk m) (hexec s) h ((hf _).trans (if_neg (by omega))) rfl
    exact ⟨_, hx, hans, rfl, rfl⟩
  · obtain ⟨f, hexec, hf⟩ := chunkHandled m b
    obtain ⟨mb, mx, hx, hans⟩ := exec_request_answers (i := .bootChunk m) (hexec s) h ((hf _).trans (if_pos (.inl h0))) rfl
    exact ⟨_, hx, hans, rfl⟩
  · have hrom' : (setReqs s m rest).sec.rom = .trying 1 second := hrom
    have hchk := checkImage_code (b := img) hrom'
    obtain ⟨u, mb, mx, hexec, hans, hu⟩ := execBootGo_checks h himg (goReply_trying hrom') hchk.2
    rw [← sec_setReqs s m rest]
    refine ⟨_, hexec, hans, ?_, fun h0 => ?_, fun h0 hsel => ?_⟩
    · exact (congrArg (fun x => x.crown.bootCode) hu).trans hchk.1
    · rw [checkImage_good h0] at hu
      subst hu
      exact ⟨rfl, rfl, rfl, rfl⟩
    · rw [checkImage_bad h0, sourceFails_stays hrom' (.inr (bootSources_last (.inr (.inl hsel)))), if_pos rfl] at hu
      subst hu
      exact ⟨rfl, rfl⟩
  · have hrom' : (setReqs s m rest).sec.rom = .push := hrom
    have hchk := checkImage_push_code (img := img) (src := 1) (second := (setReqs s m rest).sec.bootsel == 3) hrom'
    obtain ⟨u, mb, mx, hexec, hans, hu⟩ := execBootGo_checks h himg (goReply_push hrom') hchk.2
    rw [← sec_setReqs s m rest]
    refine ⟨_, hexec, hans, ?_, fun h0 => ?_, fun h0 => ?_⟩
    · exact (congrArg (fun x => x.crown.bootCode) hu).trans hchk.1
    · rw [checkImage_good h0] at hu
      subst hu
      exact ⟨rfl, rfl, rfl⟩
    · rw [checkImage_push hrom' h0] at hu
      subst hu
      exact hrom
  · obtain ⟨f, hexec, hf⟩ := goHandled m b
    obtain ⟨mb, mx, hx, hans⟩ := exec_request_answers (i := .bootGo m) (hexec s) h ((hf _).trans (goReply_late ht hp)) rfl
    exact ⟨_, hx, hans, rfl⟩
  · refine ⟨_, execFirmwareReady_booted ha hrom hrst, rfl, ?_, ?_, fun hen => if_pos hen, rfl, rfl⟩
    · dsimp only
      split
      · next hen => exact hen
      · rfl
    · dsimp only
      split
      · rfl
      · rfl

end Holds

end Sys2Proof.Machine
end

section
/-! The fuses, the identity and the reports (16). -/

namespace Sys2Proof.Machine

open Sys2Proof Sys2Proof.Ob

section Identity

variable {s t : State} {m : Nat} {b d : Bytes} {rest : List Req}

/-! ## Fuses -/

/-- What ROLLBACK_ADVANCE does with its message. -/
theorem rollbackHandled (m : Nat) (b : Bytes) : ∃ f, (∀ s, exec (.rollbackAdvance m) s = .next (request s m 0x22 f)) ∧
    ∀ s, f s b = if s.sec.svn < fieldLE b 4 1 then no s 2
      else .now (setSec s fun x => { x with rollback := max x.rollback (fieldLE b 4 1) }) 0 [] :=
  ⟨_, fun _ => rfl, fun _ => rfl⟩

/-- What the host's answer to OWNER_PROVISION does. -/
def provisionReply (s : State) (d : Bytes) : Ans :=
  if !ownerBlockOk s.sec d then no s 2
  else .now (setSec s fun x => { x with ownerDigest := sha384 (slice d 0 96), ownerLms := slice d 96 56, ownerSet := true }) 0 []

theorem provisionHandled (m : Nat) (b d : Bytes) :
    ∃ f, (∀ s, exec (.ownerProvision m (.data d)) s = .next (request s m 0x23 f)) ∧
    ∀ s, f s b = if s.sec.ownerSet then no s 3 else if !dmaFieldsOk b 1 2020 2020 then no s 2
      else provisionReply (dmaRead s (some (fieldLE b 4 4)) (fieldLE b 8 8) 2020) d :=
  ⟨_, fun _ => rfl, fun _ => rfl⟩

/-- An owner block read from the host is taken if it verifies. -/
theorem execOwnerProvision_reads (h : asks s m 0x23 b rest) (hset : s.sec.ownerSet = false) (hf : dmaFieldsOk b 1 2020 2020 = true)
    (d : Bytes) : ∃ t, exec (.ownerProvision m (.data d)) s = .next t ∧
      answered s t m b rest (if ownerBlockOk s.sec d then 0 else 2) [] ∧
      t.sec = (if ownerBlockOk s.sec d then { s.sec with
        ownerDigest := sha384 (slice d 0 96), ownerLms := slice d 96 56, ownerSet := true } else s.sec) ∧ t.cmds = s.cmds := by
  obtain ⟨f, hexec, hfe⟩ := provisionHandled m b d
  have hto := hfe (setReqs s m rest)
  rw [if_neg (by rw [sec_setReqs, hset]; decide), if_neg (by rw [hf]; decide), provisionReply] at hto
  cases hok : ownerBlockOk s.sec d
  · obtain ⟨mb, mx, hx, hans⟩ := exec_request_answers (i := .ownerProvision m (.data d)) (hexec s) h
      (hto.trans (if_pos (Bool.not_eq_true' _ ▸ hok))) rfl
    exact ⟨_, hx, hans, rfl, rfl⟩
  · obtain ⟨mb, mx, hx, hans⟩ := exec_request_answers (i := .ownerProvision m (.data d)) (hexec s) h
      (hto.trans (if_neg fun hn => by rw [Bool.not_eq_true'] at hn; exact absurd (hok.symm.trans hn) (by decide))) rfl
    exact ⟨_, hx, hans, rfl, rfl⟩

/-! ## Identity -/

/-- What IDENTITY_READ does with its message, where the host takes the DMA. -/
theorem identityHandled (m : Nat) (b : Bytes) : ∃ f, (∀ s, exec (.identityRead m false) s = .next (request s m 0x21 f)) ∧
    ∀ s, f s b = if !dmaFieldsOk b 1 512 (2 ^ 32) then no s 2
      else .now (dmaWrite s (some (fieldLE b 4 4)) (fieldLE b 8 8) (identityBlock s)) 0 [] :=
  ⟨_, fun _ => rfl, fun _ => rfl⟩

theorem identityBlock_setReqs (s : State) (m : Nat) (rest : List Req) : identityBlock (setReqs s m rest) = identityBlock s := by
  unfold identityBlock
  rw [sec_setReqs]

/-! ## Reports -/

/-- The state with one more report held, under the next number. -/
def reportHeld (s : State) (r : HeldReport) : State := setSec s fun x => { x with held := x.held ++ [r], repSeq := x.repSeq + 1 }

theorem holdReport_ok {r : HeldReport} (hs : s.sec.lmsSpent = false) (hb : s.sec.treeBuilt = true → s.sec.held.length < s.sec.sigsLeft)
    (hl : s.sec.held.length < 64) : holdReport s r = .ok (reportHeld s r) := by
  have hleaf : ¬(s.sec.lmsSpent || (s.sec.treeBuilt && decide (s.sec.sigsLeft ≤ s.sec.held.length))) = true := by
    rw [hs, Bool.false_or, Bool.and_eq_true, decide_eq_true_eq]
    exact fun ⟨h1, h2⟩ => absurd (hb h1) (by omega)
  unfold holdReport
  dsimp only
  rw [if_neg hleaf, if_neg (by omega), reportHeld]

theorem holdReport_spent {r : HeldReport}
    (h : s.sec.lmsSpent = true ∨ (s.sec.treeBuilt = true ∧ s.sec.sigsLeft ≤ s.sec.held.length)) : holdReport s r = .error 4 := by
  unfold holdReport
  dsimp only
  rw [if_pos]
  rw [Bool.or_eq_true, Bool.and_eq_true, decide_eq_true_eq]
  exact h

theorem holdReport_full {r : HeldReport} (hs : s.sec.lmsSpent = false)
    (hb : s.sec.treeBuilt = true → s.sec.held.length < s.sec.sigsLeft) (hl : 64 ≤ s.sec.held.length) : holdReport s r = .error 3 := by
  have hleaf : ¬(s.sec.lmsSpent || (s.sec.treeBuilt && decide (s.sec.sigsLeft ≤ s.sec.held.length))) = true := by
    rw [hs, Bool.false_or, Bool.and_eq_true, decide_eq_true_eq]
    exact fun ⟨h1, h2⟩ => absurd (hb h1) (by omega)
  unfold holdReport
  dsimp only
  rw [if_neg hleaf, if_pos hl]

/-- The report that ATTEST asks for. -/
def attestReport (b : Bytes) : HeldReport := { dma := some (fieldLE b 4 4, fieldLE b 8 8), nonce := slice b 20 32 }

theorem attestHandled (m : Nat) (b : Bytes) : ∃ f, (∀ s, exec (.attest m) s = .next (request s m 0x20 f)) ∧
    (∀ s e, dmaFieldsOk b 64 3668 (2 ^ 32) = true → holdReport s (attestReport b) = .error e → f s b = no s e) ∧
    ∀ s u, dmaFieldsOk b 64 3668 (2 ^ 32) = true → holdReport s (attestReport b) = .ok u → f s b = .now u 0 (leN 4 s.sec.repSeq) := by
  refine ⟨_, fun _ => rfl, fun s e hf he => ?_, fun s u hf hu => ?_⟩
  · rw [if_neg (by rw [hf]; decide)]
    unfold attestReport at he
    rw [he] <;> rfl
  · rw [if_neg (by rw [hf]; decide)]
    unfold attestReport at hu
    rw [hu] <;> rfl

/-- ATTEST that cannot be held is answered with its status, and nothing is held. -/
theorem execAttest_no {e : Nat} (h : asks s m 0x20 b rest) (hf : dmaFieldsOk b 64 3668 (2 ^ 32) = true)
    (he : holdReport (setReqs s m rest) (attestReport b) = .error e) :
    ∃ t, exec (.attest m) s = .next t ∧ answered s t m b rest e [] ∧ t.sec = s.sec := by
  obtain ⟨f, hexec, hno, _⟩ := attestHandled m b
  obtain ⟨mb, mx, hx, hans⟩ := exec_request_answers (i := .attest m) (hexec s) h (hno _ e hf he) rfl
  exact ⟨_, hx, hans, rfl⟩

/-- The state once the oldest report has been signed: a leaf is spent. -/
def reportSpent (s : State) (rest : List HeldReport) : State :=
  setSec s fun x => { x with held := rest, sigsLeft := x.sigsLeft - 1 }

theorem execReportSign_signs {r : HeldReport} {l : List HeldReport} (hheld : s.sec.held = r :: l) (hr : s.crown.ready = true)
    (hp : s.pwr.cur ≠ 2) (hl : s.sec.lmsReady = true) (hleft : 0 < s.sec.sigsLeft) (refused : Bool) :
    exec (.reportSign refused) s = match r.dma with
      | none => .next (wire (reportSpent s l) (.mctp (some 0) (reportOf s (32768 - s.sec.sigsLeft) r.nonce)))
      | some (pasid, a) => .next (if refused then dmaFaulted (reportSpent s l)
          else dmaWrite (dmaWrite (reportSpent s l) (some pasid) (a + 8) ((reportOf s (32768 - s.sec.sigsLeft) r.nonce).drop 8))
            (some pasid) a ((reportOf s (32768 - s.sec.sigsLeft) r.nonce).take 8)) := by
  have hoff : d1Off s = false := by
    rw [d1Off]
    simpa using hp
  have hgo : ¬(!s.crown.ready || d1Off s || !s.sec.lmsReady || decide (s.sec.sigsLeft = 0)) = true := by
    rw [hr, hoff, hl, decide_eq_false (by omega)]
    decide
  show execReportSign refused s = _
  unfold execReportSign
  rw [hheld]
  dsimp only
  rw [if_neg hgo] <;> rfl

end Identity

/-- Settles O51 (when ATTEST is answered NO_ROOM, that a leaf is spent even where the host refuses the report, and that the board's port
needs a dynamic address, are the model's choices, log entries 117 and 118): the fuses only advance, the identity is written out, and each
report that is signed spends a leaf. -/
theorem fusesIdentityAndReports : Obligations.FusesIdentityAndReports := by
  unfold Obligations.FusesIdentityAndReports
  refine ⟨⟨fun s m b rest h => ⟨fun hle => ?_, fun hlt => ?_⟩,
      fun s m b d rest h => ⟨fun hset hf x hx => ?_, fun hset => ?_⟩,
      fun s m b rest h hf => ?_, fun s m b rest h hf => ?_⟩,
    fun s m b rest h hf => ⟨fun hs hb hl => ?_, fun hs => execAttest_no h hf (holdReport_spent hs),
      fun hs hb hl => execAttest_no h hf (holdReport_full hs hb hl)⟩,
    fun s r rest hheld hr hp hl hleft => ⟨fun pasid a hdma => ⟨?_, ?_⟩, fun hdma refused => ?_⟩,
    fun s ha he hs hl => ?_, fun s nonce hup => ⟨fun hr hp hs hb hl => ?_, fun hr hp => ?_, fun hnot => ?_⟩⟩
  · obtain ⟨f, hexec, hf⟩ := rollbackHandled m b
    obtain ⟨mb, mx, hx, hans⟩ := exec_request_answers (i := .rollbackAdvance m) (hexec s) h
      ((hf _).trans (if_neg (by rw [sec_setReqs]; omega))) rfl
    exact ⟨_, hx, hans, rfl, rfl⟩
  · obtain ⟨f, hexec, hf⟩ := rollbackHandled m b
    obtain ⟨mb, mx, hx, hans⟩ := exec_request_answers (i := .rollbackAdvance m) (hexec s) h ((hf _).trans (if_pos hlt)) rfl
    exact ⟨_, hx, hans, rfl⟩
  · subst hx
    exact execOwnerProvision_reads h hset hf d
  · obtain ⟨f, hexec, hf⟩ := provisionHandled m b d
    obtain ⟨mb, mx, hx, hans⟩ := exec_request_answers (i := .ownerProvision m (.data d)) (hexec s) h ((hf _).trans (if_pos hset)) rfl
    exact ⟨_, hx, hans, rfl⟩
  · obtain ⟨f, hexec, hfe⟩ := identityHandled m b
    have hto := hfe (setReqs s m rest)
    rw [if_neg (by rw [hf]; decide), identityBlock_setReqs] at hto
    generalize identityBlock s = blk at hto ⊢
    obtain ⟨mb, mx, hx, hans⟩ := exec_request_answers (i := .identityRead m false) (hexec s) h hto rfl
    exact ⟨_, hx, hans, rfl, rfl, rfl⟩
  · obtain ⟨f, hexec, hfe⟩ := identityHandled m b
    obtain ⟨mb, mx, hx, hans⟩ := exec_request_answers (i := .identityRead m false) (hexec s) h
      ((hfe _).trans (if_pos (by rw [hf]; rfl))) rfl
    exact ⟨_, hx, hans, rfl, rfl⟩
  · obtain ⟨f, hexec, _, hok⟩ := attestHandled m b
    obtain ⟨mb, mx, hx, hans⟩ := exec_request_answers (i := .attest m) (hexec s) h
      (hok (setReqs s m rest) _ hf (holdReport_ok hs hb hl)) rfl
    exact ⟨_, hx, hans, rfl, rfl⟩
  · have hexec := execReportSign_signs hheld hr hp hl hleft false
    rw [hdma] at hexec
    generalize reportOf s (32768 - s.sec.sigsLeft) r.nonce = rep at hexec ⊢
    exact ⟨_, hexec, List.append_assoc _ _ _, rfl, rfl⟩
  · have hexec := execReportSign_signs hheld hr hp hl hleft true
    rw [hdma] at hexec
    exact ⟨_, hexec, rfl, rfl⟩
  · have hexec := execReportSign_signs hheld hr hp hl hleft refused
    rw [hdma] at hexec
    generalize reportOf s (32768 - s.sec.sigsLeft) r.nonce = rep at hexec ⊢
    exact ⟨_, hexec, rfl, rfl, rfl⟩
  · show execLmsTreeReady s = _
    rw [execLmsTreeReady, onlyIf, if_pos (by rw [ha.1, d1Off_awake ha, he, hs, hl]; rfl)]
    rfl
  · show execMctpAttest nonce s = _
    rw [execMctpAttest, if_neg (by rw [mctpUp, hup]; decide), if_neg (by rw [hr, d1Off]; simpa using hp), holdReport_ok hs hb hl] <;> rfl
  · show execMctpIdentity s = _
    rw [execMctpIdentity, if_neg (by rw [mctpUp, hup]; decide), if_neg (by rw [hr, d1Off]; simpa using hp)]
  · have hoff : (!s.crown.ready || d1Off s) = true := by
      rw [d1Off]
      simpa using hnot
    constructor
    · show execMctpIdentity s = _
      rw [execMctpIdentity, if_neg (by rw [mctpUp, hup]; decide), if_pos hoff]
    · show execMctpAttest nonce s = _
      rw [execMctpAttest, if_neg (by rw [mctpUp, hup]; decide), if_pos hoff]

end Sys2Proof.Machine
end

section
/-! The power states, the compute supplies and the governor (18). -/

namespace Sys2Proof.Machine

open Sys2Proof Sys2Proof.Ob

/-! ## Time passes -/

section Passing

variable {s : State}

/-- The clocks and the counters of the cores `n` nanoseconds later, before the Crown's allowances are refilled. -/
def clocked (n : Nat) (s : State) : State :=
  { s with
    time := s.time + n
    free := s.free + 32768
    tally := { s.tally with clock := if d1Off s || !crownUp s then s.tally.clock else s.tally.clock + n }
    cores := s.cores.map fun (x : Nat × Core) =>
      (x.1, coreCycles s.time (s.free + 10 * x.1) (groupCycles s (groupOf x.1) n) x.2) }

theorem refilled_same (n : Nat) (s : State) : Same (clocked n s) (refillFl0 n (refillMc0 n (clocked n s))) :=
  (refillMc0_same n _).trans (refillFl0_same n _)

/-- The cycles that the groups count in `n` nanoseconds. -/
def countedCycles (n : Nat) (v : Tab Vddc) : Tab Vddc := v.map fun x => (x.1, { x.2 with cycAcc := (x.2.cycAcc + n * x.2.eclk) % 1000 })

/-- Of the power block the passing of time changes the idle time and the cycles that the groups count. -/
theorem pass_pwr (n : Nat) (s : State) : ∃ i, (Machine.pass n s).pwr = { s.pwr with idleFrom := i, vddc := countedCycles n s.pwr.vddc } := by
  have hpwr : (refillFl0 n (refillMc0 n (clocked n s))).pwr = s.pwr := by
    obtain ⟨_, _, _, _, _, _, _, _, _, _, _, _, _, _, h, _⟩ := refilled_same n s
    exact h
  have hset : ∀ (p q : Pwr) (i : Nat), p = q → ∃ j, { p with idleFrom := i, vddc := countedCycles n p.vddc } =
      { q with idleFrom := j, vddc := countedCycles n q.vddc } := by
    rintro p _ i rfl
    exact ⟨i, rfl⟩
  exact hset _ _ _ hpwr

/-- Apart from the program it runs and what it counts, a core keeps everything as time passes. -/
theorem pass_core (n : Nat) (s : State) (k : Nat) : ∃ d r c,
    getCore (Machine.pass n s) k = { getCore s k with disp := d, runCycles := r, stall := c } := by
  have hcores : (Machine.pass n s).cores = (clocked n s).cores := by
    obtain ⟨_, _, _, _, _, _, _, _, _, h, _⟩ := refilled_same n s
    exact h
  unfold getCore
  rw [hcores]
  refine tget_map_rel ({} : Core) (fun k x => coreCycles s.time (s.free + 10 * k) (groupCycles s (groupOf k) n) x)
    (fun a b => ∃ d r c, a = { b with disp := d, runCycles := r, stall := c }) ⟨_, _, _, rfl⟩ (fun j x => ?_) k s.cores
  unfold coreCycles
  split
  · exact ⟨_, _, _, rfl⟩
  · exact ⟨_, _, _, rfl⟩

/-- What waiting for a time keeps. -/
structure Waited (s t : State) : Prop where
  pwr : ∃ i v, t.pwr = { s.pwr with idleFrom := i, vddc := v }
  vddc : ∀ g, ∃ a, getVddc t g = { getVddc s g with cycAcc := a }
  core : ∀ k, ∃ d r c, getCore t k = { getCore s k with disp := d, runCycles := r, stall := c }
  sets : t.sets = s.sets
  streams : t.streams = s.streams
  pile : t.pile = s.pile
  piles : t.piles = s.piles
  cmds : t.cmds = s.cmds

theorem Waited.refl (s : State) : Waited s s :=
  ⟨⟨_, _, rfl⟩, fun _ => ⟨_, rfl⟩, fun _ => ⟨_, _, _, rfl⟩, rfl, rfl, rfl, rfl, rfl⟩

theorem passTo_waited (s : State) (at_ : Nat) : Waited s (passTo s at_) := by
  unfold passTo
  split
  · exact .refl s
  · obtain ⟨_, _, hcmds, hstreams, hpile, _, _, _, _, _, _, _, _, _, _, _, hsets, _, _, _, _, _, hpiles, _⟩ :=
      pass_passed (at_ - s.time) s
    obtain ⟨i, hpwr⟩ := pass_pwr (at_ - s.time) s
    refine ⟨⟨i, _, hpwr⟩, fun g => ?_, pass_core _ s, hsets, hstreams, hpile, hpiles, hcmds⟩
    rw [getVddc, hpwr]
    exact tget_map_rel ({} : Vddc) (fun _ x => { x with cycAcc := (x.cycAcc + (at_ - s.time) * x.eclk) % 1000 })
      (fun x y => ∃ a, x = { y with cycAcc := a }) ⟨_, rfl⟩ (fun _ _ => ⟨_, rfl⟩) g s.pwr.vddc

theorem passTo_le (s : State) (at_ : Nat) : at_ ≤ (passTo s at_).time := by
  obtain ⟨n, hp, hle⟩ := passTo_passed s at_
  obtain ⟨_, _, _, _, _, _, _, _, _, _, htime, _⟩ := hp
  rw [htime]
  exact hle

end Passing

/-! ## Tables -/

section Tables

variable {α : Type} {d : α}

/-- What every entry of a table at `k` is, the table reads as at `k`. -/
theorem tget_of_entries {P : α → Prop} {k : Nat} (hd : P d) : ∀ {t : Tab α}, (∀ x ∈ t, x.1 = k → P x.2) → P (tget d t k)
  | [], _ => hd
  | (j, v) :: t, h => by
    unfold tget
    split
    · next hj => exact h _ (List.mem_cons_self ..) hj
    · exact tget_of_entries hd fun x hx => h x (List.mem_cons_of_mem _ hx)

/-- In a canonical table the entries that a map turns into the default may go. -/
theorem tget_map_filter [DecidableEq α] [BEq α] [LawfulBEq α] {f : Nat → α → α} (hf : ∀ k, f k d = d) (k : Nat) :
    ∀ {t : Tab α} {lo : Nat}, tabWf d lo t = true →
      tget d ((t.map fun x => (x.1, f x.1 x.2)).filter fun x => x.2 != d) k = f k (tget d t k)
  | [], _, _ => (hf k).symm
  | (j, v) :: t, lo, h => by
    simp only [tabWf, Bool.and_eq_true, decide_eq_true_eq] at h
    obtain ⟨_, hwf⟩ := h
    have ih := tget_map_filter hf k hwf
    rw [List.map_cons]
    by_cases hv : f j v = d
    · rw [List.filter_cons_of_neg (by simpa using hv), ih]
      by_cases hj : j = k
      · subst hj
        rw [tget_below d t (j + 1) j (by omega) hwf, hf, tget, if_pos rfl, hv]
      · rw [tget, if_neg hj]
    · rw [List.filter_cons_of_pos (by simpa using hv)]
      by_cases hj : j = k
      · subst hj
        rw [tget, tget, if_pos rfl, if_pos rfl]
      · rw [tget, tget, if_neg hj, if_neg hj, ih]

end Tables

/-! ## The cores go off and on -/

section Cores

variable {s : State} {n : Nat}

theorem coresDown_off (h : groupOf n = topOn s.pwr.coresOff) : ∃ c, getCore (coresDown s) n = coreRecord c := by
  refine tget_of_entries (P := fun x => ∃ c, x = coreRecord c) ⟨{}, rfl⟩ fun x hx hk => ?_
  obtain ⟨y, _, rfl⟩ := List.mem_map.mp (List.mem_filter.mp hx).1
  have hy : groupOf y.1 = topOn s.pwr.coresOff := by
    have hkey : y.1 = n := by
      rw [← hk]
      split
      · rfl
      · rfl
    rw [hkey, h]
  rw [if_pos hy]
  exact ⟨_, rfl⟩

theorem coresDown_core (hwf : tabWf {} 0 s.cores = true) (n : Nat) : getCore (coresDown s) n =
    if groupOf n = topOn s.pwr.coresOff then coreRecord (getCore s n) else getCore s n := by
  have hmap := tget_map_filter (d := ({} : Core)) (f := fun k c => if groupOf k = topOn s.pwr.coresOff then coreRecord c else c)
    (fun k => by rw [ite_eq_right_iff]; exact fun _ => rfl) n hwf
  refine Eq.trans ?_ hmap
  have hcores : (coresDown s).cores = (s.cores.map fun (x : Nat × Core) =>
      if groupOf x.1 = topOn s.pwr.coresOff then (x.1, coreRecord x.2) else x).filter fun x => x.2 != {} := rfl
  unfold getCore
  rw [hcores]
  congr 2
  refine List.map_congr_left fun x _ => ?_
  split
  · rfl
  · rfl

/-- The domain that goes off next, in the state with time passed. -/
theorem coresDown_pwr (s : State) : (coresDown s).pwr.coresOff = s.pwr.coresOff ++ [topOn s.pwr.coresOff] ∧
    (coresDown s).pwr.cur = (if s.pwr.coresOff.length = 7 then 1 else 0) ∧ (coresDown s).pwr.stepAt = s.time := by
  refine ⟨rfl, ?_, rfl⟩
  show (if (s.pwr.coresOff ++ [topOn s.pwr.coresOff]).length = 8 then _ else _) = _
  rw [List.length_append]
  simp

/-- The domains still off after one more has come on. -/
def offAfter (off : List Nat) : List Nat := off.filter fun g => g != lowOff off

theorem coresRise_some (h : offAfter s.pwr.coresOff ≠ []) :
    coresRise s = { s with pwr := { s.pwr with coresOff := offAfter s.pwr.coresOff, stepAt := s.time } } := by
  unfold coresRise
  dsimp only
  rw [if_neg (by rw [List.isEmpty_iff]; exact h)]
  rfl

theorem coresRise_last (h : offAfter s.pwr.coresOff = []) :
    coresRise s = s.sets.foldl loadRanks { s with pwr := { s.pwr with
      coresOff := offAfter s.pwr.coresOff, stepAt := s.time, cur := 0, abort := false, idleFrom := s.time } } := by
  unfold coresRise
  dsimp only
  rw [if_pos (by rw [List.isEmpty_iff]; exact h)]
  rfl

theorem execS1Entry_starts (hr : s.crown.ready = true) (hc : s.pwr.cur = 0) (hoff : s.pwr.coresOff = []) :
    exec .s1Entry s = .next (if mayEnterS1 s then coresDown s else s) := by
  show execS1Entry s = _
  rw [execS1Entry, if_neg (by rw [hr, hc]; decide), if_pos (by rw [hoff]; rfl), onlyIf]

theorem execS1Entry_goes (hr : s.crown.ready = true) (hc : s.pwr.cur = 0) (hoff : s.pwr.coresOff ≠ []) :
    exec .s1Entry s = .next (if aborts s then coresRise (passTo s (s.pwr.stepAt + 250000))
      else coresDown (passTo s (s.pwr.stepAt + 100000))) := by
  show execS1Entry s = _
  rw [execS1Entry, if_neg (by rw [hr, hc]; decide), if_neg (by rw [List.isEmpty_iff]; exact hoff)]
  split
  · rfl
  · rfl

theorem execS1Exit_leaves (hr : s.crown.ready = true) (hc : s.pwr.cur = 1) (hk : s.pwr.s2Steps = 0)
    (h : s.cmds ≠ [] ∨ quietMail s = false ∨ wakeHeld s = true) : exec .s1Exit s =
      .next (coresRise (if s.pwr.coresOff.length = 8 then s else passTo s (s.pwr.stepAt + 250000))) := by
  have hl : leavesS1 s = true := by
    unfold leavesS1
    rw [hc, hk, Bool.or_eq_true]
    left
    rcases h with h | h | h
    · have : s.cmds.isEmpty = false := by simpa using h
      rw [this]
      rfl
    · rw [h]
      simp
    · rw [h]
      simp
  show execS1Exit s = _
  rw [execS1Exit, onlyIf, if_pos (by rw [hr, hl]; rfl)]

/-- The state in which an exit from S1 takes its next step. -/
def waitsExit (s : State) : State := if s.pwr.coresOff.length = 8 then s else passTo s (s.pwr.stepAt + 250000)

theorem waitsExit_waited (s : State) : Waited s (waitsExit s) := by
  unfold waitsExit
  split
  · exact .refl s
  · exact passTo_waited s _

theorem waitsExit_le (s : State) (h : s.pwr.coresOff.length ≠ 8) : s.pwr.stepAt + 250000 ≤ (waitsExit s).time := by
  rw [waitsExit, if_neg h]
  exact passTo_le s _

theorem waitsExit_none (s : State) (h : s.pwr.coresOff.length = 8) : (waitsExit s).time = s.time := by rw [waitsExit, if_pos h]

end Cores

/-! ## Ports that fall -/

/-- No port has come up, and apart from the ports, what is reported and what is sent everything stands. -/
structure Fell (s t : State) : Prop where
  cmds : t.cmds = s.cmds
  streams : t.streams = s.streams
  pile : t.pile = s.pile
  piles : t.piles = s.piles
  sets : t.sets = s.sets
  pwr : ∃ r o, t.pwr = { s.pwr with refLost := r, onOsc := o } ∧ (s.pwr.refLost = true → r = true) ∧
    (s.pwr.onOsc = true → o = true)
  down : ∀ p, (getPort s p).state ≠ 2 → (getPort t p).state ≠ 2

section Ports

variable {s t u : State}

theorem Fell.refl (s : State) : Fell s s := ⟨rfl, rfl, rfl, rfl, rfl, ⟨_, _, rfl, id, id⟩, fun _ => id⟩

theorem Fell.trans (a : Fell s t) (b : Fell t u) : Fell s u := by
  obtain ⟨r, o, hp, hr, ho⟩ := a.pwr
  obtain ⟨r', o', hp', hr', ho'⟩ := b.pwr
  rw [hp] at hr' ho'
  exact ⟨b.cmds.trans a.cmds, b.streams.trans a.streams, b.pile.trans a.pile, b.piles.trans a.piles, b.sets.trans a.sets,
    ⟨r', o', by rw [hp', hp], fun h => hr' (hr h), fun h => ho' (ho h)⟩, fun p h => b.down p (a.down p h)⟩

theorem TallyOnly.fell (h : TallyOnly s t) : Fell s t := by
  obtain ⟨_, _, rfl⟩ := h
  exact ⟨rfl, rfl, rfl, rfl, rfl, ⟨_, _, rfl, id, id⟩, fun _ => id⟩

theorem Spoken.fell (h : Spoken s t) : Fell s t := by
  obtain ⟨_, _, hcmds, hstreams, hpile, _, _, _, _, _, _, _, _, _, hpwr, _, hsets, _, _, _, _, _, hpiles, _⟩ := h.told
  exact ⟨hcmds, hstreams, hpile, hpiles, hsets, ⟨_, _, hpwr, id, id⟩, fun p hp => by rw [h.queued.state]; exact hp⟩

theorem reportLink_fell (s : State) (p : Nat) (x : Port) (up : Bool) : Fell s (reportLink s p x up) := by
  unfold reportLink
  split
  · exact .refl s
  · split
    · exact ⟨rfl, rfl, rfl, rfl, rfl, ⟨_, _, rfl, id, id⟩, fun _ => id⟩
    · exact (sendCtl_spoken s _ _).fell

/-- A port that is dropped is not up. -/
theorem portDrop_fell (s : State) (p cause : Nat) : Fell s (portDrop s p cause) ∧ (getPort (portDrop s p cause) p).state ≠ 2 := by
  have hset : ∀ x : Port, x.state ≠ 2 → Fell s (setPort s p x) ∧ (getPort (setPort s p x) p).state ≠ 2 := by
    intro x hx
    refine ⟨⟨rfl, rfl, rfl, rfl, rfl, ⟨_, _, rfl, id, id⟩, fun q hq => ?_⟩, by rw [getPort_setPort_same]; exact hx⟩
    by_cases h : q = p
    · rw [h, getPort_setPort_same]
      exact hx
    · exact (congrArg Port.state (tget_tput_ne ({} : Port) s.ports p q x h)).trans_ne hq
  have hrest : ∀ (u : State) (c : Bool) (sub : W32), Fell u
      (reportLink (if c then event u crownLoc 0x22 sub p 0 else u) p (getPort s p) false) := by
    intro u c sub
    refine Fell.trans ?_ (reportLink_fell _ _ _ _)
    split
    · exact (event_tallyOnly u _ _ _ _ _).fell
    · exact .refl u
  obtain ⟨h1, h2⟩ := hset { portFresh (getPort s p) with state := 0, wentDown := true, trainAt := s.time + 1000000000 }
    (show (0 : BitVec 2) ≠ 2 by decide)
  have hall : ∀ v : State, Fell (setPort s p { portFresh (getPort s p) with
      state := 0, wentDown := true, trainAt := s.time + 1000000000 }) v → Fell s v ∧ (getPort v p).state ≠ 2 :=
    fun v hv => ⟨h1.trans hv, hv.down p h2⟩
  exact hall _ ((event_tallyOnly _ _ _ _ _ _).fell.trans (hrest _ _ _))

/-- After every port that is up has been taken down in turn none is. -/
theorem foldl_fell {f : State → Nat → State} (h : ∀ t q, Fell t (f t q) ∧ (getPort (f t q) q).state ≠ 2) :
    ∀ (l : List Nat) (s : State), Fell s (l.foldl (fun t q => if (getPort t q).state = 2 then f t q else t) s) ∧
      ∀ q ∈ l, (getPort (l.foldl (fun t q => if (getPort t q).state = 2 then f t q else t) s) q).state ≠ 2 := by
  intro l
  induction l with
  | nil => exact fun s => ⟨.refl s, by simp⟩
  | cons q l ih =>
    intro s
    rw [List.foldl_cons]
    have hstep : Fell s (if (getPort s q).state = 2 then f s q else s) ∧
        (getPort (if (getPort s q).state = 2 then f s q else s) q).state ≠ 2 := by
      split
      · exact h s q
      · next hq => exact ⟨.refl s, hq⟩
    generalize (if (getPort s q).state = 2 then f s q else s) = t at hstep
    obtain ⟨hfell, hdown⟩ := ih t
    refine ⟨hstep.1.trans hfell, fun p hp => ?_⟩
    rcases List.mem_cons.mp hp with rfl | hp
    · exact hfell.down _ hstep.2
    · exact hdown p hp

theorem refLoss_eq (h2 : 2 ≤ s.rst.step) (ho : s.pwr.onOsc = false) : refLoss s = event ((List.range 72).foldl
    (fun t q => if (getPort t q).state = 2 then portDrop t q 0 else t) { s with pwr := { s.pwr with refLost := true, onOsc := true } })
    nightcapLoc 0x33 (subjKind 8 0) s.rst.clksel.toNat 0 := by
  unfold refLoss
  rw [if_neg (by rw [ho, decide_eq_false (by omega)]; decide)]

theorem refLoss_fell (s : State) : Fell s (refLoss s) := by
  by_cases h : s.rst.step < 2 ∨ s.pwr.onOsc = true
  · unfold refLoss
    rw [if_pos (by rw [Bool.or_eq_true, decide_eq_true_eq]; exact h)]
    exact .refl s
  · rw [not_or, Bool.not_eq_true] at h
    rw [refLoss_eq (by omega) h.2]
    have hset : Fell s { s with pwr := { s.pwr with refLost := true, onOsc := true } } :=
      ⟨rfl, rfl, rfl, rfl, rfl, ⟨_, _, rfl, fun _ => rfl, fun _ => rfl⟩, fun _ => id⟩
    exact (hset.trans (foldl_fell (fun t q => portDrop_fell t q 0) _ _).1).trans (event_tallyOnly _ _ _ _ _ _).fell

theorem portFalls_fell (s : State) (p cause : Nat) : Fell s (portFalls s p cause) ∧ (getPort (portFalls s p cause) p).state ≠ 2 := by
  obtain ⟨h1, h2⟩ := portDrop_fell s p cause
  unfold portFalls
  dsimp only
  split
  · exact ⟨h1.trans (refLoss_fell _), (refLoss_fell _).down p h2⟩
  · exact ⟨h1, h2⟩

theorem portsFall_fell (s : State) : Fell s (portsFall s) ∧ ∀ p, p < 72 → (getPort (portsFall s) p).state ≠ 2 := by
  obtain ⟨h1, h2⟩ := foldl_fell (fun t q => portFalls_fell t q 0) (List.range 72) s
  exact ⟨h1, fun p hp => h2 p (List.mem_range.mpr hp)⟩

theorem refLoss_takes (h2 : 2 ≤ s.rst.step) (ho : s.pwr.onOsc = false) : (refLoss s).pwr.onOsc = true ∧
    (refLoss s).pwr.refLost = true ∧ ∀ p, p < 72 → (getPort (refLoss s) p).state ≠ 2 := by
  rw [refLoss_eq h2 ho]
  have hevent := fun v => (event_tallyOnly v nightcapLoc 0x33 (subjKind 8 0) s.rst.clksel.toNat 0).fell
  obtain ⟨hfell, hdown⟩ := foldl_fell (fun t q => portDrop_fell t q 0) (List.range 72)
    { s with pwr := { s.pwr with refLost := true, onOsc := true } }
  generalize (List.range 72).foldl (fun t q => if (getPort t q).state = 2 then portDrop t q 0 else t)
    { s with pwr := { s.pwr with refLost := true, onOsc := true } } = v at hfell hdown
  obtain ⟨r, o, hp, hr, ho⟩ := (hfell.trans (hevent v)).pwr
  rw [hp]
  exact ⟨ho rfl, hr rfl, fun p hlt => (hevent v).down p (hdown p (List.mem_range.mpr hlt))⟩

end Ports

/-! ## S2 -/

section S2

variable {s : State}

theorem tallyIrq_held (s : State) (cls : Nat) : (tallyIrq s cls).tally.held = s.tally.held := by
  unfold tallyIrq msix
  repeat' split
  all_goals rfl

theorem tallyAdd_held (s : State) (r : Report) : (tallyAdd s r).tally.held = s.tally.held := by
  unfold tallyAdd
  split
  · rfl
  · split
    · exact tallyIrq_held _ _
    · split
      · exact tallyIrq_held _ _
      · rfl

/-- What was held is reported, and nothing else changes. -/
theorem deliverHeld_spec (s : State) : TallyOnly s (deliverHeld s) ∧ (deliverHeld s).tally.held = [] := by
  have hadds : ∀ (l : List Report) (t : State), TallyOnly t (l.foldl tallyAdd t) ∧ (l.foldl tallyAdd t).tally.held = t.tally.held := by
    intro l
    induction l with
    | nil => exact fun t => ⟨.refl t, rfl⟩
    | cons r l ih =>
      intro t
      obtain ⟨h1, h2⟩ := ih (tallyAdd t r)
      exact ⟨(tallyAdd_tallyOnly t r).trans h1, h2.trans (tallyAdd_held t r)⟩
  obtain ⟨h1, h2⟩ := hadds s.tally.held { s with tally := { s.tally with
    held := [], heldDrop := 0, overflow := min (s.tally.overflow + s.tally.heldDrop) 0xFFFF } }
  exact ⟨(show TallyOnly s _ from ⟨_, s.io.msix, rfl⟩).trans h1, h2⟩

/-- No pile refreshes itself once the domains are on. -/
theorem domainsOn_pile (s : State) (n : Nat) : (getPile (domainsOn s) n).selfRefresh = false := by
  refine tget_of_entries (P := fun x : Pile => x.selfRefresh = false) rfl fun x hx _ => ?_
  obtain ⟨y, _, rfl⟩ := List.mem_map.mp (List.mem_filter.mp hx).1
  rfl

theorem domainsOn_d1 (h : 1 ∉ s.pwr.shut) : 1 ∉ (domainsOn s).pwr.domOff := by
  intro hm
  have hkept := (List.mem_filter.mp hm).2
  have hshut : s.pwr.shut.contains 1 = false := by simpa using h
  rw [hshut] at hkept
  simp [s2Domains] at hkept

/-- The state at the beginning of step `k` of an entry into S2. -/
def stepped (s : State) (k : Nat) : State := { s with pwr := { s.pwr with s2Steps := k, stepAt := s.time } }

/-- The piles refresh themselves and D11 to D18 go off, in a state whose ports have fallen. -/
def quieted (t : State) (l : List Nat) : State :=
  { t with
    piles := l.foldl (fun t p => tput {} t p { tget {} t p with selfRefresh := true }) t.piles
    pwr := { t.pwr with domOff := (t.pwr.domOff ++ s2Domains.filter fun d => d != 1).eraseDups } }

theorem pilesDown_eq (s : State) : pilesDown s = quieted (portsFall s) ((List.range 16).filter fun p => !pileFenced s p) := rfl

theorem quieted_pile {n : Nat} (t : State) : ∀ l : List Nat, n ∈ l → (getPile (quieted t l) n).selfRefresh = true := by
  have hset : ∀ (l : List Nat) (t : Tab Pile), (n ∈ l ∨ (tget {} t n).selfRefresh = true) →
      (tget {} (l.foldl (fun t p => tput {} t p { tget {} t p with selfRefresh := true }) t) n).selfRefresh = true := by
    intro l
    induction l with
    | nil => exact fun t h => h.resolve_left (by simp)
    | cons p l ih =>
      intro t h
      refine ih _ ?_
      by_cases hp : n = p
      · subst hp
        right
        rw [tget_tput_same]
      · rw [tget_tput_ne _ _ _ _ _ hp]
        exact h.imp (fun hm => (List.mem_cons.mp hm).resolve_left hp) id
  exact fun l h => hset l t.piles (.inl h)

theorem quieted_domains {d : Nat} (t : State) (l : List Nat) (hd : d ∈ s2Domains) (h1 : d ≠ 1) : d ∈ (quieted t l).pwr.domOff :=
  List.mem_eraseDups.mpr (List.mem_append_right _ (List.mem_filter.mpr ⟨hd, by simpa using h1⟩))

theorem execS2Entry_starts (hr : s.crown.ready = true) (hc : s.pwr.cur = 1) (hoff : s.pwr.coresOff.length = 8)
    (hk : s.pwr.s2Steps = 0) (hmay : mayEnterS2 s = true) : exec .s2Entry s = .next (s2Down s 0) := by
  show execS2Entry s = _
  rw [execS2Entry, if_neg (by rw [hr, hc, hoff]; decide), if_pos hk, onlyIf, if_pos hmay]

theorem execS2Entry_goes (hr : s.crown.ready = true) (hc : s.pwr.cur = 1) (hoff : s.pwr.coresOff.length = 8)
    (hk : s.pwr.s2Steps ≠ 0) (ha : aborts s = false) : exec .s2Entry s = .next (s2Down
      (if 2 < s.pwr.s2Steps ∧ s.pwr.s2Steps < 10 then passTo s (s.pwr.stepAt + 100000) else s) s.pwr.s2Steps) := by
  show execS2Entry s = _
  rw [execS2Entry, if_neg (by rw [hr, hc, hoff]; decide), if_neg hk, if_neg (by rw [ha]; decide)]

theorem execS2Entry_undoes (hr : s.crown.ready = true) (hc : s.pwr.cur = 1) (hoff : s.pwr.coresOff.length = 8)
    (hk : s.pwr.s2Steps ≠ 0) (ha : aborts s = true) : exec .s2Entry s = .next (s2Undo s (s.pwr.s2Steps - 1)) := by
  show execS2Entry s = _
  rw [execS2Entry, if_neg (by rw [hr, hc, hoff]; decide), if_neg hk, if_pos ha]

theorem execS2Wake_asleep (h : s.pwr.cur = 2) : exec .s2Wake s = .next (s2Leave s) := by
  show execS2Wake s = _
  rw [execS2Wake, onlyIf, if_pos (by rw [h]; rfl)]

theorem execS2Wake_awake (h : s.pwr.cur ≠ 2) : exec .s2Wake s = .next s := by
  show execS2Wake s = _
  rw [execS2Wake, onlyIf, if_neg (by simpa using h)]

theorem s2Down_piles (s : State) : s2Down s 1 = pilesDown (stepped s 2) := by
  unfold s2Down
  dsimp only
  rw [if_neg (by decide), if_pos rfl, stepped]

theorem s2Down_fabric {k : Nat} (h2 : 2 ≤ k) (h10 : k < 10) (s : State) : s2Down s k = { s with pwr := { s.pwr with
    s2Steps := k + 1, stepAt := s.time, fabricOff := s.pwr.fabricOff ++ [topOn s.pwr.fabricOff] } } := by
  unfold s2Down
  dsimp only
  rw [if_neg (by omega), if_neg (by omega), if_pos h10]

theorem s2Down_last {k : Nat} (h10 : 10 ≤ k) (s : State) : s2Down s k = { s with
    sec := { s.sec with lmsReady := false }
    dieTlb := []
    pwr := { s.pwr with
      s2Steps := k + 1, stepAt := s.time, cur := 2, abort := false, domOff := (s.pwr.domOff ++ [1]).eraseDups } } := by
  unfold s2Down
  dsimp only
  rw [if_neg (by omega), if_neg (by omega), if_neg (by omega)]
  rfl

theorem s2Undo_fabric {k : Nat} (h2 : 2 ≤ k) (s : State) : s2Undo s k = { s with pwr := { s.pwr with
    s2Steps := k, stepAt := s.time, fabricOff := s.pwr.fabricOff.filter fun g => g != lowOff s.pwr.fabricOff } } := by
  unfold s2Undo
  dsimp only
  rw [if_neg (by omega), if_neg (by omega)]

/-- The package in S1 again, before what was held is reported. -/
def wokenPkg (s : State) : State :=
  { domainsOn s with
    pwr := { (domainsOn s).pwr with cur := 1, s2Steps := 0, tablesIn := none, abort := false, idleFrom := s.time }
    sec := { s.sec with lmsReady := false, romAt := s.time } }

end S2

/-! ## The governor -/

section Governor

variable {s : State} {need ci cp ca : List Nat} {hot cool : List Bool}

theorem groupGoal_le (cur cap : Nat) (hot cool : Bool) : groupGoal cur cap hot cool ≤ cap := by
  unfold groupGoal
  split
  · exact Nat.min_le_left _ _
  · split
    · exact Nat.le_refl _
    · exact Nat.min_le_left _ _

/-- A period of a group: its clock ends at most at the goal, the target rises by at most 25 mV, and the clock rises only with the
read-back at the target, or with a failed port. -/
theorem vddcStep_bounds (x : Vddc) (goal need : Nat) : (vddcStep x goal need).eclk ≤ goal ∧
    (vddcStep x goal need).targetMv ≤ x.targetMv + 25 ∧
    (x.eclk < (vddcStep x goal need).eclk → x.avsFault = true ∨ (vddcStep x goal need).targetMv ≤ x.measMv) ∧
    (vddcStep x goal need).measMv = x.measMv ∧ (vddcStep x goal need).avsFault = x.avsFault := by
  unfold vddcStep
  dsimp only
  generalize max 600 (min 900 (need + 10)) = t
  split
  · next hlt =>
    refine ⟨Nat.le_refl _, ?_, fun hup => absurd hup (by dsimp only; omega), rfl, rfl⟩
    dsimp only
    split
    · omega
    · omega
  · next hge =>
    split
    · next hfault => exact ⟨Nat.le_refl _, by dsimp only; omega, fun _ => .inl hfault, rfl, rfl⟩
    · split
      · exact ⟨by dsimp only; omega, by dsimp only; omega, fun hup => absurd hup (Nat.lt_irrefl _), rfl, rfl⟩
      · split
        · exact ⟨by omega, by omega, fun hup => absurd hup (Nat.lt_irrefl _), rfl, rfl⟩
        · exact ⟨Nat.le_refl _, by dsimp only; omega, fun _ => .inr (by dsimp only; omega), rfl, rfl⟩

/-- Apart from the supplies, `t` is `s`. -/
def VddcOnly (s t : State) : Prop := ∃ v, t = { s with pwr := { s.pwr with vddc := v } }

/-- A group after its period. -/
def governed (s : State) (need : List Nat) (hot cool : List Bool) (ci cp ca : List Nat) (g : Nat) : Vddc :=
  vddcStep (getVddc s g) (groupGoal (getVddc s g).eclk (groupCap s.pwr.throttle (getVddc s g).avsFault (nthN ci g) (nthN cp g)
    (nthN ca g)) (nthB hot g) (nthB cool g)) (nthN need g)

/-- A period of each of some groups: those that are powered are governed, once each. -/
theorem governGroups_spec : ∀ (l : List Nat), l.Nodup → ∀ s : State,
    VddcOnly s (l.foldl (fun t g => governGroup t need hot cool ci cp ca g) s) ∧
    ∀ g, getVddc (l.foldl (fun t g => governGroup t need hot cool ci cp ca g) s) g =
      if g ∈ l ∧ g ∉ s.pwr.coresOff then governed s need hot cool ci cp ca g else getVddc s g := by
  intro l
  induction l with
  | nil => exact fun _ s => ⟨⟨_, rfl⟩, fun g => (if_neg (by simp)).symm⟩
  | cons a l ih =>
    intro hl s
    obtain ⟨ha, hl⟩ := List.nodup_cons.mp hl
    rw [List.foldl_cons]
    have hone : VddcOnly s (governGroup s need hot cool ci cp ca a) ∧ ∀ g, getVddc (governGroup s need hot cool ci cp ca a) g =
        if g = a ∧ g ∉ s.pwr.coresOff then governed s need hot cool ci cp ca g else getVddc s g := by
      unfold governGroup
      dsimp only
      by_cases hoff : a ∈ s.pwr.coresOff
      · rw [if_pos (by simpa using hoff)]
        refine ⟨⟨_, rfl⟩, fun g => (if_neg ?_).symm⟩
        rintro ⟨rfl, hg⟩
        exact hg hoff
      · rw [if_neg (by simpa using hoff)]
        refine ⟨⟨_, rfl⟩, fun g => ?_⟩
        by_cases hg : g = a
        · subst hg
          rw [if_pos ⟨rfl, hoff⟩]
          exact tget_tput_same _ _ _ _
        · rw [if_neg fun h => hg h.1]
          exact tget_tput_ne _ _ _ _ _ hg
    generalize governGroup s need hot cool ci cp ca a = t at hone
    obtain ⟨⟨v, rfl⟩, hv⟩ := hone
    obtain ⟨⟨w, hw⟩, hrest⟩ := ih hl { s with pwr := { s.pwr with vddc := v } }
    refine ⟨⟨w, hw⟩, fun g => (hrest g).trans ?_⟩
    dsimp only
    by_cases hg : g = a
    · subst hg
      rw [if_neg fun h => ha h.1, hv g]
      simp only [List.mem_cons, true_or, true_and]
    · have hvg : getVddc { s with pwr := { s.pwr with vddc := v } } g = getVddc s g := (hv g).trans (if_neg fun h => hg h.1)
      have hgov : governed { s with pwr := { s.pwr with vddc := v } } need hot cool ci cp ca g =
          governed s need hot cool ci cp ca g := by
        unfold governed
        rw [hvg]
      rw [hgov, hvg]
      simp only [List.mem_cons, hg, false_or]

/-- GOVERNOR_TICK changes the supplies and the causes of a limit. -/
theorem execGovernorTick_governs (hr : s.crown.ready = true) (hc : s.pwr.cur ≠ 2) {v : Tab Vddc}
    (hv : (List.range 8).foldl (fun t g => governGroup t need hot cool ci cp ca g) s = { s with pwr := { s.pwr with vddc := v } }) :
    ∃ t, exec (.governorTick need hot cool ci cp ca) s = .next t ∧
      (∀ g, getVddc t g = getVddc ((List.range 8).foldl (fun t g => governGroup t need hot cool ci cp ca g) s) g) ∧
      t.pwr.limRule = (s.pwr.throttle != 0) ∧ t.pwr.cur = s.pwr.cur ∧ t.pwr.throttle = s.pwr.throttle ∧
      t.cmds = s.cmds ∧ t.streams = s.streams ∧ t.mon = s.mon := by
  have hon : ¬(!s.crown.ready || s.pwr.cur == 2) = true := by
    rw [hr]
    simpa using hc
  have hexec : exec (.governorTick need hot cool ci cp ca) s = _ := if_neg hon
  rw [hv] at hexec ⊢
  exact ⟨_, hexec, fun _ => rfl, rfl, rfl, rfl, rfl, rfl, rfl⟩

end Governor

/-- Settles O55 (that tables stay, ports fall and the dies' TLBs are lost in S2 is log entry 123's, and the governor's operands are log
entry 126's): one domain at a time goes off and comes on, and every group is governed within its cap. -/
theorem powerAndSupplies : Obligations.PowerAndSupplies := by
  unfold Obligations.PowerAndSupplies
  refine ⟨⟨fun s hr hc hoff ht hq hm hw => ⟨fun hi => ?_, fun hi => ?_⟩,
      fun s hr hc hoff => ⟨fun ha => ?_, fun ha hlast => ?_⟩,
      fun s hr hc hk hwhy => ⟨fun hlast => ?_, fun hlast => ?_⟩,
      fun s hr hc hoff hk ht hq hq2 hi hw => ?_,
      fun s hr hc hoff ha => ⟨fun hk => ?_, fun hk hk' => ?_, fun hk => ?_⟩,
      fun s hr hc hoff ha => ⟨fun hk => ?_, fun hk => ?_, fun hk => ?_⟩,
      fun s hc => ?_, fun s hc => execS2Wake_awake hc, fun s h2 ho => ?_⟩,
    ⟨fun s g mv amps hg hup hf => ⟨?_, fun kind hkind => ?_⟩, fun s g mv amps hg hf => ?_,
      fun s g v ha hg => ⟨fun hv => ?_, fun hv => ?_⟩, fun s die hd hup hf hoff hdroop => ?_, fun s die => rfl⟩,
    fun s need ci cp ca hot cool hr hc => ?_⟩
  · have hmay : mayEnterS1 s = true := by
      rw [mayEnterS1, hq, hm, hi, hw]
      simpa using ht
    have hexec := execS1Entry_starts hr hc hoff
    rw [if_pos hmay] at hexec
    have htop : topOn s.pwr.coresOff = 7 := by
      rw [hoff]
      decide
    obtain ⟨hp1, hp2, hp3⟩ := coresDown_pwr s
    rw [htop, hoff] at hp1
    rw [hoff] at hp2
    refine ⟨_, hexec, hp2, hp1, hp3, fun n hn => ?_, fun hwf n => ?_, rfl, rfl, rfl, rfl⟩
    · obtain ⟨c, hcore⟩ := coresDown_off (s := s) (hn.trans htop.symm)
      rw [hcore]
      exact ⟨rfl, rfl, rfl, rfl⟩
    · rw [coresDown_core hwf, htop]
      split
      · next hn => exact ⟨rfl, rfl, fun h => absurd hn h⟩
      · exact ⟨rfl, rfl, fun _ => rfl⟩
  · rw [execS1Entry_starts hr hc hoff, if_neg (by rw [mayEnterS1, hi]; simp)]
  · have hexec := execS1Entry_goes hr hc hoff
    rw [if_neg (by rw [ha]; decide)] at hexec
    obtain ⟨⟨i, v, hpwr⟩, _, _, hsets, hstreams, hpile, _, hcmds⟩ := passTo_waited s (s.pwr.stepAt + 100000)
    have htime := passTo_le s (s.pwr.stepAt + 100000)
    generalize passTo s (s.pwr.stepAt + 100000) = u at hexec hpwr hsets hstreams hpile hcmds htime
    obtain ⟨hp1, hp2, _⟩ := coresDown_pwr u
    have hdown := fun n => coresDown_off (s := u) (n := n)
    rw [hpwr] at hp1 hp2 hdown
    refine ⟨_, hexec, htime, hp1, hp2, fun n hn => ?_, hsets, hstreams, hpile, hcmds⟩
    obtain ⟨c, hcore⟩ := hdown n hn
    rw [hcore]
    exact ⟨rfl, rfl, rfl, rfl⟩
  · have hexec := execS1Entry_goes hr hc hoff
    rw [if_pos ha] at hexec
    obtain ⟨⟨i, v, hpwr⟩, _, _, hsets, hstreams, hpile, _, hcmds⟩ := passTo_waited s (s.pwr.stepAt + 250000)
    have htime := passTo_le s (s.pwr.stepAt + 250000)
    generalize passTo s (s.pwr.stepAt + 250000) = u at hexec hpwr hsets hstreams hpile hcmds htime
    have hoffs : u.pwr.coresOff = s.pwr.coresOff := by rw [hpwr]
    have hcur : u.pwr.cur = 0 := by rw [hpwr]; exact hc
    rw [coresRise_some (by rw [hoffs]; exact hlast), hoffs] at hexec
    exact ⟨_, hexec, htime, hcur, rfl, hsets, hcmds⟩
  · have hexec := execS1Exit_leaves hr hc hk hwhy
    obtain ⟨⟨i, v, hpwr⟩, _, _, hsets, hstreams, hpile, _, hcmds⟩ := waitsExit_waited s
    have ht1 := waitsExit_le s
    have ht2 := waitsExit_none s
    change exec .s1Exit s = .next (coresRise (waitsExit s)) at hexec
    generalize waitsExit s = u at hexec hpwr hsets hstreams hpile hcmds ht1 ht2
    have hoffs : u.pwr.coresOff = s.pwr.coresOff := by rw [hpwr]
    have hcur : u.pwr.cur = 1 := by rw [hpwr]; exact hc
    rw [coresRise_some (by rw [hoffs]; exact hlast), hoffs] at hexec
    exact ⟨_, hexec, hcur, rfl, ht1, ht2, hcmds, hsets, hstreams, hpile⟩
  · have hexec := execS1Exit_leaves hr hc hk hwhy
    obtain ⟨⟨i, v, hpwr⟩, _, hcore, hsets, hstreams, hpile, _, hcmds⟩ := waitsExit_waited s
    change exec .s1Exit s = .next (coresRise (waitsExit s)) at hexec
    generalize waitsExit s = u at hexec hpwr hcore hsets hstreams hpile hcmds
    have hoffs : u.pwr.coresOff = s.pwr.coresOff := by rw [hpwr]
    rw [coresRise_last (by rw [hoffs]; exact hlast), hoffs, hsets] at hexec
    refine ⟨_, hexec, rfl, hlast, rfl, hcmds, hstreams, hpile, fun k => ?_⟩
    obtain ⟨d, r, c, hk⟩ := hcore k
    exact ⟨(congrArg Core.ls hk).trans rfl, (congrArg Core.imem hk).trans rfl⟩
  · rw [execS2Entry_starts hr hc hoff hk (by rw [mayEnterS2, ht, hq, hq2, hi, hw]; rfl)]
    rfl
  · have hexec := execS2Entry_goes hr hc hoff (by omega) ha
    rw [if_neg (by omega), hk, s2Down_piles, pilesDown_eq] at hexec
    obtain ⟨hfell, hports⟩ := portsFall_fell (stepped s 2)
    obtain ⟨r, o, hpwr, _⟩ := hfell.pwr
    have hmem : ∀ n, n < 16 → pileFenced s n = false → n ∈ (List.range 16).filter fun p => !pileFenced (stepped s 2) p :=
      fun n hn hf => List.mem_filter.mpr ⟨List.mem_range.mpr hn, by
        show (!pileFenced s n) = true
        rw [hf]
        rfl⟩
    generalize ((List.range 16).filter fun p => !pileFenced (stepped s 2) p) = l at hexec hmem
    generalize portsFall (stepped s 2) = u at hexec hfell hports hpwr
    refine ⟨_, hexec, ?_, ?_, fun d hd h1 => quieted_domains u l hd h1, fun n hn hf => quieted_pile u l (hmem n hn hf),
      hports, hfell.pile, hfell.streams, hfell.sets⟩
    · exact (congrArg Pwr.s2Steps hpwr).trans rfl
    · exact (congrArg Pwr.cur hpwr).trans hc
  · have hexec := execS2Entry_goes hr hc hoff (by omega) ha
    have hwait : Waited s (if 2 < s.pwr.s2Steps ∧ s.pwr.s2Steps < 10 then passTo s (s.pwr.stepAt + 100000) else s) := by
      split
      · exact passTo_waited s _
      · exact .refl s
    have htime : 2 < s.pwr.s2Steps → s.pwr.stepAt + 100000 ≤
        (if 2 < s.pwr.s2Steps ∧ s.pwr.s2Steps < 10 then passTo s (s.pwr.stepAt + 100000) else s).time := by
      intro h
      rw [if_pos ⟨h, hk'⟩]
      exact passTo_le s _
    generalize (if 2 < s.pwr.s2Steps ∧ s.pwr.s2Steps < 10 then passTo s (s.pwr.stepAt + 100000) else s) = u at hexec hwait htime
    obtain ⟨⟨i, v, hpwr⟩, _, _, hsets, hstreams, hpile, _, _⟩ := hwait
    rw [s2Down_fabric (by omega) hk'] at hexec
    have hfab : u.pwr.fabricOff = s.pwr.fabricOff := by rw [hpwr]
    have hcur : u.pwr.cur = 1 := by rw [hpwr]; exact hc
    rw [hfab] at hexec
    exact ⟨_, hexec, rfl, rfl, hcur, htime, hpile, hstreams, hsets⟩
  · have hexec := execS2Entry_goes hr hc hoff (by omega) ha
    rw [if_neg (by omega), s2Down_last hk] at hexec
    exact hexec
  · rw [execS2Entry_undoes hr hc hoff (by omega) ha, hk]
    rfl
  · have hexec := execS2Entry_undoes hr hc hoff (by omega) ha
    rw [hk] at hexec
    exact ⟨_, hexec, rfl, hc, fun n => domainsOn_pile (stepped s 1) n, rfl, rfl⟩
  · rw [execS2Entry_undoes hr hc hoff (by omega) ha, s2Undo_fabric (by omega)]
  · obtain ⟨htally, hheld⟩ := deliverHeld_spec (wokenPkg s)
    refine ⟨_, execS2Wake_asleep hc, ?_⟩
    change TallyOnly (wokenPkg s) (s2Leave s) at htally
    change (s2Leave s).tally.held = [] at hheld
    generalize s2Leave s = t at htally hheld
    obtain ⟨ty, mx, rfl⟩ := htally
    exact ⟨rfl, rfl, rfl, fun n => domainsOn_pile s n, rfl, hheld, domainsOn_d1, rfl, rfl⟩
  · obtain ⟨h1, h3, h4⟩ := refLoss_takes h2 ho
    exact ⟨refLoss s, rfl, h3, h1, h4, (refLoss_fell s).cmds⟩
  · show execAvsReadback g mv amps s = _
    rw [execAvsReadback, onlyIf, if_pos (by rw [hg, hup, hf]; rfl)]
  · have hexec : exec (.avsFault g kind) s = .next (event (setVddc s g { getVddc s g with avsFault := true }) nightcapLoc 0x34
        (subjKind 6 g) kind (getVddc s g).measMv) := by
      show execAvsFault g kind s = _
      rw [execAvsFault, onlyIf, if_pos (by rw [hg, hup, hf, decide_eq_true hkind]; rfl)]
    have htally := event_tallyOnly (setVddc s g { getVddc s g with avsFault := true }) nightcapLoc 0x34 (subjKind 6 g) kind
      (getVddc s g).measMv
    refine ⟨_, hexec, ?_⟩
    generalize event (setVddc s g { getVddc s g with avsFault := true }) nightcapLoc 0x34 (subjKind 6 g) kind
      (getVddc s g).measMv = t at htally
    obtain ⟨ty, mx, rfl⟩ := htally
    exact ⟨tget_tput_same _ _ _ _, fun n hn => tget_tput_ne _ _ _ _ _ hn, rfl⟩
  · show execAvsReadback g mv amps s = _
    rw [execAvsReadback, onlyIf, if_neg (by rw [hf]; simp)]
  · show execAvsFaultClear g v s = _
    rw [execAvsFaultClear, hostAccess_awake ha.1 ha.2, if_pos hg, vddcWrite, if_pos hv]
  · show execAvsFaultClear g v s = _
    rw [execAvsFaultClear, hostAccess_awake ha.1 ha.2, if_pos hg, vddcWrite, if_neg (by rw [hv]; decide)]
  · have hc1 : s.pwr.coresOff.contains (die % 8) = false := by simpa using hoff
    have hc2 : s.pwr.droop.contains die = false := by simpa using hdroop
    show execDroopTrip die s = _
    rw [execDroopTrip, onlyIf, if_pos (by rw [decide_eq_true hd, hup, hf, hc1, hc2]; rfl)]
  · obtain ⟨⟨v, hv⟩, hgroups⟩ := governGroups_spec (need := need) (ci := ci) (cp := cp) (ca := ca) (hot := hot) (cool := cool)
      (List.range 8) List.nodup_range s
    obtain ⟨t, hexec, hvddc, hrule, hcur, hthr, hcmds, hstreams, hmon⟩ := execGovernorTick_governs (need := need) (ci := ci)
      (cp := cp) (ca := ca) (hot := hot) (cool := cool) hr hc hv
    refine ⟨t, hexec, fun g hg hoff => ?_, fun g hg => ?_, hrule, hcur, hthr, hcmds, hstreams, hmon⟩
    · rw [hvddc, hgroups g, if_pos ⟨List.mem_range.mpr hg, hoff⟩]
      obtain ⟨h1, h2, h3, h4, h5⟩ := vddcStep_bounds (getVddc s g) (groupGoal (getVddc s g).eclk (groupCap s.pwr.throttle
        (getVddc s g).avsFault (nthN ci g) (nthN cp g) (nthN ca g)) (nthB hot g) (nthB cool g)) (nthN need g)
      exact ⟨h1.trans (groupGoal_le _ _ _ _), h2, h3, h4, h5⟩
    · rw [hvddc, hgroups g, if_neg]
      rintro ⟨h1, h2⟩
      rw [List.mem_range] at h1
      rcases hg with hg | hg
      · omega
      · exact h2 hg

end Sys2Proof.Machine
end

section
/-! A tick of the monitor over a table of piles that is not in key order (18). -/

namespace Sys2Proof.Machine

open Sys2Proof

/-- The piles stand out of key order, pile 3, with 5 corrected errors, after pile 9. Channel 11, the hottest layer of pile 3, and
channel 55, which counts corrected errors, are due in every tick. -/
def pilesUnordered : State :=
  { Tests.up with
    piles := [(9, {}), (3, { ceCount := 5 })]
    mon := { Tests.up.mon with ch := [(11, { en := true, period := 1 }), (55, { en := true, period := 1, sel := 1 })] } }

/-- The sensor of pile 3 gives 100 °C. -/
def pileHot : List (Nat × W32) := [(11, 100 * 256)]

/-- The last sample of a channel after a step. -/
def rawAfter (o : Host.Outcome State Fault Refusal) (c : Nat) : Nat :=
  match o with
  | .next t => (getChan t c).raw.toNat
  | _ => 0

/-- Refutes O56 (that the rules of a tick act together, apart from the tick that counted them, is the model's choice, log entries 52 and
124): the statement does not ask that the table of piles be in key order. In a state where it is not, noting that a pile is hot enters
the pile a second time ahead of its entry, so the errors of the pile are counted twice by a counter channel that is sampled later in the
same tick. -/
theorem not_monitorAndRules : ¬ Obligations.MonitorAndRules := by
  rintro ⟨⟨htick, -⟩, -⟩
  obtain ⟨t, hexec, -, -, hchan, -⟩ := htick pilesUnordered pileHot (by decide) (by decide +kernel)
  obtain ⟨-, -, -, hcount⟩ := hchan 55 (by decide) (by decide +kernel) (by decide +kernel) (by decide +kernel)
  obtain ⟨hraw, -⟩ := hcount (by decide)
  have htwice : rawAfter (exec (.monitorTick pileHot) pilesUnordered) 55 = 256 * 10 := by decide +kernel
  have honce : 256 * (counterOf pilesUnordered (getChan pilesUnordered 55).sel - (getChan pilesUnordered 55).last) = 256 * 5 := by
    decide +kernel
  rw [hexec] at htwice
  rw [honce] at hraw
  have hten : (getChan t 55).raw.toNat = 256 * 10 := htwice
  rw [hraw] at hten
  exact absurd hten (by decide)

end Sys2Proof.Machine
end

section
/-! The records of the fault tally (19). -/

namespace Sys2Proof.Machine

open Sys2Proof Sys2Proof.Ob

section Tally

variable {s : State}

/-- The interrupt of a class leaves the records and the number of the next. -/
theorem tallyIrq_keeps (s : State) (cls : Nat) : ∃ p u m, tallyIrq s cls =
    { s with tally := { s.tally with pendingIrq := p, lastIrq := u }, io := { s.io with msix := m } } := by
  unfold tallyIrq
  split
  · split
    · split
      · exact ⟨_, _, _, rfl⟩
      · exact ⟨_, _, _, rfl⟩
    · exact ⟨_, _, _, rfl⟩
  · exact ⟨_, _, _, rfl⟩

theorem tallyAdd_joins {r : Report} {i : Nat} {q : Rec} (h : openRecOf s.tally r.subject r.cls = some (i, q)) :
    tallyAdd s r = { s with tally := { s.tally with
      slots := tput none s.tally.slots i (some { q with count := min (q.count + 1) 0xFFFFFFFF, lastNs := s.tally.clock }) } } := by
  rw [openRecOf] at h
  rw [tallyAdd, h]

theorem tallyAdd_free {r : Report} {i : Nat} (h : openRecOf s.tally r.subject r.cls = none) (hfree : tallyFree s.tally = some i) :
    tallyAdd s r = tallyOpen s i r := by
  rw [openRecOf] at h
  rw [tallyAdd, h]
  simp only [hfree]

theorem tallyAdd_full {r : Report} (h : openRecOf s.tally r.subject r.cls = none) (hfree : tallyFree s.tally = none)
    (hold : tallyOldest s.tally = none) :
    tallyAdd s r = { s with tally := { s.tally with overflow := min (s.tally.overflow + 1) 0xFFFF } } := by
  rw [openRecOf] at h
  rw [tallyAdd, h]
  simp only [hfree, hold]

theorem execTallyRecordClose_open {slot : Nat} {r : Rec} (h : tget none s.tally.slots slot = some r) (ho : r.isOpen = true) :
    exec (.tallyRecordClose slot) s = .next (if r.firstNs + r.window ≤ s.tally.clock then { s with tally := { s.tally with
      slots := tput none s.tally.slots slot (some { r with isOpen := false }) } } else s) := by
  show execTallyRecordClose slot s = _
  rw [execTallyRecordClose, h]
  simp only [onlyIf, ho, Bool.true_and, decide_eq_true_eq]

/-- In a canonical table a filter leaves an entry, or its default. -/
theorem tget_filter {α : Type} [DecidableEq α] {d : α} (p : Nat × α → Bool) (k : Nat) : ∀ {t : Tab α} {lo : Nat}, tabWf d lo t = true →
    tget d (t.filter p) k = if p (k, tget d t k) = true then tget d t k else d
  | [], _, _ => (ite_self d).symm
  | (j, v) :: t, lo, h => by
    simp only [tabWf, Bool.and_eq_true, decide_eq_true_eq] at h
    obtain ⟨_, hwf⟩ := h
    have ih := tget_filter p k hwf
    by_cases hj : j = k
    · subst hj
      have hnone : tget d t j = d := tget_below d t (j + 1) j (by omega) hwf
      rw [hnone, ite_self] at ih
      rw [tget, if_pos rfl]
      by_cases hp : p (j, v) = true
      · rw [List.filter_cons_of_pos hp, tget, if_pos rfl, if_pos hp]
      · rw [List.filter_cons_of_neg hp, if_neg hp, ih]
    · rw [tget, if_neg hj, ← ih]
      by_cases hp : p (j, v) = true
      · rw [List.filter_cons_of_pos hp, tget, if_neg hj]
      · rw [List.filter_cons_of_neg hp]

end Tally

/-- Settles O57: a report joins the open record of its subject and class, or opens one, or only counts as overflow; a record is closed
by its time and released by an acknowledgement. -/
theorem tallyRecordsEvents : Obligations.TallyRecordsEvents := by
  unfold Obligations.TallyRecordsEvents
  refine ⟨fun s reporter subject cls d0 d1 hcls ha => ⟨fun i q hq => ?_, fun hnone => ⟨fun i hfree => ?_, fun hfree hold => ?_⟩⟩,
    fun s reporter subject cls d0 d1 hcls hc hl => ?_, fun s slot r hr ho => ⟨fun hdue => ?_, fun hwait => ?_⟩,
    fun s hp hover => execTallyIrqGapEnd_raises hp hover, fun s v ha hwf => ?_⟩
  · rw [exec_tallyReport_awake ha hcls, tallyAdd_joins hq]
  · refine ⟨_, exec_tallyReport_awake ha hcls reporter subject d0 d1, ?_⟩
    rw [tallyAdd_free (i := i) hnone hfree]
    unfold tallyOpen
    obtain ⟨p, u, m, hkeeps⟩ := tallyIrq_keeps { s with tally := { s.tally with
      slots := tput none s.tally.slots i (some (newRec s { reporter := reporter &&& 0x0FFFFFFF, subject, cls, d0, d1 }))
      nextSeq := if s.tally.nextSeq = 0xFFFFFFFF then 1 else s.tally.nextSeq + 1 } } cls
    rw [hkeeps]
    exact ⟨tget_tput_same _ _ _ _, fun n hn => tget_tput_ne _ _ _ _ _ hn, rfl, rfl, rfl, rfl⟩
  · rw [exec_tallyReport_awake ha hcls, tallyAdd_full hnone hfree hold]
  · show execTallyReport reporter subject cls d0 d1 s = _
    rw [execTallyReport, onlyIf, if_pos hcls, report, if_pos (by rw [d1Off, hc]; rfl), if_pos hl]
  · refine ⟨_, execTallyRecordClose_open hr ho, ?_⟩
    rw [if_pos hdue]
    exact ⟨tget_tput_same _ _ _ _, fun n hn => tget_tput_ne _ _ _ _ _ hn, rfl⟩
  · rw [execTallyRecordClose_open hr ho, if_neg (by omega)]
  · have hexec : exec (.tallyAck v) s = .next (tallyAck s v) :=
      congrArg Host.Outcome.next (hostAccess_awake ha.1 ha.2 fun s => tallyAck s v)
    refine ⟨_, hexec, fun i r hr => ?_, rfl, rfl⟩
    refine (tget_filter _ i hwf).trans ?_
    rw [hr]
    simp only [Bool.or_eq_true, decide_eq_true_eq]

end Sys2Proof.Machine
end

section
/-! Remaining life, telemetry and the counters of accounting (12, 19). -/

namespace Sys2Proof.Machine

open Sys2Proof Sys2Proof.Ob

section Wear

variable {s t u : State}

/-! ## A day -/

/-- The history of the margins with a day's minima moved in. -/
theorem margins_move (p : Nat) : ∀ (l : Tab Nat) (lo : Nat) (m : Tab (List Nat)), tabWf 0 lo l = true →
    tget [] (l.foldl (fun m x => tput [] m x.1 (((x.2 - 1) :: tget [] m x.1).take 90)) m) p =
      if tget 0 l p = 0 then tget [] m p else ((tget 0 l p - 1) :: tget [] m p).take 90
  | [], _, _, _ => (if_pos rfl).symm
  | (j, v) :: l, lo, m, h => by
    simp only [tabWf, Bool.and_eq_true, decide_eq_true_eq] at h
    obtain ⟨⟨_, hv⟩, hwf⟩ := h
    rw [List.foldl_cons, margins_move p l (j + 1) _ hwf, tget]
    by_cases hj : j = p
    · subst hj
      rw [tget_below 0 l (j + 1) j (by omega) hwf, if_pos rfl, if_pos rfl, if_neg hv, tget_tput_same]
    · rw [if_neg hj, tget_tput_ne _ _ _ _ _ (Ne.symm hj)]

/-- AGE_DAY: a day is over. -/
theorem execAgeDay_waits (s : State) : ∃ u : State, u.sec = s.sec ∧ u.health = s.health ∧ u.cmds = s.cmds ∧
    s.sec.dayAt + 86400000000000 ≤ u.time ∧ exec .ageDay s = .next { u with
      sec := { u.sec with age := min (u.sec.age + 1) 8192, dayAt := u.time }
      health := { u.health with
        dayMin := []
        margins := u.health.dayMin.foldl (fun m x => tput [] m x.1 (((x.2 - 1) :: tget [] m x.1).take 90)) u.health.margins } } := by
  have hexec : ∀ d, d = s.sec.dayAt + 86400000000000 → exec .ageDay s = .next { passTo s d with
      sec := { (passTo s d).sec with age := min ((passTo s d).sec.age + 1) 8192, dayAt := (passTo s d).time }
      health := { (passTo s d).health with
        dayMin := []
        margins := (passTo s d).health.dayMin.foldl (fun m x => tput [] m x.1 (((x.2 - 1) :: tget [] m x.1).take 90))
          (passTo s d).health.margins } } := by
    intro d hd
    show execAgeDay s = _
    rw [execAgeDay, ← hd]
  obtain ⟨n, hp, _⟩ := passTo_passed s (s.sec.dayAt + 86400000000000)
  obtain ⟨_, _, hcmds, _, _, _, _, _, hsec, _, _, _, _, _, _, _, _, _, _, _, _, hhealth, _⟩ := hp
  exact ⟨_, hsec, hhealth, hcmds, passTo_le s _, hexec _ rfl⟩

/-! ## A measurement -/

/-- Apart from the health entries, `t` is `s`. -/
def EntriesOnly (s t : State) : Prop := ∃ l, t = { s with health := { s.health with entries := l } }

theorem EntriesOnly.refl (s : State) : EntriesOnly s s := ⟨_, rfl⟩

theorem EntriesOnly.trans (a : EntriesOnly s t) (b : EntriesOnly t u) : EntriesOnly s u := by
  obtain ⟨_, rfl⟩ := a
  obtain ⟨_, rfl⟩ := b
  exact ⟨_, rfl⟩

/-- Whether a die is fenced, and what is predicted of it, does not come from its entry; only the number of updates does. -/
theorem EntriesOnly.entryOfDie (h : EntriesOnly s t) {e : Nat} (he : getEnt t e = getEnt s e) (d : Nat) :
    entryOfDie t e d = entryOfDie s e d := by
  obtain ⟨l, rfl⟩ := h
  unfold Machine.entryOfDie
  rw [he]
  rfl

theorem putEnt_entriesOnly (s : State) (e : Nat) (x : HealthEnt) : EntriesOnly s (putEnt s e x) := ⟨_, rfl⟩

theorem getEnt_putEnt_same (s : State) (e : Nat) (x : HealthEnt) : getEnt (putEnt s e x) e = x := tget_tput_same _ _ _ _

theorem getEnt_putEnt_ne (s : State) {e n : Nat} (x : HealthEnt) (h : n ≠ e) : getEnt (putEnt s e x) n = getEnt s n :=
  tget_tput_ne _ _ _ _ _ h

/-- Each die's entry is rewritten once. -/
theorem entries_rewritten (ppm : Nat → Nat) : ∀ (l : List Nat), l.Nodup → ∀ s : State,
    EntriesOnly s (l.foldl (fun t e => putEnt t e (entryOfDie t e (ppm e))) s) ∧
    ∀ e, getEnt (l.foldl (fun t e => putEnt t e (entryOfDie t e (ppm e))) s) e =
      if e ∈ l then entryOfDie s e (ppm e) else getEnt s e := by
  intro l
  induction l with
  | nil => exact fun _ s => ⟨.refl s, fun e => (if_neg (by simp)).symm⟩
  | cons a l ih =>
    intro hl s
    obtain ⟨ha, hl⟩ := List.nodup_cons.mp hl
    rw [List.foldl_cons]
    have honly := putEnt_entriesOnly s a (entryOfDie s a (ppm a))
    have hsame := getEnt_putEnt_same s a (entryOfDie s a (ppm a))
    have hne := fun n => getEnt_putEnt_ne s (e := a) (n := n) (entryOfDie s a (ppm a))
    generalize putEnt s a (entryOfDie s a (ppm a)) = t at honly hsame hne
    obtain ⟨hrest, hent⟩ := ih hl t
    refine ⟨honly.trans hrest, fun e => (hent e).trans ?_⟩
    by_cases he : e = a
    · subst he
      rw [if_neg ha, if_pos (List.mem_cons_self ..), hsame]
    · rw [honly.entryOfDie (hne e he), hne e he]
      simp only [List.mem_cons, he, false_or]

/-- The least of a list by a pair of keys is in the list, and no other has a lesser first key. -/
theorem leastBy_least (key : Nat → Nat × Nat) : ∀ {l : List Nat}, l ≠ [] →
    ∃ e, leastBy key l = some e ∧ e ∈ l ∧ ∀ n ∈ l, (key e).1 ≤ (key n).1
  | [], h => absurd rfl h
  | [p], _ => ⟨p, rfl, List.mem_cons_self .., fun n hn => by
      rw [List.mem_singleton.mp hn]⟩
  | p :: q :: l, _ => by
    obtain ⟨e, he, hmem, hle⟩ := leastBy_least key (l := q :: l) (by simp)
    rw [leastBy, he]
    dsimp only
    split
    · next hlt =>
      refine ⟨e, rfl, List.mem_cons_of_mem _ hmem, fun n hn => ?_⟩
      rcases List.mem_cons.mp hn with rfl | hn
      · omega
      · exact hle n hn
    · next hge =>
      refine ⟨p, rfl, List.mem_cons_self .., fun n hn => ?_⟩
      rcases List.mem_cons.mp hn with rfl | hn
      · exact Nat.le_refl _
      · exact Nat.le_trans (by omega) (hle n hn)

/-- The package's entry takes the days of its die with the least. -/
theorem packageEnt_least (s : State) : ∃ e, e < 64 ∧ entryFenced s e = false ∧
    (getEnt (packageEnt s) 64).days = (getEnt s e).days ∧ (getEnt (packageEnt s) 64).limitDie = e ∧
    (∀ n, n < 64 → entryFenced s n = false → (getEnt s e).days ≤ (getEnt s n).days) ∧
    EntriesOnly s (packageEnt s) ∧ ∀ n, n ≠ 64 → getEnt (packageEnt s) n = getEnt s n := by
  have hin : ∀ n, n ∈ (List.range 64).filter (fun e => !entryFenced s e) ↔ n < 64 ∧ entryFenced s n = false := by
    intro n
    rw [List.mem_filter, List.mem_range, Bool.not_eq_true']
  have hne : (List.range 64).filter (fun e => !entryFenced s e) ≠ [] := List.ne_nil_of_mem ((hin 63).mpr ⟨by decide, rfl⟩)
  obtain ⟨e, he, hmem, hle⟩ := leastBy_least (fun e => ((getEnt s e).days, e)) hne
  obtain ⟨hlt, hf⟩ := (hin e).mp hmem
  rw [packageEnt, he]
  dsimp only
  refine ⟨e, hlt, hf, ?_, ?_, fun n hn hfn => hle n ((hin n).mpr ⟨hn, hfn⟩), putEnt_entriesOnly s 64 _,
    fun n hn => getEnt_putEnt_ne s _ hn⟩
  · rw [getEnt_putEnt_same]
  · rw [getEnt_putEnt_same]

/-- A warning leaves the entries, the commands and the security block. -/
theorem warnEnt_keeps (s : State) (e : Nat) : (∀ n, getEnt (warnEnt s e) n = getEnt s n) ∧ (warnEnt s e).cmds = s.cmds ∧
    (warnEnt s e).sec = s.sec := by
  unfold warnEnt
  dsimp only
  split
  · exact ⟨fun _ => rfl, rfl, rfl⟩
  · split
    · have htally := event_tallyOnly { s with health := { s.health with warned := s.health.warned ++ [e] } } crownLoc 0x38
        (if e = 64 then subjKind 8 0 else subjKind 0xA e) (getEnt s e).days (getEnt s e).limit
      generalize event { s with health := { s.health with warned := s.health.warned ++ [e] } } crownLoc 0x38
        (if e = 64 then subjKind 8 0 else subjKind 0xA e) (getEnt s e).days (getEnt s e).limit = t at htally
      obtain ⟨_, _, rfl⟩ := htally
      exact ⟨fun _ => rfl, rfl, rfl⟩
    · split
      · exact ⟨fun _ => rfl, rfl, rfl⟩
      · exact ⟨fun _ => rfl, rfl, rfl⟩

theorem warnEnts_keep : ∀ (l : List Nat) (s : State), (∀ n, getEnt (l.foldl warnEnt s) n = getEnt s n) ∧
    (l.foldl warnEnt s).cmds = s.cmds ∧ (l.foldl warnEnt s).sec = s.sec := by
  intro l
  induction l with
  | nil => exact fun s => ⟨fun _ => rfl, rfl, rfl⟩
  | cons e l ih =>
    intro s
    obtain ⟨h1, h2, h3⟩ := warnEnt_keeps s e
    obtain ⟨k1, k2, k3⟩ := ih (warnEnt s e)
    exact ⟨fun n => (k1 n).trans (h1 n), k2.trans h2, k3.trans h3⟩

/-- The degradation of a die by a measurement, or as it was. -/
def ppmOf (s : State) (l : List (Nat × List (Nat × Nat))) (e : Nat) : Nat :=
  ((l.find? fun x => x.1 == e).map fun x => diePpm e x.2).getD (getEnt s e).dPpm

/-- WEAR_MEASURE: the entries of the dies, and the package's. -/
theorem execWearMeasure_measures (hr : s.crown.ready = true) (hc : s.pwr.cur ≠ 2) (l : List (Nat × List (Nat × Nat))) :
    ∃ t, exec (.wearMeasure l) s = .next t ∧ (∀ e, e < 64 → getEnt t e = entryOfDie s e (ppmOf s l e)) ∧
      (∃ e, e < 64 ∧ entryFenced s e = false ∧ (getEnt t 64).days = (getEnt t e).days ∧ (getEnt t 64).limitDie = e ∧
        ∀ n, n < 64 → entryFenced s n = false → (getEnt t e).days ≤ (getEnt t n).days) ∧ t.cmds = s.cmds ∧ t.sec = s.sec := by
  have hon : ¬(!s.crown.ready || d1Off s) = true := by
    rw [hr, d1Off]
    simpa using hc
  have hexec : exec (.wearMeasure l) s = .next ((List.range 65).foldl warnEnt (packageEnt
      ((List.range 64).foldl (fun t e => putEnt t e (entryOfDie t e (ppmOf s l e))) s))) := if_neg hon
  obtain ⟨honly, hent⟩ := entries_rewritten (ppmOf s l) (List.range 64) List.nodup_range s
  generalize (List.range 64).foldl (fun t e => putEnt t e (entryOfDie t e (ppmOf s l e))) s = u at hexec honly hent
  obtain ⟨e, hlt, hf, hdays, hdie, hleast, hpkg, hothers⟩ := packageEnt_least u
  generalize packageEnt u = v at hexec hdays hdie hpkg hothers
  obtain ⟨hwarn, hcmds, hsec⟩ := warnEnts_keep (List.range 65) v
  have hkept : ∀ n, n < 64 → getEnt ((List.range 65).foldl warnEnt v) n = getEnt u n :=
    fun n hn => (hwarn n).trans (hothers n (by omega))
  have hfenced : ∀ n, entryFenced u n = entryFenced s n := by
    obtain ⟨_, rfl⟩ := honly
    exact fun _ => rfl
  obtain ⟨_, hv⟩ := honly.trans hpkg
  refine ⟨_, hexec, fun n hn => ?_, ⟨e, hlt, (hfenced e).symm.trans hf, ?_, ?_, fun n hn hfn => ?_⟩, ?_, ?_⟩
  · rw [hkept n hn, hent n, if_pos (List.mem_range.mpr hn)]
  · rw [hwarn, hkept e hlt, hdays]
  · rw [hwarn, hdie]
  · rw [hkept e hlt, hkept n hn]
    exact hleast n hn ((hfenced n).trans hfn)
  · rw [hcmds, hv]
  · rw [hsec, hv]

theorem execTelemetryCopy_awake (ha : awake s) : exec .telemetryCopy s = .next { s with health := { s.health with
    chanCopy := (List.range 64).foldl (fun t c => tput (0, 0) t c (chanValue (getChan s c), (getChan s c).raw)) [] } } := by
  show execTelemetryCopy s = _
  rw [execTelemetryCopy, onlyIf, if_pos (by rw [ha.1, d1Off_awake ha]; rfl)]

/-! ## Accounting -/

/-- The latch of the high half is no counter. -/
theorem acctCounter_latch (a : Acct) (v : W32) (n : Nat) : acctCounter { a with latch := v } n = acctCounter a n := rfl

end Wear

/-- Settles O59 (the rounding of a prediction and its bounds are the model's choice, log entry 127, the address under which the management
port reads log entry 118): days, measurements, copies and the counters' reads. -/
theorem wearTelemetryAndAccounting : Obligations.WearTelemetryAndAccounting := by
  unfold Obligations.WearTelemetryAndAccounting
  refine ⟨⟨fun s => ?_, fun s l hr hc => ?_, fun s ha => ?_, fun s off len hup => ⟨fun hr hc h4 hlen hoff => ?_, fun hr hc hbad => ?_, ?_⟩⟩,
    fun s c k ha hcl hk => ?_⟩
  · obtain ⟨u, hsec, hhealth, hcmds, hle, hexec⟩ := execAgeDay_waits s
    refine ⟨_, hexec, hle, rfl, ?_, rfl, fun hwf p => ?_, ?_, hcmds⟩
    · dsimp only
      rw [hsec]
    · dsimp only
      rw [hhealth]
      exact margins_move p s.health.dayMin 0 s.health.margins hwf
    · dsimp only
      rw [hhealth]
  · obtain ⟨t, hexec, hent, hleast, hcmds, hsec⟩ := execWearMeasure_measures hr hc l
    refine ⟨t, hexec, fun e x he hf hx => ?_, fun e he hf => ?_, hleast, hcmds, hsec⟩
    · have hppm : ppmOf s l e = diePpm e x := by
        rw [ppmOf, hx]
        rfl
      rw [hent e he, hppm, entryOfDie, if_neg (by rw [hf]; decide)]
      exact ⟨rfl, rfl, rfl, rfl, rfl, rfl⟩
    · rw [hent e he, entryOfDie, if_pos hf]
      exact ⟨rfl, rfl, rfl⟩
  · refine ⟨_, execTelemetryCopy_awake ha, fun c hc => ?_, rfl, rfl, rfl⟩
    dsimp only
    rw [tget_foldl_tput, if_pos hc]
  · show execMctpTelemetryRead off len s = _
    rw [execMctpTelemetryRead, if_neg (by rw [mctpUp, hup]; decide), if_neg (by rw [hr, d1Off]; simpa using hc), if_neg (by omega)]
  · show execMctpTelemetryRead off len s = _
    rw [execMctpTelemetryRead, if_neg (by rw [mctpUp, hup]; decide), if_neg (by rw [hr, d1Off]; simpa using hc), if_pos (by omega)]
  · show execMctpMonitorRead s = _
    rw [execMctpMonitorRead, onlyIf, if_pos (by rw [mctpUp, hup])]
  · have hexec : exec (.accountingLoRead c k) s = .next (rdata (setClient s c { getClient s c with acct := { (getClient s c).acct with
        latch := ((acctCounter (getClient s c).acct k) >>> 32).setWidth 32 } })
        (((acctCounter (getClient s c).acct k).setWidth 32).setWidth 64)) := by
      show execAccountingLoRead c k s = _
      rw [execAccountingLoRead, hostAccess_awake ha.1 ha.2, if_pos (by rw [hcl, decide_eq_true hk]; rfl)]
    have hread : ∀ v : W64, ((v.setWidth 32).setWidth 64).toNat = v.toNat % 2 ^ 32 := by
      intro v
      rw [BitVec.toNat_setWidth, BitVec.toNat_setWidth]
      omega
    have hlatch : ∀ v : W64, ((v >>> 32).setWidth 32).toNat = v.toNat / 2 ^ 32 := by
      intro v
      rw [BitVec.toNat_setWidth, BitVec.toNat_ushiftRight, Nat.shiftRight_eq_div_pow]
      omega
    have hsame : ∀ x v, getClient (rdata (setClient s c x) v) c = x := fun x v => tget_tput_same _ _ _ _
    refine ⟨_, hexec, hread _, ?_, fun n hn => ?_, ?_, fun n hn => tget_tput_ne _ _ _ _ _ hn, rfl⟩
    · rw [hsame]
      exact hlatch _
    · rw [hsame]
      exact acctCounter_latch _ _ n
    · rw [hsame]

end Sys2Proof.Machine
end

section
/-! What the operations of the audio ports change (15). -/

namespace Sys2Proof.Machine

open Sys2Proof Sys2Proof.Ob

/-! ## One port -/

/-- Apart from port `p`, the bindings, what is reported and what leaves the package, `t` is `s`. -/
structure AtPort (p : Nat) (s t : State) : Prop where
  others : ∀ q, q ≠ p → getAp t q = getAp s q
  bead : t.bead = s.bead
  time : t.time = s.time
  cmds : t.cmds = s.cmds

section AudioPort

variable {s t u : State} {p : Nat}

theorem AtPort.refl (p : Nat) (s : State) : AtPort p s s := ⟨fun _ _ => rfl, rfl, rfl, rfl⟩

theorem AtPort.trans (a : AtPort p s t) (b : AtPort p t u) : AtPort p s u :=
  ⟨fun q h => (b.others q h).trans (a.others q h), b.bead.trans a.bead, b.time.trans a.time, b.cmds.trans a.cmds⟩

theorem setAp_atPort (s : State) (p : Nat) (x : APort) : AtPort p s (setAp s p x) :=
  ⟨fun q h => getAp_setAp_ne s p q x h, rfl, rfl, rfl⟩

theorem TallyOnly.atPort (h : TallyOnly s t) (p : Nat) : AtPort p s t := by
  obtain ⟨_, _, rfl⟩ := h
  exact ⟨fun _ _ => rfl, rfl, rfl, rfl⟩

theorem wire_atPort (s : State) (p : Nat) (w : Wire) : AtPort p s (wire s w) := ⟨fun _ _ => rfl, rfl, rfl, rfl⟩

theorem setBind_atPort (s : State) (p n : Nat) (b : Option Bind) : AtPort p s (setBind s n b) := ⟨fun _ _ => rfl, rfl, rfl, rfl⟩

theorem emptyBinds_atPort (s : State) (p : Nat) : AtPort p s (emptyBinds s p) := ⟨fun _ _ => rfl, rfl, rfl, rfl⟩

/-! ## The bead's reference -/

theorem refOfPort_ne (h : p < 5) : refOfPort p ≠ 0 := by
  interval_cases p
  all_goals decide

/-- Whatever reference is lost, only the bead and the alignment with the domain may change. -/
theorem refLostNow_keeps (s : State) (r : BitVec 3) : (refLostNow s r).ap = s.ap ∧ (refLostNow s r).binds = s.binds ∧
    (refLostNow s r).io = s.io ∧ (refLostNow s r).cmds = s.cmds ∧ (refLostNow s r).time = s.time := by
  unfold refLostNow
  split
  · exact ⟨rfl, rfl, rfl, rfl, rfl⟩
  · exact ⟨rfl, rfl, rfl, rfl, rfl⟩

theorem refLostNow_other {r : BitVec 3} (h : s.bead.activeRef ≠ r) : refLostNow s r = s := if_neg fun h' => h h'.2

/-- The bead that follows a lost port or word clock falls back. -/
theorem refLostNow_active (hp : p < 5) (h : s.bead.activeRef = refOfPort p) : (refLostNow s (refOfPort p)).bead =
    { s.bead with activeRef := 0, fallback := true, from3 := 3 * s.time } := by
  have hclock : refClocked s.bead.activeRef = true := by
    rw [h]
    interval_cases p
    all_goals decide
  rw [refLostNow, if_pos ⟨refOfPort_ne hp, h⟩, beadFallback, hclock]
  rfl

/-! ## Edges -/

/-- The port after an accepted frame edge. -/
def edged (s : State) (x : APort) : APort :=
  { x with
    frames := x.frames + 1, lastEdge := s.time
    marks := if x.frames % 1024 == 0 then (s.time :: x.marks).take 5 else x.marks
    rateDue := x.rateDue || (x.frames % 1024 == 0 && !x.marks.isEmpty) }

theorem frameEdge_eq (s : State) (p : Nat) : frameEdge s p = countSample (setAp s p (edged s (getAp s p))) (refOfPort p) := rfl

theorem countSample_keeps (s : State) (r : BitVec 3) : (countSample s r).ap = s.ap ∧ (countSample s r).binds = s.binds ∧
    (countSample s r).io = s.io ∧ (countSample s r).cmds = s.cmds ∧ (countSample s r).time = s.time := by
  unfold countSample
  split
  · exact ⟨rfl, rfl, rfl, rfl, rfl⟩
  · exact ⟨rfl, rfl, rfl, rfl, rfl⟩

theorem countSample_bead (s : State) (r : BitVec 3) :
    (s.bead.en = true → s.bead.activeRef = r → (countSample s r).bead = { s.bead with samples := s.bead.samples + 1 }) ∧
    (s.bead.activeRef ≠ r → (countSample s r).bead = s.bead) := by
  unfold countSample
  refine ⟨fun hen hr => ?_, fun hr => ?_⟩
  · rw [if_pos (by rw [hen, hr, beq_self_eq_true]; rfl)]
  · rw [if_neg (by simp [hr])]

/-- What an accepted frame edge does. -/
theorem frameEdge_spec (s : State) (p : Nat) : getAp (frameEdge s p) p = edged s (getAp s p) ∧
    (∀ q, q ≠ p → getAp (frameEdge s p) q = getAp s q) ∧ (frameEdge s p).binds = s.binds ∧ (frameEdge s p).cmds = s.cmds ∧
    (frameEdge s p).time = s.time ∧
    (s.bead.en = true → s.bead.activeRef = refOfPort p → (frameEdge s p).bead = { s.bead with samples := s.bead.samples + 1 }) ∧
    (s.bead.activeRef ≠ refOfPort p → (frameEdge s p).bead = s.bead) := by
  rw [frameEdge_eq]
  obtain ⟨hap, hbinds, _, hcmds, htime⟩ := countSample_keeps (setAp s p (edged s (getAp s p))) (refOfPort p)
  obtain ⟨hb1, hb2⟩ := countSample_bead (setAp s p (edged s (getAp s p))) (refOfPort p)
  have hget : ∀ q, getAp (countSample (setAp s p (edged s (getAp s p))) (refOfPort p)) q = getAp (setAp s p (edged s (getAp s p))) q :=
    fun q => congrArg (fun (l : Tab APort) => tget ({} : APort) l q) hap
  exact ⟨(hget p).trans (getAp_setAp_same _ _ _), fun q hq => (hget q).trans (getAp_setAp_ne _ _ _ _ hq), hbinds, hcmds, htime,
    hb1, hb2⟩

/-! ## A clock that is lost -/

theorem pinsLow_atPort (s : State) (p : Nat) : AtPort p s (pinsLow s p) := wire_atPort s p _

/-- The port as its clock is lost. -/
def unclocked (p : Nat) (x : APort) : APort :=
  { x with
    state := if p = 4 then 0 else 2, clockLost := true, rate := 0, frames := 0, marks := [], rateDue := false, slotAt := none }

/-- What the loss of a port's clock does. -/
theorem clockGone_spec (s : State) (hp : p < 5) : getAp (clockGone s p) p = unclocked p (getAp s p) ∧
    (∀ q, q ≠ p → getAp (clockGone s p) q = getAp s q) ∧ (clockGone s p).cmds = s.cmds ∧
    (p ≠ 4 → .audioLow p (getAp s p).master ∈ (clockGone s p).io.wire) ∧
    (s.bead.activeRef = refOfPort p → (clockGone s p).bead = { s.bead with activeRef := 0, fallback := true, from3 := 3 * s.time }) ∧
    (s.bead.activeRef ≠ refOfPort p → (clockGone s p).bead = s.bead) := by
  have hreport : ∀ v, TallyOnly v (if (getAp s p).clockLost then v else event v nightcapLoc 0x30 (subjKind 4 p) (getAp s p).rate 0) := by
    intro v
    split
    · exact .refl v
    · exact event_tallyOnly _ _ _ _ _ _
  have hall : ∀ v, TallyOnly (setAp s p (unclocked p (getAp s p))) v →
      getAp (refLostNow (if p = 4 then v else pinsLow v p) (refOfPort p)) p = unclocked p (getAp s p) ∧
      (∀ q, q ≠ p → getAp (refLostNow (if p = 4 then v else pinsLow v p) (refOfPort p)) q = getAp s q) ∧
      (refLostNow (if p = 4 then v else pinsLow v p) (refOfPort p)).cmds = s.cmds ∧
      (p ≠ 4 → .audioLow p (getAp s p).master ∈ (refLostNow (if p = 4 then v else pinsLow v p) (refOfPort p)).io.wire) ∧
      (s.bead.activeRef = refOfPort p → (refLostNow (if p = 4 then v else pinsLow v p) (refOfPort p)).bead =
        { s.bead with activeRef := 0, fallback := true, from3 := 3 * s.time }) ∧
      (s.bead.activeRef ≠ refOfPort p → (refLostNow (if p = 4 then v else pinsLow v p) (refOfPort p)).bead = s.bead) := by
    rintro v hv
    have hport : getAp v p = unclocked p (getAp s p) := by
      obtain ⟨_, _, rfl⟩ := hv
      exact getAp_setAp_same s p _
    have hat := (setAp_atPort s p (unclocked p (getAp s p))).trans (hv.atPort p)
    have hpins : AtPort p v (if p = 4 then v else pinsLow v p) ∧ getAp (if p = 4 then v else pinsLow v p) p = getAp v p ∧
        (p ≠ 4 → .audioLow p (getAp s p).master ∈ (if p = 4 then v else pinsLow v p).io.wire) := by
      split
      · next h => exact ⟨.refl p v, rfl, fun h' => absurd h h'⟩
      · refine ⟨pinsLow_atPort v p, rfl, fun _ => ?_⟩
        show _ ∈ v.io.wire ++ [Wire.audioLow p (getAp v p).master]
        rw [hport]
        exact List.mem_append_right _ (List.mem_singleton.mpr rfl)
    generalize (if p = 4 then v else pinsLow v p) = w at hpins
    obtain ⟨hat', hsame, hwire⟩ := hpins
    have hatw := hat.trans hat'
    obtain ⟨hap, _, hio, hcmds, _⟩ := refLostNow_keeps w (refOfPort p)
    have hget : ∀ q, getAp (refLostNow w (refOfPort p)) q = getAp w q := fun q => congrArg (fun (l : Tab APort) => tget ({} : APort) l q) hap
    refine ⟨(hget p).trans (hsame.trans hport), fun q hq => (hget q).trans (hatw.others q hq), hcmds.trans hatw.cmds,
      fun h => by rw [hio]; exact hwire h, fun hr => ?_, fun hr => ?_⟩
    · rw [refLostNow_active hp (by rw [hatw.bead]; exact hr), hatw.bead, hatw.time]
    · rw [refLostNow_other (by rw [hatw.bead]; exact hr), hatw.bead]
  exact hall _ (hreport _)

theorem clockGone_time (s : State) (p : Nat) : (clockGone s p).time = s.time := by
  have hall : ∀ v, TallyOnly (setAp s p (unclocked p (getAp s p))) v →
      (refLostNow (if p = 4 then v else pinsLow v p) (refOfPort p)).time = s.time := by
    intro v hv
    obtain ⟨_, _, _, _, htime⟩ := refLostNow_keeps (if p = 4 then v else pinsLow v p) (refOfPort p)
    rw [htime]
    split
    · exact (hv.atPort p).time
    · exact (hv.atPort p).time
  refine hall _ ?_
  split
  · exact .refl _
  · exact event_tallyOnly _ _ _ _ _ _

/-! ## Frames -/

/-- The start of a binding where it is due. -/
def startedBind (s : State) (p : Nat) (b : Bind) : Bind :=
  if b.port = p ∧ !b.started ∧ bindLive s b ∧ b.prefill * b.chans ≤ b.buf.length then { b with started := true } else b

theorem getBind_startBinds (s : State) (p st : Nat) : getBind (startBinds s p) st = (getBind s st).map (startedBind s p) :=
  tget_map none (fun o => o.map (startedBind s p)) rfl st s.binds

/-- What the start of a frame does. -/
theorem startFrame_spec (s : State) (p : Nat) :
    getAp (startFrame s p) p = { edged s (takeMask (getAp s p)) with slotAt := some 0 } ∧
    (∀ q, q ≠ p → getAp (startFrame s p) q = getAp s q) ∧
    (∀ st, getBind (startFrame s p) st = (getBind s st).map (startedBind (setAp s p (takeMask (getAp s p))) p)) ∧
    (startFrame s p).cmds = s.cmds ∧ (startFrame s p).time = s.time ∧
    (s.bead.en = true → s.bead.activeRef = refOfPort p → (startFrame s p).bead = { s.bead with samples := s.bead.samples + 1 }) ∧
    (s.bead.activeRef ≠ refOfPort p → (startFrame s p).bead = s.bead) := by
  obtain ⟨h1, h2, h3, h4, h5, h6, h7⟩ := frameEdge_spec (startBinds (setAp s p (takeMask (getAp s p))) p) p
  have hport : getAp (startBinds (setAp s p (takeMask (getAp s p))) p) p = takeMask (getAp s p) := getAp_setAp_same s p _
  have hother : ∀ q, q ≠ p → getAp (startBinds (setAp s p (takeMask (getAp s p))) p) q = getAp s q :=
    fun q hq => getAp_setAp_ne s p q _ hq
  have hbind : ∀ st, getBind (startBinds (setAp s p (takeMask (getAp s p))) p) st =
      (getBind s st).map (startedBind (setAp s p (takeMask (getAp s p))) p) :=
    fun st => getBind_startBinds (setAp s p (takeMask (getAp s p))) p st
  rw [hport] at h1
  unfold startFrame
  dsimp only
  generalize frameEdge (startBinds (setAp s p (takeMask (getAp s p))) p) p = v at h1 h2 h3 h4 h5 h6 h7
  refine ⟨?_, fun q hq => ?_, fun st => ?_, h4, h5, h6, h7⟩
  · rw [getAp_setAp_same, h1]
    rfl
  · rw [getAp_setAp_ne _ _ _ _ hq, h2 q hq, hother q hq]
  · rw [← hbind st]
    show tget none v.binds st = _
    rw [h3]
    rfl

theorem takeMask_keeps (x : APort) : (takeMask x).frames = x.frames ∧ (takeMask x).state = x.state ∧
    (takeMask x).slotsM1 = x.slotsM1 ∧ (takeMask x).resyncs = x.resyncs := ⟨rfl, rfl, rfl, rfl⟩

/-! ## Slots -/

/-- A slip is noted once. -/
theorem audSlip_spec (s : State) (p st k : Nat) : AtPort p s (audSlip s p st k) ∧
    getAp (audSlip s p st k) p = { getAp s p with slip := true } ∧ (audSlip s p st k).binds = s.binds := by
  unfold audSlip
  dsimp only
  split
  · next h => exact ⟨.refl p s, by rw [← h], rfl⟩
  · have htally := event_tallyOnly (setAp s p { getAp s p with slip := true }) nightcapLoc 0x32 (subjKind 4 p) st k
    generalize event (setAp s p { getAp s p with slip := true }) nightcapLoc 0x32 (subjKind 4 p) st k = v at htally
    refine ⟨(setAp_atPort s p _).trans (htally.atPort p), ?_, ?_⟩
    · obtain ⟨_, _, rfl⟩ := htally
      exact getAp_setAp_same s p _
    · obtain ⟨_, _, rfl⟩ := htally
      rfl

theorem slotOut_sent {k st : Nat} {b : Bind} {v : W32} {r : List W32} (hb : slotBind s p k = some (st, b)) (hv : b.buf = v :: r) :
    slotOut s p k = (setBind s st (some { b with buf := r }),
      if (getAp s p).mask.getLsbD k then slotWord b.fmt (slotWidth (getAp s p).width.toNat) v else 0) := by
  unfold slotOut
  rw [hb]
  dsimp only
  rw [hv] <;> rfl

theorem slotOut_slips {k st : Nat} {b : Bind} (hb : slotBind s p k = some (st, b)) (hv : b.buf = []) :
    slotOut s p k = (audSlip s p st 0, 0) := by
  unfold slotOut
  rw [hb]
  dsimp only
  rw [hv] <;> rfl

theorem slotOut_silent {k : Nat} (hb : slotBind s p k = none) (h : (getAp s p).mask.getLsbD k = false ∨ (getAp s p).thru = false) :
    slotOut s p k = (s, 0) := by
  have hno : ¬((getAp s p).mask.getLsbD k && (getAp s p).thru) = true := by
    rw [Bool.and_eq_true]
    rintro ⟨h1, h2⟩
    rcases h with h | h
    · exact absurd (h1.symm.trans h) (by decide)
    · exact absurd (h2.symm.trans h) (by decide)
  unfold slotOut
  rw [hb]
  dsimp only
  rw [if_neg hno]

theorem slotOut_through {k : Nat} (hb : slotBind s p k = none) (h1 : (getAp s p).mask.getLsbD k = true) (h2 : (getAp s p).thru = true) :
    slotOut s p k = match tget none (getAp s p).din k with
      | some v => (s, v)
      | none => (nextFree s, BitVec.ofNat 32 ((Config.freeW32 s.free).toNat % 2 ^ slotWidth (getAp s p).width.toNat)) := by
  unfold slotOut
  rw [hb]
  dsimp only
  rw [if_pos (by rw [h1, h2]; rfl)] <;> rfl

/-- A slot with no binding leaves the port and the bindings. -/
theorem slotOut_unbound {k : Nat} (hb : slotBind s p k = none) : AtPort p s (slotOut s p k).1 ∧
    getAp (slotOut s p k).1 p = getAp s p ∧ (slotOut s p k).1.binds = s.binds := by
  by_cases h : (getAp s p).mask.getLsbD k = true ∧ (getAp s p).thru = true
  · rw [slotOut_through hb h.1 h.2]
    split
    · exact ⟨.refl p s, rfl, rfl⟩
    · exact ⟨⟨fun _ _ => rfl, rfl, rfl, rfl⟩, rfl, rfl⟩
  · rw [slotOut_silent hb]
    · exact ⟨.refl p s, rfl, rfl⟩
    · rw [not_and_or, Bool.not_eq_true, Bool.not_eq_true] at h
      exact h

/-- Whatever a slot sends, of its port only SLIP may change. -/
theorem slotOut_spec (s : State) (p k : Nat) : AtPort p s (slotOut s p k).1 ∧
    ∃ sl, getAp (slotOut s p k).1 p = { getAp s p with slip := sl } := by
  cases hb : slotBind s p k with
  | none =>
    obtain ⟨h1, h2, _⟩ := slotOut_unbound hb
    exact ⟨h1, _, h2⟩
  | some y =>
    obtain ⟨st, b⟩ := y
    cases hv : b.buf with
    | nil =>
      rw [slotOut_slips hb hv]
      obtain ⟨h1, h2, _⟩ := audSlip_spec s p st 0
      exact ⟨h1, _, h2⟩
    | cons v r =>
      rw [slotOut_sent hb hv]
      exact ⟨setBind_atPort s p st _, _, rfl⟩

theorem slotSkip_spec (s : State) (p k : Nat) : AtPort p s (slotSkip p s k) ∧ (slotSkip p s k).binds = (slotOut s p k).1.binds ∧
    ∃ sl d, getAp (slotSkip p s k) p = { getAp s p with slip := sl, din := d } := by
  obtain ⟨hat, sl, hp⟩ := slotOut_spec s p k
  unfold slotSkip
  dsimp only
  refine ⟨hat.trans (setAp_atPort _ p _), rfl, sl, tput none (getAp s p).din k none, ?_⟩
  rw [getAp_setAp_same, hp]

/-- Slots that are skipped leave everything of the port but SLIP and what was heard. -/
theorem slotSkips_spec (p : Nat) : ∀ (l : List Nat) (s : State), AtPort p s (l.foldl (slotSkip p) s) ∧
    ∃ sl d, getAp (l.foldl (slotSkip p) s) p = { getAp s p with slip := sl, din := d } := by
  intro l
  induction l with
  | nil => exact fun s => ⟨.refl p s, _, _, rfl⟩
  | cons k l ih =>
    intro s
    obtain ⟨h1, _, sl, d, h2⟩ := slotSkip_spec s p k
    obtain ⟨k1, sl', d', k2⟩ := ih (slotSkip p s k)
    exact ⟨h1.trans k1, sl', d', by rw [List.foldl_cons, k2, h2]⟩

end AudioPort

end Sys2Proof.Machine
end

section
/-! The audio ports: control, frames, rates and clocks (15). -/

namespace Sys2Proof.Machine

open Sys2Proof Sys2Proof.Ob

section Audio

variable {s t : State} {p k mclk : Nat} {v : W32} {x y : APort}

theorem audUp_on (hup : crownUp s = true) (h : 18 ∉ s.pwr.domOff) : audUp s = true := by
  have hoff : s.pwr.domOff.contains 18 = false := by simpa using h
  rw [audUp, hup, hoff]
  rfl

theorem audReg_on (ha : awake s) (hp : apOk p = true) (h : 18 ∉ s.pwr.domOff) (f : State → State) : audReg p f s = f s := by
  rw [audReg, hostAccess_awake ha.1 ha.2, if_pos (by rw [hp, audUp_on ha.1 h]; rfl)]

theorem audReg_off (ha : awake s) (h : 18 ∈ s.pwr.domOff) (f : State → State) : audReg p f s = s := by
  have hoff : s.pwr.domOff.contains 18 = true := by simpa using h
  rw [audReg, hostAccess_awake ha.1 ha.2, if_neg (by rw [audUp, hoff]; simp)]

/-! ## AUD_CTRL -/

theorem bitOf_top (v : W32) : bitOf v.toNat 31 = v.getLsbD 31 := by
  rw [bitOf, BitVec.getLsbD, Nat.testBit_eq_decide_div_mod_eq, beq_eq_decide]

theorem ctrlFields_on (x : APort) (v : W32) : (ctrlFields x (v ||| 0x80000000)).en = true := by
  show bitOf (v ||| 0x80000000).toNat 31 = true
  rw [bitOf_top, BitVec.getLsbD_or]
  simp

theorem ctrlFields_off (x : APort) (v : W32) : (ctrlFields x (v &&& 0x7FFFFFFF)).en = false := by
  show bitOf (v &&& 0x7FFFFFFF).toNat 31 = false
  rw [bitOf_top, BitVec.getLsbD_and]
  simp

/-- The port as it starts. -/
def portStarted (s : State) (y : APort) : APort :=
  { y with
    state := 1, resyncs := 0, frames := 0, marks := [], rateDue := false, lastEdge := s.time, startAt := s.time
    slotTime := s.time, slotAt := none, wordBase := (getAp s 4).frames, din := [] }

/-- The state in which a port has stopped, with the setting `y` and its pins low. -/
def portStopped (s : State) (p : Nat) (y : APort) : State :=
  pinsLow (setAp (emptyBinds s p) p { y with state := 0, slotAt := none, rate := if y.master then 0 else y.rate }) p

theorem portStopped_spec (s : State) (p : Nat) (y : APort) : AtPort p s (portStopped s p y) ∧
    getAp (portStopped s p y) p = { y with state := 0, slotAt := none, rate := if y.master then 0 else y.rate } ∧
    (portStopped s p y).binds = (emptyBinds s p).binds ∧
    (portStopped s p y).io.wire = s.io.wire ++ [.audioLow p y.master] := by
  have hport := getAp_setAp_same (emptyBinds s p) p { y with state := 0, slotAt := none, rate := if y.master then 0 else y.rate }
  refine ⟨((emptyBinds_atPort s p).trans (setAp_atPort _ p _)).trans (pinsLow_atPort _ p), hport, rfl, ?_⟩
  show s.io.wire ++ [Wire.audioLow p (getAp (setAp (emptyBinds s p) p _) p).master] = _
  rw [hport]

/-- A write of AUD_CTRL that would take the port from the setting `x` to `y`. -/
def ctrlTo (s : State) (p : Nat) (x y : APort) : State :=
  if (x.en && !sameSetup x y) || (y.en && startBad y) then setAp s p { x with badConfig := true }
  else if y.en && !x.en then setAp (emptyBinds s p) p (portStarted s y)
  else if !y.en && x.en then
    refLostNow (portStopped s p y) (refOfPort p)
  else setAp s p y

theorem audCtrl_eq (s : State) (p : Nat) (v : W32) (mclk : Nat) : audCtrl s p v mclk =
    ctrlTo s p { getAp s p with mclk := mclk } (ctrlFields { getAp s p with mclk := mclk } v) := rfl

theorem ctrlTo_rejects (h : x.en = true ∧ sameSetup x y = false ∨ y.en = true ∧ startBad y = true) :
    ctrlTo s p x y = setAp s p { x with badConfig := true } := by
  unfold ctrlTo
  rw [if_pos]
  rcases h with ⟨h1, h2⟩ | ⟨h1, h2⟩
  · rw [h1, h2]
    rfl
  · rw [h1, h2]
    simp

theorem ctrlTo_starts (hen : x.en = false) (hon : y.en = true) (hgood : startBad y = false) :
    ctrlTo s p x y = setAp (emptyBinds s p) p (portStarted s y) := by
  rw [ctrlTo, if_neg (by rw [hen, hgood]; simp), if_pos (by rw [hen, hon]; rfl)]

theorem ctrlTo_changes (hen : x.en = true) (hon : y.en = true) (hsame : sameSetup x y = true) (hgood : startBad y = false) :
    ctrlTo s p x y = setAp s p y := by
  rw [ctrlTo, if_neg (by rw [hsame, hgood]; simp), if_neg (by rw [hen]; simp), if_neg (by rw [hon]; simp)]

theorem ctrlTo_stops (hen : x.en = true) (hoff : y.en = false) (hsame : sameSetup x y = true) : ctrlTo s p x y =
    refLostNow (portStopped s p y) (refOfPort p) := by
  rw [ctrlTo, if_neg (by rw [hsame, hoff]; simp), if_neg (by rw [hoff]; simp), if_pos (by rw [hen, hoff]; rfl)]

theorem execAudPortStart_on (ha : awake s) (hp : apOk p = true) (h : 18 ∉ s.pwr.domOff)
    (hy : y = ctrlFields { getAp s p with mclk := mclk } (v ||| 0x80000000)) :
    exec (.audPortStart p v mclk) s = .next (ctrlTo s p { getAp s p with mclk := mclk } y) := by
  subst hy
  exact congrArg Host.Outcome.next (audReg_on ha hp h _)

theorem sameSetup_master (h : sameSetup x y = true) : y.master = x.master := by
  have heq := eq_of_beq h
  exact (congrArg APort.master heq).symm

/-- The bindings of the port are empty and not started. -/
theorem emptyBinds_empty {st : Nat} {b : Bind} (h : getBind (emptyBinds s p) st = some b) (hb : b.port = p) :
    b.buf = [] ∧ b.started = false := by
  have hall : ∀ o : Option Bind, o = tget none (emptyBinds s p).binds st → o = some b → b.buf = [] ∧ b.started = false := by
    intro o ho
    rw [ho]
    refine tget_of_entries (P := fun o => o = some b → b.buf = [] ∧ b.started = false) (fun h => absurd h (by simp)) fun z hz _ hzb => ?_
    obtain ⟨⟨j, c⟩, _, rfl⟩ := List.mem_map.mp (List.mem_filter.mp hz).1
    cases c with
    | none => exact absurd hzb (by simp)
    | some c =>
      have hc : (if c.port = p then { c with buf := [], started := false } else c) = b := Option.some.inj hzb
      by_cases hcp : c.port = p
      · rw [if_pos hcp] at hc
        subst hc
        exact ⟨rfl, rfl⟩
      · rw [if_neg hcp] at hc
        subst hc
        exact absurd hb hcp
  exact hall _ rfl h

/-! ## Frames -/

/-- What waiting for a time keeps of the audio ports. -/
structure Heard (s t : State) : Prop where
  ap : t.ap = s.ap
  binds : t.binds = s.binds
  bead : t.bead = s.bead
  cmds : t.cmds = s.cmds

theorem passTo_heard (s : State) (at_ : Nat) : Heard s (passTo s at_) := by
  obtain ⟨n, hp, _⟩ := passTo_passed s at_
  obtain ⟨hbead, _, hcmds, _, _, _, _, _, _, _, _, _, _, _, _, _, _, _, _, hap, _, _, _, _, _, _, hbinds, _⟩ := hp
  exact ⟨hap, hbinds, hbead, hcmds⟩

theorem Heard.getAp (h : Heard s t) (q : Nat) : getAp t q = getAp s q := congrArg (fun (l : Tab APort) => tget ({} : APort) l q) h.ap

theorem Heard.getBind (h : Heard s t) (n : Nat) : getBind t n = getBind s n :=
  congrArg (fun (l : Tab (Option Bind)) => tget none l n) h.binds

theorem Heard.slotBind (h : Heard s t) (p k : Nat) : slotBind t p k = slotBind s p k := by
  unfold Machine.slotBind
  rw [h.binds]

theorem apRuns_iff : apRuns s p = true ↔ (apOk p = true ∧ audUp s = true) ∧ (getAp s p).en = true ∧ (getAp s p).state = 1 := by
  simp only [apRuns, Bool.and_eq_true, beq_iff_eq, and_assoc]

theorem execAudFrame_starts (hr : apRuns s p = true) (hover : frameOver (getAp s p) = true)
    (hlate : ((getAp s p).slotAt.isSome && !(getAp s p).master && clockLate s (getAp s p)) = false)
    (hthere : clockThere s (getAp s p) = true) :
    exec (.audFrame p []) s = .next (startFrame (passTo s (slotDue (getAp s p) (getAp s p).frames 0)) p) := by
  show execAudFrame p [] s = _
  rw [execAudFrame, if_pos hr, portFrame]
  rw [if_neg (by rw [hover]; decide), if_neg (by rw [hlate]; decide), if_pos hthere, slotsPass]

theorem execAudFrame_slot (hr : apRuns s p = true) (hk : (getAp s p).slotAt = some k) (hle : k ≤ (getAp s p).slotsM1) :
    exec (.audFrame p [v]) s = .next (slotStep s p k v) := by
  have hover : frameOver (getAp s p) = false := by
    rw [frameOver, hk]
    simpa using hle
  show execAudFrame p [v] s = _
  rw [execAudFrame, if_pos hr, portFrame]
  rw [if_pos (by rw [hover]; rfl), slotsPass, hk]
  dsimp only
  rw [if_pos hle, slotsPass]

/-- The state after a slot that began in `u`. -/
def slotPassed (u : State) (p k : Nat) (v : W32) : State :=
  wire (setAp (slotOut u p k).1 p { getAp (slotOut u p k).1 p with
      slotAt := some (k + 1), slotTime := u.time
      din := tput none (getAp (slotOut u p k).1 p).din k
        (some (BitVec.ofNat 32 (v.toNat % 2 ^ slotWidth (getAp (slotOut u p k).1 p).width.toNat))) })
    (.audio p k (slotBits (getAp (slotOut u p k).1 p) k (slotOut u p k).2))

theorem slotStep_eq (s : State) (p k : Nat) (v : W32) :
    slotStep s p k v = slotPassed (passTo s (slotDue (getAp s p) ((getAp s p).frames - 1) k)) p k v := rfl

theorem slotBits_slip (x : APort) (sl : Bool) (k : Nat) (w : W32) : slotBits { x with slip := sl } k w = slotBits x k w := rfl

/-- What a slot leaves. -/
theorem slotPassed_spec (u : State) (p k : Nat) (v : W32) : AtPort p u (slotPassed u p k v) ∧
    (∃ sl, getAp (slotOut u p k).1 p = { getAp u p with slip := sl } ∧ getAp (slotPassed u p k v) p = { getAp u p with
      slip := sl, slotAt := some (k + 1), slotTime := u.time
      din := tput none (getAp u p).din k (some (BitVec.ofNat 32 (v.toNat % 2 ^ slotWidth (getAp u p).width.toNat))) }) ∧
    (slotPassed u p k v).io.wire.getLast? = some (.audio p k (slotBits (getAp u p) k (slotOut u p k).2)) ∧
    (slotPassed u p k v).binds = (slotOut u p k).1.binds := by
  obtain ⟨hat, sl, hp⟩ := slotOut_spec u p k
  refine ⟨(hat.trans (setAp_atPort _ p _)).trans (wire_atPort _ p _), ⟨sl, hp, ?_⟩, ?_, rfl⟩
  · show getAp (setAp (slotOut u p k).1 p _) p = _
    rw [getAp_setAp_same, hp]
  · show (_ ++ [_]).getLast? = _
    rw [List.getLast?_concat, hp, slotBits_slip]

/-! ## Resynchronisation -/

/-- The slots from the present one up to `n` are skipped, and the edge is counted. -/
def resynced (s : State) (p k n : Nat) : State :=
  let u := ((List.range n).filter fun i => decide (k ≤ i)).foldl (slotSkip p) s
  setAp u p { getAp u p with resyncs := min ((getAp u p).resyncs + 1) 0xFFFFFFFF, slotAt := some n }

theorem execAudResync_runs (hr : apRuns s p = true) (hm : (getAp s p).master = false) (hk : (getAp s p).slotAt = some k) :
    (clockLate s (getAp s p) = false → exec (.audResync p false []) s =
      .next (startFrame (resynced s p k ((getAp s p).slotsM1 + 1)) p)) ∧
    ((getAp s p).format = 0 → k ≤ 1 → exec (.audResync p true []) s = .next (resynced s p k 1)) := by
  refine ⟨fun hlate => ?_, fun hf hle => ?_⟩
  · show execAudResync p false [] s = _
    unfold execAudResync
    dsimp only
    rw [hk]
    dsimp only
    rw [if_neg (by rw [hr, hm]; simp), if_neg (by rw [hlate]; decide)]
    rfl
  · show execAudResync p true [] s = _
    unfold execAudResync
    dsimp only
    rw [hk]
    dsimp only
    rw [if_neg (by rw [hr, hm, hf, decide_eq_false (by omega)]; decide), if_neg (by simp)]
    rfl

theorem resynced_spec (s : State) (p k n : Nat) : AtPort p s (resynced s p k n) ∧ ∃ sl d, getAp (resynced s p k n) p =
    { getAp s p with slip := sl, din := d, resyncs := min ((getAp s p).resyncs + 1) 0xFFFFFFFF, slotAt := some n } := by
  obtain ⟨hat, sl, d, hp⟩ := slotSkips_spec p ((List.range n).filter fun i => decide (k ≤ i)) s
  unfold resynced
  dsimp only
  refine ⟨hat.trans (setAp_atPort _ p _), sl, d, ?_⟩
  rw [getAp_setAp_same, hp]

section OneBinding

variable {st : Nat} {b : Bind}

/-- A port with one binding of one channel, which has started, has it in its slot and nothing elsewhere. -/
theorem slotBind_one (hs : s.binds = [(st, some b)]) (hb : b.started = true) (hp : b.port = p) (hc : b.chans = 1) (k : Nat) :
    slotBind s p k = if k = b.slot then some (st, b) else none := by
  unfold slotBind
  rw [hs]
  by_cases hk : k = b.slot
  · subst hk
    simp [hb, hp, hc]
  · have hno : ¬(b.slot ≤ k ∧ k < b.slot + 1) := by omega
    simp only [List.findSome?_cons, List.findSome?_nil, hb, hp, hc, beq_self_eq_true, Bool.true_and, if_neg hk]
    rw [if_neg (by rw [Bool.and_eq_true, decide_eq_true_eq, decide_eq_true_eq]; exact hno)]

theorem slotSkips_elsewhere (hb : b.started = true) (hp : b.port = p) (hc : b.chans = 1) : ∀ (l : List Nat) (s : State),
    s.binds = [(st, some b)] → b.slot ∉ l → (l.foldl (slotSkip p) s).binds = [(st, some b)] := by
  intro l
  induction l with
  | nil => exact fun s hs _ => hs
  | cons k l ih =>
    intro s hs hl
    rw [List.mem_cons, not_or] at hl
    obtain ⟨hk, hl⟩ := hl
    refine ih _ ?_ hl
    obtain ⟨_, hbinds, _⟩ := slotSkip_spec s p k
    have hnone : slotBind s p k = none := (slotBind_one hs hb hp hc k).trans (if_neg (Ne.symm hk))
    rw [hbinds, (slotOut_unbound hnone).2.2, hs]

/-- Skipping its slot discards the next word of the binding. -/
theorem slotSkips_discard {u : W32} {r : List W32} (hb : b.started = true) (hp : b.port = p) (hc : b.chans = 1) (hu : b.buf = u :: r) :
    ∀ (l : List Nat) (s : State), l.Nodup → s.binds = [(st, some b)] → b.slot ∈ l →
      (l.foldl (slotSkip p) s).binds = [(st, some { b with buf := r })] := by
  intro l
  induction l with
  | nil => exact fun s _ _ h => absurd h (by simp)
  | cons k l ih =>
    intro s hl hs hin
    obtain ⟨hk, hl⟩ := List.nodup_cons.mp hl
    obtain ⟨_, hbinds, _⟩ := slotSkip_spec s p k
    by_cases hslot : k = b.slot
    · subst hslot
      have hsome : slotBind s p b.slot = some (st, b) := (slotBind_one hs hb hp hc b.slot).trans (if_pos rfl)
      refine slotSkips_elsewhere (b := { b with buf := r }) hb hp hc l _ ?_ hk
      rw [hbinds, slotOut_sent hsome hu]
      show tput none s.binds st _ = _
      rw [hs]
      simp [tput]
    · refine ih _ hl ?_ ((List.mem_cons.mp hin).resolve_left (Ne.symm hslot))
      have hnone : slotBind s p k = none := (slotBind_one hs hb hp hc k).trans (if_neg hslot)
      rw [hbinds, (slotOut_unbound hnone).2.2, hs]

end OneBinding

/-! ## Rates and clocks -/

theorem meanRate_two {a b : Nat} (h : x.marks = [a, b]) (hlt : b < a) (up : Bool) :
    meanRate x up = min ((1024 * 10 ^ 12 + if up then a - b - 1 else 0) / (a - b)) 0xFFFFFFFF := by
  have hmax : max 1 (a - b) = a - b := by omega
  unfold meanRate
  rw [h]
  simp only [List.head?_cons, List.getLast?_cons_cons, List.getLast?_singleton, hmax, List.length_cons, List.length_nil]

theorem execAudRateUpdate_due {up : Bool} (hp : p < 5) (hup : audUp s = true) (hdue : (getAp s p).rateDue = true) :
    ∃ u, TallyOnly (setAp s p { getAp s p with
        rate := meanRate (getAp s p) up, rateDue := false
        rateChange := (getAp s p).rateChange || rateOut (getAp s p) (meanRate (getAp s p) up) }) u ∧
      exec (.audRateUpdate p up) s =
        .next (if rateFar (getAp s p) (meanRate (getAp s p) up) then refLostNow u (refOfPort p) else u) := by
  refine ⟨if rateOut (getAp s p) (meanRate (getAp s p) up) && !(getAp s p).rateChange then event (setAp s p { getAp s p with
        rate := meanRate (getAp s p) up, rateDue := false
        rateChange := (getAp s p).rateChange || rateOut (getAp s p) (meanRate (getAp s p) up) })
      nightcapLoc 0x31 (subjKind 4 p) (meanRate (getAp s p) up) (getAp s p).nominal
    else setAp s p { getAp s p with
        rate := meanRate (getAp s p) up, rateDue := false
        rateChange := (getAp s p).rateChange || rateOut (getAp s p) (meanRate (getAp s p) up) }, ?_, ?_⟩
  · split
    · exact event_tallyOnly _ _ _ _ _ _
    · exact .refl _
  · show execAudRateUpdate p up s = _
    unfold execAudRateUpdate
    dsimp only
    rw [if_neg (by rw [decide_eq_true hp, hup, hdue]; decide)]

/-- A master whose clock goes with the word clock. -/
def wordLocked (y : APort) : Bool := y.state == 1 && y.master && y.clksrc == 2

theorem clocksGo (l : List Nat) (hl : l.Nodup) (h5 : ∀ q ∈ l, q < 5) : ∀ s : State,
    (∀ q, getAp (l.foldl (fun t q => if (getAp t q).state = 1 ∧ (getAp t q).master ∧ (getAp t q).clksrc = 2 then clockGone t q else t) s) q =
      if q ∈ l ∧ wordLocked (getAp s q) = true then unclocked q (getAp s q) else getAp s q) ∧
    (l.foldl (fun t q => if (getAp t q).state = 1 ∧ (getAp t q).master ∧ (getAp t q).clksrc = 2 then clockGone t q else t) s).cmds =
      s.cmds := by
  induction l with
  | nil => exact fun s => ⟨fun q => (if_neg (by simp)).symm, rfl⟩
  | cons a l ih =>
    intro s
    obtain ⟨ha, hl⟩ := List.nodup_cons.mp hl
    obtain ⟨h5a, h5l⟩ := List.forall_mem_cons.mp h5
    rw [List.foldl_cons]
    have hone : (∀ q, getAp (if (getAp s a).state = 1 ∧ (getAp s a).master ∧ (getAp s a).clksrc = 2 then clockGone s a else s) q =
        if q = a ∧ wordLocked (getAp s q) = true then unclocked q (getAp s q) else getAp s q) ∧
        (if (getAp s a).state = 1 ∧ (getAp s a).master ∧ (getAp s a).clksrc = 2 then clockGone s a else s).cmds = s.cmds := by
      have hiff : wordLocked (getAp s a) = true ↔ (getAp s a).state = 1 ∧ (getAp s a).master ∧ (getAp s a).clksrc = 2 := by
        simp only [wordLocked, Bool.and_eq_true, beq_iff_eq, and_assoc]
      split
      · next hc =>
        obtain ⟨h1, h2, h3, _⟩ := clockGone_spec s h5a
        refine ⟨fun q => ?_, h3⟩
        by_cases hq : q = a
        · subst hq
          rw [if_pos ⟨rfl, hiff.mpr hc⟩, h1]
        · rw [if_neg fun h => hq h.1, h2 q hq]
      · next hc =>
        refine ⟨fun q => (if_neg ?_).symm, rfl⟩
        rintro ⟨rfl, h⟩
        exact hc (hiff.mp h)
    generalize (if (getAp s a).state = 1 ∧ (getAp s a).master ∧ (getAp s a).clksrc = 2 then clockGone s a else s) = t at hone
    obtain ⟨hget, hcmds⟩ := ih hl h5l t
    refine ⟨fun q => (hget q).trans ?_, hcmds.trans hone.2⟩
    by_cases hq : q = a
    · subst hq
      rw [if_neg fun h => ha h.1, hone.1 q]
      simp only [List.mem_cons, true_or, true_and]
    · have hsame : getAp t q = getAp s q := (hone.1 q).trans (if_neg fun h => hq h.1)
      rw [hsame]
      simp only [List.mem_cons, hq, false_or]

/-- The word clock is lost, and the masters locked to it with it. -/
theorem wordGone_spec (s : State) : getAp (wordGone s) 4 = unclocked 4 (getAp s 4) ∧
    (∀ q, q < 4 → getAp (wordGone s) q = if wordLocked (getAp s q) then unclocked q (getAp s q) else getAp s q) ∧
    (wordGone s).cmds = s.cmds := by
  obtain ⟨h1, h2, h3, _⟩ := clockGone_spec s (p := 4) (by decide)
  have h5 : ∀ q ∈ List.range 4, q < 5 := fun q hq => by
    have := List.mem_range.mp hq
    omega
  obtain ⟨hget, hcmds⟩ := clocksGo (List.range 4) List.nodup_range h5 (clockGone s 4)
  refine ⟨?_, fun q hq => ?_, hcmds.trans h3⟩
  · refine (hget 4).trans ?_
    rw [if_neg (by simp), h1]
  · refine (hget q).trans ?_
    rw [h2 q (by omega)]
    simp only [List.mem_range, hq, true_and]

theorem execAudClockLost_port (hp : p < 5) (hup : audUp s = true) (hst : (getAp s p).state = 1) :
    exec (.audClockLost p) s = if (getAp s p).master then
        .next (if (getAp s p).clksrc == 0 || ((getAp s p).clksrc == 2 && (getAp s 4).state != 1) then clockGone s p else s)
      else if (getAp s p).nominal = 0 then .next s
      else .next (if p = 4 then wordGone (passTo s ((getAp s p).lastEdge + (2 * 10 ^ 12 + (getAp s p).nominal - 1) / (getAp s p).nominal))
        else clockGone (passTo s ((getAp s p).lastEdge + (2 * 10 ^ 12 + (getAp s p).nominal - 1) / (getAp s p).nominal)) p) := by
  show execAudClockLost p s = _
  unfold execAudClockLost
  dsimp only
  rw [if_neg (by rw [decide_eq_true hp, hup, hst]; decide)]

end Audio

/-- Settles O60 (the rounding of the mean rate, the masters locked to the word clock, the words an early edge discards, which edge came,
the setting of SLOTS_M1 that is rejected and the edges of port 4 are the model's choices, log entries 131, 132, 134, 50, 128 and 129): a
port starts, sends and hears its slots, follows its edges and stops, and only the bead that follows it notices. -/
theorem audioPorts : Obligations.AudioPorts := by
  unfold Obligations.AudioPorts
  refine ⟨⟨fun s p v mclk y ha hp h18 hy => ⟨fun hen hgood => ?_, fun hen hbad => ?_, fun hen hdiff => ?_, fun hen hsame hgood => ?_⟩,
      fun s p v ha hp h18 hen hsame => ?_, fun s p v ha hp h18 => ⟨?_, fun w hw => ?_⟩, fun s p mclk w v ha h18 =>
        ⟨congrArg _ (audReg_off ha h18 _), congrArg _ (audReg_off ha h18 _), congrArg _ (audReg_off ha h18 _)⟩⟩,
    ⟨fun s p hr hover hlate hthere => ?_, fun s p k v hr hk hle => ?_,
      fun s p k hr hm hk => ⟨fun hlate => ?_, fun hf hle => ?_⟩, fun s p l mid hen => ⟨?_, fun hm h4 => ?_⟩,
      fun s l hup h18 => ⟨fun hst => ?_, fun hst hlate => ?_⟩⟩,
    fun s p up hp hup h18 => ⟨fun hdue => ?_, fun hdue => ?_⟩, fun s p hp hup h18 hst hwhy => ?_, fun s p hp hm hsrc => ?_,
    fun s hup h18 hst hm hnom => ?_, fun s hup h18 => ⟨fun hst => ?_, fun hst => ?_⟩⟩
  · have hexec := execAudPortStart_on ha hp h18 hy
    rw [ctrlTo_starts (x := { getAp s p with mclk := mclk }) hen (by rw [hy]; exact ctrlFields_on _ v) hgood] at hexec
    exact ⟨_, hexec, getAp_setAp_same _ _ _, fun st b hb hport => emptyBinds_empty (s := s) (p := p) hb hport,
      fun q hq => getAp_setAp_ne _ _ _ _ hq, rfl, rfl⟩
  · have hexec := execAudPortStart_on ha hp h18 hy
    rw [ctrlTo_rejects (.inr ⟨by rw [hy]; exact ctrlFields_on _ v, hbad⟩)] at hexec
    exact hexec
  · have hexec := execAudPortStart_on ha hp h18 hy
    rw [ctrlTo_rejects (x := { getAp s p with mclk := mclk }) (.inl ⟨hen, hdiff⟩)] at hexec
    exact hexec
  · have hexec := execAudPortStart_on ha hp h18 hy
    rw [ctrlTo_changes (x := { getAp s p with mclk := mclk }) hen (by rw [hy]; exact ctrlFields_on _ v) hsame hgood] at hexec
    exact hexec
  · have hp4 : p < 4 := of_decide_eq_true hp
    have hexec : exec (.audPortStop p v) s = .next (ctrlTo s p (getAp s p) (ctrlFields (getAp s p) (v &&& 0x7FFFFFFF))) :=
      congrArg Host.Outcome.next (audReg_on ha hp h18 _)
    have hmaster := sameSetup_master hsame
    have hoff := ctrlFields_off (getAp s p) v
    generalize ctrlFields (getAp s p) (v &&& 0x7FFFFFFF) = y at hexec hsame hmaster hoff
    rw [ctrlTo_stops hen hoff hsame] at hexec
    obtain ⟨hat, hport, hbinds, hwire⟩ := portStopped_spec s p y
    obtain ⟨hap, hbd, hio, hcmds, _⟩ := refLostNow_keeps (portStopped s p y) (refOfPort p)
    have hget : ∀ q, getAp (refLostNow (portStopped s p y) (refOfPort p)) q = getAp (portStopped s p y) q :=
      fun q => congrArg (fun (l : Tab APort) => tget ({} : APort) l q) hap
    refine ⟨_, hexec, ?_, ?_, ?_, fun hm => ?_, fun st b hb hbp => emptyBinds_empty (s := s) (p := p) (st := st) ?_ hbp, ?_,
      fun q hq => (hget q).trans (hat.others q hq), fun hr => ?_, fun hr => ?_, hcmds.trans hat.cmds⟩
    · rw [hget, hport]
      exact hoff
    · rw [hget, hport]
    · rw [hget, hport]
    · rw [hget, hport]
      exact if_pos (hmaster.trans hm)
    · rw [← hb]
      show tget none _ st = tget none _ st
      rw [hbd, hbinds]
    · rw [hio, hwire, hmaster]
    · rw [refLostNow_active (by omega) (by rw [hat.bead]; exact hr), hat.bead, hat.time]
    · rw [refLostNow_other (by rw [hat.bead]; exact hr), hat.bead]
  · exact congrArg Host.Outcome.next (audReg_on ha hp h18 _)
  · have hexec : exec (.audMaskWrite p v w) s = .next (if w = 4 then audMask s p v else s) :=
      congrArg Host.Outcome.next (audReg_on ha hp h18 _)
    rw [hexec, if_neg hw]
  · have hexec := execAudFrame_starts hr hover hlate hthere
    have hheard := passTo_heard s (slotDue (getAp s p) (getAp s p).frames 0)
    have htime := passTo_le s (slotDue (getAp s p) (getAp s p).frames 0)
    generalize passTo s (slotDue (getAp s p) (getAp s p).frames 0) = u at hexec hheard htime
    obtain ⟨h1, h2, h3, h4, h5, h6, h7⟩ := startFrame_spec u p
    rw [hheard.getAp] at h1 h3
    rw [hheard.bead] at h6 h7
    refine ⟨_, hexec, ?_, ?_, ?_, ?_, ?_, ?_, fun st b hb hbp hbs hlive hpre => ?_, h6, h7,
      fun q hq => (h2 q hq).trans (hheard.getAp q), h4.trans hheard.cmds⟩
    · rw [h1]
      rfl
    · rw [h1]
    · rw [h5]
      exact htime
    · rw [h1, h5]
      rfl
    · rw [h1]
      rfl
    · rw [h1]
      rfl
    · rw [h3, hheard.getBind, hb]
      have hlive' : bindLive (setAp u p (takeMask (getAp s p))) b = true := by
        rw [← hlive, bindLive, bindLive, hbp, getAp_setAp_same]
        rfl
      exact congrArg some (if_pos ⟨hbp, by rw [hbs]; rfl, hlive', hpre⟩)
  · have hexec := execAudFrame_slot (v := v) hr hk hle
    have hheard := passTo_heard s (slotDue (getAp s p) ((getAp s p).frames - 1) k)
    have htime := passTo_le s (slotDue (getAp s p) ((getAp s p).frames - 1) k)
    rw [slotStep_eq] at hexec
    generalize passTo s (slotDue (getAp s p) ((getAp s p).frames - 1) k) = u at hexec hheard htime
    obtain ⟨hat, ⟨sl, hslip, hport⟩, hwire, hbinds⟩ := slotPassed_spec u p k v
    have hslot := hheard.slotBind p k
    rw [← hheard.getAp p]
    refine ⟨_, (slotOut u p k).2, hexec, hwire, ?_, ?_, ?_, ?_, fun hnone => ⟨?_, fun hsil => ?_, fun w hm ht hw => ?_⟩,
      fun st b hsome => ⟨fun w r hbuf => ⟨?_, ?_⟩, fun hbuf => ⟨?_, ?_, ?_⟩⟩, hat.bead.trans hheard.bead,
      fun q hq => (hat.others q hq).trans (hheard.getAp q), hat.cmds.trans hheard.cmds⟩
    · rw [hport]
    · rw [hport]
    · rw [hat.time, hheard.getAp]
      exact htime
    · rw [hport]
      exact tget_tput_same _ _ _ _
    · rw [hbinds, (slotOut_unbound (hslot.trans hnone)).2.2, hheard.binds]
    · rw [slotOut_silent (hslot.trans hnone) hsil]
    · rw [slotOut_through (hslot.trans hnone) hm ht, hw]
    · show tget none (slotPassed u p k v).binds st = _
      rw [hbinds, slotOut_sent (hslot.trans hsome) hbuf]
      exact tget_tput_same _ _ _ _
    · rw [slotOut_sent (hslot.trans hsome) hbuf]
    · rw [slotOut_slips (hslot.trans hsome) hbuf]
    · have hs := slotOut_slips (hslot.trans hsome) hbuf
      rw [hs, (audSlip_spec u p st 0).2.1] at hslip
      rw [hport]
      exact (congrArg APort.slip hslip).symm
    · rw [hbinds, slotOut_slips (hslot.trans hsome) hbuf]
      exact (audSlip_spec u p st 0).2.2.trans hheard.binds
  · have hexec := (execAudResync_runs hr hm hk).1 hlate
    obtain ⟨hat, sl, d, hport⟩ := resynced_spec s p k ((getAp s p).slotsM1 + 1)
    obtain ⟨h1, _, h3, h4, h5, _⟩ := startFrame_spec (resynced s p k ((getAp s p).slotsM1 + 1)) p
    rw [hport] at h1
    refine ⟨_, hexec, ?_, ?_, ?_, ?_, fun st b w r hb hbs hbp hbc hlo hhi hbuf => ?_, h4.trans hat.cmds⟩
    · rw [h1]
      rfl
    · rw [h1]
      rfl
    · rw [h1]
    · rw [h1]
      exact hat.time
    · have hskip := slotSkips_discard hbs hbp hbc hbuf ((List.range ((getAp s p).slotsM1 + 1)).filter fun i => decide (k ≤ i)) s
        (List.nodup_range.filter _) hb (List.mem_filter.mpr ⟨List.mem_range.mpr (by omega), decide_eq_true hlo⟩)
      have hone : getBind (resynced s p k ((getAp s p).slotsM1 + 1)) st = some { b with buf := r } := by
        show tget none (((List.range ((getAp s p).slotsM1 + 1)).filter fun i => decide (k ≤ i)).foldl (slotSkip p) s).binds st = _
        rw [hskip, tget, if_pos rfl]
      rw [h3, hone]
      refine congrArg some (if_neg fun h => ?_)
      have hns : (!b.started) = true := h.2.1
      rw [hbs] at hns
      exact absurd hns (by decide)
  · have hexec := (execAudResync_runs hr hm hk).2 hf hle
    obtain ⟨hat, sl, d, hport⟩ := resynced_spec s p k 1
    exact ⟨_, hexec, by rw [hport], by rw [hport], by rw [hport], hat.bead, hat.cmds⟩
  · have hrun : apRuns s p = false := by
      rw [apRuns, hen]
      simp
    show execAudResync p mid l s = _
    unfold execAudResync
    dsimp only
    split
    · rfl
    · rw [if_pos (by rw [hrun]; rfl)]
  · have hrun : apRuns s p = false := by
      rw [apRuns, hen]
      simp
    show execAudFrame p l s = _
    unfold execAudFrame
    have hmaster : ¬(apOk p && !(getAp s p).master) = true := by
      rw [hm]
      simp
    rw [if_neg (by rw [hrun]; decide), if_neg h4, if_neg hmaster, ite_self]
  · show execAudFrame 4 l s = _
    unfold execAudFrame
    rw [if_neg (by rw [apRuns]; simp [apOk]), if_neg (by rw [audUp_on hup h18]; decide), if_pos rfl, if_pos hst]
  · have hexec : exec (.audFrame 4 l) s = .next (frameEdge s 4) := by
      show execAudFrame 4 l s = _
      unfold execAudFrame
      rw [if_neg (by rw [apRuns]; simp [apOk]), if_neg (by rw [audUp_on hup h18]; decide), if_pos rfl,
        if_neg (by rw [hst]; decide), if_neg (by rw [hlate]; decide)]
    obtain ⟨h1, h2, _, h4, _, h6, _⟩ := frameEdge_spec s 4
    refine ⟨_, hexec, ?_, ?_, ?_, h6, fun q hq => h2 q (by omega), h4⟩
    · rw [h1]
      rfl
    · rw [h1]
      rfl
    · rw [h1]
      exact hst
  · obtain ⟨u, hu, hexec⟩ := execAudRateUpdate_due (up := up) hp (audUp_on hup h18) hdue
    have hat := (setAp_atPort s p { getAp s p with
        rate := meanRate (getAp s p) up, rateDue := false
        rateChange := (getAp s p).rateChange || rateOut (getAp s p) (meanRate (getAp s p) up) }).trans (hu.atPort p)
    have hport : getAp u p = { getAp s p with
        rate := meanRate (getAp s p) up, rateDue := false
        rateChange := (getAp s p).rateChange || rateOut (getAp s p) (meanRate (getAp s p) up) } := by
      obtain ⟨_, _, rfl⟩ := hu
      exact getAp_setAp_same s p _
    obtain ⟨hap, _, _, hcmds, _⟩ := refLostNow_keeps u (refOfPort p)
    have hget : ∀ c : Bool, (if c then refLostNow u (refOfPort p) else u).ap = u.ap ∧
        (if c then refLostNow u (refOfPort p) else u).cmds = u.cmds := by
      intro c
      split
      · exact ⟨hap, hcmds⟩
      · exact ⟨rfl, rfl⟩
    have hp' := fun q => congrArg (fun (l : Tab APort) => tget ({} : APort) l q) (hget (rateFar (getAp s p) (meanRate (getAp s p) up))).1
    refine ⟨_, hexec, ?_, fun a b hmarks hlt => ?_, ?_, ?_, ?_, fun hfar hr => ?_, fun hnear => ?_, fun q hq => ?_, ?_⟩
    · exact (congrArg APort.rate ((hp' p).trans hport)).trans rfl
    · exact (congrArg APort.rate ((hp' p).trans hport)).trans (meanRate_two hmarks hlt up)
    · exact (congrArg APort.rateChange ((hp' p).trans hport)).trans rfl
    · exact (congrArg APort.rateDue ((hp' p).trans hport)).trans rfl
    · exact (congrArg APort.state ((hp' p).trans hport)).trans rfl
    · rw [if_pos hfar, refLostNow_active hp (by rw [hat.bead]; exact hr), hat.bead, hat.time]
    · rw [if_neg (by rw [hnear]; decide), hat.bead]
    · exact (hp' q).trans (hat.others q hq)
    · exact (hget _).2.trans hat.cmds
  · show execAudRateUpdate p up s = _
    unfold execAudRateUpdate
    dsimp only
    rw [if_pos (by rw [hdue]; simp)]
  · have hexec := execAudClockLost_port (by omega) (audUp_on hup h18) hst
    have hgone : ∃ u, Heard s u ∧ exec (.audClockLost p) s = .next (clockGone u p) ∧ ((getAp s p).master = false →
        (getAp s p).lastEdge + (2 * 10 ^ 12 + (getAp s p).nominal - 1) / (getAp s p).nominal ≤ u.time) := by
      rcases hwhy with ⟨hm, hnom⟩ | ⟨hm, hsrc⟩ | ⟨hm, hsrc, hword⟩
      · rw [if_neg (by rw [hm]; decide), if_neg hnom, if_neg (by omega)] at hexec
        exact ⟨_, passTo_heard s _, hexec, fun _ => passTo_le s _⟩
      · rw [if_pos hm, if_pos (by rw [hsrc]; rfl)] at hexec
        exact ⟨s, ⟨rfl, rfl, rfl, rfl⟩, hexec, fun h => absurd (hm.symm.trans h) (by decide)⟩
      · rw [if_pos hm, if_pos (by rw [hsrc, hword]; rfl)] at hexec
        exact ⟨s, ⟨rfl, rfl, rfl, rfl⟩, hexec, fun h => absurd (hm.symm.trans h) (by decide)⟩
    obtain ⟨u, hheard, hexec', htime⟩ := hgone
    obtain ⟨h1, h2, h3, h4, h5, h6⟩ := clockGone_spec u (p := p) (by omega)
    have hkept := clockGone_time u p
    rw [hheard.getAp] at h1 h4
    rw [hheard.bead] at h5 h6
    refine ⟨_, hexec', ?_, ?_, ?_, ?_, ?_, h4 (by omega), fun q hq => (h2 q hq).trans (hheard.getAp q), fun hm => ?_,
      fun hr => ?_, h6, h3.trans hheard.cmds⟩
    · rw [h1]
      exact if_neg (by omega)
    · rw [h1]
      rfl
    · rw [h1]
      rfl
    · rw [h1]
      rfl
    · rw [h1]
      rfl
    · rw [hkept]
      exact htime hm
    · rw [hkept]
      exact h5 hr
  · show execAudClockLost p s = _
    unfold execAudClockLost
    dsimp only
    split
    · rfl
    · refine congrArg Host.Outcome.next (if_neg ?_)
      rcases hsrc with hsrc | ⟨hsrc, hword⟩
      · rw [hsrc]
        simp
      · rw [hsrc, hword]
        simp
  · have hexec := execAudClockLost_port (p := 4) (by decide) (audUp_on hup h18) hst
    rw [if_neg (by rw [hm]; decide), if_neg hnom, if_pos rfl] at hexec
    have hheard := passTo_heard s ((getAp s 4).lastEdge + (2 * 10 ^ 12 + (getAp s 4).nominal - 1) / (getAp s 4).nominal)
    generalize passTo s ((getAp s 4).lastEdge + (2 * 10 ^ 12 + (getAp s 4).nominal - 1) / (getAp s 4).nominal) = u at hexec hheard
    obtain ⟨h1, h2, h3⟩ := wordGone_spec u
    refine ⟨_, hexec, ?_, ?_, fun q hq hqs hqm hqc => ?_, fun q hq hqn => ?_, h3.trans hheard.cmds⟩
    · rw [h1]
      rfl
    · rw [h1]
      rfl
    · rw [h2 q hq, hheard.getAp, if_pos (by rw [wordLocked, hqs, hqm, hqc]; rfl)]
      exact if_neg (by omega)
    · rw [h2 q hq, hheard.getAp, if_neg]
      simp only [wordLocked, Bool.and_eq_true, beq_iff_eq]
      rintro ⟨⟨_, h⟩, h'⟩
      rcases hqn with hqn | hqn
      · exact absurd (h.symm.trans hqn) (by decide)
      · exact hqn h'
  · have hexec : exec .wordClockReturn s = .next (frameEdge (setAp s 4 { getAp s 4 with state := 1 }) 4) := by
      show execWordClockReturn s = _
      rw [execWordClockReturn, onlyIf, if_pos (by rw [audUp_on hup h18, hst]; rfl)]
    obtain ⟨h1, h2, _, h4, _⟩ := frameEdge_spec (setAp s 4 { getAp s 4 with state := 1 }) 4
    rw [getAp_setAp_same] at h1
    refine ⟨_, hexec, ?_, ?_, ?_, fun q hq => (h2 q (by omega)).trans (getAp_setAp_ne _ _ _ _ (by omega)), h4⟩
    · rw [h1]
      rfl
    · rw [h1]
      rfl
    · rw [h1]
      rfl
  · show execWordClockReturn s = _
    rw [execWordClockReturn, onlyIf, if_neg (by rw [Bool.and_eq_true, beq_iff_eq]; exact fun h => hst h.2)]

end Sys2Proof.Machine
end

section
/-! The delivery of a kill that waits for the Crown's allowance (02, R72; 10). -/

namespace Sys2Proof.Machine

open Sys2Proof

/-- A kill of generation 1 waits for the Crown's allowance to enter the mesh to core 0, whose dispatch is of that generation. The
fifths of a cycle that the Crown has saved stand at 20, one more than the model ever keeps. -/
def killWaits : State :=
  { Tests.up with
    crown := { Tests.up.crown with mc0Wait := [.kill 0 1], mc0Frac := 20 }
    cores := [(0, { disp := some Tests.dsp })] }

/-- How many packets of the Crown wait for its allowance after a step. -/
def waitingAfter (o : Host.Outcome State Fault Refusal) : Nat :=
  match o with
  | .next t => t.crown.mc0Wait.length
  | _ => 0

/-- Refutes O31 (what a broadcast kill is, and that a flip implies its command's acceptance, are the model's choices, log entries 27 and
70): the statement bounds the fifths of a cycle that the Crown has saved by nothing. With 20 of them saved the waiting kill is due at
once, no cycle passes in which it could enter the mesh, and it waits as before. -/
theorem not_barriersKillsAndSlots : ¬ Obligations.BarriersKillsAndSlots := by
  rintro ⟨-, ⟨-, hwait, -⟩, -⟩
  obtain ⟨t, e, hexec, -, hsent, -⟩ :=
    hwait killWaits 0 1 Tests.dsp (by decide +kernel) (by decide +kernel) (by decide +kernel) (by decide +kernel) (by decide +kernel)
  have hstill : waitingAfter (exec (.killDeliver 0) killWaits) = 1 := by decide +kernel
  rw [hexec] at hstill
  have hone : t.crown.mc0Wait.length = 1 := hstill
  rw [hsent] at hone
  exact absurd hone (by decide)

end Sys2Proof.Machine
end

section
/-! The commands that the Crown carries out, up to their commit, and those that complete at once (02, 07, 10, 11). -/

namespace Sys2Proof.Machine

open Sys2Proof Sys2Proof.Ob

/-! ## What a command of the Crown may change before its commit -/

/-- A fold of changes of pile memory is a change of pile memory. -/
theorem foldl_pile {α : Type} {f : State → α → State} (h : ∀ t x, ∃ pm, f t x = { t with pile := pm }) :
    ∀ (l : List α) (s : State), ∃ pm, l.foldl f s = { s with pile := pm }
  | [], s => ⟨s.pile, rfl⟩
  | x :: l, s => by
    obtain ⟨pm, hx⟩ := h s x
    obtain ⟨qm, hl⟩ := foldl_pile h l (f s x)
    exact ⟨qm, by rw [List.foldl_cons, hl, hx]⟩

theorem putSlot_eq (s : State) (o : Obj) (e k : Nat) (b : Bytes) : ∃ pm, putSlot s o e k b = { s with pile := pm } := ⟨_, rfl⟩

theorem initObjs_eq (ls : List Layout) (news : List NewState) (s : State) :
    ∃ pm, news.foldl (fun t n => (n.objs.zip ls).foldl (fun u x => initObj u x.1 x.2) t) s = { s with pile := pm } :=
  foldl_pile (fun t _ => foldl_pile (fun u _ => foldl_pile (fun v _ => putSlot_eq v _ _ _ _) _ u) _ t) news s

theorem putPayloads_eq (s : State) (objs : List Obj) (r : Bytes) : ∃ pm, putPayloads s objs r = { s with pile := pm } :=
  foldl_pile (fun t _ => foldl_pile (fun u _ => putSlot_eq u _ _ _ _) _ t) _ s

/-- Staging output changes pile memory, the notes of what has been copied in, and what reading counts; the domain stands. -/
theorem touchPage_dom (s : State) (c : Cmd) (p : StagePage) (whole : Bool) : (touchPage s c p whole).dom = s.dom := by
  unfold touchPage
  split
  · rfl
  · split
    · rfl
    · dsimp only
      split
      · split
        · next pa _ =>
          obtain ⟨ps, h⟩ := noteRead_eq (modCmd s c.id fun x => { x with copied := x.copied ++ [p.dva] }) pa p.size
          exact (congrArg State.dom h).trans rfl
        · rfl
      · split
        · rfl
        · rfl

theorem stageWrite_dom (s : State) (c : Cmd) (a : Nat) (b : Bytes) : (stageWrite s c a b).dom = s.dom := by
  unfold stageWrite
  induction stagePieces c generalizing s with
  | nil => rfl
  | cons p l ih =>
    rw [List.foldl_cons, ih]
    dsimp only
    split
    · exact touchPage_dom s c p _
    · rfl

/-- No bytes leave the staging pages. -/
theorem stageWrite_nil (s : State) (c : Cmd) (a : Nat) : stageWrite s c a [] = s := by
  unfold stageWrite
  induction stagePieces c with
  | nil => rfl
  | cons p l ih =>
    have hempty : ¬ max a p.dva < min (a + ([] : Bytes).length) (p.dva + p.size) := by
      rw [List.length_nil]
      omega
    simpa only [List.foldl_cons, if_neg hempty] using ih

/-- A read of the Crown is noted by the piles or by the host link. -/
theorem afterRead_eq (s : State) (c : Cmd) :
    ∃ ps rs, afterRead s c = { s with piles := ps, io := { s.io with reads := rs } } := by
  unfold afterRead
  split
  · obtain ⟨ps, h⟩ := noteDev_eq s c.part (devAddr c.desc.arg) c.desc.lenA.toNat
    exact ⟨ps, s.io.reads, h⟩
  · exact ⟨s.piles, _, rfl⟩

/-- The cores of a set follow from the windows in use. -/
theorem pickCores_congr {s t : State} (hls : lsUsed t = lsUsed s) (hcode : codeUsed t = codeUsed s)
    (hscr : leavesScratch t = leavesScratch s) (part res code : Nat) :
    ∀ (n : Nat) (l : List Nat), pickCores t part res code n l = pickCores s part res code n l
  | 0, l => by cases l <;> rfl
  | _ + 1, [] => rfl
  | n + 1, x :: l => by
    simp only [pickCores, hls, hcode, hscr, pickCores_congr hls hcode hscr part res code _ l]

/-- The room for a set does not depend on the reads that are counted. -/
theorem setRoom_noted (s : State) (w : Nat) (ps : Tab Pile) (rs : List DmaRead) (part ranks res code : Nat) :
    setRoom { s with crown := { s.crown with workPart := w }, piles := ps, io := { s.io with reads := rs } } part ranks res code =
      setRoom s part ranks res code := by
  have hpick := pickCores_congr (s := s)
    (t := { s with crown := { s.crown with workPart := w }, piles := ps, io := { s.io with reads := rs } }) rfl rfl rfl part res code
  unfold setRoom
  rw [hpick]
  rfl

/-! ## A command whose turn has come (R313) -/

/-- The state in which the Crown takes up a command: the turn is its partition's. -/
def takenUp (s0 : State) (c : Cmd) : State := { s0 with crown := { s0.crown with workPart := c.part } }

/-- The stage that follows the Crown's work on a command (R64, R362). -/
def commitStage (s : State) (c : Cmd) : Stage := if wantsDigest s c then .waiting else .committing

/-- Where the domain stands as it did, the command passes to the stage it would have had before. -/
theorem atCommit_eq {s t : State} (h : t.dom = s.dom) (c : Cmd) :
    atCommit t c = modCmd t c.id fun x => { x with stage := commitStage s c } := by
  have hmirror : mirrored t = mirrored s := funext fun n => by rw [mirrored, mirrored, h]
  have hwants : wantsDigest t c = wantsDigest s c := by rw [wantsDigest, wantsDigest, exchanges, exchanges, hmirror]
  rw [atCommit, hwants, commitStage]

/-- At its commit a command is as the Crown has left it but for the stage. -/
theorem getCmd_atCommit {s : State} (t : State) (hdom : t.dom = s.dom) {id : Nat} {c : Cmd} (hc : getCmd t id = some c) (f : Cmd → Cmd)
    (hf : ∀ x, (f x).id = x.id) :
    getCmd (atCommit (modCmd t id f) c) id = some { f c with stage := commitStage s c } := by
  rw [atCommit_eq (s := s) (t := modCmd t id f) hdom, getCmd_id hc]
  exact getCmd_modCmd_same _ id _ (f c) (getCmd_modCmd_same t id f c hc hf) fun _ => rfl

theorem argLen_of_lenA {c : Cmd} (h : cop c ≠ opRUN) : argLen c.desc = c.desc.lenA.toNat := if_neg h

/-- A read that the host or device memory answers gives its bytes. -/
theorem withInput_gives {s : State} {c : Cmd} (hop : cop c ≠ opRUN) (hn : c.desc.lenA ≠ 0) {h : HostAns} {b : Bytes}
    (hg : gives s c h b) (f : State → Bytes → State) :
    withInput s c c.desc.arg (argLen c.desc) h f = f (afterRead s c) b := by
  have hpos : c.desc.lenA.toNat ≠ 0 := fun h0 => hn (BitVec.eq_of_toNat_eq h0)
  rw [argLen_of_lenA hop, withInput, if_neg hpos, afterRead]
  rw [gives] at hg
  split at hg
  · next hdev => simp only [hdev, if_true, hg]
  · next hdev =>
    obtain ⟨rfl, hlen⟩ := hg
    simp only [hdev, Bool.false_eq_true, if_false, slice_all hlen]

theorem withInput_none {s : State} {c : Cmd} (hop : cop c ≠ opRUN) (hn : c.desc.lenA = 0) (h : HostAns) (f : State → Bytes → State) :
    withInput s c c.desc.arg (argLen c.desc) h f = f s [] := by
  rw [argLen_of_lenA hop, withInput, hn]
  rfl

theorem withOutput_room {s : State} {c : Cmd} (h : outStop s c = none) (f : State) : withOutput s c f = f := by
  rw [withOutput, h]

/-- The only command has its own number. -/
theorem only_id {s : State} {c : Cmd} (h : s.cmds = [c]) : ∀ x ∈ s.cmds, x.id = c.id := by
  intro x hx
  rw [h] at hx
  rw [List.mem_singleton.1 hx]

section CrownCommands

variable {s0 : State} {id op : Nat} {c : Cmd} (hc : getCmd s0 id = some c) (hst : c.stage = .running) (hturn : crownTurn s0 c = true)

include hc hst hturn

theorem crownCmd_taken (hop : cop c = op) (f : State → Cmd → State) : crownCmd s0 id op f = f (takenUp s0 c) c := by
  rw [crownCmd, hc]
  exact if_pos ⟨hst, hop, hturn⟩

/-- A command without work of the Crown's passes straight to its commit. -/
theorem crownCmd_passes (hop : cop c = op) :
    crownCmd s0 id op atCommit = modCmd (takenUp s0 c) id fun x => { x with stage := commitStage s0 c } := by
  rw [crownCmd_taken hc hst hturn hop, atCommit_eq (s := s0) (t := takenUp s0 c) rfl, getCmd_id hc]

/-- LOAD_SET with a good image and room for its ranks has chosen its cores (R192, R322). -/
theorem loadSet_chooses (hop : cop c = opLOAD) (hn : c.desc.lenA ≠ 0) {h : HostAns} {b : Bytes} (hg : gives (takenUp s0 c) c h b)
    (hok : imgOk b c.desc.lenA.toNat = true) {l : List (Nat × Nat × Nat)}
    (hroom : setRoom s0 c.part (imgRanks b) (imgResSpan b) (imgCodeSpan b) = some l) :
    ∃ t x, exec (.loadSet id h) s0 = .next t ∧ getCmd t id = some x ∧ x.stage = commitStage s0 c ∧
      x.newSet = some (setOf c b l) ∧ t.sets = s0.sets ∧ t.cores = s0.cores ∧ t.pile = s0.pile := by
  have hrun : cop c ≠ opRUN := by rw [hop]; decide
  obtain ⟨ps, rs, hread⟩ := afterRead_eq (takenUp s0 c) c
  have hroom' : setRoom (afterRead (takenUp s0 c) c) c.part (imgRanks b) (imgResSpan b) (imgCodeSpan b) = some l := by
    rw [hread]
    exact (setRoom_noted s0 c.part ps rs _ _ _ _).trans hroom
  have hexec : exec (.loadSet id h) s0 =
      .next (atCommit (modCmd (afterRead (takenUp s0 c) c) id fun x => { x with newSet := some (setOf c b l) }) c) := by
    show execLoadSet id h s0 = _
    rw [execLoadSet, crownCmd_taken hc hst hturn hop, withInput_gives hrun hn hg, argLen_of_lenA hrun, hok]
    simp only [Bool.not_true, Bool.false_eq_true, if_false, hroom']
  have hdom : (afterRead (takenUp s0 c) c).dom = s0.dom := by rw [hread]; rfl
  have hcmd : getCmd (afterRead (takenUp s0 c) c) id = some c := by rw [hread]; exact hc
  have hget := getCmd_atCommit _ hdom hcmd (fun x => { x with newSet := some (setOf c b l) }) fun _ => rfl
  rw [hread] at hexec hget
  exact ⟨_, _, hexec, hget, rfl, rfl, rfl, rfl, rfl⟩

/-- LOAD_SET with an image that fails a check ends with BAD_SHAPE (R192). -/
theorem loadSet_refuses (hop : cop c = opLOAD) (hn : c.desc.lenA ≠ 0) {h : HostAns} {b : Bytes} (hg : gives (takenUp s0 c) c h b)
    (hbad : imgOk b c.desc.lenA.toNat = false) (hcmds : s0.cmds = [c]) (hf : (getRing s0 c.client c.ring).fault = false)
    (hl : c.lost = false) :
    ∃ t w, exec (.loadSet id h) s0 = .next t ∧ t.cmds = [] ∧ t.sets = s0.sets ∧ t.io.dma = s0.io.dma ++ [w] ∧
      fieldLE w.data 8 2 = 0x0006 := by
  have hrun : cop c ≠ opRUN := by rw [hop]; decide
  obtain ⟨ps, rs, hread⟩ := afterRead_eq (takenUp s0 c) c
  have hexec : exec (.loadSet id h) s0 = .next (retire (afterRead (takenUp s0 c) c) c stBadShape 0 false false) := by
    show execLoadSet id h s0 = _
    rw [execLoadSet, crownCmd_taken hc hst hturn hop, withInput_gives hrun hn hg, argLen_of_lenA hrun, hbad]
    rfl
  rw [hread] at hexec
  obtain ⟨hgone, hdma, -⟩ := retire_last_writes (s := { takenUp s0 c with piles := ps, io := { (takenUp s0 c).io with reads := rs } })
    (c := c) (status := stBadShape) (only_id hcmds) (Or.inl (by decide)) hf hl 0 false false _ rfl
  exact ⟨_, _, hexec, hgone, (retire_ended _ _ _ _ _ _).sets, hdma, entryOf_status _ _ _ (by decide) _ _⟩

/-- STATE_INIT has written the slots reserved for the new objects (R200). -/
theorem stateInit_writes (hop : cop c = opINIT) {ls : List Layout} (hls : (progOf s0 c).bind (progLayout s0 c) = some ls) :
    ∃ pm, exec (.stateInit id) s0 =
        .next (modCmd { takenUp s0 c with pile := pm } id fun x => { x with stage := commitStage s0 c }) ∧
      pm = (c.news.foldl (fun t n => (n.objs.zip ls).foldl (fun u x => initObj u x.1 x.2) t) (takenUp s0 c)).pile := by
  obtain ⟨pm, hinit⟩ := initObjs_eq ls c.news (takenUp s0 c)
  refine ⟨pm, ?_, by rw [hinit]⟩
  show execStateInit id s0 = _
  have hls' : (progOf (takenUp s0 c) c).bind (progLayout (takenUp s0 c) c) = some ls := hls
  rw [execStateInit, crownCmd_taken hc hst hturn hop]
  simp only [hls', hinit]
  rw [atCommit_eq (s := s0) (t := { takenUp s0 c with pile := pm }) rfl, getCmd_id hc]

/-- STATE_IMPORT has written the payloads of its records to the slots reserved for them (R214). -/
theorem stateImport_writes (hop : cop c = opIMPORT) (hn : c.desc.lenA ≠ 0) {h : HostAns} {b : Bytes}
    (hg : gives (takenUp s0 c) c h b) {recs : List Bytes} (hsplit : recSplit (groupCount c) b = some recs)
    (hsame : ((c.news.zip recs).all fun x => sameObjs x.1.objs (recObjs x.2)) = true) :
    ∃ t x, exec (.stateImport id h) s0 = .next t ∧ getCmd t id = some x ∧ x.stage = commitStage s0 c ∧
      x.news = (c.news.zip recs).map (fun y => newOfRec y.1.stream y.2 y.1.pile y.1.objs) ∧
      t.streams = s0.streams ∧ t.io.dma = s0.io.dma ∧
      t.pile = ((c.news.zip recs).foldl (fun u y => putPayloads u y.1.objs y.2) (afterRead (takenUp s0 c) c)).pile := by
  have hrun : cop c ≠ opRUN := by rw [hop]; decide
  obtain ⟨ps, rs, hread⟩ := afterRead_eq (takenUp s0 c) c
  obtain ⟨pm, hput⟩ := foldl_pile (fun u (y : NewState × Bytes) => putPayloads_eq u y.1.objs y.2) (c.news.zip recs)
    (afterRead (takenUp s0 c) c)
  have hexec : exec (.stateImport id h) s0 =
      .next (atCommit (modCmd ((c.news.zip recs).foldl (fun u y => putPayloads u y.1.objs y.2) (afterRead (takenUp s0 c) c)) id
        fun x => { x with news := (c.news.zip recs).map fun y => newOfRec y.1.stream y.2 y.1.pile y.1.objs }) c) := by
    show execStateImport id h s0 = _
    rw [execStateImport, crownCmd_taken hc hst hturn hop, withInput_gives hrun hn hg]
    simp only [hsplit, hsame, if_true]
  rw [hput, hread] at hexec ⊢
  have hget := getCmd_atCommit (s := s0)
    { takenUp s0 c with pile := pm, piles := ps, io := { (takenUp s0 c).io with reads := rs } } rfl hc
    (fun x => { x with news := (c.news.zip recs).map fun y => newOfRec y.1.stream y.2 y.1.pile y.1.objs }) fun _ => rfl
  exact ⟨_, _, hexec, hget, rfl, rfl, rfl, rfl, rfl⟩

/-- STATE_EXPORT with every current slot in order stages the records (R212, R213). -/
theorem stateExport_stages (hop : cop c = opEXPORT)
    (hok : ((groupStreams c).findSome? fun n => (getStream (takenUp s0 c) n).objs.findSome? (objBad (takenUp s0 c))) = none)
    {u : State} (hu : u = ((groupStreams c).flatMap fun n => (getStream (takenUp s0 c) n).objs).foldl noteObj (takenUp s0 c))
    (hout : outStop u c = none) :
    exec (.stateExport id) s0 =
      .next (modCmd (stageWrite u c (outBase c) ((groupStreams c).flatMap (recordOf (takenUp s0 c)))) id
        fun x => { x with stage := commitStage s0 c }) := by
  have hdom : u.dom = s0.dom := by
    obtain ⟨ps, h⟩ := noteObjs_eq ((groupStreams c).flatMap fun n => (getStream (takenUp s0 c) n).objs) (takenUp s0 c)
    rw [hu, h]
    rfl
  show execStateExport id s0 = _
  rw [execStateExport, crownCmd_taken hc hst hturn hop]
  simp only [hok, ← hu]
  rw [withOutput_room hout, atCommit_eq ((stageWrite_dom _ _ _ _).trans hdom), getCmd_id hc]

/-- COPY stages the bytes it has read. -/
theorem copy_stages (hop : cop c = opCOPY) (hn : c.desc.lenA ≠ 0) {h : HostAns} {b : Bytes} (hg : gives (takenUp s0 c) c h b)
    (hout : outStop (afterRead (takenUp s0 c) c) c = none) :
    exec (.copy id h) s0 = .next (modCmd (stageWrite (afterRead (takenUp s0 c) c) c (outBase c) b) id
      fun x => { x with stage := commitStage s0 c }) := by
  have hdom : (afterRead (takenUp s0 c) c).dom = s0.dom := by
    obtain ⟨ps, rs, hread⟩ := afterRead_eq (takenUp s0 c) c
    rw [hread]
    rfl
  show execCopy id h s0 = _
  rw [execCopy, crownCmd_taken hc hst hturn hop, withInput_gives (by rw [hop]; decide) hn hg, withOutput_room hout,
    atCommit_eq ((stageWrite_dom _ _ _ _).trans hdom), getCmd_id hc]

/-- COPY of no bytes stages nothing. -/
theorem copy_empty (hop : cop c = opCOPY) (hn : c.desc.lenA = 0) (hout : outStop (takenUp s0 c) c = none) (h : HostAns) :
    exec (.copy id h) s0 = .next (modCmd (takenUp s0 c) id fun x => { x with stage := commitStage s0 c }) := by
  show execCopy id h s0 = _
  rw [execCopy, crownCmd_taken hc hst hturn hop, withInput_none (by rw [hop]; decide) hn, withOutput_room hout, stageWrite_nil,
    atCommit_eq (s := s0) (t := takenUp s0 c) rfl, getCmd_id hc]

end CrownCommands

/-- One slot of whole lines holds the initial bytes of its entry (R200, R294). -/
theorem memGet_initObj {s : State} {o : Obj} {l : Layout} (hone : o.entries = 1) (hpa : slotPa o 0 0 % 64 = 0)
    (hspan : o.espan % 64 = 0) (hlen : (initBytes l).length ≤ o.espan) :
    memGet (initObj s o l).pile.mem (slotPa o 0 0) (initBytes l).length = initBytes l := by
  have hfull : (initBytes l ++ zeroBytes (o.espan - (initBytes l).length)).length = o.espan := by
    simp only [zeroBytes, List.length_append, List.length_replicate]
    omega
  have hmem : (initObj s o l).pile.mem =
      memPut s.pile.mem (slotPa o 0 0) (initBytes l ++ zeroBytes (o.espan - (initBytes l).length)) := by
    rw [initObj, hone]
    exact pmWrite_whole_mem s hpa (by rw [hfull]; exact hspan)
  rw [hmem]
  refine List.ext_getElem (by simp [memGet]) fun i hi hi' => ?_
  have hin := memPut_inside (initBytes l ++ zeroBytes (o.espan - (initBytes l).length)) s.pile.mem (slotPa o 0 0) i
    (by rw [List.length_append]; omega)
  simp only [memGet, List.getElem_map, List.getElem_range]
  rw [hin, List.getElem?_append_left hi', List.getElem?_eq_getElem hi']
  rfl

/-! ## Commands that complete at once (R52, R60) -/

section AtOnce

variable {s : State} {id : Nat} {c : Cmd} (hc : getCmd s id = some c)

/-- A command that the Crown completes with OK, the only one left, writes one entry and leaves with its accounts. -/
theorem completeNow_writes (hcmds : s.cmds = [c]) (hf : (getRing s c.client c.ring).fault = false) (hl : c.lost = false)
    (hdigest : c.desc.flags.getLsbD 2 = false) :
    ∃ t w, complete s (dispatchedNow s c) stOK (emptyDigest s c) = t ∧ t.cmds = [] ∧ t.io.dma = s.io.dma ++ [w] ∧
      fieldLE w.data 0 8 = c.desc.cookie.toNat ∧ fieldLE w.data 8 2 = 0 ∧ fieldLE w.data 12 4 = 1 ∧
      fieldLE w.data 16 8 = s.bead.count.toNat ∧ fieldLE w.data 24 8 = 0 ∧
      (getClient t c.client).acct.retired = (getClient s c.client).acct.retired + 1 ∧
      (getClient t c.client).acct.queueNs = (getClient s c.client).acct.queueNs +
        BitVec.ofNat 64 (c.queueNs + (s.time - c.waitFrom)) ∧
      t.streams = s.streams ∧ t.pile.mem = s.pile.mem ∧ t.cores = s.cores := by
  have hempty : emptyDigest s c = 0 := by rw [emptyDigest, hdigest]; rfl
  have hended := complete_ended (status := stOK) (by decide) s (dispatchedNow s c) 0
  have hretire : complete s (dispatchedNow s c) stOK 0 = retire s (dispatchedNow s c) stOK 0 false false := rfl
  obtain ⟨hgone, hdma, -, -, -, hacct⟩ := retire_last_writes (s := s) (c := dispatchedNow s c) (status := stOK)
    (fun x hx => only_id hcmds x hx) (Or.inl (by decide)) hf hl 0 false false _ hretire
  refine ⟨_, _, by rw [hempty], hgone, hdma, entryOf_cookie _ _ _ _ _ _, entryOf_status _ _ _ (by decide) _ _,
    entryOf_used _ _ Nat.one_ne_zero rfl _ _ _, entryOf_bead _ _ _ _ _ _, entryOf_addr _ _ _ _ (by decide) _,
    congrArg Acct.retired hacct, congrArg Acct.queueNs hacct, hended.streams, hended.mem, hended.cores⟩

include hc

theorem exec_fence : exec (.fence id) s = .next
    (if cop c == opFENCE && allowed s c && s.cmds.all fun x => !(x.client == c.client && decide (x.id < c.id)) then
      complete s (dispatchedNow s c) stOK (emptyDigest s c) else s) := by
  show execFence id s = _
  rw [execFence, hc, getCmd_id hc]
  rfl

theorem exec_waitRemote : exec (.waitRemote id) s = .next
    (if cop c == opWAITR && allowed s c then complete s (dispatchedNow s c) stOK (emptyDigest s c) else s) := by
  show execWaitRemote id s = _
  rw [execWaitRemote, hc]
  rfl

/-- FENCE waits for every command that its client validated before it. -/
theorem fence_waits {x : Cmd} (hx : x ∈ s.cmds) (hclient : x.client = c.client) (hid : x.id < id) :
    exec (.fence id) s = .next s := by
  have hearlier : (s.cmds.all fun x => !(x.client == c.client && decide (x.id < c.id))) = false := by
    rw [List.all_eq_false]
    exact ⟨x, hx, by simp [hclient, getCmd_id hc, hid]⟩
  rw [exec_fence hc, hearlier, Bool.and_false]
  rfl

/-- WAIT_REMOTE waits for its dependency (R59). -/
theorem waitRemote_waits (hdep : depMet s c = false) : exec (.waitRemote id) s = .next s := by
  have hnot : allowed s c = false := by simp [allowed, inLine, hdep]
  rw [exec_waitRemote hc, hnot, Bool.and_false]
  rfl

/-- With nothing to wait for either completes. -/
theorem fence_or_waitRemote {op : Instr} (hop : (op = .fence id ∧ cop c = 0x0A) ∨ (op = .waitRemote id ∧ cop c = 0x0B))
    (hall : allowed s c = true) (hcmds : s.cmds = [c]) :
    exec op s = .next (complete s (dispatchedNow s c) stOK (emptyDigest s c)) := by
  obtain ⟨rfl, hcop⟩ | ⟨rfl, hcop⟩ := hop
  · have hfirst : (s.cmds.all fun x => !(x.client == c.client && decide (x.id < c.id))) = true := by simp [hcmds]
    rw [exec_fence hc, hall, hfirst, hcop]
    rfl
  · rw [exec_waitRemote hc, hall, hcop]
    rfl

end AtOnce

/-! ## Every opcode but RUN -/

/-- Settles O32 by the work of each opcode: reads are noted by the piles or the host link, state and output are written to pile memory,
and the domain, on which the choice between a digest and the commit rests, stands. That FENCE and WAIT_REMOTE are dispatched as they
complete, that QUEUE_NS is added as a command retires, and that the Crown's commands share one turn over the partitions, are the model's
choices (log entries 54, 63 and 69). -/
theorem crownCommandsComplete : Obligations.CrownCommandsComplete := by
  refine ⟨?_, ?_⟩
  · rintro s0 id c hc hst hturn s st rfl rfl
    refine ⟨fun hop => congrArg _ (crownCmd_passes hc hst hturn hop), fun hop => congrArg _ (crownCmd_passes hc hst hturn hop),
      fun hop => congrArg _ (crownCmd_passes hc hst hturn hop), fun hop => congrArg _ (crownCmd_passes hc hst hturn hop),
      ?_, ?_, ?_, ?_, ?_, ?_, ?_⟩
    · intro h b l hop hn hg hok hroom
      obtain ⟨t, x, hexec, hget, hstage, hset, hsets, hcores, hpile⟩ := loadSet_chooses hc hst hturn hop hn hg hok hroom
      exact ⟨t, x, setOf c b l, hexec, hget, hstage, hset, rfl, rfl, rfl, rfl, hsets, hcores, hpile⟩
    · intro h b hop hn hg hbad hcmds hf hl
      exact loadSet_refuses hc hst hturn hop hn hg hbad hcmds hf hl
    · intro ls hop hls
      obtain ⟨pm, hexec, hpm⟩ := stateInit_writes hc hst hturn hop hls
      refine ⟨_, _, hexec, getCmd_modCmd_same { takenUp s0 c with pile := pm } id _ c hc fun _ => rfl, rfl, rfl, rfl, rfl, rfl, ?_⟩
      rintro n o l hnews hobjs rfl hone hpa hspan hlen
      have hmem : pm = (initObj (takenUp s0 c) o l).pile := by rw [hpm, hnews]; simp [hobjs]
      show memGet pm.mem _ _ = _
      rw [hmem]
      exact memGet_initObj hone hpa hspan hlen
    · intro h b recs hop hn hg hsplit hsame
      exact stateImport_writes hc hst hturn hop hn hg hsplit hsame
    · intro hop hok u hu hout
      exact stateExport_stages hc hst hturn hop hok hu hout
    · rintro h b hop hn hg u rfl hout
      exact copy_stages hc hst hturn hop hn hg hout
    · intro hop hn hout h
      exact copy_empty hc hst hturn hop hn hout h
  · intro s id c hc hid
    refine ⟨fun op hop hall hcmds hf hl hdigest => ?_, fun x _ hx hclient hlt => fence_waits hc hx hclient hlt,
      fun _ hdep => waitRemote_waits hc hdep⟩
    obtain ⟨t, w, rfl, hrest⟩ := completeNow_writes hcmds hf hl hdigest
    exact ⟨_, w, fence_or_waitRemote hc hop hall hcmds, hrest⟩

end Sys2Proof.Machine
end
